-- ==== Sys2Proof/Word.lean ====
section
/-! DEFINITION. The word types of the machine and plain sizes (00 R8: bit 0 is the least significant bit; 02 R10). -/

namespace Sys2Proof

/-- A 64-bit scalar value. -/
abbrev Word := BitVec 64

/-- A byte of memory. -/
abbrev Byte := BitVec 8

/-- A 512-bit vector value (02 R10). -/
abbrev Line := BitVec 512

/-- A 6-bit operand code (02 R18). -/
abbrev Code := BitVec 6

end Sys2Proof
end

