-- ==== Sys2Proof/Syntax.lean ====
section
/-! DEFINITION. The syntax of Gnolek: one constructor of `Instr` for each row of the opcode table. The rows with an
encoding are instructions; the rows without one are the steps of engines, of the scheduler, of the management cores and
of the outside world, and carry the operands that say what they happen to. -/

namespace Sys2Proof

/-- A source operand (02 R18, 04 R52): an operand code other than 62 and 63, or a literal of 32 or 64 bits. -/
inductive Src where
  | code (c : Code)
  | lit32 (x : BitVec 32)
  | lit64 (x : BitVec 64)
deriving DecidableEq, Repr

/-- A full/empty request on its way to another module's execution point (06 R115). -/
structure FeReq where
  /-- true: STX -/
  store : Bool
  /-- the address at the target, A[56:0] -/
  addr : Nat
  /-- the access size in bytes -/
  size : Nat
  /-- the condition and the after action of 04 R55 -/
  cond : Nat
  after : Nat
  data : Word
  /-- the partition at the target -/
  part : Nat
  /-- the issuing core and the time limit it carries -/
  core : Nat
  limit : Nat
  /-- the issuing module's fabric address, for the answer, and the peer slot -/
  src : Nat
  slot : Nat
deriving DecidableEq, Repr

/-- The answer to a remote full/empty request (06 R115): completed, timed out, or rejected with an element status. -/
inductive FeAnswer where
  | done (data : Word) (wasFull : Bool)
  | timeout
  /-- taken out of its list with no effect (06 R116) -/
  | withdrawn
  | rejected (status : BitVec 8)
deriving DecidableEq, Repr

/-- An error of the array in one group sum of one window cell (08 R163): the group, the row and column in the window,
the difference from the exact sum as an integer under the group's common power of two, and whether the spare path's
recomputation agrees. -/
structure CellError where
  group : Nat
  row : Nat
  col : Nat
  delta : Int
  spareAgrees : Bool
deriving DecidableEq, Repr

/-- A remote element (13 R255, R258): what it does, to which address, for whom. -/
structure Element where
  /-- the major of the issuing instruction: 20 RST, 21 RAMO, 39 MSGSEND -/
  major : Nat
  /-- f7 of the issuing instruction -/
  f7 : Nat
  addr : Nat
  /-- size in bytes -/
  size : Nat
  payload : Word
  /-- CAS compare value, or zero -/
  compare : Word
  /-- the bytes of a message, and its counter reference (09 R195) -/
  bytes : List Byte
  counter : Word
  slice : Nat
  core : Nat
  slot : Nat
  /-- the number of elements that made it up (13 R258) -/
  parts : Nat
  /-- a multicast element never combines -/
  multicast : Bool
  accepted : Nat
  /-- the bytes that are uncorrectable data, where a copy carries such (22 R351) -/
  bad : List Nat
deriving DecidableEq, Repr

/-- A packet of elements (13 R255): the destination as a peer value's bits 19:0, and where it came from. -/
structure Packet where
  dest : Nat
  src : Nat
  part : Nat
  elements : List Element
deriving DecidableEq, Repr

/-- The fields of a host message's header beside its status (24 R374), and of the datagram that carries it: its UDP destination
port and IPv6 destination, and its sender's address and port, where the answer goes. -/
structure HostHeader where
  magic : Nat
  version : Nat
  session : Nat
  sequence : Nat
  partition : Nat
  zero : Nat
  length : Nat
  tag : Nat
  opcode : Nat
  port : Nat
  address : List Byte
  sender : List Byte
deriving DecidableEq, Repr

/-- A signed command's envelope and argument bytes (24 R385). -/
structure SignedCommand where
  command : Nat
  keyIndex : Nat
  /-- the zero fields at offsets 3 and 12 -/
  zeroByte : Nat
  bootCount : Nat
  /-- the argument length A that it states -/
  length : Nat
  zeroWord : Nat
  args : List Byte
  signature : List Byte
deriving DecidableEq, Repr

/-- What a soft error strikes (22 R350). -/
inductive StorageError where
  /-- HBM, L2 or a pad: the physical byte address, how many bytes the failing symbols or words cover, and whether the code
  corrects it -/
  | memory (row : Nat) (addr bytes : Nat) (corrected : Bool)
  | tile (cl : Nat) (tile row : Nat) (corrected : Bool)
  | cell (cl : Nat) (row col : Nat) (corrected : Bool)
  /-- a register or CSR of a context -/
  | register (core : Nat) (n : Nat) (corrected : Bool)
  /-- an entry of an activity's obligation table, by its place in the table -/
  | entry (core : Nat) (n : Nat) (corrected : Bool)
  /-- a slot of a lane core's loop buffer (05 R77) -/
  | loopSlot (core : Nat) (n : Nat) (corrected : Bool)
deriving DecidableEq, Repr

/-- What an event happens to: the operands of the rows that have no encoding, read from the machine's agenda. Each event's
meaning says which of these fields it reads. -/
structure EventArg where
  x : Nat := 0
  y : Nat := 0
  z : Nat := 0
  v : Word := 0
  nums : List Nat := []
  bytes : List Byte := []
  host : HostHeader := ⟨0, 0, 0, 0, 0, 0, 0, 0, 0, 0, [], []⟩
  signed : SignedCommand := ⟨0, 0, 0, 0, 0, 0, [], []⟩
  errs : List CellError := []
  fe : Option FeReq := none
  answer : FeAnswer := .timeout
  packet : Option Packet := none
  error : Option StorageError := none
deriving DecidableEq, Repr

/-- The instructions of the opcode table, then its events. An event's operands stand in the agenda (`EventArg`). -/
inductive Instr where
  /-- R59 d := A + B, modulo 2^64 or at 32 bits with .w -/
  | add (w : Bool) (b : Src) (a : Src) (d : BitVec 6)
  /-- R59 d := A - B -/
  | sub (w : Bool) (b : Src) (a : Src) (d : BitVec 6)
  /-- R59 d := A AND B -/
  | and (w : Bool) (b : Src) (a : Src) (d : BitVec 6)
  /-- R59 d := A OR B -/
  | or (w : Bool) (b : Src) (a : Src) (d : BitVec 6)
  /-- R59 d := A XOR B -/
  | xor (w : Bool) (b : Src) (a : Src) (d : BitVec 6)
  /-- R59 d := A AND NOT B -/
  | andn (w : Bool) (b : Src) (a : Src) (d : BitVec 6)
  /-- R59 d := A OR NOT B -/
  | orn (w : Bool) (b : Src) (a : Src) (d : BitVec 6)
  /-- R61 d := A shifted left by B, 0 when the count reaches the width -/
  | shl (w : Bool) (b : Src) (a : Src) (d : BitVec 6)
  /-- R61 d := A shifted right logically by B -/
  | shr (w : Bool) (b : Src) (a : Src) (d : BitVec 6)
  /-- R61 d := A shifted right arithmetically by B -/
  | sra (w : Bool) (b : Src) (a : Src) (d : BitVec 6)
  /-- R61 d := A rotated left by B mod width -/
  | rol (w : Bool) (b : Src) (a : Src) (d : BitVec 6)
  /-- R61 d := A rotated right by B mod width -/
  | ror (w : Bool) (b : Src) (a : Src) (d : BitVec 6)
  /-- R59 d := low bits of A x B -/
  | mul (w : Bool) (b : Src) (a : Src) (d : BitVec 6)
  /-- R59 d := high bits of the signed product -/
  | mulh (w : Bool) (b : Src) (a : Src) (d : BitVec 6)
  /-- R59 d := high bits of the unsigned product -/
  | mulhn (w : Bool) (b : Src) (a : Src) (d : BitVec 6)
  /-- R62 d := signed quotient, all ones on divisor zero, no trap -/
  | div (w : Bool) (b : Src) (a : Src) (d : BitVec 6)
  /-- R62 d := unsigned quotient -/
  | divn (w : Bool) (b : Src) (a : Src) (d : BitVec 6)
  /-- R62 d := signed remainder with the dividend's sign -/
  | rem (w : Bool) (b : Src) (a : Src) (d : BitVec 6)
  /-- R62 d := unsigned remainder -/
  | remn (w : Bool) (b : Src) (a : Src) (d : BitVec 6)
  /-- R59 d := the smaller signed operand -/
  | min (w : Bool) (b : Src) (a : Src) (d : BitVec 6)
  /-- R59 d := the larger signed operand -/
  | max (w : Bool) (b : Src) (a : Src) (d : BitVec 6)
  /-- R59 d := the smaller unsigned operand -/
  | minn (w : Bool) (b : Src) (a : Src) (d : BitVec 6)
  /-- R59 d := the larger unsigned operand -/
  | maxn (w : Bool) (b : Src) (a : Src) (d : BitVec 6)
  /-- R59 d := 1 if A < B signed, else 0 -/
  | slt (w : Bool) (b : Src) (a : Src) (d : BitVec 6)
  /-- R59 d := 1 if A < B unsigned, else 0 -/
  | sltn (w : Bool) (b : Src) (a : Src) (d : BitVec 6)
  /-- R59 d := 1 if A = B, else 0 -/
  | seq (w : Bool) (b : Src) (a : Src) (d : BitVec 6)
  /-- R59 d := 1 if A differs from B, else 0 -/
  | sne (w : Bool) (b : Src) (a : Src) (d : BitVec 6)
  /-- R59 d := A if the old d is nonzero, else B -/
  | sel (w : Bool) (b : Src) (a : Src) (d : BitVec 6)
  /-- R59 d := count of leading zero bits of A -/
  | clz (w : Bool) (a : Src) (d : BitVec 6)
  /-- R59 d := count of trailing zero bits of A -/
  | ctz (w : Bool) (a : Src) (d : BitVec 6)
  /-- R59 d := count of one bits of A -/
  | popc (w : Bool) (a : Src) (d : BitVec 6)
  /-- R59 d := A with its bits reversed -/
  | brev (w : Bool) (a : Src) (d : BitVec 6)
  /-- R59 d := A with its bytes reversed -/
  | bswap (w : Bool) (a : Src) (d : BitVec 6)
  /-- R63 d := A + sign-extended 13-bit immediate -/
  | addi (imm : BitVec 13) (a : Src) (d : BitVec 6)
  /-- R64 d := A + (B shifted left by the scale) -/
  | lea (sc : BitVec 2) (b : Src) (a : Src) (d : BitVec 6)
  /-- R64 d := sign-extended bit field of A described by B -/
  | bfx (b : Src) (a : Src) (d : BitVec 6)
  /-- R64 d := zero-extended bit field of A described by B -/
  | bfxz (b : Src) (a : Src) (d : BitVec 6)
  /-- R64 d := old d with the described field replaced by low bits of A -/
  | bfi (b : Src) (a : Src) (d : BitVec 6)
  /-- R66 Writes a predicate all ones or all zeros according to the condition on A and B -/
  | cmp (c : BitVec 7) (b : Src) (a : Src) (k : BitVec 3)
  /-- R67 kd := ka AND kb -/
  | kand (b : BitVec 3) (a : BitVec 3) (d : BitVec 3)
  /-- R67 kd := ka OR kb -/
  | kor (b : BitVec 3) (a : BitVec 3) (d : BitVec 3)
  /-- R67 kd := ka XOR kb -/
  | kxor (b : BitVec 3) (a : BitVec 3) (d : BitVec 3)
  /-- R67 kd := NOT ka -/
  | knot (a : BitVec 3) (d : BitVec 3)
  /-- R67 kd := ka -/
  | kmov (a : BitVec 3) (d : BitVec 3)
  /-- R68 Branches when any bit of the predicate is set -/
  | bt (off : BitVec 21) (k : BitVec 3)
  /-- R68 Branches when the predicate is all zero -/
  | bf (off : BitVec 21) (k : BitVec 3)
  /-- R69 Jumps by a signed halfword offset -/
  | j (off : BitVec 25)
  /-- R69 Writes pc + 4 to s31 and jumps by a signed halfword offset -/
  | jal (off : BitVec 25)
  /-- R70 Jumps to the address A -/
  | jr (a : Src)
  /-- R70 Writes the return address to d and jumps to A -/
  | jalr (a : Src) (d : BitVec 6)
  /-- R70 Jumps to s31 -/
  | ret
  /-- R73 Arms a hardware loop level with a count and body end -/
  | loop (imm : BitVec 13) (a : Src) (l : BitVec 2)
  /-- R75 Ends an active loop level at its end address -/
  | lbrk (l : BitVec 2)
  /-- R75 Ends the current iteration of an active loop level -/
  | lnext (l : BitVec 2)
  /-- R78 Executes its partner n times with strided operand fields, resumable through repcnt -/
  | rep (sb : BitVec 3) (sa : BitVec 3) (sd : BitVec 3) (c : Src)
  /-- R80 Does nothing -/
  | nop
  /-- R80 Completes, then traps with TRAPI and tval := A -/
  | trap (a : Src)
  /-- R80 Completes, then traps with SVC and tval := A -/
  | svc (a : Src)
  /-- R82 Returns from a trap to tpc, resuming a REP or re-forming a gang -/
  | eret
  /-- R83 Makes later instruction fetch see visible stores and discards loop-buffer captures -/
  | ifence
  /-- R80 Traps with BRKPT -/
  | brkpt
  /-- R81 Freezes the thread for the debugger when halting is enabled, else traps BRKPT -/
  | halt
  /-- R85 d := CSR -/
  | csrr (c : BitVec 11) (d : BitVec 6)
  /-- R85 Writes A to the CSR after the checks of R20, returning the old value -/
  | csrw (c : BitVec 11) (a : Src) (d : BitVec 6)
  /-- R85 Sets the bits of A in the CSR, returning the old value -/
  | csrs (c : BitVec 11) (a : Src) (d : BitVec 6)
  /-- R85 Clears the bits of A in the CSR, returning the old value -/
  | csrc (c : BitVec 11) (a : Src) (d : BitVec 6)
  /-- R100 Loads 1, 2, 4 or 8 bytes with sign or zero extension -/
  | ld (imm : BitVec 10) (f : BitVec 3) (a : Src) (d : BitVec 6)
  /-- R104 Load performed as an acquire operation -/
  | lda (imm : BitVec 10) (f : BitVec 3) (a : Src) (d : BitVec 6)
  /-- R100 Stores 1, 2, 4 or 8 bytes -/
  | st (imm : BitVec 10) (f : BitVec 3) (a : Src) (d : Src)
  /-- R105 Store performed as a release operation -/
  | stl (imm : BitVec 10) (f : BitVec 3) (a : Src) (d : Src)
  /-- R107 Atomically adds B to memory and returns the old value -/
  | amoAdd (s : Bool) (q : Bool) (r : Bool) (b : Src) (a : Src) (d : BitVec 6)
  /-- R107 Atomic AND, returning the old value -/
  | amoAnd (s : Bool) (q : Bool) (r : Bool) (b : Src) (a : Src) (d : BitVec 6)
  /-- R107 Atomic OR, returning the old value -/
  | amoOr (s : Bool) (q : Bool) (r : Bool) (b : Src) (a : Src) (d : BitVec 6)
  /-- R107 Atomic XOR, returning the old value -/
  | amoXor (s : Bool) (q : Bool) (r : Bool) (b : Src) (a : Src) (d : BitVec 6)
  /-- R107 Atomic signed minimum -/
  | amoMin (s : Bool) (q : Bool) (r : Bool) (b : Src) (a : Src) (d : BitVec 6)
  /-- R107 Atomic signed maximum -/
  | amoMax (s : Bool) (q : Bool) (r : Bool) (b : Src) (a : Src) (d : BitVec 6)
  /-- R107 Atomic unsigned minimum -/
  | amoMinn (s : Bool) (q : Bool) (r : Bool) (b : Src) (a : Src) (d : BitVec 6)
  /-- R107 Atomic unsigned maximum -/
  | amoMaxn (s : Bool) (q : Bool) (r : Bool) (b : Src) (a : Src) (d : BitVec 6)
  /-- R107 Atomic exchange -/
  | amoSwap (s : Bool) (q : Bool) (r : Bool) (b : Src) (a : Src) (d : BitVec 6)
  /-- R107 Atomic compare-and-swap against the old d -/
  | amoCas (s : Bool) (q : Bool) (r : Bool) (b : Src) (a : Src) (d : BitVec 6)
  /-- R107 Atomic f32 add rounded to nearest even -/
  | amoFadd (q : Bool) (r : Bool) (b : Src) (a : Src) (d : BitVec 6)
  /-- R107 Atomic pairwise bf16 add -/
  | amoBfadd2 (q : Bool) (r : Bool) (b : Src) (a : Src) (d : BitVec 6)
  /-- R113 Full/empty load: completes when its condition holds, else parks, setting k7 -/
  | ldx (s : BitVec 2) (c : BitVec 2) (e : BitVec 2) (a : Src) (d : BitVec 6)
  /-- R113 Full/empty store: completes when its condition holds, else parks, setting k7 -/
  | stx (s : BitVec 2) (c : BitVec 2) (e : BitVec 2) (a : Src) (d : Src)
  /-- R118 Acquire operation with no access -/
  | acq
  /-- R118 Release operation with no access -/
  | rel
  /-- R118 Release then acquire, ordering all earlier accesses before all later ones -/
  | fence
  /-- R50 16-bit form vd := vd + vs -/
  | cVadd (vs : BitVec 5) (vd : BitVec 5)
  /-- R50 16-bit form vd := vd - vs -/
  | cVsub (vs : BitVec 5) (vd : BitVec 5)
  /-- R50 16-bit form vd := vd x vs -/
  | cVmul (vs : BitVec 5) (vd : BitVec 5)
  /-- R50 16-bit form vd := vd + vs x v31, fused -/
  | cVmac (vs : BitVec 5) (vd : BitVec 5)
  /-- R50 16-bit form vd := min(vd, vs) -/
  | cVmin (vs : BitVec 5) (vd : BitVec 5)
  /-- R50 16-bit form vd := max(vd, vs) -/
  | cVmax (vs : BitVec 5) (vd : BitVec 5)
  /-- R50 16-bit form vd := vd AND vs -/
  | cVand (vs : BitVec 5) (vd : BitVec 5)
  /-- R50 16-bit form vd := vd OR vs -/
  | cVor (vs : BitVec 5) (vd : BitVec 5)
  /-- R50 16-bit form vd := vd XOR vs -/
  | cVxor (vs : BitVec 5) (vd : BitVec 5)
  /-- R50 16-bit form vd shifted left by vs -/
  | cVshl (vs : BitVec 5) (vd : BitVec 5)
  /-- R50 16-bit form vd shifted right logically by vs -/
  | cVshr (vs : BitVec 5) (vd : BitVec 5)
  /-- R50 16-bit form vd shifted right arithmetically by vs -/
  | cVsra (vs : BitVec 5) (vd : BitVec 5)
  /-- R50 16-bit form vd := vs -/
  | cVmov (vs : BitVec 5) (vd : BitVec 5)
  /-- R50 16-bit form vd := -vs -/
  | cVneg (vs : BitVec 5) (vd : BitVec 5)
  /-- R50 16-bit form vd := |vs| -/
  | cVabs (vs : BitVec 5) (vd : BitVec 5)
  /-- R50 16-bit form writes vd with zero bits -/
  | cVzero (vd : BitVec 5)
  /-- R124 Element-wise add, unshaped or over a shape -/
  | vadd (q : BitVec 3) (b : Src) (a : Src) (d : BitVec 6)
  /-- R124 Element-wise subtract -/
  | vsub (q : BitVec 3) (b : Src) (a : Src) (d : BitVec 6)
  /-- R124 Element-wise multiply -/
  | vmul (q : BitVec 3) (b : Src) (a : Src) (d : BitVec 6)
  /-- R124 Element-wise a x b + d with one rounding -/
  | vfma (q : BitVec 3) (b : Src) (a : Src) (d : BitVec 6)
  /-- R124 Element-wise a x b - d -/
  | vfms (q : BitVec 3) (b : Src) (a : Src) (d : BitVec 6)
  /-- R124 Element-wise d - a x b -/
  | vnfma (q : BitVec 3) (b : Src) (a : Src) (d : BitVec 6)
  /-- R125 Element-wise minimum -/
  | vmin (q : BitVec 3) (b : Src) (a : Src) (d : BitVec 6)
  /-- R125 Element-wise maximum -/
  | vmax (q : BitVec 3) (b : Src) (a : Src) (d : BitVec 6)
  /-- R124 Element-wise absolute value -/
  | vabs (q : BitVec 3) (a : Src) (d : BitVec 6)
  /-- R124 Element-wise negation -/
  | vneg (q : BitVec 3) (a : Src) (d : BitVec 6)
  /-- R124 Element-wise AND -/
  | vand (q : BitVec 3) (b : Src) (a : Src) (d : BitVec 6)
  /-- R124 Element-wise OR -/
  | vor (q : BitVec 3) (b : Src) (a : Src) (d : BitVec 6)
  /-- R124 Element-wise XOR -/
  | vxor (q : BitVec 3) (b : Src) (a : Src) (d : BitVec 6)
  /-- R124 Element-wise left shift -/
  | vshl (q : BitVec 3) (b : Src) (a : Src) (d : BitVec 6)
  /-- R124 Element-wise logical right shift -/
  | vshr (q : BitVec 3) (b : Src) (a : Src) (d : BitVec 6)
  /-- R124 Element-wise arithmetic right shift -/
  | vsra (q : BitVec 3) (b : Src) (a : Src) (d : BitVec 6)
  /-- R126 Writes predicate byte lanes by an element-wise condition -/
  | vcmp (c : BitVec 3) (b : Src) (a : Src) (k : BitVec 3)
  /-- R126 Selects bytes of a or b by a predicate -/
  | vsel (k : BitVec 3) (b : Src) (a : Src) (d : BitVec 6)
  /-- R126 d := a -/
  | vmov (q : BitVec 3) (a : Src) (d : BitVec 6)
  /-- R126 Broadcasts a scalar to every element -/
  | vbcast (a : Src) (d : BitVec 6)
  /-- R126 Extracts element B mod P to a scalar -/
  | vext (b : Src) (a : Src) (d : BitVec 6)
  /-- R126 Inserts a scalar at element B mod P -/
  | vins (b : Src) (a : Src) (d : BitVec 6)
  /-- R126 Permutes elements by an index vector -/
  | vperm (b : Src) (a : Src) (d : BitVec 6)
  /-- R126 Slides elements by a signed count -/
  | vslide (b : Src) (a : Src) (d : BitVec 6)
  /-- R124 High half of element products -/
  | vmulh (q : BitVec 3) (b : Src) (a : Src) (d : BitVec 6)
  /-- R124 Element leading-zero counts -/
  | vclz (q : BitVec 3) (a : Src) (d : BitVec 6)
  /-- R124 Element population counts -/
  | vpopc (q : BitVec 3) (a : Src) (d : BitVec 6)
  /-- R124 Saturating element add -/
  | vadds (q : BitVec 3) (b : Src) (a : Src) (d : BitVec 6)
  /-- R124 Saturating element subtract -/
  | vsubs (q : BitVec 3) (b : Src) (a : Src) (d : BitVec 6)
  /-- R127 Converts elements from the source type in b to TYPE -/
  | vcvt (q : BitVec 3) (t : BitVec 4) (a : Src) (d : BitVec 6)
  /-- R128 Quantises a block under one scale chosen from an amax, writing qscale -/
  | vqnt (q : BitVec 3) (b : Src) (a : Src) (d : BitVec 6)
  /-- R128 Dequantises codes under an sx8 scale -/
  | vdq (q : BitVec 3) (b : Src) (a : Src) (d : BitVec 6)
  /-- R129 Rounds elements to integral values -/
  | vrndi (q : BitVec 3) (a : Src) (d : BitVec 6)
  /-- R129 Multiplies elements by powers of two -/
  | vscale (q : BitVec 3) (b : Src) (a : Src) (d : BitVec 6)
  /-- R129 Extracts element exponents -/
  | vgetexp (q : BitVec 3) (a : Src) (d : BitVec 6)
  /-- R45 Element 2^x, correctly rounded -/
  | vexp2 (q : BitVec 3) (a : Src) (d : BitVec 6)
  /-- R45 Element log2 x, correctly rounded -/
  | vlog2 (q : BitVec 3) (a : Src) (d : BitVec 6)
  /-- R45 Element reciprocal, correctly rounded -/
  | vrcp (q : BitVec 3) (a : Src) (d : BitVec 6)
  /-- R45 Element reciprocal square root within 1 ulp -/
  | vrsq (q : BitVec 3) (a : Src) (d : BitVec 6)
  /-- R45 Element square root, correctly rounded -/
  | vsqrt (q : BitVec 3) (a : Src) (d : BitVec 6)
  /-- R45 Element sin(pi x) within 1 ulp -/
  | vsinpi (q : BitVec 3) (a : Src) (d : BitVec 6)
  /-- R45 Element cos(pi x) within 1 ulp -/
  | vcospi (q : BitVec 3) (a : Src) (d : BitVec 6)
  /-- R131 Sums active elements into element 0 -/
  | vredsum (a : Src) (d : BitVec 6)
  /-- R131 Maximum of active elements into element 0 -/
  | vredmax (a : Src) (d : BitVec 6)
  /-- R131 Minimum of active elements into element 0 -/
  | vredmin (a : Src) (d : BitVec 6)
  /-- R131 Largest magnitude of active elements into element 0 -/
  | vredamax (a : Src) (d : BitVec 6)
  /-- R132 Exchanges a running maximum along a Welt gang, broadcast at the east end -/
  | vrowmax (a : Src) (d : BitVec 6)
  /-- R133 Adds active f32 elements exactly to an exact accumulator in pad -/
  | vxadd (b : Src) (a : Src)
  /-- R133 Reads an exact accumulator rounded to f32 -/
  | vxrd (a : Src) (d : BitVec 6)
  /-- R133 Clears an exact accumulator -/
  | vxclr (a : Src)
  /-- R134 Loads consecutive elements -/
  | vld (b : Src) (a : Src) (d : BitVec 6)
  /-- R134 Stores consecutive elements -/
  | vst (b : Src) (a : Src) (d : Src)
  /-- R134 Gathers elements by index vector -/
  | vgath (b : Src) (a : Src) (d : BitVec 6)
  /-- R134 Scatters elements by index vector -/
  | vscat (b : Src) (a : Src) (d : Src)
  /-- R134 Loads one element and broadcasts it -/
  | vldb (b : Src) (a : Src) (d : BitVec 6)
  /-- R135 Loads a 32-byte shape record into a slot -/
  | shpld (q : BitVec 3) (a : Src)
  /-- R135 Stores a shape slot to memory -/
  | shpst (q : BitVec 3) (a : Src)
  /-- R139 Binds a handle to a ring as consumer or producer, giving a DRAIN or FILL duty -/
  | hbind (b : Src) (a : Src) (d : BitVec 6)
  /-- R141 Advances the consumer index and decrements fill -/
  | hadvc (d : BitVec 6)
  /-- R141 Advances the producer index and increments fill -/
  | hadvp (d : BitVec 6)
  /-- R141 Reads a handle's ring state -/
  | hstat (a : BitVec 6) (d : BitVec 6)
  /-- R141 Clears the role bit, releases the duty and unbinds the handle -/
  | hunbind (d : BitVec 6)
  /-- R156 Issues a tile multiply-accumulate job into the accumulator window -/
  | mma (z : Bool) (n : Bool) (ta : BitVec 4) (tb : BitVec 4) (w : BitVec 5) (x : BitVec 5) (y : BitVec 5)
  /-- R156 Issues a block-scaled tile multiply job -/
  | mmas (p : BitVec 2) (ta : BitVec 4) (tb : BitVec 4) (q : BitVec 2) (w : BitVec 5) (x : BitVec 4) (y : BitVec 4)
  /-- R156 Issues a bf16 by int4-weight multiply job -/
  | mmaq (z : Bool) (n : Bool) (ta : BitVec 4) (tb : BitVec 4) (w : BitVec 5) (x : BitVec 5) (y : BitVec 5)
  /-- R158 Issues a job loading a tile and its sidecar -/
  | tld (t : BitVec 4) (a : Src) (y : BitVec 5) (x : Src)
  /-- R158 Issues a job zeroing a tile -/
  | tzero (t : BitVec 4) (y : BitVec 5)
  /-- R158 Issues a job zeroing an accumulator window -/
  | acz (a : Src) (y : BitVec 5)
  /-- R158 Issues a job writing an accumulator window to memory, scaled and converted -/
  | acrd (a : Src) (y : BitVec 5) (x : Src)
  /-- R158 Issues a job loading an accumulator window from memory -/
  | acwr (a : Src) (y : BitVec 5) (x : Src)
  /-- R160 Reads the state of a matrix job -/
  | jpoll (a : Src) (x : BitVec 6)
  /-- R160 Waits under the rank rule until a matrix job completes -/
  | jwait (a : Src)
  /-- R204 Reads a field of the copy record -/
  | cxrd (a : Src) (d : BitVec 6)
  /-- R204 Issues a transfer of up to 512 bytes and advances the record cursors -/
  | burst (b : Src) (a : Src) (d : Src)
  /-- R204 Ends the copy with a template status -/
  | cxdone (a : Src)
  /-- R210 Starts a Cobbler loader or storer subscription on a ring -/
  | subscr (a : BitVec 6) (d : BitVec 6)
  /-- R212 Ends a subscription early and returns when the engine has ended its duty -/
  | unsub (d : BitVec 6)
  /-- R209 Waits until any masked tag bit is set -/
  | tagwany (a : Src) (d : BitVec 6)
  /-- R209 Waits until all masked tag bits are set -/
  | tagwall (a : Src) (d : BitVec 6)
  /-- R209 Waits for a masked tag, clears the lowest set one and returns its index -/
  | tagff (a : Src) (d : BitVec 6)
  /-- R209 Clears masked tagrdy bits -/
  | tagclr (a : Src)
  /-- R209 Reads tagrdy -/
  | tagrd (d : BitVec 6)
  /-- R183 Creates an object at a location and gives the creator its duties -/
  | obnew (b : Src) (a : Src) (d : BitVec 6)
  /-- R184 Retires an object, setting kind 0 and BROKEN -/
  | obdel (a : Src)
  /-- R185 Arrives on a barrier for the current phase -/
  | arrive (a : Src)
  /-- R185 Arrives and withdraws the participant from the next phase on -/
  | arriveLeave (a : Src)
  /-- R185 Arrives with B bytes on a byte barrier -/
  | arriveb (b : Src) (a : Src)
  /-- R186 Waits under the rank rule for a phase or count and returns the status word -/
  | wait (a : Src) (d : BitVec 6)
  /-- R187 Adds to a SIG or CTR count, discharging duty and firing TTARM entries -/
  | signal (b : Src) (a : Src)
  /-- R188 Acquires a lock or queues for it -/
  | lock (a : Src) (d : BitVec 6)
  /-- R188 Releases a lock and passes it to the first queued locker -/
  | unlock (a : Src)
  /-- R189 Moves duty units to another live slice -/
  | obxfer (b : Src) (a : Src) (d : Src)
  /-- R190 Reads one 8-byte word of an object -/
  | obrd (b : Src) (a : Src) (d : BitVec 6)
  /-- R190 Reads an object's rank -/
  | rankof (a : Src) (d : BitVec 6)
  /-- R192 Checks a slice record, moves listed units and pushes a new slice -/
  | spawn (a : Src) (d : BitVec 6)
  /-- R193 Retires the slice if it owes nothing, else traps EXITOWE -/
  | exit
  /-- R194 Ends the quantum and returns the slice to its pool -/
  | yield
  /-- R195 Sends up to 64 bytes and increments a counter at the destination -/
  | msgsend (a : Src)
  /-- R196 Arms a waiting-task entry on a counter -/
  | ttarm (a : Src) (d : BitVec 6)
  /-- R197 Reads device time -/
  | now (d : BitVec 6)
  /-- R215 The leader forms the Welt gang and zeroes the ports -/
  | wstart (a : Src)
  /-- R215 Dissolves the gang once the east end completes its WEND -/
  | wend
  /-- R215 Reads the member's gang position -/
  | wpos (d : BitVec 6)
  /-- R226 Arrives on a domain barrier and waits for the phase to advance -/
  | sync (a : Src) (d : BitVec 6)
  /-- R233 Checks slot ownership and waits to send a vector on a link at a transfer cycle -/
  | xmit (b : Src) (a : BitVec 6)
  /-- R234 After its arrival cycle, reads the receive latch if stamped, setting k7 -/
  | xrecv (b : Src) (d : BitVec 6)
  /-- R232 Selects an input for a router output during a transfer phase -/
  | muxsel (a : Src)
  /-- R261 Creates remote-store elements into sachets, unicast or multicast -/
  | rst (m : Bool) (s : BitVec 2) (b : Src) (a : Src) (d : BitVec 6)
  /-- R261 Remote atomic add element -/
  | ramoAdd (s : Bool) (b : Src) (a : Src)
  /-- R261 Remote atomic AND element -/
  | ramoAnd (s : Bool) (b : Src) (a : Src)
  /-- R261 Remote atomic OR element -/
  | ramoOr (s : Bool) (b : Src) (a : Src)
  /-- R261 Remote atomic XOR element -/
  | ramoXor (s : Bool) (b : Src) (a : Src)
  /-- R261 Remote atomic signed minimum element -/
  | ramoMin (s : Bool) (b : Src) (a : Src)
  /-- R261 Remote atomic signed maximum element -/
  | ramoMax (s : Bool) (b : Src) (a : Src)
  /-- R261 Remote atomic unsigned minimum element -/
  | ramoMinn (s : Bool) (b : Src) (a : Src)
  /-- R261 Remote atomic unsigned maximum element -/
  | ramoMaxn (s : Bool) (b : Src) (a : Src)
  /-- R261 Remote atomic swap element -/
  | ramoSwap (s : Bool) (b : Src) (a : Src)
  /-- R261 Remote compare-and-swap element -/
  | ramoCas (s : Bool) (b : Src) (a : Src) (d : BitVec 6)
  /-- R261 Remote f32 add element -/
  | ramoFadd (b : Src) (a : Src)
  /-- R261 Remote pairwise bf16 add element -/
  | ramoBfadd2 (b : Src) (a : Src)
  /-- R268 Makes the sachet for a peer slot's destination depart -/
  | sflush (a : Src)
  /-- R268 Makes every sachet holding the activity's elements depart -/
  | sflusha
  /-- R269 Flushes, waits for every element status, then returns the sticky word -/
  | fencef (d : BitVec 6)
  /-- R268 Reads and clears the sticky word in one step -/
  | ferr (d : BitVec 6)
  /-- R315 Commits a reserved sparse page from a pool and releases parked activities -/
  | pgcommit (a : Src) (d : BitVec 6)
  /-- R316 Returns a page to its pool after a shootdown -/
  | pgfree (a : Src) (d : BitVec 6)
  /-- R318 Drops cached translations by mode -/
  | tlbinv (b : Src) (a : Src)
  /-- R319 Translates an address without trapping and reports the result -/
  | addrq (a : Src) (d : BitVec 6)
  /-- R93 A padcfg write waits for bank accesses, writes back and drops the cache portion, and applies the new split -/
  | padcfgChange
  /-- R20 A write to a register with no behaviour of its own, checked and stored -/
  | registerWrite
  /-- R114 A parked request completes as a timeout after fetimeout ns with k7 := 0 -/
  | feTimeout
  /-- R114 A request bounced by a full retry list is sent again 64 ns later -/
  | feResend
  /-- R115 A remote LDX or STX arrives and executes at the target module's bank unit or Cobbler -/
  | remoteFeRequest
  /-- R153 A stalled issue is admitted round-robin when a queue entry frees, moving the done duty and writing lastjob -/
  | matrixJobAdmission
  /-- R161 A queued job starts once its wait object, earlier conflicting jobs and the array allow -/
  | matrixJobStart
  /-- R162 A finished job ORs its status into its done object and discharges its duty unit -/
  | matrixJobCompletion
  /-- R202 An 8-byte store to the aperture kick offset checks and accepts a copy onto a channel -/
  | kick
  /-- R202 A stalled kick is accepted once the thread's records and the channel queue have room -/
  | copyAccept
  /-- R199 A supervisor store to an aperture template slot sets a template entry -/
  | templateSlotWrite
  /-- R203 A channel starts or resumes the copy at its queue head, loading the channel context -/
  | copyStart
  /-- R206 A BURST's transfer is acknowledged -/
  | burstAck
  /-- R205 After every transfer is acknowledged the copy performs its completion step on its tag or object -/
  | copyCompletion
  /-- R211 The loader fills a ring slot from HBM and advances it -/
  | loaderSlotFill
  /-- R211 The storer writes a filled slot to HBM and advances it -/
  | storerSlotDrain
  /-- R178 A waiting thread released by a step at the object's home resumes within the stated cycles -/
  | waitResume
  /-- R289 An entry that fired into a full or invalid queue is pushed when its queue has room -/
  | armedEntryPush
  /-- R216 A gang slot begins: each member satisfying the advance rule executes its next instruction -/
  | gangSlot
  /-- R233 At its cycle an XMIT puts the vector on the link -/
  | slotSend
  /-- R230 A value arriving on a circuit-mode input is forwarded, latched or dropped and logged -/
  | routerValueArrival
  /-- R256 A sachet departs when its oldest element reaches sachage ns -/
  | sachetAgeDeparture
  /-- R262 A packet arriving at the target has its elements applied and statuses returned -/
  | elementApply
  /-- R265 An element unacknowledged 100 us after departure draws status RESET -/
  | elementAckTimeout
  /-- R266 A returned status decrements the outstanding count and on failure sets a sticky bit and writes a fault-log entry -/
  | elementStatus
  /-- R333 A failing status with REN set takes a REMOTE trap at the next boundary -/
  | remoteNotice
  /-- R271 A die's fabric interface reset discards sachets and partly sent packets as RESET -/
  | fabricInterfaceReset
  /-- R366 A link failure not cleared by retraining within 1 ms triggers a die-interface reset -/
  | linkFailureReset
  /-- R271 After retraining the link partner restores its full send allowance -/
  | linkRetrainComplete
  /-- R365 A collective packet reported RESET or unacknowledged for 100 us is re-sent, up to collretry times -/
  | collectiveResend
  /-- R327 Configuration command 1 writes a format-region register -/
  | cfgFormatRegion
  /-- R327 Configuration command 2 writes a queue descriptor -/
  | cfgQueue
  /-- R327 Configuration command 3 sets up a synchronisation domain and loads its slot tables -/
  | cfgDomain
  /-- R327 Configuration command 4 appends pages to a stack's free-page pool -/
  | cfgPoolPages
  /-- R320 Configuration command 5 migrates a page, holding and replaying accesses -/
  | cfgMigrate
  /-- R327 Configuration command 6 sets the remote-fault log address -/
  | cfgRemoteFaultLog
  /-- R327 Configuration command 7 sets the access log address -/
  | cfgAccessLog
  /-- R327 Configuration command 8 sets the sparse-fault queue address -/
  | cfgSparseFaultQueue
  /-- R354 Configuration command 9 sets the error-log address -/
  | cfgErrorLog
  /-- R354 Configuration command 10 sets a domain's undo log -/
  | cfgUndoLog
  /-- R354 Configuration command 11 sets the audit area -/
  | cfgAuditArea
  /-- R354 Configuration command 12 releases a cluster from quarantine -/
  | cfgReleaseQuarantine
  /-- R354 Configuration command 13 resets a cluster under R345 -/
  | cfgResetCluster
  /-- R354 Configuration command 14 stops a cluster under R370 -/
  | cfgStopCluster
  /-- R292 A pending slice becomes READY when its dependence condition holds -/
  | sliceReady
  /-- R295 A free thread or segment is matched to the first fitting READY slice -/
  | dispatchMatch
  /-- R297 Cobbler loaders stage footprint entries into the pad before the first instruction -/
  | footprintStaging
  /-- R299 A higher-priority READY slice chooses a running victim to suspend -/
  | preemption
  /-- R336 An activity is stopped, flushed, its copies quiesced and its save area written -/
  | suspension
  /-- R341 A suspended slice is reloaded on a thread, its copies re-queued, and it performs an acquire -/
  | resumption
  /-- R298 After EXIT the out footprints are written back and the slice retires when acknowledged -/
  | retireWriteback
  /-- R302 When budget reaches 0 the next instruction traps BUDGET -/
  | budgetExhausted
  /-- R302 When the 4,096-cycle grace runs out the slice is suspended and reported -/
  | budgetGraceExhausted
  /-- R335 A disposition of 1 returns the reported slice to READY, or releases a stopped slice -/
  | dispositionRelease
  /-- R335 A disposition of 2 kills the reported slice -/
  | dispositionKill
  /-- R372 A disposition of 3 on a stop entry steps one instruction or gang slot -/
  | dispositionStep
  /-- R345 An uncorrectable error in router or object-home state resets the cluster -/
  | clusterReset
  /-- R370 A stop trigger freezes every thread of the cluster and its gangs within 8 cycles -/
  | clusterStop
  /-- R358 POISON in a repeatable superstep rolls the domain back to its snapshot and restarts it -/
  | rollback
  /-- R350 Every 8 hours each Cobbler reads and corrects its whole stack -/
  | patrolScrub
  /-- R361 A sampled auditable slice's replay is pushed at priority 0 after retirement -/
  | noseAuditPush
  /-- R362 A replay's signature is compared, a third run made on mismatch, and a verdict logged -/
  | noseVerdict
  /-- R362 An audit not ended within 10 s is abandoned with a logged entry -/
  | auditAbandon
  /-- R375 Host opcode 1 writes bytes to physical memory and acknowledges -/
  | hostWrite
  /-- R375 Host opcode 2 returns bytes read at home -/
  | hostRead
  /-- R291 Host opcode 3 checks and pushes a slice record -/
  | hostLaunch
  /-- R377 A partition notice is sent to its host destination -/
  | hostNotice
  /-- R377 An unacknowledged notice is resent every 1 ms -/
  | noticeResend
  /-- R375 Opcode 5 acknowledges a notice -/
  | hostAck
  /-- R388 Opcode 7 returns power, temperature and link telemetry -/
  | telemetry
  /-- R382 Opcode 8 returns a signed attestation over the nonce and measurements -/
  | attest
  /-- R385 Signed command 1 binds a session number to a partition and key -/
  | openSession
  /-- R385 Signed command 2 closes a session -/
  | closeSession
  /-- R385 Signed command 3 writes a partition's table and draws a fresh key -/
  | partitionTable
  /-- R366 Signed command 4 resets every cluster and fabric interface of a die -/
  | dieReset
  /-- R385 Signed command 5 erases and writes bytes in the SPI NOR record area -/
  | recordWrite
  /-- R381 At power-on the ROM verifies and measures the firmware image and the firmware accepts records -/
  | powerOnBoot
  /-- R386 When 1 ms average power exceeds the limit the throttle level rises by 1 -/
  | throttleRaise
  /-- R386 When power stays below 95% of the limit for 10 ms the throttle level falls by 1 -/
  | throttleLower
  /-- R387 Junction temperature above 100 or 110 C sets a floor on the throttle level -/
  | thermalFloor
  /-- R387 At 120 C or a hot coolant inlet every slice is killed and power removed -/
  | thermalShutdown
  /-- R115 The response of a remote LDX or STX, completed, timed out or rejected at the target, returns to the issuing thread, which then writes k7 and d and retires the instruction -/
  | remoteFeResponse
  /-- R234 Once the transfer cycle exceeds its arrival cycle, a waiting XRECV reads its latch if the latch is stamped, and sets k7 -/
  | xrecvCyclePassed
  /-- R350 A soft error corrupts a stored bit or symbol, which is later corrected in place or makes its granule poisoned -/
  | softError
  /-- R366 A fabric link fails and begins retraining; the link state goes to training and traffic on the link stops or detours -/
  | linkFailure
  /-- R95 A write to vicgrp that changes a core's victim-pool membership drops the pool lines the core placed and the lines others placed in its portion -/
  | vicgrpChange
deriving DecidableEq, Repr

end Sys2Proof
end

