-- ==== Sys2Proof/Config.lean ====
section
/-! DEFINITION. What an implementation fixes, and the free values: constants without a body, so that nothing can be
proved about what they are. Each is named in an entry of notes/assumptions. -/

namespace Sys2Proof.Config

/-- FREE VALUE (log entry 10): of the two neighbours of the exact value, which one VRSQ, VSINPI and VCOSPI deliver
(03 R45: any value within 1 ulp, monotonic): the operand from which on it is the one away from zero, for a member, an element
type, the neighbour towards zero, and the piece of the function that the operand lies on. -/
opaque sfuTurn : Nat → Nat → Nat → Int → Int

/-- FREE VALUE (log entry 11): the seed that the module's PUF yields when its response is corrected with helper data
(24 R382). -/
opaque pufSeed : List Byte → List Byte

/-- FREE VALUE (log entry 11): where the flash holds the PUF's helper data, and the certificate of the identity key: offset and
length (24 R382). -/
opaque helperPlace : Nat × Nat
opaque certificatePlace : Nat × Nat

/-- FREE VALUE (log entry 11): the 32 random bytes of a signature by the identity key (24 R382), one for each value of the counter
of free values. -/
opaque signRnd : Nat → List Byte

/-- FREE VALUE (log entry 11): the digest of Brewezal's root public key that the mask ROM holds (24 R381). -/
opaque romKeyDigest : List Byte

/-- FREE VALUE (log entry 13): the syndrome of an error (22 R353), one for each value of the counter of free values. -/
opaque syndrome : Nat → Word

/-- FREE VALUE (log entry 18): what a trap writes to `tval` where the spec gives its cause no value, one for each value of
the counter of free values. -/
opaque openTval : Nat → Word

/-- FREE VALUE (log entry 27): whether the module's revision lacks a remote operation or number format (13 R265): its major
opcode and f7 field. -/
opaque lacksRemote : Nat → Nat → Bool

/-- The number of leaves in a cluster's TLB and in a lane core's micro-TLB, of table entries in a die's walk cache
(19 R309). -/
def tlbEntries : Nat := 256
def microEntries : Nat := 16
def walkEntries : Nat := 1024

/-- Device time that one step takes, in ns (log entry 6). -/
def stepTime : Nat := 1

end Sys2Proof.Config
end

