-- ==== Sys2Proof/Machine/State.lean ====
section
/-! DEFINITION. The state of one module, as plain data: every context's registers, every core's, cluster's and
partition's state, the engines' work in flight, the scheduler, and the one memory (02, 08 to 13, 18 to 24). The fields
`agenda`, `arg`, `fresh` are the MODEL's own (log entries 1, 4). -/

namespace Sys2Proof.Machine

/-- Why the machine stops. -/
inductive Fault where
  /-- Raised by `step` when power has been removed at thermal shutdown (24 R387). Safe: nothing runs without power. -/
  | poweredOff
deriving DecidableEq, Repr

/-- Why a step has no meaning. -/
inductive Refusal where
  /-- Raised by an arm of `exec` whose instruction has no meaning yet. Safe. -/
  | notModelled (mnemonic : String)
deriving DecidableEq, Repr

/-- The trap causes of 20 R329. -/
inductive Cause where
  | illop | reprange | align | accv | page | tilefault | ptersv | perm | rankv | unowed | exitowe | obfull | budget
  | slotviol | xphase | gang | poison | fpe | mcfg | watch | step | brkpt | svc | trapi | preempt | remote
deriving DecidableEq, Repr

/-- The class of a trap (05 R87). -/
inductive TrapClass where
  | before | after | between
deriving DecidableEq, Repr

/-- The three kinds of context (02 R13). -/
inductive CtxKind where
  | lane | control | hart
deriving DecidableEq, Repr

/-- A table keyed by numbers, keys rising. -/
abbrev Tab (α : Type) := List (Nat × α)

/-- Bytes by address, addresses rising, no zero byte listed (log entry 3). -/
abbrev Memory := List Host.Cell

/-- The role of a ring handle (02 R10). -/
inductive Role where
  | unbound | consumer | producer
deriving DecidableEq, Repr, Inhabited

/-- A ring handle (02 R10, 07 R139). -/
structure Handle where
  ref : Word
  need : BitVec 16
  cursor : BitVec 16
  role : Role
deriving DecidableEq, Repr, Inhabited

/-- The duty kinds (09 R174). -/
inductive Duty where
  | arrive | bytes | signal | unlock | fill | drain | msg
deriving DecidableEq, Repr

/-- An entry of an obligation table (09 R168). `loc` is bits 32:0 of the object's reference, a pad location in
coordinate form. -/
structure Oblig where
  loc : Nat
  kind : Duty
  count : Nat
  share : Nat
  due : BitVec 16
  orphaned : Bool
  spilled : Bool
  /-- it holds uncorrectable data (22 R350) -/
  bad : Bool
deriving DecidableEq, Repr

/-- What a thread waits for or is stalled on. -/
inductive Wait where
  /-- WAIT on an object for a value (09 R186): its location key, its location, the value -/
  | object (key loc : Nat) (value : BitVec 16)
  /-- LOCK (09 R188) -/
  | lock (key loc : Nat)
  /-- a handle operand that needs so many slots (07 R140), since a device time (09 R177) -/
  | handle (key loc : Nat) (producer : Bool) (need since : Nat)
  /-- a TAG wait (10 R209) -/
  | tag
  /-- JWAIT, with the job's completion rank (08 R160) -/
  | job (rank : Option Nat)
  /-- a matrix issue on a full queue, with the smallest completion rank queued (08 R153) -/
  | jobQueue (rank : Option Nat)
  /-- a kick on a full channel queue or full records (10 R202) -/
  | copyQueue
  /-- SYNC at a level (11 R226) -/
  | sync (level : Nat)
  /-- FENCEF (13 R269), UNSUB (10 R212), WEND of the leader (11 R215) -/
  | fencef
  | unsub
  | wend
  /-- XMIT or XRECV until its cycle (11 R233, R234) -/
  | xmit
  | xrecv
  /-- a local full/empty request parked or bounced (06 R114), a remote one on its way (06 R115) -/
  | fe
  /-- with its destination and the request; `asked` once its withdrawal has been sent after it (06 R116) -/
  | feRemote (dest : Nat) (r : FeReq) (asked : Bool)
deriving DecidableEq, Repr

/-- What a context is doing. -/
inductive Mode where
  /-- it holds no slice, or is a follower whose gang is not formed -/
  | idle
  | running
  | waiting (w : Wait)
  /-- a WAIT, LOCK or SYNC that a step at the home has released; it resumes by WAIT_RESUME (09 R178). With `redo` it is
  executed again where a stop meets it first (18 R303): it holds no lock and counts in no phase. -/
  | released (redo : Bool)
  /-- its slice is being staged (18 R297) -/
  | staging
  /-- frozen by a stop (23 R370) -/
  | frozen
  /-- stopped at a boundary; its suspension waits until its transfers and its remote request have ended (06 R116, 20 R337) -/
  | stopping
deriving DecidableEq, Repr

/-- A REP in progress (05 R78): the next repetition, the count, where REP stands and ends, the partner's word, its
literal once it has been fetched (04 R49), its address and length. -/
structure Rep where
  j : Nat
  n : Nat
  addr : Word
  word : Nat
  lit : Option Word
  partner : Word
  partnerLen : Nat
  sd : Int
  sa : Int
  sb : Int
deriving DecidableEq, Repr

/-- One instruction-executing context (02 R10, R13, R19). -/
structure Ctx where
  kind : CtxKind
  coreid : Nat
  mode : Mode
  pc : Word
  s : Vector Word 32
  k : Vector Word 8
  v : Vector Line 32
  q : Vector (BitVec 256) 7
  h : Vector Handle 16
  lc : Vector Word 3
  lbeg : Vector Word 3
  lend : Vector Word 3
  eo : Word
  wo : Word
  eoPrev : Word
  woPrev : Word
  /-- the instruction in progress has written the port: `eoPrev` is then the value after the last completed one, `eoOld` the
  value before that one -/
  eoMark : Bool
  woMark : Bool
  eoOld : Word
  woOld : Word
  vtype : BitVec 8
  vround : BitVec 16
  vflags : BitVec 16
  vmask : Word
  vprog : BitVec 32
  repcnt : BitVec 32
  qscale : BitVec 8
  acscale : BitVec 8
  lastjob : BitVec 32
  rstep : BitVec 32
  budget : BitVec 32
  deadline : Word
  prio : BitVec 8
  sliceid : Word
  tagrdy : Word
  tagrank : BitVec 32
  gangpos : BitVec 16
  peers : Vector Word 64
  tvec : Word
  tcause : BitVec 8
  tval : Word
  tpc : Word
  tstat : Word
  stepctl : BitVec 32
  obls : List Oblig
  sticky : Word
  outstanding : Nat
  rep : Option Rep
  /-- the shaped instruction in progress has made a step and is to make more: it is one instruction that has been issued
  (07 R137, 18 R302) -/
  issued : Bool
  /-- the budget's grace has been used in this quantum (18 R302) -/
  grace : Bool
  /-- a REMOTE notice is due (20 R333) -/
  remoteDue : Bool
  /-- a WATCH of the After class is due for the instruction in progress: the watchpoint and the address (23 R368) -/
  watchDue : Option (Nat × Word)
  /-- an access of the instruction in progress has matched a watchpoint: the first that does decides (23 R368) -/
  watchMet : Bool
  /-- a WATCH of 23 R369 is due on the next instruction completed: the address -/
  arriveDue : Option Word
  /-- the POISON in progress is that of a BROKEN ring (07 R140), none of 22 R351: no rollback answers it (22 R358) -/
  ringTrap : Bool
  /-- what holds uncorrectable data (22 R351): registers 0 to 31 scalar, 32 to 63 vector, 64 to 71 predicate, 72 to 78
  shape slot, 80 to 95 handle, from 128 CSR -/
  badRegs : List Nat
  /-- a trap that is taken before the next instruction: of the After class, by an instruction that a stop has completed (11 R219,
  23 R368, R373), or the POISON of a handle wait that a reset has ended (20 R345) -/
  late : Option (Cause × Word)
  /-- the instructions that it completed after the last stop began (23 R371) -/
  skid : Nat
  /-- the word that a LOCK, WAIT or SYNC returns when it resumes, its destination code and the instruction's length
  (09 R178, R186, R188, 11 R226) -/
  result : Word
  /-- the access that met a reserved page, as the sparse-fault queue names it, and its virtual address (19 R312) -/
  access : Nat
  accessVa : Word
  dest : BitVec 6
  len : Nat
deriving DecidableEq, Repr

/-- One line of a lane core's cache portion (06 R94, 12 R236): the sector's physical address, its bytes, the 4-byte
words that are valid and the ones the core owns. `holder` is the lane core whose portion holds it, the core itself or a
member of its pool. -/
structure CacheLine where
  sector : Nat
  data : List Byte
  valid : BitVec 16
  owned : BitVec 16
  holder : Nat
deriving DecidableEq, Repr

/-- A cached leaf (19 R309, R310): the partition, the virtual base, the size in bytes, the PTE and its level. -/
structure TlbEntry where
  part : Nat
  base : Nat
  size : Nat
  pte : Word
  level : Nat
deriving DecidableEq, Repr

/-- A cached table entry of levels 1 to 4 (19 R309): the partition, the level, the VA's prefix down to that level's index,
the entry. -/
structure WalkEntry where
  part : Nat
  level : Nat
  tag : Nat
  entry : Word
deriving DecidableEq, Repr

/-- Core-scoped state (02 R19). The pad itself is in the memory. -/
structure CoreSt where
  padcfg : BitVec 3
  vicgrp : BitVec 8
  /-- the lane that received the last line evicted into the victim pool (06 R95) -/
  poolLast : Nat
  wpaddr : Vector Word 4
  wpctl : Vector (BitVec 32) 4
  lines : List CacheLine
  /-- the micro-TLB (19 R309) -/
  micro : List TlbEntry
  /-- the receive latch and its stamp (11 R230) -/
  latch : Option (Line × Nat)
  /-- a cycle in which one of its shared CSRs has been written, and their values before that cycle's writes: `padcfg`, `vicgrp`,
  `wpaddr`, `wpctl` (02 R21) -/
  past : Option (Nat × BitVec 3 × BitVec 8 × Vector Word 4 × Vector (BitVec 32) 4)
deriving DecidableEq, Repr

/-- A tile's operations and the multiply jobs (08 R155, R157). -/
inductive JobOp where
  | mma (z n : Bool) (ta tb : Nat) (row0 col0 : Nat)
  | mmas (ba bb : Nat) (ta tb : Nat) (row0 col0 : Nat)
  | mmaq (z n : Bool) (ta tb : Nat) (row0 col0 : Nat)
  | tld (t : Nat) (a x : Word)
  | tzero (t : Nat)
  | acz (v : Word)
  | acrd (a : Word) (v : Word)
  | acwr (a : Word) (v : Word)
deriving DecidableEq, Repr

/-- A job of the matrix engine (08 R150, R161): its wait object's location key and awaited value, its done object's key and
location, its completion rank, and the duty it took. -/
structure Job where
  id : Nat
  op : JobOp
  wait : Option (Nat × BitVec 16)
  done : Option (Nat × Nat)
  cfgA : BitVec 32
  cfgB : BitVec 32
  acscale : BitVec 8
  rank : Option Nat
  duty : Option Duty
  due : BitVec 16
  /-- BRK of its wait object, found at the start (09 R181) -/
  brk : Bool
  running : Bool
  core : Nat
  slice : Word
deriving DecidableEq, Repr

/-- A packet of a copy that has no acknowledgement yet: its number, what it carries, when it left last, how often it has been
sent again (22 R364, R365). -/
structure Sent where
  num : Nat
  src : Word
  dst : Word
  len : Nat
  time : Nat
  tries : Nat
deriving DecidableEq, Repr

/-- A copy (10 R202, 20 R337): its record and its progress. -/
structure Copy where
  cluster : Nat
  channel : Nat
  template : Nat
  ord : Bool
  /-- it has started once; it runs in its channel's context now (10 R203) -/
  started : Bool
  running : Bool
  ended : Bool
  source : Word
  dest : Word
  remaining : Nat
  length : Nat
  flags : Nat
  argOff : Nat
  cref : Word
  duty : Option Duty
  due : BitVec 16
  status : Word
  /-- transfers issued and not yet acknowledged (10 R206) -/
  inFlight : Nat
  /-- the record's place, 0 to 7, and the issuing thread, slice and partition; the peer table of the activity (10 R203) -/
  slot : Nat
  core : Nat
  slice : Word
  part : Nat
  peers : Vector Word 64
  /-- the object target's location key, or 0 -/
  key : Nat
  /-- cause and `tval` of the trap that ended it (10 R205) -/
  cause : Nat
  tval : Word
  /-- quiesced with its suspended slice; `stopping` while it runs on to its next BURST (20 R337) -/
  held : Bool
  stopping : Bool
  /-- rounds of re-sending of a collective step, the error log's entry of the last one, the packets sent, and those without an
  acknowledgement yet (22 R364, R365) -/
  retries : Nat
  round : Option Nat
  packets : Nat
  resend : List Sent
deriving DecidableEq, Repr

/-- An armed entry of the waiting-task table (09 R196). -/
structure Armed where
  record : BitVec 2048
  obls : List Oblig
  part : Nat
  core : Nat
  /-- the counter's location key -/
  counter : Nat
  fired : Bool
deriving DecidableEq, Repr

/-- A value on a router link (11 R230): the input it arrives on, the cycle, the value. -/
structure Flit where
  cluster : Nat
  input : Nat
  cycle : Nat
  value : Line
  part : Nat
  dom : Nat
deriving DecidableEq, Repr

/-- Cluster-scoped state. Tile bytes are keyed by tile × 32768 + byte, the sidecar's from byte 16384 on; accumulator
cells by row × 128 + column; what a table does not list is zero (02 R12, R22, 08 R143, R147). -/
structure Cluster where
  tcfg : Vector (BitVec 32) 16
  tiles : Memory
  acc : Tab (BitVec 32)
  /-- poisoned tile rows, tile × 256 + row, and poisoned cells (08 R149) -/
  badRows : List Nat
  badCells : List Nat
  jobs : List Job
  /-- issues stalled on the full queue, in order of issue (08 R153) -/
  offers : List Job
  nextJob : Nat
  lastCore : Nat
  templates : Tab Word
  armed : Tab Armed
  tlb : List TlbEntry
  /-- MUXSEL selections of the transfer phase: output, first cycle, lane, input (11 R232) -/
  muxsel : List (Nat × Nat × Nat × Nat)
  quarantined : Bool
  /-- a cycle in which a `tcfg` has been written, and their values before that cycle's writes (02 R21) -/
  past : Option (Nat × Vector (BitVec 32) 16)
deriving DecidableEq, Repr

/-- A queue descriptor (18 R288). -/
structure Queue where
  valid : Bool
  die : Nat
  capacity : Nat
  occupancy : Nat
deriving DecidableEq, Repr

/-- An entry of an undo log (22 R356). -/
structure Undo where
  space : Nat
  block : Nat
  old : List Byte
  full : List Nat
  bad : List Nat
deriving DecidableEq, Repr

/-- One entry of a gang's skew queue (11 R222): the next address, the decision value, the value that an OBJ or TASK
instruction or a CSRR of a loop register gave the leader's d (09 R167, 02 R16). -/
structure Skew where
  next : Word
  decision : Word
  dval : Word
  /-- the address of the instruction itself, and the halfwords that the leader fetched, by their distance from it: what a
  follower executes (11 R216) -/
  here : Word
  code : Tab Nat
deriving DecidableEq, Repr

/-- A formed or stopped gang (11 R213 to R222), by slice id. `base` is the index of the oldest queue entry. -/
structure Gang where
  members : List Nat
  formed : Bool
  stopped : Bool
  counts : List Nat
  base : Nat
  queue : List Skew
  /-- members past WEND or EXIT -/
  ended : List Nat
  /-- the VROWMAX whose exchange is in progress: its index (07 R132, 11 R222), and its destination's code -/
  rowmax : Option Nat
  rowdest : BitVec 6
  /-- the members that still execute in a slot that a trap has abandoned (11 R219) -/
  closing : List Nat
  /-- members whose instruction in the slot in progress traps, with the trap of one that an event completed: the slot is
  abandoned, and its end takes the trap of the lowest position (11 R219, R220) -/
  trapped : Tab (Option (Cause × Word))
  /-- the position whose trap is taken at the end of the slot, and whose member runs its handler while the gang is stopped
  (11 R220) -/
  runner : Option Nat
  /-- the halfwords of the leader's instruction in progress -/
  code : Tab Nat
  /-- the leader's next address, and that of the gang's EXIT once it has passed 09 R193 -/
  front : Word
  exiting : Bool
  /-- a notice to the leader has abandoned the slot in progress, and is taken at its end (11 R219, 20 R333) -/
  notice : Bool
deriving DecidableEq, Repr

/-- A synchronisation domain (11 R223 to R230, 22 R355 to R358). -/
structure Domain where
  level : Nat
  number : Nat
  parent : Option (Nat × Nat)
  rank : Nat
  snapen : Bool
  /-- the period P, or 0 without slot tables; the slot-table image's address; the tables' bytes -/
  period : Nat
  image : Nat
  tables : List Nat
  /-- member clusters with their registers -/
  members : Tab Nat
  phase : BitVec 16
  /-- members that EXIT has taken out of it (11 R229) -/
  left : List Nat
  broken : Bool
  transfer : Bool
  /-- the device time of transfer cycle 0 -/
  start : Nat
  /-- the transfer log: dropped values (0, router, link, cycle) and slot violations (1, `coreid`, link, asked cycle,
  current cycle, cause) -/
  log : List (List Nat)
  /-- the undo log's place and size, the snapshot's state -/
  undoLog : Option (Nat × Nat)
  snapshot : Bool
  repeatable : Bool
  rolledBack : Bool
  undo : List Undo
  /-- the members' contexts and gangs at the snapshot -/
  undoCtx : List Ctx
  undoGangs : Tab Gang
deriving DecidableEq, Repr

/-- A notice for the host (24 R377, R378): its sequence, the count it carries, and when it was last sent. -/
structure Notice where
  seq : Nat
  kind : Nat
  detail : Nat
  time : Nat
  missed : Nat
  sent : Option Nat
deriving DecidableEq, Repr

/-- A report to the supervisor (20 R334). -/
structure Report where
  kind : Nat
  cause : Nat
  slice : Nat
  position : Nat
  resume : Word
  tval : Word
  core : Nat
  slot : Nat
deriving DecidableEq, Repr

/-- Partition-scoped state (19 R321, 02 R19). -/
structure Partition where
  clusters : List Nat
  windows : List (Nat × Nat)
  supervisor : Nat
  masks : List Word
  sliceMap : List Nat
  memWeight : Nat
  fabWeight : Nat
  cap : Nat
  route : List Byte
  /-- the table as the signed command carried it (24 R382, R385) -/
  table : List Byte
  key : Nat
  objbase : Word
  ptbase : Word
  sachage : BitVec 32
  fetimeout : BitVec 32
  collretry : BitVec 8
  audfrac : BitVec 4
  peers : Vector Word 64
  queues : Tab Queue
  pools : Tab (List Nat)
  regions : Tab (BitVec 256)
  remoteLog : Option Nat
  accessLog : Option Nat
  sparseLog : Option Nat
  errorLog : Option Nat
  auditArea : Option (Nat × Nat)
  cfg : BitVec 448
  cfgStatus : Word
  domains : List Domain
  /-- what `snapen` reads for a supervisor that is in no domain (02 R19) -/
  snapenOwn : Bool
  ids : Nat
  orphans : List Oblig
  notices : List Notice
  noticeSeq : Nat
  notSent : Nat
  /-- report entries that are protected until disposed of, with their numbers, and reports that wait for one
  (20 R334, R335, 23 R371) -/
  undisposed : List (Nat × Report)
  waiting : List Report
  /-- the save slots in use; slot 0 is the supervisor's (20 R338) -/
  slots : List Nat
  /-- the supervisor is frozen by its own trap (20 R331) -/
  supFrozen : Bool
  /-- the physical address of the PTE that the supervisor is parked on (19 R312) -/
  supParked : Option Nat
deriving DecidableEq, Repr

/-- The states of a slice (18 R303). -/
inductive SliceState where
  | pending | ready | staging | running | suspended | retiring | retired
deriving DecidableEq, Repr

/-- A slice (18 R286, R303). `saved` are its contexts, by position, while it is off its threads. -/
structure Slice where
  id : Nat
  part : Nat
  record : BitVec 2048
  prio : Nat
  state : SliceState
  arrival : Nat
  /-- counted in its queue's occupancy (18 R288) -/
  counted : Bool
  /-- the location key of the counter it depends on (18 R292) -/
  counter : Option Nat
  /-- its threads by position, and the ones it last had -/
  threads : List Nat
  lastThreads : List Nat
  slots : List Nat
  obls : List Oblig
  saved : List Ctx
  reason : Nat
  /-- a fresh budget at the next dispatch (18 R302) -/
  refill : Bool
  /-- the positions whose members are core-bound (20 R341, R342) -/
  bounds : List Bool
  padcfgs : List Nat
  /-- the physical address of the PTE it is parked on (19 R312) -/
  parked : Option Nat
  /-- footprint entries staged, or written back (18 R297, R298) -/
  staged : Nat
  /-- its staging has stopped at a fault that no handler took: it goes on when the slice resumes (18 R297) -/
  restage : Bool
  pinned : Bool
  /-- pre-emption in flight: the slice it displaces, or that displaces it (18 R299) -/
  victimOf : Option Nat
  dispatches : Nat
  /-- when it was last dispatched (18 R299) -/
  matchedAt : Nat
  /-- the die whose pool it stands in (18 R293); threads reserved for a gang (18 R295, R299) -/
  die : Nat
  reserved : List Nat
  /-- a replay of the Nose: the id of the slice under audit (22 R361) -/
  replayOf : Option Nat
deriving DecidableEq, Repr

/-- A slice is core-bound if a member is (20 R341, R342). -/
def Slice.coreBound (x : Slice) : Bool := x.bounds.any (fun b => b)

/-- An audit of the Nose, by the id of its original (22 R361, R362): the record, its place in the audit area, the runs that
have ended with their clusters and signatures, and when the original retired. -/
structure Audit where
  id : Nat
  part : Nat
  record : BitVec 2048
  base : Nat
  size : Nat
  runs : List (Nat × Nat)
  since : Option Nat
deriving DecidableEq, Repr

/-- A thread in an object's waiter list (09 R170, R178), in order of arrival; `key` is the object's location key. -/
structure Waiter where
  key : Nat
  core : Nat
  value : BitVec 16
  lock : Bool
deriving DecidableEq, Repr

/-- An engine's completion step held until the next phase (09 R185). -/
structure PendingStep where
  key : Nat
  agent : Nat
  due : BitVec 16
  count : Nat
  status : Word
deriving DecidableEq, Repr

/-- A parked or bounced full/empty request (06 R114). `core` is the issuing context, or for a remote request the
answer's destination. -/
structure Parked where
  req : FeReq
  /-- the location key of the address and the device time of its first arrival -/
  key : Nat
  arrival : Nat
  remote : Bool
  bounced : Bool
deriving DecidableEq, Repr

/-- A loader or storer subscription (10 R210, R211). -/
structure Subscription where
  loc : Nat
  loader : Bool
  shape : BitVec 256
  part : Nat
  cluster : Nat
  /-- elements already moved -/
  done : Nat
  faulted : Bool
  /-- UNSUB has asked it to end (10 R212) -/
  ending : Bool
  /-- it began before the snapshotted superstep in progress: its writes are not logged (22 R356) -/
  early : Bool
  /-- the storer's drain count at the UNSUB -/
  core : Nat
deriving DecidableEq, Repr

/-- A sachet in use (13 R255). -/
structure Sachet where
  die : Nat
  index : Nat
  dest : Nat
  elements : List Element
deriving DecidableEq, Repr

/-- An element that has departed and has no status yet (13 R265, R266). -/
structure Flying where
  element : Element
  dest : Nat
  departed : Nat
  die : Nat
deriving DecidableEq, Repr

/-- What leaves the module for another one: elements, their statuses, a full/empty request, its answer (13 R255, R265,
06 R115). `dest` is the destination's fabric address. -/
inductive Message where
  | packet (p : Packet)
  | status (dest : Nat) (p : Packet) (codes : List Nat)
  | request (dest : Nat) (r : FeReq)
  | answer (dest : Nat) (r : FeReq) (a : FeAnswer)
  /-- a request taken back, if it has not been performed (06 R116) -/
  | takeBack (dest : Nat) (r : FeReq)
deriving DecidableEq, Repr

/-- A host session (24 R374, R376, R385): its partition and host key, the next sequence, requests held by sequence, the first
responses by sequence: opcode, status, payload; the last sequence of its other direction. -/
structure Session where
  partition : Nat
  key : Nat
  next : Nat
  held : List (Nat × Instr × EventArg)
  answers : Tab (Nat × Nat × List Byte)
  sent : Nat
deriving DecidableEq, Repr

/-- A message to the host: opcode, session, sequence, partition, status, tag, payload (24 R374, R375), and the IPv6 address and
UDP port it goes to: a notice's partition's interrupt route (19 R325), an answer's sender. -/
structure Response where
  opcode : Nat
  session : Nat
  sequence : Nat
  partition : Nat
  status : Nat
  tag : Nat
  payload : List Byte
  route : List Byte
deriving DecidableEq, Repr

/-- Boot, identity and power (24 R381 to R388). -/
structure Board where
  booted : Bool
  imageOk : Bool
  /-- the firmware's version -/
  version : Nat
  nor : Memory
  /-- the seed that the key engine holds, from the PUF (24 R382) -/
  seed : List Byte
  /-- the firmware that the ROM has loaded, with its load address; management cores 1 to 3 are out of reset -/
  firmware : Option (Nat × List Byte)
  released : Bool
  m0 : List Byte
  m1 : List Byte
  bootCount : Nat
  /-- accepted records: type, version, payload (24 R383) -/
  records : List (Nat × Nat × List Byte)
  powerLimit : Nat
  power : Nat
  level : Nat
  floor : Nat
  dieTemp : List Nat
  stackTemp : List Nat
  inlet : Nat
  outlet : Nat
  on : Bool
deriving DecidableEq, Repr

/-- What moves next in the machine (log entry 1): an event with its operands, the turn of a context, or a gang member's
instruction of the slot in progress, with its index (11 R216). -/
inductive Agenda where
  | event (i : Instr) (arg : EventArg)
  | turn (core : Nat)
  | member (core index : Nat)
deriving DecidableEq, Repr

/-- The whole module. `t` is the context whose turn it is; the others are in `others`. -/
structure State where
  t : Ctx
  others : Tab Ctx
  cores : Tab CoreSt
  clusters : Tab Cluster
  /-- each die's walk cache (19 R309) -/
  walks : Tab (List WalkEntry)
  parts : Tab Partition
  mem : Memory
  /-- full 64-bit words and poisoned doublewords, by location key, rising (06 R111, 22 R350) -/
  full : List Nat
  bad : List Nat
  copies : List Copy
  subs : List Subscription
  waiters : List Waiter
  pendings : List PendingStep
  parked : List Parked
  slices : List Slice
  gangs : Tab Gang
  audits : List Audit
  arrivals : Nat
  tokens : Nat
  sachets : List Sachet
  flying : List Flying
  outbox : List Message
  flits : List Flit
  /-- the state of each port's link (24 R388): 0 down, as where the mesh ends (00 R6), 1 training, 2 up -/
  links : Vector (BitVec 8) 8
  sessions : Tab Session
  responses : List Response
  board : Board
  fabric : Nat
  time : Nat
  /-- one more than the `coreid` of the context that had the last turn of the cycle in progress, 0 before the first: the turns
  of a cycle come in ascending `coreid` (26 R408) -/
  turned : Nat
  agenda : List Agenda
  arg : EventArg
  fresh : Nat
deriving DecidableEq, Repr

/-- A handle that is not bound. -/
def Handle.none : Handle := ⟨0, 0, 0, .unbound⟩

/-- A context with its values at dispatch (02 R10, R19) before any slice: log entry 2. -/
def Ctx.reset (kind : CtxKind) (coreid : Nat) : Ctx where
  kind := kind
  coreid := coreid
  mode := .idle
  pc := 0
  s := Vector.replicate 32 0
  k := (Vector.replicate 8 0).set 0 (BitVec.allOnes 64)
  v := Vector.replicate 32 0
  q := Vector.replicate 7 0
  h := Vector.replicate 16 Handle.none
  lc := Vector.replicate 3 0
  lbeg := Vector.replicate 3 0
  lend := Vector.replicate 3 0
  eo := 0
  wo := 0
  eoPrev := 0
  woPrev := 0
  eoMark := false
  woMark := false
  eoOld := 0
  woOld := 0
  vtype := 0
  vround := 0
  vflags := 0
  vmask := if kind = .lane then BitVec.allOnes 64 else 0
  vprog := 0
  repcnt := 0
  qscale := 0
  acscale := if kind = .hart then 0 else 127
  lastjob := 0
  rstep := if kind = .hart then 0 else 1
  budget := 0
  deadline := 0
  prio := 0
  sliceid := 0
  tagrdy := 0
  tagrank := 0
  gangpos := 0
  peers := Vector.replicate 64 0
  tvec := 0
  tcause := 0
  tval := 0
  tpc := 0
  tstat := 0
  stepctl := 0
  obls := []
  sticky := 0
  outstanding := 0
  rep := none
  issued := false
  grace := false
  remoteDue := false
  watchDue := none
  watchMet := false
  arriveDue := none
  ringTrap := false
  badRegs := []
  late := none
  skid := 0
  result := 0
  access := 0
  accessVa := 0
  dest := 0
  len := 4

/-- A core after partition assignment (02 R19, R22). -/
def CoreSt.reset : CoreSt where
  padcfg := 0
  vicgrp := 0
  poolLast := 7
  wpaddr := Vector.replicate 4 0
  wpctl := Vector.replicate 4 0
  lines := []
  micro := []
  latch := none
  past := none

/-- A cluster after partition assignment (02 R22, 08 R160). -/
def Cluster.reset : Cluster where
  tcfg := Vector.replicate 16 0
  tiles := []
  acc := []
  badRows := []
  badCells := []
  jobs := []
  offers := []
  nextJob := 1
  lastCore := 8
  templates := []
  armed := []
  tlb := []
  muxsel := []
  quarantined := false
  past := none

/-- A partition before its table is written (19 R321, 02 R19). -/
def Partition.reset : Partition where
  clusters := []
  windows := []
  supervisor := 0
  masks := []
  sliceMap := []
  memWeight := 1
  fabWeight := 1
  cap := 0
  route := []
  table := []
  key := 0
  objbase := 0
  ptbase := 0
  sachage := 1000
  fetimeout := 32000
  collretry := 3
  audfrac := 8
  peers := Vector.replicate 64 0
  queues := []
  pools := []
  regions := []
  remoteLog := none
  accessLog := none
  sparseLog := none
  errorLog := none
  auditArea := none
  cfg := 0
  cfgStatus := 0
  domains := []
  snapenOwn := false
  ids := 0
  orphans := []
  notices := []
  noticeSeq := 0
  notSent := 0
  undisposed := []
  waiting := []
  slots := []
  supFrozen := false
  supParked := none

/-- The board before boot (24 R381): M1 is 64 zero bytes; M0 likewise until the ROM measures an image. -/
def Board.reset : Board where
  booted := false
  imageOk := false
  version := 0
  nor := []
  seed := []
  firmware := none
  released := false
  m0 := List.replicate 64 0
  m1 := List.replicate 64 0
  bootCount := 0
  records := []
  powerLimit := 4200
  power := 0
  level := 0
  floor := 0
  dieTemp := [0, 0, 0, 0]
  stackTemp := List.replicate 12 0
  inlet := 0
  outlet := 0
  on := true

/-- The module at power-on: no partition, no slice, memory with nothing listed; the boot is the one thing to come
(24 R381). The context whose turn it is, is thread 0 of lane 0 of cluster (0, 0) of die 0, idle. -/
def State.reset : State where
  t := Ctx.reset .lane 0
  others := []
  cores := []
  clusters := []
  walks := []
  parts := []
  mem := []
  full := []
  bad := []
  copies := []
  subs := []
  waiters := []
  pendings := []
  parked := []
  slices := []
  gangs := []
  audits := []
  arrivals := 0
  tokens := 0
  sachets := []
  flying := []
  outbox := []
  flits := []
  links := #v[2, 0, 2, 0, 2, 2, 2, 2]
  sessions := [(0, ⟨255, 0, 1, [], [], 0⟩)]
  responses := []
  board := Board.reset
  fabric := 0
  time := 0
  turned := 0
  agenda := [.event .powerOnBoot {}]
  arg := {}
  fresh := 0

end Sys2Proof.Machine
end

