-- ==== Sys2Proof/Machine/Bits.lean ====
section
/-! DEFINITION. Bit fields, byte order and the small tables the machine is kept in (00 R8: bit 0 is the least significant
bit, bytes are little-endian). -/

namespace Sys2Proof.Machine

/-- The `n` bits of a number from bit `lo` up. -/
def bitsOf (x lo n : Nat) : Nat := x / 2 ^ lo % 2 ^ n

/-- The `n` bits of a word from bit `lo` up. -/
def fieldOf (w : Word) (lo n : Nat) : Nat := bitsOf w.toNat lo n

/-- One bit of a word. -/
def flagOf (w : Word) (i : Nat) : Bool := w.toNat / 2 ^ i % 2 == 1

/-- One bit of a number. -/
def bitOf (x i : Nat) : Bool := x / 2 ^ i % 2 == 1

/-- A number with `v` written into its `n` bits from bit `lo` up. -/
def putBits (x lo n v : Nat) : Nat := x - bitsOf x lo n * 2 ^ lo + v % 2 ^ n * 2 ^ lo

/-- A number of `n` bits read as a signed one. -/
def signed (n x : Nat) : Int := if x % 2 ^ n < 2 ^ (n - 1) then (x % 2 ^ n : Nat) else ((x % 2 ^ n : Nat) : Int) - 2 ^ n

/-- Width in bits of an element type's container (03 R24), 0 for the codes that name no type. -/
def typeBits (t : Nat) : Nat :=
  match t with
  | 0 => 8 | 1 => 8 | 2 => 16 | 3 => 16 | 4 => 32 | 5 => 32 | 6 => 64 | 7 => 64 | 8 => 16 | 9 => 16 | 10 => 32 | 11 => 8
  | 12 => 8 | 13 => 4 | _ => 0

/-- A signed number as a word, modulo 2^64. -/
def ofInt (i : Int) : Word := BitVec.ofInt 64 i

/-- A value of `n` bits extended from its top bit to 64 bits. -/
def sext64 (n x : Nat) : Word := ofInt (signed n x)

/-- A number as a word. -/
def word (n : Nat) : Word := BitVec.ofNat 64 n

/-- The low `n` bytes of a number, lowest first. -/
def leBytes : Nat → Nat → List Byte
  | 0, _ => []
  | n + 1, x => BitVec.ofNat 8 x :: leBytes n (x / 256)

/-- The number that bytes hold, lowest first. -/
def leNat : List Byte → Nat
  | [] => 0
  | b :: bs => b.toNat + 256 * leNat bs

/-- The parity of a number's low `n` bits. -/
def parity : Nat → Nat → Bool
  | 0, _ => false
  | n + 1, x => xor (x % 2 == 1) (parity n (x / 2))

/-- The lowest set bit among the `n` bits from bit `i`. -/
def lowestBit : Nat → Nat → Nat → Option Nat
  | 0, _, _ => none
  | n + 1, i, x => if bitOf x i then some i else lowestBit n (i + 1) x

/-- The numbers of the set bits below `n`, rising. -/
def setBits (n x : Nat) : List Nat := (List.range n).filter (bitOf x)

/-! Tables, keyed by numbers, keys rising. -/

def Tab.find {α : Type} : Tab α → Nat → Option α
  | [], _ => none
  | (k, a) :: t, n => if k = n then some a else Tab.find t n

def Tab.getD {α : Type} (t : Tab α) (n : Nat) (d : α) : α := (t.find n).getD d

def Tab.put {α : Type} : Tab α → Nat → α → Tab α
  | [], n, a => [(n, a)]
  | (k, b) :: t, n, a => if n < k then (n, a) :: (k, b) :: t else if n = k then (n, a) :: t else (k, b) :: Tab.put t n a

def Tab.erase {α : Type} (t : Tab α) (n : Nat) : Tab α := t.filter fun p => p.1 != n

/-- A table in which an entry equal to the default is not listed. -/
def Tab.putD {α : Type} [DecidableEq α] (t : Tab α) (n : Nat) (d a : α) : Tab α := if a = d then t.erase n else t.put n a

/-! Sets of numbers, rising. -/

def setAdd : List Nat → Nat → List Nat
  | [], n => [n]
  | m :: l, n => if n < m then n :: m :: l else if n = m then m :: l else m :: setAdd l n

def setDrop (l : List Nat) (n : Nat) : List Nat := l.filter (· != n)

/-- Without the members from `a` to below `a + n`. -/
def setDropRange (l : List Nat) (a n : Nat) : List Nat := l.filter fun x => x < a || a + n ≤ x

/-- The members from `a` to below `a + n`. -/
def setRange (l : List Nat) (a n : Nat) : List Nat := l.filter fun x => a ≤ x && x < a + n

/-- The list with its entry at `i` replaced. -/
def setAt {α : Type} (l : List α) (i : Nat) (a : α) : List α := l.set i a

/-- A vector with the entry at `i` changed. -/
def vecMod {α : Type} [Inhabited α] {n : Nat} (v : Vector α n) (i : Nat) (f : α → α) : Vector α n := v.set! i (f v[i]!)

/-- The first position that meets a condition. -/
def findAt {α : Type} (l : List α) (p : α → Bool) : Option Nat := l.findIdx? p

/-- The value at or after another in the 16-bit phase order (09 R180). -/
def atOrAfter (p v : Nat) : Bool := 0 ≤ signed 16 (p + 2 ^ 16 - v % 2 ^ 16)

end Sys2Proof.Machine
end

