-- ==== Sys2Proof/Machine/Arith.lean ====
section
/-! DEFINITION. Integer arithmetic at any width: the operations of the ALU family, which atomics and vector members share
(05 R59 to R64, 06 R107). -/

namespace Sys2Proof.Machine

/-- A shift by a count given as a number: 0 when it reaches the width (05 R61). -/
def shlBy {n : Nat} (a : BitVec n) (c : Nat) : BitVec n := if n ≤ c then 0 else a <<< c
def shrBy {n : Nat} (a : BitVec n) (c : Nat) : BitVec n := if n ≤ c then 0 else a >>> c
/-- An arithmetic shift: copies of the sign bit when the count reaches the width. -/
def sraBy {n : Nat} (a : BitVec n) (c : Nat) : BitVec n := if n ≤ c then (if a.msb then BitVec.allOnes n else 0) else a.sshiftRight c

def opShl {n : Nat} (a b : BitVec n) : BitVec n := shlBy a b.toNat
def opShr {n : Nat} (a b : BitVec n) : BitVec n := shrBy a b.toNat
def opSra {n : Nat} (a b : BitVec n) : BitVec n := sraBy a b.toNat
def opRol {n : Nat} (a b : BitVec n) : BitVec n := shlBy a (b.toNat % n) ||| shrBy a (n - b.toNat % n)
def opRor {n : Nat} (a b : BitVec n) : BitVec n := shrBy a (b.toNat % n) ||| shlBy a (n - b.toNat % n)

/-- The high half of the signed product, and of the unsigned one. -/
def opMulh {n : Nat} (a b : BitVec n) : BitVec n := BitVec.ofInt n (a.toInt * b.toInt / 2 ^ n)
def opMulhn {n : Nat} (a b : BitVec n) : BitVec n := BitVec.ofNat n (a.toNat * b.toNat / 2 ^ n)

/-- Division truncates toward zero; a zero divisor gives all ones and the dividend as remainder (05 R62). -/
def opDiv {n : Nat} (a b : BitVec n) : BitVec n := if b = 0 then BitVec.allOnes n else BitVec.ofInt n (Int.tdiv a.toInt b.toInt)
def opDivn {n : Nat} (a b : BitVec n) : BitVec n := if b = 0 then BitVec.allOnes n else BitVec.ofNat n (a.toNat / b.toNat)
def opRem {n : Nat} (a b : BitVec n) : BitVec n := if b = 0 then a else BitVec.ofInt n (Int.tmod a.toInt b.toInt)
def opRemn {n : Nat} (a b : BitVec n) : BitVec n := if b = 0 then a else BitVec.ofNat n (a.toNat % b.toNat)

def opMin {n : Nat} (a b : BitVec n) : BitVec n := if b.toInt < a.toInt then b else a
def opMax {n : Nat} (a b : BitVec n) : BitVec n := if a.toInt < b.toInt then b else a
def opMinn {n : Nat} (a b : BitVec n) : BitVec n := if b.toNat < a.toNat then b else a
def opMaxn {n : Nat} (a b : BitVec n) : BitVec n := if a.toNat < b.toNat then b else a

def ofBool {n : Nat} (p : Bool) : BitVec n := if p then 1 else 0
def opSlt {n : Nat} (a b : BitVec n) : BitVec n := ofBool (decide (a.toInt < b.toInt))
def opSltn {n : Nat} (a b : BitVec n) : BitVec n := ofBool (decide (a.toNat < b.toNat))
def opSeq {n : Nat} (a b : BitVec n) : BitVec n := ofBool (a == b)
def opSne {n : Nat} (a b : BitVec n) : BitVec n := ofBool (a != b)

/-- Leading zeros, trailing zeros, one bits. -/
def opClz {n : Nat} (a : BitVec n) : BitVec n := BitVec.ofNat n (if a = 0 then n else n - 1 - a.toNat.log2)
def opCtz {n : Nat} (a : BitVec n) : BitVec n := BitVec.ofNat n ((lowestBit n 0 a.toNat).getD n)
def opPopc {n : Nat} (a : BitVec n) : BitVec n := BitVec.ofNat n (setBits n a.toNat).length

/-- Bits, and bytes, in the opposite order. -/
def opBrev {n : Nat} (a : BitVec n) : BitVec n := BitVec.ofNat n ((setBits n a.toNat).foldl (fun x i => x + 2 ^ (n - 1 - i)) 0)
def opBswap {n : Nat} (a : BitVec n) : BitVec n := BitVec.ofNat n (leNat (leBytes (n / 8) a.toNat).reverse)

/-- An operation at 64 bits, or at 32 bits with the result extended from bit 31 (05 R60). -/
def wide2 (w : Bool) (f : {n : Nat} → BitVec n → BitVec n → BitVec n) (a b : Word) : Word :=
  if w then (f (a.setWidth 32) (b.setWidth 32)).signExtend 64 else f a b

def wide1 (w : Bool) (f : {n : Nat} → BitVec n → BitVec n) (a : Word) : Word :=
  if w then (f (a.setWidth 32)).signExtend 64 else f a

/-- A bit-field descriptor: the lowest bit and the width, cut at bit 63 (05 R64). -/
def fieldLo (b : Word) : Nat := fieldOf b 0 6
def fieldWidth (b : Word) : Nat := min (fieldOf b 6 7) (64 - fieldLo b)

def opBfx (a b : Word) : Word := if fieldWidth b = 0 then 0 else sext64 (fieldWidth b) (fieldOf a (fieldLo b) (fieldWidth b))
def opBfxz (a b : Word) : Word := word (fieldOf a (fieldLo b) (fieldWidth b))
def opBfi (d a b : Word) : Word := word (putBits d.toNat (fieldLo b) (fieldWidth b) a.toNat)

end Sys2Proof.Machine
end

