-- ==== Sys2Proof/WellFormed.lean ====
section
/-! DEFINITION. Which instructions are well formed: the operand codes and selector values that 04 R57 checks 3 and 5
accept, member by member, from 02 R18, 04 R53 to R56 and each family's own entry. -/

namespace Sys2Proof

/-- Codes 0 to 31: a register (02 R18). -/
def isReg (c : Code) : Bool := decide (c.toNat < 32)

/-- Codes 32 to 47: a ring handle (02 R18). -/
def isHandle (c : Code) : Bool := decide (32 ≤ c.toNat ∧ c.toNat < 48)

/-- A receive port, `wi` or `ei` (02 R17, R18). -/
def isRecv (c : Code) : Bool := decide (c.toNat = 48 ∨ c.toNat = 50)

/-- A send port, `eo` or `wo` (02 R17, R18). -/
def isSend (c : Code) : Bool := decide (c.toNat = 49 ∨ c.toNat = 51)

/-- A shape slot number, 1 to 7, where a field holds one (10 R210). -/
def isSlot (c : Code) : Bool := decide (1 ≤ c.toNat ∧ c.toNat ≤ 7)

/-- A scalar destination: a register or a send port (05 R58). -/
def dstScalar (c : Code) : Bool := isReg c || isSend c

/-- A vector destination of an instruction that may be shaped: ports are refused when q names a shape (07 R123, R136). -/
def dstShaped (q : BitVec 3) (c : Code) : Bool := isReg c || isHandle c || (decide (q = 0) && isSend c)

/-- A vector destination of an unshaped instruction (07 R123). -/
def dstVec (c : Code) : Bool := isReg c || isHandle c || isSend c

/-- The operand code a source is encoded with (02 R18). -/
def Src.toCode : Src → Code
  | .code c => c
  | .lit32 _ => 62
  | .lit64 _ => 63

/-- The bytes a source's literal takes after the word (04 R52). -/
def Src.litBytes : Src → Nat
  | .code _ => 0
  | .lit32 _ => 4
  | .lit64 _ => 8

/-- Whether a source is a literal. -/
def Src.isLit : Src → Bool
  | .code _ => false
  | .lit32 _ => true
  | .lit64 _ => true

/-- A scalar source: a register, a receive port or a literal (05 R58). -/
def Src.scalar : Src → Bool
  | .code c => isReg c || isRecv c
  | .lit32 _ => true
  | .lit64 _ => true

/-- A source that takes a register or a literal only (10 R204, R209, 04 R56). -/
def Src.regOrLit : Src → Bool
  | .code c => isReg c
  | .lit32 _ => true
  | .lit64 _ => true

/-- A vector source: a register, a handle, a receive port or a literal (07 R123). -/
def Src.vec : Src → Bool
  | .code c => isReg c || isHandle c || isRecv c
  | .lit32 _ => true
  | .lit64 _ => true

/-- At most one literal in an instruction (02 R18). -/
def oneLit (l : List Src) : Bool := decide ((l.filter Src.isLit).length ≤ 1)

/-- The well-formed instructions. An event is well formed: it has no encoding. -/
def Instr.wf  : Instr → Bool
  | .add _ b a d | .sub _ b a d | .and _ b a d | .or _ b a d | .xor _ b a d | .andn _ b a d | .orn _ b a d
  | .shl _ b a d | .shr _ b a d | .sra _ b a d | .rol _ b a d | .ror _ b a d | .mul _ b a d | .mulh _ b a d
  | .mulhn _ b a d | .div _ b a d | .divn _ b a d | .rem _ b a d | .remn _ b a d | .min _ b a d | .max _ b a d
  | .minn _ b a d | .maxn _ b a d | .slt _ b a d | .sltn _ b a d | .seq _ b a d | .sne _ b a d | .lea _ b a d
  | .bfx b a d | .bfxz b a d | .amoAdd _ _ _ b a d | .amoAnd _ _ _ b a d | .amoOr _ _ _ b a d | .amoXor _ _ _ b a d
  | .amoMin _ _ _ b a d | .amoMax _ _ _ b a d | .amoMinn _ _ _ b a d | .amoMaxn _ _ _ b a d | .amoSwap _ _ _ b a d
  | .amoFadd _ _ b a d | .amoBfadd2 _ _ b a d | .vld b a d | .vgath b a d | .vldb b a d | .obnew b a d | .obrd b a d =>
    b.scalar && a.scalar && dstScalar d && oneLit [b, a]
  | .sel _ b a d | .bfi b a d | .amoCas _ _ _ b a d | .ramoCas _ b a d =>
    b.scalar && a.scalar && isReg d && oneLit [b, a]
  | .clz _ a d | .ctz _ a d | .popc _ a d | .brev _ a d | .bswap _ a d | .addi _ a d | .jalr a d | .csrw _ a d
  | .csrs _ a d | .csrc _ a d | .vredsum a d | .vredmax a d | .vredmin a d | .vredamax a d | .vrowmax a d | .vxrd a d
  | .wait a d | .lock a d | .rankof a d | .spawn a d | .ttarm a d | .sync a d | .pgcommit a d | .pgfree a d
  | .addrq a d =>
    a.scalar && dstScalar d
  | .cmp c b a _ =>
    b.scalar && a.scalar && oneLit [b, a] && decide (c.toNat < 6)
  | .kand _ _ _ | .kor _ _ _ | .kxor _ _ _ | .knot _ _ | .kmov _ _ | .bt _ _ | .bf _ _ | .j _ | .jal _ | .ret | .nop
  | .eret | .ifence | .brkpt | .halt | .acq | .rel | .fence | .cVadd _ _ | .cVsub _ _ | .cVmul _ _ | .cVmac _ _
  | .cVmin _ _ | .cVmax _ _ | .cVand _ _ | .cVor _ _ | .cVxor _ _ | .cVshl _ _ | .cVshr _ _ | .cVsra _ _ | .cVmov _ _
  | .cVneg _ _ | .cVabs _ _ | .cVzero _ | .mma _ _ _ _ _ _ _ | .mmas _ _ _ _ _ _ _ | .mmaq _ _ _ _ _ _ _ | .tzero _ _
  | .exit | .yield | .wend | .sflusha | .padcfgChange | .registerWrite | .feTimeout | .feResend | .remoteFeRequest
  | .matrixJobAdmission | .matrixJobStart | .matrixJobCompletion | .kick | .copyAccept | .templateSlotWrite
  | .copyStart | .burstAck | .copyCompletion | .loaderSlotFill | .storerSlotDrain | .waitResume | .armedEntryPush
  | .gangSlot | .slotSend | .routerValueArrival | .sachetAgeDeparture | .elementApply | .elementAckTimeout
  | .elementStatus | .remoteNotice | .fabricInterfaceReset | .linkFailureReset | .linkRetrainComplete
  | .collectiveResend | .cfgFormatRegion | .cfgQueue | .cfgDomain | .cfgPoolPages | .cfgMigrate | .cfgRemoteFaultLog
  | .cfgAccessLog | .cfgSparseFaultQueue | .cfgErrorLog | .cfgUndoLog | .cfgAuditArea | .cfgReleaseQuarantine
  | .cfgResetCluster | .cfgStopCluster | .sliceReady | .dispatchMatch | .footprintStaging | .preemption | .suspension
  | .resumption | .retireWriteback | .budgetExhausted | .budgetGraceExhausted | .dispositionRelease
  | .dispositionKill | .dispositionStep | .clusterReset | .clusterStop | .rollback | .patrolScrub | .noseAuditPush
  | .noseVerdict | .auditAbandon | .hostWrite | .hostRead | .hostLaunch | .hostNotice | .noticeResend | .hostAck
  | .telemetry | .attest | .openSession | .closeSession | .partitionTable | .dieReset | .recordWrite | .powerOnBoot
  | .throttleRaise | .throttleLower | .thermalFloor | .thermalShutdown | .remoteFeResponse | .xrecvCyclePassed
  | .softError | .linkFailure | .vicgrpChange =>
    true
  | .jr a | .trap a | .svc a | .vxclr a | .acz a _ | .jwait a | .obdel a | .arrive a | .arriveLeave a | .unlock a
  | .msgsend a | .wstart a | .muxsel a | .sflush a =>
    a.scalar
  | .loop imm a l =>
    a.scalar && decide (l.toNat < 3) && decide (imm.toNat ≠ 0)
  | .lbrk l | .lnext l =>
    decide (l.toNat < 3)
  | .rep _ _ _ c =>
    c.regOrLit
  | .csrr _ d | .tagrd d | .now d | .wpos d | .fencef d | .ferr d =>
    dstScalar d
  | .ld _ f a d | .lda _ f a d =>
    a.scalar && dstScalar d && decide (f.toNat < 7)
  | .st _ f a d | .stl _ f a d =>
    a.scalar && d.scalar && oneLit [a, d] && decide (f.toNat < 4)
  | .ldx _ c e a d =>
    a.scalar && dstScalar d && decide (c.toNat < 3) && decide (e.toNat < 3)
  | .stx _ c e a d =>
    a.scalar && d.scalar && oneLit [a, d] && decide (c.toNat < 3) && decide (e.toNat < 3)
  | .vadd q b a d | .vsub q b a d | .vmul q b a d | .vmin q b a d | .vmax q b a d | .vand q b a d | .vor q b a d
  | .vxor q b a d | .vshl q b a d | .vshr q b a d | .vsra q b a d | .vmulh q b a d | .vadds q b a d | .vsubs q b a d
  | .vscale q b a d =>
    b.vec && a.vec && dstShaped q d && oneLit [b, a]
  | .vfma _ b a d | .vfms _ b a d | .vnfma _ b a d =>
    b.vec && a.vec && isReg d && oneLit [b, a]
  | .vabs q a d | .vneg q a d | .vmov q a d | .vclz q a d | .vpopc q a d | .vrndi q a d | .vgetexp q a d
  | .vexp2 q a d | .vlog2 q a d | .vrcp q a d | .vrsq q a d | .vsqrt q a d | .vsinpi q a d | .vcospi q a d =>
    a.vec && dstShaped q d
  | .vcmp c b a _ =>
    b.vec && a.vec && oneLit [b, a] && decide (c.toNat < 7)
  | .vsel _ b a d | .vperm b a d =>
    b.vec && a.vec && dstVec d && oneLit [b, a]
  | .vbcast a d =>
    a.scalar && dstVec d
  | .vext b a d =>
    b.scalar && a.vec && dstScalar d && oneLit [b, a]
  | .vins b a d =>
    b.scalar && a.scalar && dstVec d && oneLit [b, a]
  | .vslide b a d =>
    b.scalar && a.vec && dstVec d && oneLit [b, a]
  | .vcvt q t a d =>
    a.vec && dstShaped q d && decide (t.toNat < 14)
  | .vqnt q b a d | .vdq q b a d =>
    b.scalar && a.vec && dstShaped q d && oneLit [b, a]
  | .vxadd b a | .arriveb b a | .signal b a | .ramoAdd _ b a | .ramoAnd _ b a | .ramoOr _ b a | .ramoXor _ b a
  | .ramoMin _ b a | .ramoMax _ b a | .ramoMinn _ b a | .ramoMaxn _ b a | .ramoSwap _ b a | .ramoFadd b a
  | .ramoBfadd2 b a | .tlbinv b a =>
    b.scalar && a.scalar && oneLit [b, a]
  | .vst b a d | .vscat b a d | .obxfer b a d =>
    b.scalar && a.scalar && d.scalar && oneLit [b, a, d]
  | .shpld q a | .shpst q a =>
    a.scalar && decide (q.toNat ≠ 0)
  | .hbind b a d =>
    b.scalar && a.scalar && isHandle d && oneLit [b, a]
  | .hadvc d | .hadvp d | .hunbind d | .unsub d =>
    isHandle d
  | .hstat a d =>
    isHandle a && dstScalar d
  | .tld _ a _ x | .acrd a _ x | .acwr a _ x =>
    a.scalar && x.scalar && oneLit [a, x]
  | .jpoll a x =>
    a.scalar && dstScalar x
  | .cxrd a d =>
    a.regOrLit && isReg d
  | .burst b a d =>
    b.regOrLit && a.regOrLit && d.regOrLit && oneLit [b, a, d]
  | .cxdone a | .tagclr a =>
    a.regOrLit
  | .subscr a d =>
    isSlot a && isHandle d
  | .tagwany a d | .tagwall a d | .tagff a d =>
    a.regOrLit && dstScalar d
  | .xmit b a =>
    b.scalar && isReg a
  | .xrecv b d =>
    b.scalar && isReg d
  | .rst m _ b a d =>
    b.scalar && a.scalar && isReg d && oneLit [b, a] && (m || decide (d = 0))

/-- The source operands of an instruction. -/
def Instr.srcs  : Instr → List Src
  | .add _ b a _ | .sub _ b a _ | .and _ b a _ | .or _ b a _ | .xor _ b a _ | .andn _ b a _ | .orn _ b a _
  | .shl _ b a _ | .shr _ b a _ | .sra _ b a _ | .rol _ b a _ | .ror _ b a _ | .mul _ b a _ | .mulh _ b a _
  | .mulhn _ b a _ | .div _ b a _ | .divn _ b a _ | .rem _ b a _ | .remn _ b a _ | .min _ b a _ | .max _ b a _
  | .minn _ b a _ | .maxn _ b a _ | .slt _ b a _ | .sltn _ b a _ | .seq _ b a _ | .sne _ b a _ | .sel _ b a _
  | .lea _ b a _ | .bfx b a _ | .bfxz b a _ | .bfi b a _ | .cmp _ b a _ | .amoAdd _ _ _ b a _ | .amoAnd _ _ _ b a _
  | .amoOr _ _ _ b a _ | .amoXor _ _ _ b a _ | .amoMin _ _ _ b a _ | .amoMax _ _ _ b a _ | .amoMinn _ _ _ b a _
  | .amoMaxn _ _ _ b a _ | .amoSwap _ _ _ b a _ | .amoCas _ _ _ b a _ | .amoFadd _ _ b a _ | .amoBfadd2 _ _ b a _
  | .vadd _ b a _ | .vsub _ b a _ | .vmul _ b a _ | .vfma _ b a _ | .vfms _ b a _ | .vnfma _ b a _ | .vmin _ b a _
  | .vmax _ b a _ | .vand _ b a _ | .vor _ b a _ | .vxor _ b a _ | .vshl _ b a _ | .vshr _ b a _ | .vsra _ b a _
  | .vcmp _ b a _ | .vsel _ b a _ | .vext b a _ | .vins b a _ | .vperm b a _ | .vslide b a _ | .vmulh _ b a _
  | .vadds _ b a _ | .vsubs _ b a _ | .vqnt _ b a _ | .vdq _ b a _ | .vscale _ b a _ | .vxadd b a | .vld b a _
  | .vgath b a _ | .vldb b a _ | .hbind b a _ | .obnew b a _ | .arriveb b a | .signal b a | .obrd b a _
  | .rst _ _ b a _ | .ramoAdd _ b a | .ramoAnd _ b a | .ramoOr _ b a | .ramoXor _ b a | .ramoMin _ b a
  | .ramoMax _ b a | .ramoMinn _ b a | .ramoMaxn _ b a | .ramoSwap _ b a | .ramoCas _ b a _ | .ramoFadd b a
  | .ramoBfadd2 b a | .tlbinv b a =>
    [b, a]
  | .clz _ a _ | .ctz _ a _ | .popc _ a _ | .brev _ a _ | .bswap _ a _ | .addi _ a _ | .jr a | .jalr a _
  | .loop _ a _ | .trap a | .svc a | .csrw _ a _ | .csrs _ a _ | .csrc _ a _ | .ld _ _ a _ | .lda _ _ a _
  | .ldx _ _ _ a _ | .vabs _ a _ | .vneg _ a _ | .vmov _ a _ | .vbcast a _ | .vclz _ a _ | .vpopc _ a _
  | .vcvt _ _ a _ | .vrndi _ a _ | .vgetexp _ a _ | .vexp2 _ a _ | .vlog2 _ a _ | .vrcp _ a _ | .vrsq _ a _
  | .vsqrt _ a _ | .vsinpi _ a _ | .vcospi _ a _ | .vredsum a _ | .vredmax a _ | .vredmin a _ | .vredamax a _
  | .vrowmax a _ | .vxrd a _ | .vxclr a | .shpld _ a | .shpst _ a | .acz a _ | .jpoll a _ | .jwait a | .cxrd a _
  | .cxdone a | .tagwany a _ | .tagwall a _ | .tagff a _ | .tagclr a | .obdel a | .arrive a | .arriveLeave a
  | .wait a _ | .lock a _ | .unlock a | .rankof a _ | .spawn a _ | .msgsend a | .ttarm a _ | .wstart a | .sync a _
  | .muxsel a | .sflush a | .pgcommit a _ | .pgfree a _ | .addrq a _ =>
    [a]
  | .kand _ _ _ | .kor _ _ _ | .kxor _ _ _ | .knot _ _ | .kmov _ _ | .bt _ _ | .bf _ _ | .j _ | .jal _ | .ret
  | .lbrk _ | .lnext _ | .nop | .eret | .ifence | .brkpt | .halt | .csrr _ _ | .acq | .rel | .fence | .cVadd _ _
  | .cVsub _ _ | .cVmul _ _ | .cVmac _ _ | .cVmin _ _ | .cVmax _ _ | .cVand _ _ | .cVor _ _ | .cVxor _ _ | .cVshl _ _
  | .cVshr _ _ | .cVsra _ _ | .cVmov _ _ | .cVneg _ _ | .cVabs _ _ | .cVzero _ | .hadvc _ | .hadvp _ | .hstat _ _
  | .hunbind _ | .mma _ _ _ _ _ _ _ | .mmas _ _ _ _ _ _ _ | .mmaq _ _ _ _ _ _ _ | .tzero _ _ | .subscr _ _ | .unsub _
  | .tagrd _ | .exit | .yield | .now _ | .wend | .wpos _ | .sflusha | .fencef _ | .ferr _ | .padcfgChange
  | .registerWrite | .feTimeout | .feResend | .remoteFeRequest | .matrixJobAdmission | .matrixJobStart
  | .matrixJobCompletion | .kick | .copyAccept | .templateSlotWrite | .copyStart | .burstAck | .copyCompletion
  | .loaderSlotFill | .storerSlotDrain | .waitResume | .armedEntryPush | .gangSlot | .slotSend | .routerValueArrival
  | .sachetAgeDeparture | .elementApply | .elementAckTimeout | .elementStatus | .remoteNotice | .fabricInterfaceReset
  | .linkFailureReset | .linkRetrainComplete | .collectiveResend | .cfgFormatRegion | .cfgQueue | .cfgDomain
  | .cfgPoolPages | .cfgMigrate | .cfgRemoteFaultLog | .cfgAccessLog | .cfgSparseFaultQueue | .cfgErrorLog
  | .cfgUndoLog | .cfgAuditArea | .cfgReleaseQuarantine | .cfgResetCluster | .cfgStopCluster | .sliceReady
  | .dispatchMatch | .footprintStaging | .preemption | .suspension | .resumption | .retireWriteback
  | .budgetExhausted | .budgetGraceExhausted | .dispositionRelease | .dispositionKill | .dispositionStep
  | .clusterReset | .clusterStop | .rollback | .patrolScrub | .noseAuditPush | .noseVerdict | .auditAbandon
  | .hostWrite | .hostRead | .hostLaunch | .hostNotice | .noticeResend | .hostAck | .telemetry | .attest
  | .openSession | .closeSession | .partitionTable | .dieReset | .recordWrite | .powerOnBoot | .throttleRaise
  | .throttleLower | .thermalFloor | .thermalShutdown | .remoteFeResponse | .xrecvCyclePassed | .softError
  | .linkFailure | .vicgrpChange =>
    []
  | .rep _ _ _ c =>
    [c]
  | .st _ _ a d | .stl _ _ a d | .stx _ _ _ a d =>
    [a, d]
  | .vst b a d | .vscat b a d | .burst b a d | .obxfer b a d =>
    [b, a, d]
  | .tld _ a _ x | .acrd a _ x | .acwr a _ x =>
    [a, x]
  | .xmit b _ | .xrecv b _ =>
    [b]

/-- The operand codes of an instruction, sources and destinations (04 R52), for the context checks of 04 R57. -/
def Instr.codes  : Instr → List Code
  | .add _ b a d | .sub _ b a d | .and _ b a d | .or _ b a d | .xor _ b a d | .andn _ b a d | .orn _ b a d
  | .shl _ b a d | .shr _ b a d | .sra _ b a d | .rol _ b a d | .ror _ b a d | .mul _ b a d | .mulh _ b a d
  | .mulhn _ b a d | .div _ b a d | .divn _ b a d | .rem _ b a d | .remn _ b a d | .min _ b a d | .max _ b a d
  | .minn _ b a d | .maxn _ b a d | .slt _ b a d | .sltn _ b a d | .seq _ b a d | .sne _ b a d | .sel _ b a d
  | .lea _ b a d | .bfx b a d | .bfxz b a d | .bfi b a d | .amoAdd _ _ _ b a d | .amoAnd _ _ _ b a d
  | .amoOr _ _ _ b a d | .amoXor _ _ _ b a d | .amoMin _ _ _ b a d | .amoMax _ _ _ b a d | .amoMinn _ _ _ b a d
  | .amoMaxn _ _ _ b a d | .amoSwap _ _ _ b a d | .amoCas _ _ _ b a d | .amoFadd _ _ b a d | .amoBfadd2 _ _ b a d
  | .vadd _ b a d | .vsub _ b a d | .vmul _ b a d | .vfma _ b a d | .vfms _ b a d | .vnfma _ b a d | .vmin _ b a d
  | .vmax _ b a d | .vand _ b a d | .vor _ b a d | .vxor _ b a d | .vshl _ b a d | .vshr _ b a d | .vsra _ b a d
  | .vsel _ b a d | .vext b a d | .vins b a d | .vperm b a d | .vslide b a d | .vmulh _ b a d | .vadds _ b a d
  | .vsubs _ b a d | .vqnt _ b a d | .vdq _ b a d | .vscale _ b a d | .vld b a d | .vgath b a d | .vldb b a d
  | .hbind b a d | .obnew b a d | .obrd b a d | .rst _ _ b a d | .ramoCas _ b a d =>
    [b.toCode, a.toCode, d]
  | .clz _ a d | .ctz _ a d | .popc _ a d | .brev _ a d | .bswap _ a d | .addi _ a d | .jalr a d | .csrw _ a d
  | .csrs _ a d | .csrc _ a d | .ld _ _ a d | .lda _ _ a d | .ldx _ _ _ a d | .vabs _ a d | .vneg _ a d | .vmov _ a d
  | .vbcast a d | .vclz _ a d | .vpopc _ a d | .vcvt _ _ a d | .vrndi _ a d | .vgetexp _ a d | .vexp2 _ a d
  | .vlog2 _ a d | .vrcp _ a d | .vrsq _ a d | .vsqrt _ a d | .vsinpi _ a d | .vcospi _ a d | .vredsum a d
  | .vredmax a d | .vredmin a d | .vredamax a d | .vrowmax a d | .vxrd a d | .cxrd a d | .tagwany a d | .tagwall a d
  | .tagff a d | .wait a d | .lock a d | .rankof a d | .spawn a d | .ttarm a d | .sync a d | .pgcommit a d
  | .pgfree a d | .addrq a d =>
    [a.toCode, d]
  | .cmp _ b a _ | .vcmp _ b a _ | .vxadd b a | .arriveb b a | .signal b a | .ramoAdd _ b a | .ramoAnd _ b a
  | .ramoOr _ b a | .ramoXor _ b a | .ramoMin _ b a | .ramoMax _ b a | .ramoMinn _ b a | .ramoMaxn _ b a
  | .ramoSwap _ b a | .ramoFadd b a | .ramoBfadd2 b a | .tlbinv b a =>
    [b.toCode, a.toCode]
  | .kand _ _ _ | .kor _ _ _ | .kxor _ _ _ | .knot _ _ | .kmov _ _ | .bt _ _ | .bf _ _ | .j _ | .jal _ | .ret
  | .lbrk _ | .lnext _ | .nop | .eret | .ifence | .brkpt | .halt | .acq | .rel | .fence | .cVadd _ _ | .cVsub _ _
  | .cVmul _ _ | .cVmac _ _ | .cVmin _ _ | .cVmax _ _ | .cVand _ _ | .cVor _ _ | .cVxor _ _ | .cVshl _ _ | .cVshr _ _
  | .cVsra _ _ | .cVmov _ _ | .cVneg _ _ | .cVabs _ _ | .cVzero _ | .mma _ _ _ _ _ _ _ | .mmas _ _ _ _ _ _ _
  | .mmaq _ _ _ _ _ _ _ | .tzero _ _ | .exit | .yield | .wend | .sflusha | .padcfgChange | .registerWrite
  | .feTimeout | .feResend | .remoteFeRequest | .matrixJobAdmission | .matrixJobStart | .matrixJobCompletion | .kick
  | .copyAccept | .templateSlotWrite | .copyStart | .burstAck | .copyCompletion | .loaderSlotFill | .storerSlotDrain
  | .waitResume | .armedEntryPush | .gangSlot | .slotSend | .routerValueArrival | .sachetAgeDeparture | .elementApply
  | .elementAckTimeout | .elementStatus | .remoteNotice | .fabricInterfaceReset | .linkFailureReset
  | .linkRetrainComplete | .collectiveResend | .cfgFormatRegion | .cfgQueue | .cfgDomain | .cfgPoolPages
  | .cfgMigrate | .cfgRemoteFaultLog | .cfgAccessLog | .cfgSparseFaultQueue | .cfgErrorLog | .cfgUndoLog
  | .cfgAuditArea | .cfgReleaseQuarantine | .cfgResetCluster | .cfgStopCluster | .sliceReady | .dispatchMatch
  | .footprintStaging | .preemption | .suspension | .resumption | .retireWriteback | .budgetExhausted
  | .budgetGraceExhausted | .dispositionRelease | .dispositionKill | .dispositionStep | .clusterReset | .clusterStop
  | .rollback | .patrolScrub | .noseAuditPush | .noseVerdict | .auditAbandon | .hostWrite | .hostRead | .hostLaunch
  | .hostNotice | .noticeResend | .hostAck | .telemetry | .attest | .openSession | .closeSession | .partitionTable
  | .dieReset | .recordWrite | .powerOnBoot | .throttleRaise | .throttleLower | .thermalFloor | .thermalShutdown
  | .remoteFeResponse | .xrecvCyclePassed | .softError | .linkFailure | .vicgrpChange =>
    []
  | .jr a | .loop _ a _ | .trap a | .svc a | .vxclr a | .shpld _ a | .shpst _ a | .acz a _ | .jwait a | .cxdone a
  | .tagclr a | .obdel a | .arrive a | .arriveLeave a | .unlock a | .msgsend a | .wstart a | .muxsel a | .sflush a =>
    [a.toCode]
  | .rep _ _ _ c =>
    [c.toCode]
  | .csrr _ d | .hadvc d | .hadvp d | .hunbind d | .subscr _ d | .unsub d | .tagrd d | .now d | .wpos d | .fencef d
  | .ferr d =>
    [d]
  | .st _ _ a d | .stl _ _ a d | .stx _ _ _ a d =>
    [a.toCode, d.toCode]
  | .vst b a d | .vscat b a d | .burst b a d | .obxfer b a d =>
    [b.toCode, a.toCode, d.toCode]
  | .hstat a d =>
    [a, d]
  | .tld _ a _ x | .acrd a _ x | .acwr a _ x =>
    [a.toCode, x.toCode]
  | .jpoll a x =>
    [a.toCode, x]
  | .xmit b a =>
    [b.toCode, a]
  | .xrecv b d =>
    [b.toCode, d]

/-- The major opcode (04 R54); the 16-bit form computes as major 24 does (04 R50); 0 for an event. -/
def Instr.major  : Instr → Nat
  | .add _ _ _ _ | .sub _ _ _ _ | .and _ _ _ _ | .or _ _ _ _ | .xor _ _ _ _ | .andn _ _ _ _ | .orn _ _ _ _
  | .shl _ _ _ _ | .shr _ _ _ _ | .sra _ _ _ _ | .rol _ _ _ _ | .ror _ _ _ _ | .mul _ _ _ _ | .mulh _ _ _ _
  | .mulhn _ _ _ _ | .div _ _ _ _ | .divn _ _ _ _ | .rem _ _ _ _ | .remn _ _ _ _ | .min _ _ _ _ | .max _ _ _ _
  | .minn _ _ _ _ | .maxn _ _ _ _ | .slt _ _ _ _ | .sltn _ _ _ _ | .seq _ _ _ _ | .sne _ _ _ _ | .sel _ _ _ _
  | .clz _ _ _ | .ctz _ _ _ | .popc _ _ _ | .brev _ _ _ | .bswap _ _ _ =>
    1
  | .addi _ _ _ =>
    2
  | .lea _ _ _ _ | .bfx _ _ _ | .bfxz _ _ _ | .bfi _ _ _ =>
    3
  | .cmp _ _ _ _ =>
    4
  | .kand _ _ _ | .kor _ _ _ | .kxor _ _ _ | .knot _ _ | .kmov _ _ =>
    5
  | .bt _ _ | .bf _ _ =>
    6
  | .j _ =>
    7
  | .jal _ =>
    8
  | .jr _ | .jalr _ _ | .ret =>
    9
  | .loop _ _ _ | .lbrk _ | .lnext _ =>
    10
  | .rep _ _ _ _ =>
    11
  | .nop | .trap _ | .svc _ | .eret | .ifence | .brkpt | .halt =>
    12
  | .csrr _ _ | .csrw _ _ _ | .csrs _ _ _ | .csrc _ _ _ =>
    13
  | .ld _ _ _ _ =>
    14
  | .lda _ _ _ _ =>
    15
  | .st _ _ _ _ =>
    16
  | .stl _ _ _ _ =>
    17
  | .amoAdd _ _ _ _ _ _ | .amoAnd _ _ _ _ _ _ | .amoOr _ _ _ _ _ _ | .amoXor _ _ _ _ _ _ | .amoMin _ _ _ _ _ _
  | .amoMax _ _ _ _ _ _ | .amoMinn _ _ _ _ _ _ | .amoMaxn _ _ _ _ _ _ | .amoSwap _ _ _ _ _ _ | .amoCas _ _ _ _ _ _
  | .amoFadd _ _ _ _ _ | .amoBfadd2 _ _ _ _ _ =>
    18
  | .ldx _ _ _ _ _ | .stx _ _ _ _ _ =>
    19
  | .acq | .rel | .fence =>
    23
  | .cVadd _ _ | .cVsub _ _ | .cVmul _ _ | .cVmac _ _ | .cVmin _ _ | .cVmax _ _ | .cVand _ _ | .cVor _ _ | .cVxor _ _
  | .cVshl _ _ | .cVshr _ _ | .cVsra _ _ | .cVmov _ _ | .cVneg _ _ | .cVabs _ _ | .cVzero _ | .vadd _ _ _ _
  | .vsub _ _ _ _ | .vmul _ _ _ _ | .vfma _ _ _ _ | .vfms _ _ _ _ | .vnfma _ _ _ _ | .vmin _ _ _ _ | .vmax _ _ _ _
  | .vabs _ _ _ | .vneg _ _ _ | .vand _ _ _ _ | .vor _ _ _ _ | .vxor _ _ _ _ | .vshl _ _ _ _ | .vshr _ _ _ _
  | .vsra _ _ _ _ =>
    24
  | .vcmp _ _ _ _ | .vsel _ _ _ _ | .vmov _ _ _ | .vbcast _ _ | .vext _ _ _ | .vins _ _ _ | .vperm _ _ _
  | .vslide _ _ _ | .vmulh _ _ _ _ | .vclz _ _ _ | .vpopc _ _ _ | .vadds _ _ _ _ | .vsubs _ _ _ _ =>
    25
  | .vcvt _ _ _ _ | .vqnt _ _ _ _ | .vdq _ _ _ _ | .vrndi _ _ _ | .vscale _ _ _ _ | .vgetexp _ _ _ =>
    26
  | .vexp2 _ _ _ | .vlog2 _ _ _ | .vrcp _ _ _ | .vrsq _ _ _ | .vsqrt _ _ _ | .vsinpi _ _ _ | .vcospi _ _ _ =>
    27
  | .vredsum _ _ | .vredmax _ _ | .vredmin _ _ | .vredamax _ _ | .vrowmax _ _ | .vxadd _ _ | .vxrd _ _ | .vxclr _ =>
    28
  | .vld _ _ _ | .vst _ _ _ | .vgath _ _ _ | .vscat _ _ _ | .vldb _ _ _ =>
    29
  | .shpld _ _ | .shpst _ _ | .hbind _ _ _ | .hadvc _ | .hadvp _ | .hstat _ _ | .hunbind _ =>
    30
  | .mma _ _ _ _ _ _ _ =>
    31
  | .mmas _ _ _ _ _ _ _ =>
    32
  | .mmaq _ _ _ _ _ _ _ =>
    33
  | .tld _ _ _ _ | .tzero _ _ | .acz _ _ | .acrd _ _ _ | .acwr _ _ _ | .jpoll _ _ | .jwait _ =>
    34
  | .cxrd _ _ | .burst _ _ _ | .cxdone _ =>
    35
  | .subscr _ _ | .unsub _ =>
    36
  | .tagwany _ _ | .tagwall _ _ | .tagff _ _ | .tagclr _ | .tagrd _ =>
    37
  | .obnew _ _ _ | .obdel _ | .arrive _ | .arriveLeave _ | .arriveb _ _ | .wait _ _ | .signal _ _ | .lock _ _
  | .unlock _ | .obxfer _ _ _ | .obrd _ _ _ | .rankof _ _ =>
    38
  | .spawn _ _ | .exit | .yield | .msgsend _ | .ttarm _ _ | .now _ =>
    39
  | .wstart _ | .wend | .wpos _ =>
    40
  | .sync _ _ | .xmit _ _ | .xrecv _ _ | .muxsel _ =>
    41
  | .rst _ _ _ _ _ =>
    20
  | .ramoAdd _ _ _ | .ramoAnd _ _ _ | .ramoOr _ _ _ | .ramoXor _ _ _ | .ramoMin _ _ _ | .ramoMax _ _ _
  | .ramoMinn _ _ _ | .ramoMaxn _ _ _ | .ramoSwap _ _ _ | .ramoCas _ _ _ _ | .ramoFadd _ _ | .ramoBfadd2 _ _ =>
    21
  | .sflush _ | .sflusha | .fencef _ | .ferr _ =>
    22
  | .pgcommit _ _ | .pgfree _ _ | .tlbinv _ _ | .addrq _ _ =>
    42
  | .padcfgChange | .registerWrite | .feTimeout | .feResend | .remoteFeRequest | .matrixJobAdmission
  | .matrixJobStart | .matrixJobCompletion | .kick | .copyAccept | .templateSlotWrite | .copyStart | .burstAck
  | .copyCompletion | .loaderSlotFill | .storerSlotDrain | .waitResume | .armedEntryPush | .gangSlot | .slotSend
  | .routerValueArrival | .sachetAgeDeparture | .elementApply | .elementAckTimeout | .elementStatus | .remoteNotice
  | .fabricInterfaceReset | .linkFailureReset | .linkRetrainComplete | .collectiveResend | .cfgFormatRegion
  | .cfgQueue | .cfgDomain | .cfgPoolPages | .cfgMigrate | .cfgRemoteFaultLog | .cfgAccessLog | .cfgSparseFaultQueue
  | .cfgErrorLog | .cfgUndoLog | .cfgAuditArea | .cfgReleaseQuarantine | .cfgResetCluster | .cfgStopCluster
  | .sliceReady | .dispatchMatch | .footprintStaging | .preemption | .suspension | .resumption | .retireWriteback
  | .budgetExhausted | .budgetGraceExhausted | .dispositionRelease | .dispositionKill | .dispositionStep
  | .clusterReset | .clusterStop | .rollback | .patrolScrub | .noseAuditPush | .noseVerdict | .auditAbandon
  | .hostWrite | .hostRead | .hostLaunch | .hostNotice | .noticeResend | .hostAck | .telemetry | .attest
  | .openSession | .closeSession | .partitionTable | .dieReset | .recordWrite | .powerOnBoot | .throttleRaise
  | .throttleLower | .thermalFloor | .thermalShutdown | .remoteFeResponse | .xrecvCyclePassed | .softError
  | .linkFailure | .vicgrpChange =>
    0

/-- Whether the instruction is the 16-bit form (04 R50). -/
def Instr.isC  : Instr → Bool
  | .add _ _ _ _ | .sub _ _ _ _ | .and _ _ _ _ | .or _ _ _ _ | .xor _ _ _ _ | .andn _ _ _ _ | .orn _ _ _ _
  | .shl _ _ _ _ | .shr _ _ _ _ | .sra _ _ _ _ | .rol _ _ _ _ | .ror _ _ _ _ | .mul _ _ _ _ | .mulh _ _ _ _
  | .mulhn _ _ _ _ | .div _ _ _ _ | .divn _ _ _ _ | .rem _ _ _ _ | .remn _ _ _ _ | .min _ _ _ _ | .max _ _ _ _
  | .minn _ _ _ _ | .maxn _ _ _ _ | .slt _ _ _ _ | .sltn _ _ _ _ | .seq _ _ _ _ | .sne _ _ _ _ | .sel _ _ _ _
  | .clz _ _ _ | .ctz _ _ _ | .popc _ _ _ | .brev _ _ _ | .bswap _ _ _ | .addi _ _ _ | .lea _ _ _ _ | .bfx _ _ _
  | .bfxz _ _ _ | .bfi _ _ _ | .cmp _ _ _ _ | .kand _ _ _ | .kor _ _ _ | .kxor _ _ _ | .knot _ _ | .kmov _ _
  | .bt _ _ | .bf _ _ | .j _ | .jal _ | .jr _ | .jalr _ _ | .ret | .loop _ _ _ | .lbrk _ | .lnext _ | .rep _ _ _ _
  | .nop | .trap _ | .svc _ | .eret | .ifence | .brkpt | .halt | .csrr _ _ | .csrw _ _ _ | .csrs _ _ _ | .csrc _ _ _
  | .ld _ _ _ _ | .lda _ _ _ _ | .st _ _ _ _ | .stl _ _ _ _ | .amoAdd _ _ _ _ _ _ | .amoAnd _ _ _ _ _ _
  | .amoOr _ _ _ _ _ _ | .amoXor _ _ _ _ _ _ | .amoMin _ _ _ _ _ _ | .amoMax _ _ _ _ _ _ | .amoMinn _ _ _ _ _ _
  | .amoMaxn _ _ _ _ _ _ | .amoSwap _ _ _ _ _ _ | .amoCas _ _ _ _ _ _ | .amoFadd _ _ _ _ _ | .amoBfadd2 _ _ _ _ _
  | .ldx _ _ _ _ _ | .stx _ _ _ _ _ | .acq | .rel | .fence | .vadd _ _ _ _ | .vsub _ _ _ _ | .vmul _ _ _ _
  | .vfma _ _ _ _ | .vfms _ _ _ _ | .vnfma _ _ _ _ | .vmin _ _ _ _ | .vmax _ _ _ _ | .vabs _ _ _ | .vneg _ _ _
  | .vand _ _ _ _ | .vor _ _ _ _ | .vxor _ _ _ _ | .vshl _ _ _ _ | .vshr _ _ _ _ | .vsra _ _ _ _ | .vcmp _ _ _ _
  | .vsel _ _ _ _ | .vmov _ _ _ | .vbcast _ _ | .vext _ _ _ | .vins _ _ _ | .vperm _ _ _ | .vslide _ _ _
  | .vmulh _ _ _ _ | .vclz _ _ _ | .vpopc _ _ _ | .vadds _ _ _ _ | .vsubs _ _ _ _ | .vcvt _ _ _ _ | .vqnt _ _ _ _
  | .vdq _ _ _ _ | .vrndi _ _ _ | .vscale _ _ _ _ | .vgetexp _ _ _ | .vexp2 _ _ _ | .vlog2 _ _ _ | .vrcp _ _ _
  | .vrsq _ _ _ | .vsqrt _ _ _ | .vsinpi _ _ _ | .vcospi _ _ _ | .vredsum _ _ | .vredmax _ _ | .vredmin _ _
  | .vredamax _ _ | .vrowmax _ _ | .vxadd _ _ | .vxrd _ _ | .vxclr _ | .vld _ _ _ | .vst _ _ _ | .vgath _ _ _
  | .vscat _ _ _ | .vldb _ _ _ | .shpld _ _ | .shpst _ _ | .hbind _ _ _ | .hadvc _ | .hadvp _ | .hstat _ _
  | .hunbind _ | .mma _ _ _ _ _ _ _ | .mmas _ _ _ _ _ _ _ | .mmaq _ _ _ _ _ _ _ | .tld _ _ _ _ | .tzero _ _
  | .acz _ _ | .acrd _ _ _ | .acwr _ _ _ | .jpoll _ _ | .jwait _ | .cxrd _ _ | .burst _ _ _ | .cxdone _ | .subscr _ _
  | .unsub _ | .tagwany _ _ | .tagwall _ _ | .tagff _ _ | .tagclr _ | .tagrd _ | .obnew _ _ _ | .obdel _ | .arrive _
  | .arriveLeave _ | .arriveb _ _ | .wait _ _ | .signal _ _ | .lock _ _ | .unlock _ | .obxfer _ _ _ | .obrd _ _ _
  | .rankof _ _ | .spawn _ _ | .exit | .yield | .msgsend _ | .ttarm _ _ | .now _ | .wstart _ | .wend | .wpos _
  | .sync _ _ | .xmit _ _ | .xrecv _ _ | .muxsel _ | .rst _ _ _ _ _ | .ramoAdd _ _ _ | .ramoAnd _ _ _ | .ramoOr _ _ _
  | .ramoXor _ _ _ | .ramoMin _ _ _ | .ramoMax _ _ _ | .ramoMinn _ _ _ | .ramoMaxn _ _ _ | .ramoSwap _ _ _
  | .ramoCas _ _ _ _ | .ramoFadd _ _ | .ramoBfadd2 _ _ | .sflush _ | .sflusha | .fencef _ | .ferr _ | .pgcommit _ _
  | .pgfree _ _ | .tlbinv _ _ | .addrq _ _ | .padcfgChange | .registerWrite | .feTimeout | .feResend
  | .remoteFeRequest | .matrixJobAdmission | .matrixJobStart | .matrixJobCompletion | .kick | .copyAccept
  | .templateSlotWrite | .copyStart | .burstAck | .copyCompletion | .loaderSlotFill | .storerSlotDrain | .waitResume
  | .armedEntryPush | .gangSlot | .slotSend | .routerValueArrival | .sachetAgeDeparture | .elementApply
  | .elementAckTimeout | .elementStatus | .remoteNotice | .fabricInterfaceReset | .linkFailureReset
  | .linkRetrainComplete | .collectiveResend | .cfgFormatRegion | .cfgQueue | .cfgDomain | .cfgPoolPages
  | .cfgMigrate | .cfgRemoteFaultLog | .cfgAccessLog | .cfgSparseFaultQueue | .cfgErrorLog | .cfgUndoLog
  | .cfgAuditArea | .cfgReleaseQuarantine | .cfgResetCluster | .cfgStopCluster | .sliceReady | .dispatchMatch
  | .footprintStaging | .preemption | .suspension | .resumption | .retireWriteback | .budgetExhausted
  | .budgetGraceExhausted | .dispositionRelease | .dispositionKill | .dispositionStep | .clusterReset | .clusterStop
  | .rollback | .patrolScrub | .noseAuditPush | .noseVerdict | .auditAbandon | .hostWrite | .hostRead | .hostLaunch
  | .hostNotice | .noticeResend | .hostAck | .telemetry | .attest | .openSession | .closeSession | .partitionTable
  | .dieReset | .recordWrite | .powerOnBoot | .throttleRaise | .throttleLower | .thermalFloor | .thermalShutdown
  | .remoteFeResponse | .xrecvCyclePassed | .softError | .linkFailure | .vicgrpChange =>
    false
  | .cVadd _ _ | .cVsub _ _ | .cVmul _ _ | .cVmac _ _ | .cVmin _ _ | .cVmax _ _ | .cVand _ _ | .cVor _ _ | .cVxor _ _
  | .cVshl _ _ | .cVshr _ _ | .cVsra _ _ | .cVmov _ _ | .cVneg _ _ | .cVabs _ _ | .cVzero _ =>
    true

/-- The length of an instruction in bytes (04 R48). -/
def Instr.len (i : Instr) : Nat :=
  if i.isC then 2 else 4 + (i.srcs.map Src.litBytes).sum

end Sys2Proof
end

