-- ==== Sys2Proof/Decode.lean ====
section
/-! DEFINITION. The decoder, total on any words, and the encoder (04 R48 to R57). Fields are read and placed by plain
division and remainder on the word read as a number. -/

namespace Sys2Proof

/-- Why bytes are no instruction (04 R57, checks 1 to 5); each is an ILLOP trap. -/
inductive Reject where
  /-- check 1: a halfword with bits 0 and 15 clear -/
  | notAnInstruction
  /-- check 2: major 0 or 43 to 63 -/
  | reservedMajor
  /-- check 3: a selector value that the family does not list -/
  | reservedSelector
  /-- check 4: a fixed or unused field that is not zero -/
  | unusedField
  /-- checks 3 and 5: a selector or operand code that the instruction's entry refuses, or two literals -/
  | operand
  /-- fewer bytes than the length found under 04 R48 -/
  | short
deriving DecidableEq, Repr

/-- Bit `k` of a word. -/
def bit (w k : Nat) : Bool := decide (w / 2 ^ k % 2 = 1)

/-- The source operand that a field's code names, with the literal that follows the word (04 R52). -/
def src (c : Nat) (l : Word) : Src :=
  if c = 62 then .lit32 (l.setWidth 32) else if c = 63 then .lit64 l else .code (BitVec.ofNat 6 c)

/-- A field that must be zero (04 R53, R54). -/
def zero (n : Nat) (r : Except Reject Instr) : Except Reject Instr :=
  if n = 0 then r else .error .unusedField

/-- Major 1 (04 R54). -/
def decAlu (w : Nat) (l : Word) : Except Reject Instr :=
  match w / 33554432 % 64 with
  | 0 => .ok (.add (bit w 31) (src (w / 524288 % 64) l) (src (w / 8192 % 64) l) (BitVec.ofNat 6 (w / 128 % 64)))
  | 1 => .ok (.sub (bit w 31) (src (w / 524288 % 64) l) (src (w / 8192 % 64) l) (BitVec.ofNat 6 (w / 128 % 64)))
  | 2 => .ok (.and (bit w 31) (src (w / 524288 % 64) l) (src (w / 8192 % 64) l) (BitVec.ofNat 6 (w / 128 % 64)))
  | 3 => .ok (.or (bit w 31) (src (w / 524288 % 64) l) (src (w / 8192 % 64) l) (BitVec.ofNat 6 (w / 128 % 64)))
  | 4 => .ok (.xor (bit w 31) (src (w / 524288 % 64) l) (src (w / 8192 % 64) l) (BitVec.ofNat 6 (w / 128 % 64)))
  | 5 => .ok (.andn (bit w 31) (src (w / 524288 % 64) l) (src (w / 8192 % 64) l) (BitVec.ofNat 6 (w / 128 % 64)))
  | 6 => .ok (.orn (bit w 31) (src (w / 524288 % 64) l) (src (w / 8192 % 64) l) (BitVec.ofNat 6 (w / 128 % 64)))
  | 7 => .ok (.shl (bit w 31) (src (w / 524288 % 64) l) (src (w / 8192 % 64) l) (BitVec.ofNat 6 (w / 128 % 64)))
  | 8 => .ok (.shr (bit w 31) (src (w / 524288 % 64) l) (src (w / 8192 % 64) l) (BitVec.ofNat 6 (w / 128 % 64)))
  | 9 => .ok (.sra (bit w 31) (src (w / 524288 % 64) l) (src (w / 8192 % 64) l) (BitVec.ofNat 6 (w / 128 % 64)))
  | 10 => .ok (.rol (bit w 31) (src (w / 524288 % 64) l) (src (w / 8192 % 64) l) (BitVec.ofNat 6 (w / 128 % 64)))
  | 11 => .ok (.ror (bit w 31) (src (w / 524288 % 64) l) (src (w / 8192 % 64) l) (BitVec.ofNat 6 (w / 128 % 64)))
  | 12 => .ok (.mul (bit w 31) (src (w / 524288 % 64) l) (src (w / 8192 % 64) l) (BitVec.ofNat 6 (w / 128 % 64)))
  | 13 => .ok (.mulh (bit w 31) (src (w / 524288 % 64) l) (src (w / 8192 % 64) l) (BitVec.ofNat 6 (w / 128 % 64)))
  | 14 => .ok (.mulhn (bit w 31) (src (w / 524288 % 64) l) (src (w / 8192 % 64) l) (BitVec.ofNat 6 (w / 128 % 64)))
  | 15 => .ok (.div (bit w 31) (src (w / 524288 % 64) l) (src (w / 8192 % 64) l) (BitVec.ofNat 6 (w / 128 % 64)))
  | 16 => .ok (.divn (bit w 31) (src (w / 524288 % 64) l) (src (w / 8192 % 64) l) (BitVec.ofNat 6 (w / 128 % 64)))
  | 17 => .ok (.rem (bit w 31) (src (w / 524288 % 64) l) (src (w / 8192 % 64) l) (BitVec.ofNat 6 (w / 128 % 64)))
  | 18 => .ok (.remn (bit w 31) (src (w / 524288 % 64) l) (src (w / 8192 % 64) l) (BitVec.ofNat 6 (w / 128 % 64)))
  | 19 => .ok (.min (bit w 31) (src (w / 524288 % 64) l) (src (w / 8192 % 64) l) (BitVec.ofNat 6 (w / 128 % 64)))
  | 20 => .ok (.max (bit w 31) (src (w / 524288 % 64) l) (src (w / 8192 % 64) l) (BitVec.ofNat 6 (w / 128 % 64)))
  | 21 => .ok (.minn (bit w 31) (src (w / 524288 % 64) l) (src (w / 8192 % 64) l) (BitVec.ofNat 6 (w / 128 % 64)))
  | 22 => .ok (.maxn (bit w 31) (src (w / 524288 % 64) l) (src (w / 8192 % 64) l) (BitVec.ofNat 6 (w / 128 % 64)))
  | 23 => .ok (.slt (bit w 31) (src (w / 524288 % 64) l) (src (w / 8192 % 64) l) (BitVec.ofNat 6 (w / 128 % 64)))
  | 24 => .ok (.sltn (bit w 31) (src (w / 524288 % 64) l) (src (w / 8192 % 64) l) (BitVec.ofNat 6 (w / 128 % 64)))
  | 25 => .ok (.seq (bit w 31) (src (w / 524288 % 64) l) (src (w / 8192 % 64) l) (BitVec.ofNat 6 (w / 128 % 64)))
  | 26 => .ok (.sne (bit w 31) (src (w / 524288 % 64) l) (src (w / 8192 % 64) l) (BitVec.ofNat 6 (w / 128 % 64)))
  | 27 => .ok (.sel (bit w 31) (src (w / 524288 % 64) l) (src (w / 8192 % 64) l) (BitVec.ofNat 6 (w / 128 % 64)))
  | 28 => zero (w / 524288 % 64) (.ok (.clz (bit w 31) (src (w / 8192 % 64) l) (BitVec.ofNat 6 (w / 128 % 64))))
  | 29 => zero (w / 524288 % 64) (.ok (.ctz (bit w 31) (src (w / 8192 % 64) l) (BitVec.ofNat 6 (w / 128 % 64))))
  | 30 => zero (w / 524288 % 64) (.ok (.popc (bit w 31) (src (w / 8192 % 64) l) (BitVec.ofNat 6 (w / 128 % 64))))
  | 31 => zero (w / 524288 % 64) (.ok (.brev (bit w 31) (src (w / 8192 % 64) l) (BitVec.ofNat 6 (w / 128 % 64))))
  | 32 => zero (w / 524288 % 64) (.ok (.bswap (bit w 31) (src (w / 8192 % 64) l) (BitVec.ofNat 6 (w / 128 % 64))))
  | _ => .error .reservedSelector

/-- Major 2 (04 R54). -/
def decAddi (w : Nat) (l : Word) : Except Reject Instr :=
  .ok (.addi (BitVec.ofNat 13 (w / 524288 % 8192)) (src (w / 8192 % 64) l) (BitVec.ofNat 6 (w / 128 % 64)))

/-- Major 3 (04 R54). -/
def decAddr (w : Nat) (l : Word) : Except Reject Instr :=
  match w / 134217728 % 32 with
  | 0 => .ok (.lea (BitVec.ofNat 2 (w / 33554432 % 4)) (src (w / 524288 % 64) l) (src (w / 8192 % 64) l) (BitVec.ofNat 6 (w / 128 % 64)))
  | 1 => zero (w / 33554432 % 4) (.ok (.bfx (src (w / 524288 % 64) l) (src (w / 8192 % 64) l) (BitVec.ofNat 6 (w / 128 % 64))))
  | 2 => zero (w / 33554432 % 4) (.ok (.bfxz (src (w / 524288 % 64) l) (src (w / 8192 % 64) l) (BitVec.ofNat 6 (w / 128 % 64))))
  | 3 => zero (w / 33554432 % 4) (.ok (.bfi (src (w / 524288 % 64) l) (src (w / 8192 % 64) l) (BitVec.ofNat 6 (w / 128 % 64))))
  | _ => .error .reservedSelector

/-- Major 4 (04 R54). -/
def decCmp (w : Nat) (l : Word) : Except Reject Instr :=
  zero (w / 1024 % 8) (.ok (.cmp (BitVec.ofNat 7 (w / 33554432 % 128)) (src (w / 524288 % 64) l) (src (w / 8192 % 64) l) (BitVec.ofNat 3 (w / 128 % 8))))

/-- Major 5 (04 R54). -/
def decKop (w : Nat) : Except Reject Instr :=
  match w / 33554432 % 128 with
  | 0 => zero (w / 4194304 % 8) (zero (w / 65536 % 8) (zero (w / 1024 % 8) (.ok (.kand (BitVec.ofNat 3 (w / 524288 % 8)) (BitVec.ofNat 3 (w / 8192 % 8)) (BitVec.ofNat 3 (w / 128 % 8))))))
  | 1 => zero (w / 4194304 % 8) (zero (w / 65536 % 8) (zero (w / 1024 % 8) (.ok (.kor (BitVec.ofNat 3 (w / 524288 % 8)) (BitVec.ofNat 3 (w / 8192 % 8)) (BitVec.ofNat 3 (w / 128 % 8))))))
  | 2 => zero (w / 4194304 % 8) (zero (w / 65536 % 8) (zero (w / 1024 % 8) (.ok (.kxor (BitVec.ofNat 3 (w / 524288 % 8)) (BitVec.ofNat 3 (w / 8192 % 8)) (BitVec.ofNat 3 (w / 128 % 8))))))
  | 3 => zero (w / 65536 % 512) (zero (w / 1024 % 8) (.ok (.knot (BitVec.ofNat 3 (w / 8192 % 8)) (BitVec.ofNat 3 (w / 128 % 8)))))
  | 4 => zero (w / 65536 % 512) (zero (w / 1024 % 8) (.ok (.kmov (BitVec.ofNat 3 (w / 8192 % 8)) (BitVec.ofNat 3 (w / 128 % 8)))))
  | _ => .error .reservedSelector

/-- Major 6 (04 R54). -/
def decBr (w : Nat) : Except Reject Instr :=
  match w / 128 % 2 with
  | 0 => .ok (.bf (BitVec.ofNat 21 (w / 2048 % 2097152)) (BitVec.ofNat 3 (w / 256 % 8)))
  | _ => .ok (.bt (BitVec.ofNat 21 (w / 2048 % 2097152)) (BitVec.ofNat 3 (w / 256 % 8)))

/-- Major 7 (04 R54). -/
def decJ (w : Nat) : Except Reject Instr :=
  .ok (.j (BitVec.ofNat 25 (w / 128 % 33554432)))

/-- Major 8 (04 R54). -/
def decJal (w : Nat) : Except Reject Instr :=
  .ok (.jal (BitVec.ofNat 25 (w / 128 % 33554432)))

/-- Major 9 (04 R54). -/
def decJr (w : Nat) (l : Word) : Except Reject Instr :=
  match w / 33554432 % 128 with
  | 0 => zero (w / 524288 % 64) (zero (w / 128 % 64) (.ok (.jr (src (w / 8192 % 64) l))))
  | 1 => zero (w / 524288 % 64) (.ok (.jalr (src (w / 8192 % 64) l) (BitVec.ofNat 6 (w / 128 % 64))))
  | 2 => zero (w / 128 % 262144) (.ok (.ret))
  | _ => .error .reservedSelector

/-- Major 10 (04 R54). -/
def decLoop (w : Nat) (l : Word) : Except Reject Instr :=
  match w / 512 % 16 with
  | 0 => .ok (.loop (BitVec.ofNat 13 (w / 524288 % 8192)) (src (w / 8192 % 64) l) (BitVec.ofNat 2 (w / 128 % 4)))
  | 1 => zero (w / 8192 % 524288) (.ok (.lbrk (BitVec.ofNat 2 (w / 128 % 4))))
  | 2 => zero (w / 8192 % 524288) (.ok (.lnext (BitVec.ofNat 2 (w / 128 % 4))))
  | _ => .error .reservedSelector

/-- Major 11 (04 R54). -/
def decRep (w : Nat) (l : Word) : Except Reject Instr :=
  zero (w / 4194304 % 1024) (.ok (.rep (BitVec.ofNat 3 (w / 524288 % 8)) (BitVec.ofNat 3 (w / 65536 % 8)) (BitVec.ofNat 3 (w / 8192 % 8)) (src (w / 128 % 64) l)))

/-- Major 12 (04 R54). -/
def decSys (w : Nat) (l : Word) : Except Reject Instr :=
  match w / 33554432 % 128 with
  | 0 => zero (w / 128 % 262144) (.ok (.nop))
  | 1 => zero (w / 524288 % 64) (zero (w / 128 % 64) (.ok (.trap (src (w / 8192 % 64) l))))
  | 2 => zero (w / 524288 % 64) (zero (w / 128 % 64) (.ok (.svc (src (w / 8192 % 64) l))))
  | 3 => zero (w / 128 % 262144) (.ok (.eret))
  | 4 => zero (w / 128 % 262144) (.ok (.ifence))
  | 5 => zero (w / 128 % 262144) (.ok (.brkpt))
  | 6 => zero (w / 128 % 262144) (.ok (.halt))
  | _ => .error .reservedSelector

/-- Major 13 (04 R54). -/
def decCsr (w : Nat) (l : Word) : Except Reject Instr :=
  match w / 1073741824 % 4 with
  | 0 => zero (w / 8192 % 64) (.ok (.csrr (BitVec.ofNat 11 (w / 524288 % 2048)) (BitVec.ofNat 6 (w / 128 % 64))))
  | 1 => .ok (.csrw (BitVec.ofNat 11 (w / 524288 % 2048)) (src (w / 8192 % 64) l) (BitVec.ofNat 6 (w / 128 % 64)))
  | 2 => .ok (.csrs (BitVec.ofNat 11 (w / 524288 % 2048)) (src (w / 8192 % 64) l) (BitVec.ofNat 6 (w / 128 % 64)))
  | _ => .ok (.csrc (BitVec.ofNat 11 (w / 524288 % 2048)) (src (w / 8192 % 64) l) (BitVec.ofNat 6 (w / 128 % 64)))

/-- Major 14 (04 R54). -/
def decLd (w : Nat) (l : Word) : Except Reject Instr :=
  .ok (.ld (BitVec.ofNat 10 (w / 4194304 % 1024)) (BitVec.ofNat 3 (w / 524288 % 8)) (src (w / 8192 % 64) l) (BitVec.ofNat 6 (w / 128 % 64)))

/-- Major 15 (04 R54). -/
def decLda (w : Nat) (l : Word) : Except Reject Instr :=
  .ok (.lda (BitVec.ofNat 10 (w / 4194304 % 1024)) (BitVec.ofNat 3 (w / 524288 % 8)) (src (w / 8192 % 64) l) (BitVec.ofNat 6 (w / 128 % 64)))

/-- Major 16 (04 R54). -/
def decSt (w : Nat) (l : Word) : Except Reject Instr :=
  .ok (.st (BitVec.ofNat 10 (w / 4194304 % 1024)) (BitVec.ofNat 3 (w / 524288 % 8)) (src (w / 8192 % 64) l) (src (w / 128 % 64) l))

/-- Major 17 (04 R54). -/
def decStl (w : Nat) (l : Word) : Except Reject Instr :=
  .ok (.stl (BitVec.ofNat 10 (w / 4194304 % 1024)) (BitVec.ofNat 3 (w / 524288 % 8)) (src (w / 8192 % 64) l) (src (w / 128 % 64) l))

/-- Major 18 (04 R54). -/
def decAmo (w : Nat) (l : Word) : Except Reject Instr :=
  match w / 268435456 % 16 with
  | 0 => .ok (.amoAdd (bit w 27) (bit w 26) (bit w 25) (src (w / 524288 % 64) l) (src (w / 8192 % 64) l) (BitVec.ofNat 6 (w / 128 % 64)))
  | 1 => .ok (.amoAnd (bit w 27) (bit w 26) (bit w 25) (src (w / 524288 % 64) l) (src (w / 8192 % 64) l) (BitVec.ofNat 6 (w / 128 % 64)))
  | 2 => .ok (.amoOr (bit w 27) (bit w 26) (bit w 25) (src (w / 524288 % 64) l) (src (w / 8192 % 64) l) (BitVec.ofNat 6 (w / 128 % 64)))
  | 3 => .ok (.amoXor (bit w 27) (bit w 26) (bit w 25) (src (w / 524288 % 64) l) (src (w / 8192 % 64) l) (BitVec.ofNat 6 (w / 128 % 64)))
  | 4 => .ok (.amoMin (bit w 27) (bit w 26) (bit w 25) (src (w / 524288 % 64) l) (src (w / 8192 % 64) l) (BitVec.ofNat 6 (w / 128 % 64)))
  | 5 => .ok (.amoMax (bit w 27) (bit w 26) (bit w 25) (src (w / 524288 % 64) l) (src (w / 8192 % 64) l) (BitVec.ofNat 6 (w / 128 % 64)))
  | 6 => .ok (.amoMinn (bit w 27) (bit w 26) (bit w 25) (src (w / 524288 % 64) l) (src (w / 8192 % 64) l) (BitVec.ofNat 6 (w / 128 % 64)))
  | 7 => .ok (.amoMaxn (bit w 27) (bit w 26) (bit w 25) (src (w / 524288 % 64) l) (src (w / 8192 % 64) l) (BitVec.ofNat 6 (w / 128 % 64)))
  | 8 => .ok (.amoSwap (bit w 27) (bit w 26) (bit w 25) (src (w / 524288 % 64) l) (src (w / 8192 % 64) l) (BitVec.ofNat 6 (w / 128 % 64)))
  | 9 => .ok (.amoCas (bit w 27) (bit w 26) (bit w 25) (src (w / 524288 % 64) l) (src (w / 8192 % 64) l) (BitVec.ofNat 6 (w / 128 % 64)))
  | 10 => zero (w / 134217728 % 2) (.ok (.amoFadd (bit w 26) (bit w 25) (src (w / 524288 % 64) l) (src (w / 8192 % 64) l) (BitVec.ofNat 6 (w / 128 % 64))))
  | 11 => zero (w / 134217728 % 2) (.ok (.amoBfadd2 (bit w 26) (bit w 25) (src (w / 524288 % 64) l) (src (w / 8192 % 64) l) (BitVec.ofNat 6 (w / 128 % 64))))
  | _ => .error .reservedSelector

/-- Major 19 (04 R54). -/
def decSyncMem (w : Nat) (l : Word) : Except Reject Instr :=
  match w / 2147483648 % 2 with
  | 0 => zero (w / 524288 % 64) (.ok (.ldx (BitVec.ofNat 2 (w / 536870912 % 4)) (BitVec.ofNat 2 (w / 134217728 % 4)) (BitVec.ofNat 2 (w / 33554432 % 4)) (src (w / 8192 % 64) l) (BitVec.ofNat 6 (w / 128 % 64))))
  | _ => zero (w / 524288 % 64) (.ok (.stx (BitVec.ofNat 2 (w / 536870912 % 4)) (BitVec.ofNat 2 (w / 134217728 % 4)) (BitVec.ofNat 2 (w / 33554432 % 4)) (src (w / 8192 % 64) l) (src (w / 128 % 64) l)))

/-- Major 20 (04 R54). -/
def decRst (w : Nat) (l : Word) : Except Reject Instr :=
  zero (w / 268435456 % 16) (.ok (.rst (bit w 27) (BitVec.ofNat 2 (w / 33554432 % 4)) (src (w / 524288 % 64) l) (src (w / 8192 % 64) l) (BitVec.ofNat 6 (w / 128 % 64))))

/-- Major 21 (04 R54). -/
def decRamo (w : Nat) (l : Word) : Except Reject Instr :=
  match w / 268435456 % 16 with
  | 0 => zero (w / 33554432 % 4) (zero (w / 128 % 64) (.ok (.ramoAdd (bit w 27) (src (w / 524288 % 64) l) (src (w / 8192 % 64) l))))
  | 1 => zero (w / 33554432 % 4) (zero (w / 128 % 64) (.ok (.ramoAnd (bit w 27) (src (w / 524288 % 64) l) (src (w / 8192 % 64) l))))
  | 2 => zero (w / 33554432 % 4) (zero (w / 128 % 64) (.ok (.ramoOr (bit w 27) (src (w / 524288 % 64) l) (src (w / 8192 % 64) l))))
  | 3 => zero (w / 33554432 % 4) (zero (w / 128 % 64) (.ok (.ramoXor (bit w 27) (src (w / 524288 % 64) l) (src (w / 8192 % 64) l))))
  | 4 => zero (w / 33554432 % 4) (zero (w / 128 % 64) (.ok (.ramoMin (bit w 27) (src (w / 524288 % 64) l) (src (w / 8192 % 64) l))))
  | 5 => zero (w / 33554432 % 4) (zero (w / 128 % 64) (.ok (.ramoMax (bit w 27) (src (w / 524288 % 64) l) (src (w / 8192 % 64) l))))
  | 6 => zero (w / 33554432 % 4) (zero (w / 128 % 64) (.ok (.ramoMinn (bit w 27) (src (w / 524288 % 64) l) (src (w / 8192 % 64) l))))
  | 7 => zero (w / 33554432 % 4) (zero (w / 128 % 64) (.ok (.ramoMaxn (bit w 27) (src (w / 524288 % 64) l) (src (w / 8192 % 64) l))))
  | 8 => zero (w / 33554432 % 4) (zero (w / 128 % 64) (.ok (.ramoSwap (bit w 27) (src (w / 524288 % 64) l) (src (w / 8192 % 64) l))))
  | 9 => zero (w / 33554432 % 4) (.ok (.ramoCas (bit w 27) (src (w / 524288 % 64) l) (src (w / 8192 % 64) l) (BitVec.ofNat 6 (w / 128 % 64))))
  | 10 => zero (w / 33554432 % 8) (zero (w / 128 % 64) (.ok (.ramoFadd (src (w / 524288 % 64) l) (src (w / 8192 % 64) l))))
  | 11 => zero (w / 33554432 % 8) (zero (w / 128 % 64) (.ok (.ramoBfadd2 (src (w / 524288 % 64) l) (src (w / 8192 % 64) l))))
  | _ => .error .reservedSelector

/-- Major 22 (04 R54). -/
def decFab (w : Nat) (l : Word) : Except Reject Instr :=
  match w / 33554432 % 128 with
  | 0 => zero (w / 524288 % 64) (zero (w / 128 % 64) (.ok (.sflush (src (w / 8192 % 64) l))))
  | 1 => zero (w / 128 % 262144) (.ok (.sflusha))
  | 2 => zero (w / 8192 % 4096) (.ok (.fencef (BitVec.ofNat 6 (w / 128 % 64))))
  | 3 => zero (w / 8192 % 4096) (.ok (.ferr (BitVec.ofNat 6 (w / 128 % 64))))
  | _ => .error .reservedSelector

/-- Major 23 (04 R54). -/
def decOrd (w : Nat) : Except Reject Instr :=
  match w / 33554432 % 128 with
  | 0 => zero (w / 128 % 262144) (.ok (.acq))
  | 1 => zero (w / 128 % 262144) (.ok (.rel))
  | 2 => zero (w / 128 % 262144) (.ok (.fence))
  | _ => .error .reservedSelector

/-- Major 24 (04 R54). -/
def decVari (w : Nat) (l : Word) : Except Reject Instr :=
  match w / 268435456 % 16 with
  | 0 => .ok (.vadd (BitVec.ofNat 3 (w / 33554432 % 8)) (src (w / 524288 % 64) l) (src (w / 8192 % 64) l) (BitVec.ofNat 6 (w / 128 % 64)))
  | 1 => .ok (.vsub (BitVec.ofNat 3 (w / 33554432 % 8)) (src (w / 524288 % 64) l) (src (w / 8192 % 64) l) (BitVec.ofNat 6 (w / 128 % 64)))
  | 2 => .ok (.vmul (BitVec.ofNat 3 (w / 33554432 % 8)) (src (w / 524288 % 64) l) (src (w / 8192 % 64) l) (BitVec.ofNat 6 (w / 128 % 64)))
  | 3 => .ok (.vfma (BitVec.ofNat 3 (w / 33554432 % 8)) (src (w / 524288 % 64) l) (src (w / 8192 % 64) l) (BitVec.ofNat 6 (w / 128 % 64)))
  | 4 => .ok (.vfms (BitVec.ofNat 3 (w / 33554432 % 8)) (src (w / 524288 % 64) l) (src (w / 8192 % 64) l) (BitVec.ofNat 6 (w / 128 % 64)))
  | 5 => .ok (.vnfma (BitVec.ofNat 3 (w / 33554432 % 8)) (src (w / 524288 % 64) l) (src (w / 8192 % 64) l) (BitVec.ofNat 6 (w / 128 % 64)))
  | 6 => .ok (.vmin (BitVec.ofNat 3 (w / 33554432 % 8)) (src (w / 524288 % 64) l) (src (w / 8192 % 64) l) (BitVec.ofNat 6 (w / 128 % 64)))
  | 7 => .ok (.vmax (BitVec.ofNat 3 (w / 33554432 % 8)) (src (w / 524288 % 64) l) (src (w / 8192 % 64) l) (BitVec.ofNat 6 (w / 128 % 64)))
  | 8 => zero (w / 524288 % 64) (.ok (.vabs (BitVec.ofNat 3 (w / 33554432 % 8)) (src (w / 8192 % 64) l) (BitVec.ofNat 6 (w / 128 % 64))))
  | 9 => zero (w / 524288 % 64) (.ok (.vneg (BitVec.ofNat 3 (w / 33554432 % 8)) (src (w / 8192 % 64) l) (BitVec.ofNat 6 (w / 128 % 64))))
  | 10 => .ok (.vand (BitVec.ofNat 3 (w / 33554432 % 8)) (src (w / 524288 % 64) l) (src (w / 8192 % 64) l) (BitVec.ofNat 6 (w / 128 % 64)))
  | 11 => .ok (.vor (BitVec.ofNat 3 (w / 33554432 % 8)) (src (w / 524288 % 64) l) (src (w / 8192 % 64) l) (BitVec.ofNat 6 (w / 128 % 64)))
  | 12 => .ok (.vxor (BitVec.ofNat 3 (w / 33554432 % 8)) (src (w / 524288 % 64) l) (src (w / 8192 % 64) l) (BitVec.ofNat 6 (w / 128 % 64)))
  | 13 => .ok (.vshl (BitVec.ofNat 3 (w / 33554432 % 8)) (src (w / 524288 % 64) l) (src (w / 8192 % 64) l) (BitVec.ofNat 6 (w / 128 % 64)))
  | 14 => .ok (.vshr (BitVec.ofNat 3 (w / 33554432 % 8)) (src (w / 524288 % 64) l) (src (w / 8192 % 64) l) (BitVec.ofNat 6 (w / 128 % 64)))
  | _ => .ok (.vsra (BitVec.ofNat 3 (w / 33554432 % 8)) (src (w / 524288 % 64) l) (src (w / 8192 % 64) l) (BitVec.ofNat 6 (w / 128 % 64)))

/-- Major 25 (04 R54). -/
def decVgrp (w : Nat) (l : Word) : Except Reject Instr :=
  match w / 268435456 % 16 with
  | 0 => zero (w / 1024 % 8) (.ok (.vcmp (BitVec.ofNat 3 (w / 33554432 % 8)) (src (w / 524288 % 64) l) (src (w / 8192 % 64) l) (BitVec.ofNat 3 (w / 128 % 8))))
  | 1 => .ok (.vsel (BitVec.ofNat 3 (w / 33554432 % 8)) (src (w / 524288 % 64) l) (src (w / 8192 % 64) l) (BitVec.ofNat 6 (w / 128 % 64)))
  | 2 => zero (w / 524288 % 64) (.ok (.vmov (BitVec.ofNat 3 (w / 33554432 % 8)) (src (w / 8192 % 64) l) (BitVec.ofNat 6 (w / 128 % 64))))
  | 3 => zero (w / 524288 % 512) (.ok (.vbcast (src (w / 8192 % 64) l) (BitVec.ofNat 6 (w / 128 % 64))))
  | 4 => zero (w / 33554432 % 8) (.ok (.vext (src (w / 524288 % 64) l) (src (w / 8192 % 64) l) (BitVec.ofNat 6 (w / 128 % 64))))
  | 5 => zero (w / 33554432 % 8) (.ok (.vins (src (w / 524288 % 64) l) (src (w / 8192 % 64) l) (BitVec.ofNat 6 (w / 128 % 64))))
  | 6 => zero (w / 33554432 % 8) (.ok (.vperm (src (w / 524288 % 64) l) (src (w / 8192 % 64) l) (BitVec.ofNat 6 (w / 128 % 64))))
  | 7 => zero (w / 33554432 % 8) (.ok (.vslide (src (w / 524288 % 64) l) (src (w / 8192 % 64) l) (BitVec.ofNat 6 (w / 128 % 64))))
  | 8 => .ok (.vmulh (BitVec.ofNat 3 (w / 33554432 % 8)) (src (w / 524288 % 64) l) (src (w / 8192 % 64) l) (BitVec.ofNat 6 (w / 128 % 64)))
  | 9 => zero (w / 524288 % 64) (.ok (.vclz (BitVec.ofNat 3 (w / 33554432 % 8)) (src (w / 8192 % 64) l) (BitVec.ofNat 6 (w / 128 % 64))))
  | 10 => zero (w / 524288 % 64) (.ok (.vpopc (BitVec.ofNat 3 (w / 33554432 % 8)) (src (w / 8192 % 64) l) (BitVec.ofNat 6 (w / 128 % 64))))
  | 11 => .ok (.vadds (BitVec.ofNat 3 (w / 33554432 % 8)) (src (w / 524288 % 64) l) (src (w / 8192 % 64) l) (BitVec.ofNat 6 (w / 128 % 64)))
  | 12 => .ok (.vsubs (BitVec.ofNat 3 (w / 33554432 % 8)) (src (w / 524288 % 64) l) (src (w / 8192 % 64) l) (BitVec.ofNat 6 (w / 128 % 64)))
  | _ => .error .reservedSelector

/-- Major 26 (04 R54). -/
def decVcvt (w : Nat) (l : Word) : Except Reject Instr :=
  match w / 268435456 % 16 with
  | 0 => zero (w / 8388608 % 4) (.ok (.vcvt (BitVec.ofNat 3 (w / 33554432 % 8)) (BitVec.ofNat 4 (w / 524288 % 16)) (src (w / 8192 % 64) l) (BitVec.ofNat 6 (w / 128 % 64))))
  | 1 => .ok (.vqnt (BitVec.ofNat 3 (w / 33554432 % 8)) (src (w / 524288 % 64) l) (src (w / 8192 % 64) l) (BitVec.ofNat 6 (w / 128 % 64)))
  | 2 => .ok (.vdq (BitVec.ofNat 3 (w / 33554432 % 8)) (src (w / 524288 % 64) l) (src (w / 8192 % 64) l) (BitVec.ofNat 6 (w / 128 % 64)))
  | 3 => zero (w / 524288 % 64) (.ok (.vrndi (BitVec.ofNat 3 (w / 33554432 % 8)) (src (w / 8192 % 64) l) (BitVec.ofNat 6 (w / 128 % 64))))
  | 4 => .ok (.vscale (BitVec.ofNat 3 (w / 33554432 % 8)) (src (w / 524288 % 64) l) (src (w / 8192 % 64) l) (BitVec.ofNat 6 (w / 128 % 64)))
  | 5 => zero (w / 524288 % 64) (.ok (.vgetexp (BitVec.ofNat 3 (w / 33554432 % 8)) (src (w / 8192 % 64) l) (BitVec.ofNat 6 (w / 128 % 64))))
  | _ => .error .reservedSelector

/-- Major 27 (04 R54). -/
def decVsfu (w : Nat) (l : Word) : Except Reject Instr :=
  match w / 268435456 % 16 with
  | 0 => zero (w / 524288 % 64) (.ok (.vexp2 (BitVec.ofNat 3 (w / 33554432 % 8)) (src (w / 8192 % 64) l) (BitVec.ofNat 6 (w / 128 % 64))))
  | 1 => zero (w / 524288 % 64) (.ok (.vlog2 (BitVec.ofNat 3 (w / 33554432 % 8)) (src (w / 8192 % 64) l) (BitVec.ofNat 6 (w / 128 % 64))))
  | 2 => zero (w / 524288 % 64) (.ok (.vrcp (BitVec.ofNat 3 (w / 33554432 % 8)) (src (w / 8192 % 64) l) (BitVec.ofNat 6 (w / 128 % 64))))
  | 3 => zero (w / 524288 % 64) (.ok (.vrsq (BitVec.ofNat 3 (w / 33554432 % 8)) (src (w / 8192 % 64) l) (BitVec.ofNat 6 (w / 128 % 64))))
  | 4 => zero (w / 524288 % 64) (.ok (.vsqrt (BitVec.ofNat 3 (w / 33554432 % 8)) (src (w / 8192 % 64) l) (BitVec.ofNat 6 (w / 128 % 64))))
  | 5 => zero (w / 524288 % 64) (.ok (.vsinpi (BitVec.ofNat 3 (w / 33554432 % 8)) (src (w / 8192 % 64) l) (BitVec.ofNat 6 (w / 128 % 64))))
  | 6 => zero (w / 524288 % 64) (.ok (.vcospi (BitVec.ofNat 3 (w / 33554432 % 8)) (src (w / 8192 % 64) l) (BitVec.ofNat 6 (w / 128 % 64))))
  | _ => .error .reservedSelector

/-- Major 28 (04 R54). -/
def decVred (w : Nat) (l : Word) : Except Reject Instr :=
  match w / 268435456 % 16 with
  | 0 => zero (w / 524288 % 512) (.ok (.vredsum (src (w / 8192 % 64) l) (BitVec.ofNat 6 (w / 128 % 64))))
  | 1 => zero (w / 524288 % 512) (.ok (.vredmax (src (w / 8192 % 64) l) (BitVec.ofNat 6 (w / 128 % 64))))
  | 2 => zero (w / 524288 % 512) (.ok (.vredmin (src (w / 8192 % 64) l) (BitVec.ofNat 6 (w / 128 % 64))))
  | 3 => zero (w / 524288 % 512) (.ok (.vredamax (src (w / 8192 % 64) l) (BitVec.ofNat 6 (w / 128 % 64))))
  | 4 => zero (w / 524288 % 512) (.ok (.vrowmax (src (w / 8192 % 64) l) (BitVec.ofNat 6 (w / 128 % 64))))
  | 5 => zero (w / 33554432 % 8) (zero (w / 128 % 64) (.ok (.vxadd (src (w / 524288 % 64) l) (src (w / 8192 % 64) l))))
  | 6 => zero (w / 524288 % 512) (.ok (.vxrd (src (w / 8192 % 64) l) (BitVec.ofNat 6 (w / 128 % 64))))
  | 7 => zero (w / 524288 % 512) (zero (w / 128 % 64) (.ok (.vxclr (src (w / 8192 % 64) l))))
  | _ => .error .reservedSelector

/-- Major 29 (04 R54). -/
def decVmem (w : Nat) (l : Word) : Except Reject Instr :=
  match w / 268435456 % 16 with
  | 0 => zero (w / 33554432 % 8) (.ok (.vld (src (w / 524288 % 64) l) (src (w / 8192 % 64) l) (BitVec.ofNat 6 (w / 128 % 64))))
  | 1 => zero (w / 33554432 % 8) (.ok (.vst (src (w / 524288 % 64) l) (src (w / 8192 % 64) l) (src (w / 128 % 64) l)))
  | 2 => zero (w / 33554432 % 8) (.ok (.vgath (src (w / 524288 % 64) l) (src (w / 8192 % 64) l) (BitVec.ofNat 6 (w / 128 % 64))))
  | 3 => zero (w / 33554432 % 8) (.ok (.vscat (src (w / 524288 % 64) l) (src (w / 8192 % 64) l) (src (w / 128 % 64) l)))
  | 4 => zero (w / 33554432 % 8) (.ok (.vldb (src (w / 524288 % 64) l) (src (w / 8192 % 64) l) (BitVec.ofNat 6 (w / 128 % 64))))
  | _ => .error .reservedSelector

/-- Major 30 (04 R54). -/
def decRing (w : Nat) (l : Word) : Except Reject Instr :=
  match w / 268435456 % 16 with
  | 0 => zero (w / 524288 % 64) (zero (w / 128 % 64) (.ok (.shpld (BitVec.ofNat 3 (w / 33554432 % 8)) (src (w / 8192 % 64) l))))
  | 1 => zero (w / 524288 % 64) (zero (w / 128 % 64) (.ok (.shpst (BitVec.ofNat 3 (w / 33554432 % 8)) (src (w / 8192 % 64) l))))
  | 2 => zero (w / 33554432 % 8) (.ok (.hbind (src (w / 524288 % 64) l) (src (w / 8192 % 64) l) (BitVec.ofNat 6 (w / 128 % 64))))
  | 3 => zero (w / 8192 % 32768) (.ok (.hadvc (BitVec.ofNat 6 (w / 128 % 64))))
  | 4 => zero (w / 8192 % 32768) (.ok (.hadvp (BitVec.ofNat 6 (w / 128 % 64))))
  | 5 => zero (w / 524288 % 512) (.ok (.hstat (BitVec.ofNat 6 (w / 8192 % 64)) (BitVec.ofNat 6 (w / 128 % 64))))
  | 6 => zero (w / 8192 % 32768) (.ok (.hunbind (BitVec.ofNat 6 (w / 128 % 64))))
  | _ => .error .reservedSelector

/-- Major 31 (04 R54). -/
def decMma (w : Nat) : Except Reject Instr :=
  .ok (.mma (bit w 31) (bit w 30) (BitVec.ofNat 4 (w / 67108864 % 16)) (BitVec.ofNat 4 (w / 4194304 % 16)) (BitVec.ofNat 5 (w / 131072 % 32)) (BitVec.ofNat 5 (w / 4096 % 32)) (BitVec.ofNat 5 (w / 128 % 32)))

/-- Major 32 (04 R54). -/
def decMmas (w : Nat) : Except Reject Instr :=
  .ok (.mmas (BitVec.ofNat 2 (w / 1073741824 % 4)) (BitVec.ofNat 4 (w / 67108864 % 16)) (BitVec.ofNat 4 (w / 4194304 % 16)) (BitVec.ofNat 2 (w / 1048576 % 4)) (BitVec.ofNat 5 (w / 32768 % 32)) (BitVec.ofNat 4 (w / 2048 % 16)) (BitVec.ofNat 4 (w / 128 % 16)))

/-- Major 33 (04 R54). -/
def decMmaq (w : Nat) : Except Reject Instr :=
  .ok (.mmaq (bit w 31) (bit w 30) (BitVec.ofNat 4 (w / 67108864 % 16)) (BitVec.ofNat 4 (w / 4194304 % 16)) (BitVec.ofNat 5 (w / 131072 % 32)) (BitVec.ofNat 5 (w / 4096 % 32)) (BitVec.ofNat 5 (w / 128 % 32)))

/-- Major 34 (04 R54). -/
def decMat (w : Nat) (l : Word) : Except Reject Instr :=
  match w / 268435456 % 16 with
  | 0 => .ok (.tld (BitVec.ofNat 4 (w / 16777216 % 16)) (src (w / 262144 % 64) l) (BitVec.ofNat 5 (w / 8192 % 32)) (src (w / 128 % 64) l))
  | 1 => zero (w / 262144 % 64) (zero (w / 128 % 64) (.ok (.tzero (BitVec.ofNat 4 (w / 16777216 % 16)) (BitVec.ofNat 5 (w / 8192 % 32)))))
  | 2 => zero (w / 16777216 % 16) (zero (w / 128 % 64) (.ok (.acz (src (w / 262144 % 64) l) (BitVec.ofNat 5 (w / 8192 % 32)))))
  | 3 => zero (w / 16777216 % 16) (.ok (.acrd (src (w / 262144 % 64) l) (BitVec.ofNat 5 (w / 8192 % 32)) (src (w / 128 % 64) l)))
  | 4 => zero (w / 16777216 % 16) (.ok (.acwr (src (w / 262144 % 64) l) (BitVec.ofNat 5 (w / 8192 % 32)) (src (w / 128 % 64) l)))
  | 5 => zero (w / 16777216 % 16) (zero (w / 8192 % 32) (.ok (.jpoll (src (w / 262144 % 64) l) (BitVec.ofNat 6 (w / 128 % 64)))))
  | 6 => zero (w / 16777216 % 16) (zero (w / 128 % 2048) (.ok (.jwait (src (w / 262144 % 64) l))))
  | _ => .error .reservedSelector

/-- Major 35 (04 R54). -/
def decCx (w : Nat) (l : Word) : Except Reject Instr :=
  match w / 33554432 % 128 with
  | 0 => zero (w / 524288 % 64) (.ok (.cxrd (src (w / 8192 % 64) l) (BitVec.ofNat 6 (w / 128 % 64))))
  | 1 => .ok (.burst (src (w / 524288 % 64) l) (src (w / 8192 % 64) l) (src (w / 128 % 64) l))
  | 2 => zero (w / 524288 % 64) (zero (w / 128 % 64) (.ok (.cxdone (src (w / 8192 % 64) l))))
  | _ => .error .reservedSelector

/-- Major 36 (04 R54). -/
def decStrm (w : Nat) : Except Reject Instr :=
  match w / 33554432 % 128 with
  | 0 => zero (w / 524288 % 64) (.ok (.subscr (BitVec.ofNat 6 (w / 8192 % 64)) (BitVec.ofNat 6 (w / 128 % 64))))
  | 1 => zero (w / 8192 % 4096) (.ok (.unsub (BitVec.ofNat 6 (w / 128 % 64))))
  | _ => .error .reservedSelector

/-- Major 37 (04 R54). -/
def decTag (w : Nat) (l : Word) : Except Reject Instr :=
  match w / 33554432 % 128 with
  | 0 => zero (w / 524288 % 64) (.ok (.tagwany (src (w / 8192 % 64) l) (BitVec.ofNat 6 (w / 128 % 64))))
  | 1 => zero (w / 524288 % 64) (.ok (.tagwall (src (w / 8192 % 64) l) (BitVec.ofNat 6 (w / 128 % 64))))
  | 2 => zero (w / 524288 % 64) (.ok (.tagff (src (w / 8192 % 64) l) (BitVec.ofNat 6 (w / 128 % 64))))
  | 3 => zero (w / 524288 % 64) (zero (w / 128 % 64) (.ok (.tagclr (src (w / 8192 % 64) l))))
  | 4 => zero (w / 8192 % 4096) (.ok (.tagrd (BitVec.ofNat 6 (w / 128 % 64))))
  | _ => .error .reservedSelector

/-- Major 38 (04 R54). -/
def decObj (w : Nat) (l : Word) : Except Reject Instr :=
  match w / 33554432 % 128 with
  | 0 => .ok (.obnew (src (w / 524288 % 64) l) (src (w / 8192 % 64) l) (BitVec.ofNat 6 (w / 128 % 64)))
  | 1 => zero (w / 524288 % 64) (zero (w / 128 % 64) (.ok (.obdel (src (w / 8192 % 64) l))))
  | 2 => zero (w / 524288 % 64) (zero (w / 128 % 64) (.ok (.arrive (src (w / 8192 % 64) l))))
  | 3 => zero (w / 128 % 64) (.ok (.arriveb (src (w / 524288 % 64) l) (src (w / 8192 % 64) l)))
  | 4 => zero (w / 524288 % 64) (.ok (.wait (src (w / 8192 % 64) l) (BitVec.ofNat 6 (w / 128 % 64))))
  | 5 => zero (w / 128 % 64) (.ok (.signal (src (w / 524288 % 64) l) (src (w / 8192 % 64) l)))
  | 6 => zero (w / 524288 % 64) (.ok (.lock (src (w / 8192 % 64) l) (BitVec.ofNat 6 (w / 128 % 64))))
  | 7 => zero (w / 524288 % 64) (zero (w / 128 % 64) (.ok (.unlock (src (w / 8192 % 64) l))))
  | 8 => .ok (.obxfer (src (w / 524288 % 64) l) (src (w / 8192 % 64) l) (src (w / 128 % 64) l))
  | 9 => .ok (.obrd (src (w / 524288 % 64) l) (src (w / 8192 % 64) l) (BitVec.ofNat 6 (w / 128 % 64)))
  | 10 => zero (w / 524288 % 64) (.ok (.rankof (src (w / 8192 % 64) l) (BitVec.ofNat 6 (w / 128 % 64))))
  | 66 => zero (w / 524288 % 64) (zero (w / 128 % 64) (.ok (.arriveLeave (src (w / 8192 % 64) l))))
  | _ => .error .reservedSelector

/-- Major 39 (04 R54). -/
def decTask (w : Nat) (l : Word) : Except Reject Instr :=
  match w / 33554432 % 128 with
  | 0 => zero (w / 524288 % 64) (.ok (.spawn (src (w / 8192 % 64) l) (BitVec.ofNat 6 (w / 128 % 64))))
  | 1 => zero (w / 128 % 262144) (.ok (.exit))
  | 2 => zero (w / 128 % 262144) (.ok (.yield))
  | 3 => zero (w / 524288 % 64) (zero (w / 128 % 64) (.ok (.msgsend (src (w / 8192 % 64) l))))
  | 4 => zero (w / 524288 % 64) (.ok (.ttarm (src (w / 8192 % 64) l) (BitVec.ofNat 6 (w / 128 % 64))))
  | 5 => zero (w / 8192 % 4096) (.ok (.now (BitVec.ofNat 6 (w / 128 % 64))))
  | _ => .error .reservedSelector

/-- Major 40 (04 R54). -/
def decWelt (w : Nat) (l : Word) : Except Reject Instr :=
  match w / 33554432 % 128 with
  | 0 => zero (w / 524288 % 64) (zero (w / 128 % 64) (.ok (.wstart (src (w / 8192 % 64) l))))
  | 1 => zero (w / 128 % 262144) (.ok (.wend))
  | 2 => zero (w / 8192 % 4096) (.ok (.wpos (BitVec.ofNat 6 (w / 128 % 64))))
  | _ => .error .reservedSelector

/-- Major 41 (04 R54). -/
def decBsp (w : Nat) (l : Word) : Except Reject Instr :=
  match w / 33554432 % 128 with
  | 0 => zero (w / 524288 % 64) (.ok (.sync (src (w / 8192 % 64) l) (BitVec.ofNat 6 (w / 128 % 64))))
  | 1 => zero (w / 128 % 64) (.ok (.xmit (src (w / 524288 % 64) l) (BitVec.ofNat 6 (w / 8192 % 64))))
  | 2 => zero (w / 8192 % 64) (.ok (.xrecv (src (w / 524288 % 64) l) (BitVec.ofNat 6 (w / 128 % 64))))
  | 3 => zero (w / 524288 % 64) (zero (w / 128 % 64) (.ok (.muxsel (src (w / 8192 % 64) l))))
  | _ => .error .reservedSelector

/-- Major 42 (04 R54). -/
def decVm (w : Nat) (l : Word) : Except Reject Instr :=
  match w / 33554432 % 128 with
  | 0 => zero (w / 524288 % 64) (.ok (.pgcommit (src (w / 8192 % 64) l) (BitVec.ofNat 6 (w / 128 % 64))))
  | 1 => zero (w / 524288 % 64) (.ok (.pgfree (src (w / 8192 % 64) l) (BitVec.ofNat 6 (w / 128 % 64))))
  | 2 => zero (w / 128 % 64) (.ok (.tlbinv (src (w / 524288 % 64) l) (src (w / 8192 % 64) l)))
  | 3 => zero (w / 524288 % 64) (.ok (.addrq (src (w / 8192 % 64) l) (BitVec.ofNat 6 (w / 128 % 64))))
  | _ => .error .reservedSelector

/-- The 16-bit form (04 R50). -/
def decC (w : Nat) : Except Reject Instr :=
  match w / 2 % 16 with
  | 0 => .ok (.cVadd (BitVec.ofNat 5 (w / 1024 % 32)) (BitVec.ofNat 5 (w / 32 % 32)))
  | 1 => .ok (.cVsub (BitVec.ofNat 5 (w / 1024 % 32)) (BitVec.ofNat 5 (w / 32 % 32)))
  | 2 => .ok (.cVmul (BitVec.ofNat 5 (w / 1024 % 32)) (BitVec.ofNat 5 (w / 32 % 32)))
  | 3 => .ok (.cVmac (BitVec.ofNat 5 (w / 1024 % 32)) (BitVec.ofNat 5 (w / 32 % 32)))
  | 4 => .ok (.cVmin (BitVec.ofNat 5 (w / 1024 % 32)) (BitVec.ofNat 5 (w / 32 % 32)))
  | 5 => .ok (.cVmax (BitVec.ofNat 5 (w / 1024 % 32)) (BitVec.ofNat 5 (w / 32 % 32)))
  | 6 => .ok (.cVand (BitVec.ofNat 5 (w / 1024 % 32)) (BitVec.ofNat 5 (w / 32 % 32)))
  | 7 => .ok (.cVor (BitVec.ofNat 5 (w / 1024 % 32)) (BitVec.ofNat 5 (w / 32 % 32)))
  | 8 => .ok (.cVxor (BitVec.ofNat 5 (w / 1024 % 32)) (BitVec.ofNat 5 (w / 32 % 32)))
  | 9 => .ok (.cVshl (BitVec.ofNat 5 (w / 1024 % 32)) (BitVec.ofNat 5 (w / 32 % 32)))
  | 10 => .ok (.cVshr (BitVec.ofNat 5 (w / 1024 % 32)) (BitVec.ofNat 5 (w / 32 % 32)))
  | 11 => .ok (.cVsra (BitVec.ofNat 5 (w / 1024 % 32)) (BitVec.ofNat 5 (w / 32 % 32)))
  | 12 => .ok (.cVmov (BitVec.ofNat 5 (w / 1024 % 32)) (BitVec.ofNat 5 (w / 32 % 32)))
  | 13 => .ok (.cVneg (BitVec.ofNat 5 (w / 1024 % 32)) (BitVec.ofNat 5 (w / 32 % 32)))
  | 14 => .ok (.cVabs (BitVec.ofNat 5 (w / 1024 % 32)) (BitVec.ofNat 5 (w / 32 % 32)))
  | _ => zero (w / 1024 % 32) (.ok (.cVzero (BitVec.ofNat 5 (w / 32 % 32))))

/-- The word's own decoding by form, major and member: checks 1 to 4 of 04 R57. `l` is the literal, 0 where none. -/
def decodeRaw (w : Nat) (l : Word) : Except Reject Instr :=
  if w % 2 = 0 then
    (if w / 32768 % 2 = 0 then .error .notAnInstruction else decC w)
  else match w / 2 % 64 with
  | 1 => decAlu w l
  | 2 => decAddi w l
  | 3 => decAddr w l
  | 4 => decCmp w l
  | 5 => decKop w
  | 6 => decBr w
  | 7 => decJ w
  | 8 => decJal w
  | 9 => decJr w l
  | 10 => decLoop w l
  | 11 => decRep w l
  | 12 => decSys w l
  | 13 => decCsr w l
  | 14 => decLd w l
  | 15 => decLda w l
  | 16 => decSt w l
  | 17 => decStl w l
  | 18 => decAmo w l
  | 19 => decSyncMem w l
  | 20 => decRst w l
  | 21 => decRamo w l
  | 22 => decFab w l
  | 23 => decOrd w
  | 24 => decVari w l
  | 25 => decVgrp w l
  | 26 => decVcvt w l
  | 27 => decVsfu w l
  | 28 => decVred w l
  | 29 => decVmem w l
  | 30 => decRing w l
  | 31 => decMma w
  | 32 => decMmas w
  | 33 => decMmaq w
  | 34 => decMat w l
  | 35 => decCx w l
  | 36 => decStrm w
  | 37 => decTag w l
  | 38 => decObj w l
  | 39 => decTask w l
  | 40 => decWelt w l
  | 41 => decBsp w l
  | 42 => decVm w l
  | _ => .error .reservedMajor

/-- Checks 1 to 5 of 04 R57 on a word and its literal. -/
def decodeWord (w : Nat) (l : Word) : Except Reject Instr :=
  match decodeRaw w l with
  | .ok i => if i.wf then .ok i else .error .operand
  | .error r => .error r

/-- The operand-code fields that 04 R48 scans for the length, by the form of the major (04 R52). -/
def scanFields (w : Nat) : List Nat :=
  let b := w / 524288 % 64
  let a := w / 8192 % 64
  let d := w / 128 % 64
  let m := w / 2 % 64
  if m = 2 ∨ m = 13 ∨ (14 ≤ m ∧ m ≤ 17) then [a, d]
  else if m = 10 then [a]
  else if m = 11 then [d]
  else if m = 34 then [w / 262144 % 64, d]
  else if m = 0 ∨ m = 6 ∨ m = 7 ∨ m = 8 ∨ (31 ≤ m ∧ m ≤ 33) ∨ 43 ≤ m then []
  else [b, a, d]

/-- The literal's size in bytes (04 R48): 62 announces 4 bytes, 63 announces 8. Where a word holds both, 62 is found
first; such a word is no instruction, whatever its length (02 R18). -/
def litBytes (w : Nat) : Nat :=
  if w % 2 = 0 then 0
  else if 62 ∈ scanFields w then 4
  else if 63 ∈ scanFields w then 8
  else 0

/-- The length of the first part, which is fetched before any check (04 R48, R49). -/
def headBytes (h : Nat) : Nat := if h % 2 = 0 then 2 else 4

/-- Decode from bytes, lowest address first: the instruction and the bytes after it. -/
def decode (bs : List Byte) : Except Reject (Instr × List Byte) :=
  let num (l : List Byte) : Nat := l.foldr (fun x n => x.toNat + 256 * n) 0
  if bs.length < 2 then .error .short
  else
    let n := headBytes (num (bs.take 2))
    if bs.length < n then .error .short
    else
      let w := num (bs.take n)
      let k := litBytes w
      if bs.length < n + k then .error .short
      else
        match decodeWord w (BitVec.ofNat 64 (num ((bs.drop n).take k))) with
        | .ok i => .ok (i, bs.drop (n + k))
        | .error r => .error r

/-- The first 16 or 32 bits of an instruction (04 R50 to R54). An event has no encoding and answers 0. -/
def encodeWord : Instr → Nat
  | .add w b a d => 0x3 + w.toNat * 2147483648 + b.toCode.toNat * 524288 + a.toCode.toNat * 8192 + d.toNat * 128
  | .sub w b a d => 0x2000003 + w.toNat * 2147483648 + b.toCode.toNat * 524288 + a.toCode.toNat * 8192 + d.toNat * 128
  | .and w b a d => 0x4000003 + w.toNat * 2147483648 + b.toCode.toNat * 524288 + a.toCode.toNat * 8192 + d.toNat * 128
  | .or w b a d => 0x6000003 + w.toNat * 2147483648 + b.toCode.toNat * 524288 + a.toCode.toNat * 8192 + d.toNat * 128
  | .xor w b a d => 0x8000003 + w.toNat * 2147483648 + b.toCode.toNat * 524288 + a.toCode.toNat * 8192 + d.toNat * 128
  | .andn w b a d => 0xA000003 + w.toNat * 2147483648 + b.toCode.toNat * 524288 + a.toCode.toNat * 8192 + d.toNat * 128
  | .orn w b a d => 0xC000003 + w.toNat * 2147483648 + b.toCode.toNat * 524288 + a.toCode.toNat * 8192 + d.toNat * 128
  | .shl w b a d => 0xE000003 + w.toNat * 2147483648 + b.toCode.toNat * 524288 + a.toCode.toNat * 8192 + d.toNat * 128
  | .shr w b a d => 0x10000003 + w.toNat * 2147483648 + b.toCode.toNat * 524288 + a.toCode.toNat * 8192 + d.toNat * 128
  | .sra w b a d => 0x12000003 + w.toNat * 2147483648 + b.toCode.toNat * 524288 + a.toCode.toNat * 8192 + d.toNat * 128
  | .rol w b a d => 0x14000003 + w.toNat * 2147483648 + b.toCode.toNat * 524288 + a.toCode.toNat * 8192 + d.toNat * 128
  | .ror w b a d => 0x16000003 + w.toNat * 2147483648 + b.toCode.toNat * 524288 + a.toCode.toNat * 8192 + d.toNat * 128
  | .mul w b a d => 0x18000003 + w.toNat * 2147483648 + b.toCode.toNat * 524288 + a.toCode.toNat * 8192 + d.toNat * 128
  | .mulh w b a d => 0x1A000003 + w.toNat * 2147483648 + b.toCode.toNat * 524288 + a.toCode.toNat * 8192 + d.toNat * 128
  | .mulhn w b a d => 0x1C000003 + w.toNat * 2147483648 + b.toCode.toNat * 524288 + a.toCode.toNat * 8192 + d.toNat * 128
  | .div w b a d => 0x1E000003 + w.toNat * 2147483648 + b.toCode.toNat * 524288 + a.toCode.toNat * 8192 + d.toNat * 128
  | .divn w b a d => 0x20000003 + w.toNat * 2147483648 + b.toCode.toNat * 524288 + a.toCode.toNat * 8192 + d.toNat * 128
  | .rem w b a d => 0x22000003 + w.toNat * 2147483648 + b.toCode.toNat * 524288 + a.toCode.toNat * 8192 + d.toNat * 128
  | .remn w b a d => 0x24000003 + w.toNat * 2147483648 + b.toCode.toNat * 524288 + a.toCode.toNat * 8192 + d.toNat * 128
  | .min w b a d => 0x26000003 + w.toNat * 2147483648 + b.toCode.toNat * 524288 + a.toCode.toNat * 8192 + d.toNat * 128
  | .max w b a d => 0x28000003 + w.toNat * 2147483648 + b.toCode.toNat * 524288 + a.toCode.toNat * 8192 + d.toNat * 128
  | .minn w b a d => 0x2A000003 + w.toNat * 2147483648 + b.toCode.toNat * 524288 + a.toCode.toNat * 8192 + d.toNat * 128
  | .maxn w b a d => 0x2C000003 + w.toNat * 2147483648 + b.toCode.toNat * 524288 + a.toCode.toNat * 8192 + d.toNat * 128
  | .slt w b a d => 0x2E000003 + w.toNat * 2147483648 + b.toCode.toNat * 524288 + a.toCode.toNat * 8192 + d.toNat * 128
  | .sltn w b a d => 0x30000003 + w.toNat * 2147483648 + b.toCode.toNat * 524288 + a.toCode.toNat * 8192 + d.toNat * 128
  | .seq w b a d => 0x32000003 + w.toNat * 2147483648 + b.toCode.toNat * 524288 + a.toCode.toNat * 8192 + d.toNat * 128
  | .sne w b a d => 0x34000003 + w.toNat * 2147483648 + b.toCode.toNat * 524288 + a.toCode.toNat * 8192 + d.toNat * 128
  | .sel w b a d => 0x36000003 + w.toNat * 2147483648 + b.toCode.toNat * 524288 + a.toCode.toNat * 8192 + d.toNat * 128
  | .clz w a d => 0x38000003 + w.toNat * 2147483648 + a.toCode.toNat * 8192 + d.toNat * 128
  | .ctz w a d => 0x3A000003 + w.toNat * 2147483648 + a.toCode.toNat * 8192 + d.toNat * 128
  | .popc w a d => 0x3C000003 + w.toNat * 2147483648 + a.toCode.toNat * 8192 + d.toNat * 128
  | .brev w a d => 0x3E000003 + w.toNat * 2147483648 + a.toCode.toNat * 8192 + d.toNat * 128
  | .bswap w a d => 0x40000003 + w.toNat * 2147483648 + a.toCode.toNat * 8192 + d.toNat * 128
  | .addi imm a d => 0x5 + imm.toNat * 524288 + a.toCode.toNat * 8192 + d.toNat * 128
  | .lea sc b a d => 0x7 + sc.toNat * 33554432 + b.toCode.toNat * 524288 + a.toCode.toNat * 8192 + d.toNat * 128
  | .bfx b a d => 0x8000007 + b.toCode.toNat * 524288 + a.toCode.toNat * 8192 + d.toNat * 128
  | .bfxz b a d => 0x10000007 + b.toCode.toNat * 524288 + a.toCode.toNat * 8192 + d.toNat * 128
  | .bfi b a d => 0x18000007 + b.toCode.toNat * 524288 + a.toCode.toNat * 8192 + d.toNat * 128
  | .cmp c b a k => 0x9 + c.toNat * 33554432 + b.toCode.toNat * 524288 + a.toCode.toNat * 8192 + k.toNat * 128
  | .kand b a d => 0xB + b.toNat * 524288 + a.toNat * 8192 + d.toNat * 128
  | .kor b a d => 0x200000B + b.toNat * 524288 + a.toNat * 8192 + d.toNat * 128
  | .kxor b a d => 0x400000B + b.toNat * 524288 + a.toNat * 8192 + d.toNat * 128
  | .knot a d => 0x600000B + a.toNat * 8192 + d.toNat * 128
  | .kmov a d => 0x800000B + a.toNat * 8192 + d.toNat * 128
  | .bt off k => 0x8D + off.toNat * 2048 + k.toNat * 256
  | .bf off k => 0xD + off.toNat * 2048 + k.toNat * 256
  | .j off => 0xF + off.toNat * 128
  | .jal off => 0x11 + off.toNat * 128
  | .jr a => 0x13 + a.toCode.toNat * 8192
  | .jalr a d => 0x2000013 + a.toCode.toNat * 8192 + d.toNat * 128
  | .ret => 0x4000013
  | .loop imm a l => 0x15 + imm.toNat * 524288 + a.toCode.toNat * 8192 + l.toNat * 128
  | .lbrk l => 0x215 + l.toNat * 128
  | .lnext l => 0x415 + l.toNat * 128
  | .rep sb sa sd c => 0x17 + sb.toNat * 524288 + sa.toNat * 65536 + sd.toNat * 8192 + c.toCode.toNat * 128
  | .nop => 0x19
  | .trap a => 0x2000019 + a.toCode.toNat * 8192
  | .svc a => 0x4000019 + a.toCode.toNat * 8192
  | .eret => 0x6000019
  | .ifence => 0x8000019
  | .brkpt => 0xA000019
  | .halt => 0xC000019
  | .csrr c d => 0x1B + c.toNat * 524288 + d.toNat * 128
  | .csrw c a d => 0x4000001B + c.toNat * 524288 + a.toCode.toNat * 8192 + d.toNat * 128
  | .csrs c a d => 0x8000001B + c.toNat * 524288 + a.toCode.toNat * 8192 + d.toNat * 128
  | .csrc c a d => 0xC000001B + c.toNat * 524288 + a.toCode.toNat * 8192 + d.toNat * 128
  | .ld imm f a d => 0x1D + imm.toNat * 4194304 + f.toNat * 524288 + a.toCode.toNat * 8192 + d.toNat * 128
  | .lda imm f a d => 0x1F + imm.toNat * 4194304 + f.toNat * 524288 + a.toCode.toNat * 8192 + d.toNat * 128
  | .st imm f a d => 0x21 + imm.toNat * 4194304 + f.toNat * 524288 + a.toCode.toNat * 8192 + d.toCode.toNat * 128
  | .stl imm f a d => 0x23 + imm.toNat * 4194304 + f.toNat * 524288 + a.toCode.toNat * 8192 + d.toCode.toNat * 128
  | .amoAdd s q r b a d => 0x25 + s.toNat * 134217728 + q.toNat * 67108864 + r.toNat * 33554432 + b.toCode.toNat * 524288 + a.toCode.toNat * 8192 + d.toNat * 128
  | .amoAnd s q r b a d => 0x10000025 + s.toNat * 134217728 + q.toNat * 67108864 + r.toNat * 33554432 + b.toCode.toNat * 524288 + a.toCode.toNat * 8192 + d.toNat * 128
  | .amoOr s q r b a d => 0x20000025 + s.toNat * 134217728 + q.toNat * 67108864 + r.toNat * 33554432 + b.toCode.toNat * 524288 + a.toCode.toNat * 8192 + d.toNat * 128
  | .amoXor s q r b a d => 0x30000025 + s.toNat * 134217728 + q.toNat * 67108864 + r.toNat * 33554432 + b.toCode.toNat * 524288 + a.toCode.toNat * 8192 + d.toNat * 128
  | .amoMin s q r b a d => 0x40000025 + s.toNat * 134217728 + q.toNat * 67108864 + r.toNat * 33554432 + b.toCode.toNat * 524288 + a.toCode.toNat * 8192 + d.toNat * 128
  | .amoMax s q r b a d => 0x50000025 + s.toNat * 134217728 + q.toNat * 67108864 + r.toNat * 33554432 + b.toCode.toNat * 524288 + a.toCode.toNat * 8192 + d.toNat * 128
  | .amoMinn s q r b a d => 0x60000025 + s.toNat * 134217728 + q.toNat * 67108864 + r.toNat * 33554432 + b.toCode.toNat * 524288 + a.toCode.toNat * 8192 + d.toNat * 128
  | .amoMaxn s q r b a d => 0x70000025 + s.toNat * 134217728 + q.toNat * 67108864 + r.toNat * 33554432 + b.toCode.toNat * 524288 + a.toCode.toNat * 8192 + d.toNat * 128
  | .amoSwap s q r b a d => 0x80000025 + s.toNat * 134217728 + q.toNat * 67108864 + r.toNat * 33554432 + b.toCode.toNat * 524288 + a.toCode.toNat * 8192 + d.toNat * 128
  | .amoCas s q r b a d => 0x90000025 + s.toNat * 134217728 + q.toNat * 67108864 + r.toNat * 33554432 + b.toCode.toNat * 524288 + a.toCode.toNat * 8192 + d.toNat * 128
  | .amoFadd q r b a d => 0xA0000025 + q.toNat * 67108864 + r.toNat * 33554432 + b.toCode.toNat * 524288 + a.toCode.toNat * 8192 + d.toNat * 128
  | .amoBfadd2 q r b a d => 0xB0000025 + q.toNat * 67108864 + r.toNat * 33554432 + b.toCode.toNat * 524288 + a.toCode.toNat * 8192 + d.toNat * 128
  | .ldx s c e a d => 0x27 + s.toNat * 536870912 + c.toNat * 134217728 + e.toNat * 33554432 + a.toCode.toNat * 8192 + d.toNat * 128
  | .stx s c e a d => 0x80000027 + s.toNat * 536870912 + c.toNat * 134217728 + e.toNat * 33554432 + a.toCode.toNat * 8192 + d.toCode.toNat * 128
  | .acq => 0x2F
  | .rel => 0x200002F
  | .fence => 0x400002F
  | .cVadd vs vd => 0x8000 + vs.toNat * 1024 + vd.toNat * 32
  | .cVsub vs vd => 0x8002 + vs.toNat * 1024 + vd.toNat * 32
  | .cVmul vs vd => 0x8004 + vs.toNat * 1024 + vd.toNat * 32
  | .cVmac vs vd => 0x8006 + vs.toNat * 1024 + vd.toNat * 32
  | .cVmin vs vd => 0x8008 + vs.toNat * 1024 + vd.toNat * 32
  | .cVmax vs vd => 0x800A + vs.toNat * 1024 + vd.toNat * 32
  | .cVand vs vd => 0x800C + vs.toNat * 1024 + vd.toNat * 32
  | .cVor vs vd => 0x800E + vs.toNat * 1024 + vd.toNat * 32
  | .cVxor vs vd => 0x8010 + vs.toNat * 1024 + vd.toNat * 32
  | .cVshl vs vd => 0x8012 + vs.toNat * 1024 + vd.toNat * 32
  | .cVshr vs vd => 0x8014 + vs.toNat * 1024 + vd.toNat * 32
  | .cVsra vs vd => 0x8016 + vs.toNat * 1024 + vd.toNat * 32
  | .cVmov vs vd => 0x8018 + vs.toNat * 1024 + vd.toNat * 32
  | .cVneg vs vd => 0x801A + vs.toNat * 1024 + vd.toNat * 32
  | .cVabs vs vd => 0x801C + vs.toNat * 1024 + vd.toNat * 32
  | .cVzero vd => 0x801E + vd.toNat * 32
  | .vadd q b a d => 0x31 + q.toNat * 33554432 + b.toCode.toNat * 524288 + a.toCode.toNat * 8192 + d.toNat * 128
  | .vsub q b a d => 0x10000031 + q.toNat * 33554432 + b.toCode.toNat * 524288 + a.toCode.toNat * 8192 + d.toNat * 128
  | .vmul q b a d => 0x20000031 + q.toNat * 33554432 + b.toCode.toNat * 524288 + a.toCode.toNat * 8192 + d.toNat * 128
  | .vfma q b a d => 0x30000031 + q.toNat * 33554432 + b.toCode.toNat * 524288 + a.toCode.toNat * 8192 + d.toNat * 128
  | .vfms q b a d => 0x40000031 + q.toNat * 33554432 + b.toCode.toNat * 524288 + a.toCode.toNat * 8192 + d.toNat * 128
  | .vnfma q b a d => 0x50000031 + q.toNat * 33554432 + b.toCode.toNat * 524288 + a.toCode.toNat * 8192 + d.toNat * 128
  | .vmin q b a d => 0x60000031 + q.toNat * 33554432 + b.toCode.toNat * 524288 + a.toCode.toNat * 8192 + d.toNat * 128
  | .vmax q b a d => 0x70000031 + q.toNat * 33554432 + b.toCode.toNat * 524288 + a.toCode.toNat * 8192 + d.toNat * 128
  | .vabs q a d => 0x80000031 + q.toNat * 33554432 + a.toCode.toNat * 8192 + d.toNat * 128
  | .vneg q a d => 0x90000031 + q.toNat * 33554432 + a.toCode.toNat * 8192 + d.toNat * 128
  | .vand q b a d => 0xA0000031 + q.toNat * 33554432 + b.toCode.toNat * 524288 + a.toCode.toNat * 8192 + d.toNat * 128
  | .vor q b a d => 0xB0000031 + q.toNat * 33554432 + b.toCode.toNat * 524288 + a.toCode.toNat * 8192 + d.toNat * 128
  | .vxor q b a d => 0xC0000031 + q.toNat * 33554432 + b.toCode.toNat * 524288 + a.toCode.toNat * 8192 + d.toNat * 128
  | .vshl q b a d => 0xD0000031 + q.toNat * 33554432 + b.toCode.toNat * 524288 + a.toCode.toNat * 8192 + d.toNat * 128
  | .vshr q b a d => 0xE0000031 + q.toNat * 33554432 + b.toCode.toNat * 524288 + a.toCode.toNat * 8192 + d.toNat * 128
  | .vsra q b a d => 0xF0000031 + q.toNat * 33554432 + b.toCode.toNat * 524288 + a.toCode.toNat * 8192 + d.toNat * 128
  | .vcmp c b a k => 0x33 + c.toNat * 33554432 + b.toCode.toNat * 524288 + a.toCode.toNat * 8192 + k.toNat * 128
  | .vsel k b a d => 0x10000033 + k.toNat * 33554432 + b.toCode.toNat * 524288 + a.toCode.toNat * 8192 + d.toNat * 128
  | .vmov q a d => 0x20000033 + q.toNat * 33554432 + a.toCode.toNat * 8192 + d.toNat * 128
  | .vbcast a d => 0x30000033 + a.toCode.toNat * 8192 + d.toNat * 128
  | .vext b a d => 0x40000033 + b.toCode.toNat * 524288 + a.toCode.toNat * 8192 + d.toNat * 128
  | .vins b a d => 0x50000033 + b.toCode.toNat * 524288 + a.toCode.toNat * 8192 + d.toNat * 128
  | .vperm b a d => 0x60000033 + b.toCode.toNat * 524288 + a.toCode.toNat * 8192 + d.toNat * 128
  | .vslide b a d => 0x70000033 + b.toCode.toNat * 524288 + a.toCode.toNat * 8192 + d.toNat * 128
  | .vmulh q b a d => 0x80000033 + q.toNat * 33554432 + b.toCode.toNat * 524288 + a.toCode.toNat * 8192 + d.toNat * 128
  | .vclz q a d => 0x90000033 + q.toNat * 33554432 + a.toCode.toNat * 8192 + d.toNat * 128
  | .vpopc q a d => 0xA0000033 + q.toNat * 33554432 + a.toCode.toNat * 8192 + d.toNat * 128
  | .vadds q b a d => 0xB0000033 + q.toNat * 33554432 + b.toCode.toNat * 524288 + a.toCode.toNat * 8192 + d.toNat * 128
  | .vsubs q b a d => 0xC0000033 + q.toNat * 33554432 + b.toCode.toNat * 524288 + a.toCode.toNat * 8192 + d.toNat * 128
  | .vcvt q t a d => 0x35 + q.toNat * 33554432 + t.toNat * 524288 + a.toCode.toNat * 8192 + d.toNat * 128
  | .vqnt q b a d => 0x10000035 + q.toNat * 33554432 + b.toCode.toNat * 524288 + a.toCode.toNat * 8192 + d.toNat * 128
  | .vdq q b a d => 0x20000035 + q.toNat * 33554432 + b.toCode.toNat * 524288 + a.toCode.toNat * 8192 + d.toNat * 128
  | .vrndi q a d => 0x30000035 + q.toNat * 33554432 + a.toCode.toNat * 8192 + d.toNat * 128
  | .vscale q b a d => 0x40000035 + q.toNat * 33554432 + b.toCode.toNat * 524288 + a.toCode.toNat * 8192 + d.toNat * 128
  | .vgetexp q a d => 0x50000035 + q.toNat * 33554432 + a.toCode.toNat * 8192 + d.toNat * 128
  | .vexp2 q a d => 0x37 + q.toNat * 33554432 + a.toCode.toNat * 8192 + d.toNat * 128
  | .vlog2 q a d => 0x10000037 + q.toNat * 33554432 + a.toCode.toNat * 8192 + d.toNat * 128
  | .vrcp q a d => 0x20000037 + q.toNat * 33554432 + a.toCode.toNat * 8192 + d.toNat * 128
  | .vrsq q a d => 0x30000037 + q.toNat * 33554432 + a.toCode.toNat * 8192 + d.toNat * 128
  | .vsqrt q a d => 0x40000037 + q.toNat * 33554432 + a.toCode.toNat * 8192 + d.toNat * 128
  | .vsinpi q a d => 0x50000037 + q.toNat * 33554432 + a.toCode.toNat * 8192 + d.toNat * 128
  | .vcospi q a d => 0x60000037 + q.toNat * 33554432 + a.toCode.toNat * 8192 + d.toNat * 128
  | .vredsum a d => 0x39 + a.toCode.toNat * 8192 + d.toNat * 128
  | .vredmax a d => 0x10000039 + a.toCode.toNat * 8192 + d.toNat * 128
  | .vredmin a d => 0x20000039 + a.toCode.toNat * 8192 + d.toNat * 128
  | .vredamax a d => 0x30000039 + a.toCode.toNat * 8192 + d.toNat * 128
  | .vrowmax a d => 0x40000039 + a.toCode.toNat * 8192 + d.toNat * 128
  | .vxadd b a => 0x50000039 + b.toCode.toNat * 524288 + a.toCode.toNat * 8192
  | .vxrd a d => 0x60000039 + a.toCode.toNat * 8192 + d.toNat * 128
  | .vxclr a => 0x70000039 + a.toCode.toNat * 8192
  | .vld b a d => 0x3B + b.toCode.toNat * 524288 + a.toCode.toNat * 8192 + d.toNat * 128
  | .vst b a d => 0x1000003B + b.toCode.toNat * 524288 + a.toCode.toNat * 8192 + d.toCode.toNat * 128
  | .vgath b a d => 0x2000003B + b.toCode.toNat * 524288 + a.toCode.toNat * 8192 + d.toNat * 128
  | .vscat b a d => 0x3000003B + b.toCode.toNat * 524288 + a.toCode.toNat * 8192 + d.toCode.toNat * 128
  | .vldb b a d => 0x4000003B + b.toCode.toNat * 524288 + a.toCode.toNat * 8192 + d.toNat * 128
  | .shpld q a => 0x3D + q.toNat * 33554432 + a.toCode.toNat * 8192
  | .shpst q a => 0x1000003D + q.toNat * 33554432 + a.toCode.toNat * 8192
  | .hbind b a d => 0x2000003D + b.toCode.toNat * 524288 + a.toCode.toNat * 8192 + d.toNat * 128
  | .hadvc d => 0x3000003D + d.toNat * 128
  | .hadvp d => 0x4000003D + d.toNat * 128
  | .hstat a d => 0x5000003D + a.toNat * 8192 + d.toNat * 128
  | .hunbind d => 0x6000003D + d.toNat * 128
  | .mma z n ta tb w x y => 0x3F + z.toNat * 2147483648 + n.toNat * 1073741824 + ta.toNat * 67108864 + tb.toNat * 4194304 + w.toNat * 131072 + x.toNat * 4096 + y.toNat * 128
  | .mmas p ta tb q w x y => 0x41 + p.toNat * 1073741824 + ta.toNat * 67108864 + tb.toNat * 4194304 + q.toNat * 1048576 + w.toNat * 32768 + x.toNat * 2048 + y.toNat * 128
  | .mmaq z n ta tb w x y => 0x43 + z.toNat * 2147483648 + n.toNat * 1073741824 + ta.toNat * 67108864 + tb.toNat * 4194304 + w.toNat * 131072 + x.toNat * 4096 + y.toNat * 128
  | .tld t a y x => 0x45 + t.toNat * 16777216 + a.toCode.toNat * 262144 + y.toNat * 8192 + x.toCode.toNat * 128
  | .tzero t y => 0x10000045 + t.toNat * 16777216 + y.toNat * 8192
  | .acz a y => 0x20000045 + a.toCode.toNat * 262144 + y.toNat * 8192
  | .acrd a y x => 0x30000045 + a.toCode.toNat * 262144 + y.toNat * 8192 + x.toCode.toNat * 128
  | .acwr a y x => 0x40000045 + a.toCode.toNat * 262144 + y.toNat * 8192 + x.toCode.toNat * 128
  | .jpoll a x => 0x50000045 + a.toCode.toNat * 262144 + x.toNat * 128
  | .jwait a => 0x60000045 + a.toCode.toNat * 262144
  | .cxrd a d => 0x47 + a.toCode.toNat * 8192 + d.toNat * 128
  | .burst b a d => 0x2000047 + b.toCode.toNat * 524288 + a.toCode.toNat * 8192 + d.toCode.toNat * 128
  | .cxdone a => 0x4000047 + a.toCode.toNat * 8192
  | .subscr a d => 0x49 + a.toNat * 8192 + d.toNat * 128
  | .unsub d => 0x2000049 + d.toNat * 128
  | .tagwany a d => 0x4B + a.toCode.toNat * 8192 + d.toNat * 128
  | .tagwall a d => 0x200004B + a.toCode.toNat * 8192 + d.toNat * 128
  | .tagff a d => 0x400004B + a.toCode.toNat * 8192 + d.toNat * 128
  | .tagclr a => 0x600004B + a.toCode.toNat * 8192
  | .tagrd d => 0x800004B + d.toNat * 128
  | .obnew b a d => 0x4D + b.toCode.toNat * 524288 + a.toCode.toNat * 8192 + d.toNat * 128
  | .obdel a => 0x200004D + a.toCode.toNat * 8192
  | .arrive a => 0x400004D + a.toCode.toNat * 8192
  | .arriveLeave a => 0x8400004D + a.toCode.toNat * 8192
  | .arriveb b a => 0x600004D + b.toCode.toNat * 524288 + a.toCode.toNat * 8192
  | .wait a d => 0x800004D + a.toCode.toNat * 8192 + d.toNat * 128
  | .signal b a => 0xA00004D + b.toCode.toNat * 524288 + a.toCode.toNat * 8192
  | .lock a d => 0xC00004D + a.toCode.toNat * 8192 + d.toNat * 128
  | .unlock a => 0xE00004D + a.toCode.toNat * 8192
  | .obxfer b a d => 0x1000004D + b.toCode.toNat * 524288 + a.toCode.toNat * 8192 + d.toCode.toNat * 128
  | .obrd b a d => 0x1200004D + b.toCode.toNat * 524288 + a.toCode.toNat * 8192 + d.toNat * 128
  | .rankof a d => 0x1400004D + a.toCode.toNat * 8192 + d.toNat * 128
  | .spawn a d => 0x4F + a.toCode.toNat * 8192 + d.toNat * 128
  | .exit => 0x200004F
  | .yield => 0x400004F
  | .msgsend a => 0x600004F + a.toCode.toNat * 8192
  | .ttarm a d => 0x800004F + a.toCode.toNat * 8192 + d.toNat * 128
  | .now d => 0xA00004F + d.toNat * 128
  | .wstart a => 0x51 + a.toCode.toNat * 8192
  | .wend => 0x2000051
  | .wpos d => 0x4000051 + d.toNat * 128
  | .sync a d => 0x53 + a.toCode.toNat * 8192 + d.toNat * 128
  | .xmit b a => 0x2000053 + b.toCode.toNat * 524288 + a.toNat * 8192
  | .xrecv b d => 0x4000053 + b.toCode.toNat * 524288 + d.toNat * 128
  | .muxsel a => 0x6000053 + a.toCode.toNat * 8192
  | .rst m s b a d => 0x29 + m.toNat * 134217728 + s.toNat * 33554432 + b.toCode.toNat * 524288 + a.toCode.toNat * 8192 + d.toNat * 128
  | .ramoAdd s b a => 0x2B + s.toNat * 134217728 + b.toCode.toNat * 524288 + a.toCode.toNat * 8192
  | .ramoAnd s b a => 0x1000002B + s.toNat * 134217728 + b.toCode.toNat * 524288 + a.toCode.toNat * 8192
  | .ramoOr s b a => 0x2000002B + s.toNat * 134217728 + b.toCode.toNat * 524288 + a.toCode.toNat * 8192
  | .ramoXor s b a => 0x3000002B + s.toNat * 134217728 + b.toCode.toNat * 524288 + a.toCode.toNat * 8192
  | .ramoMin s b a => 0x4000002B + s.toNat * 134217728 + b.toCode.toNat * 524288 + a.toCode.toNat * 8192
  | .ramoMax s b a => 0x5000002B + s.toNat * 134217728 + b.toCode.toNat * 524288 + a.toCode.toNat * 8192
  | .ramoMinn s b a => 0x6000002B + s.toNat * 134217728 + b.toCode.toNat * 524288 + a.toCode.toNat * 8192
  | .ramoMaxn s b a => 0x7000002B + s.toNat * 134217728 + b.toCode.toNat * 524288 + a.toCode.toNat * 8192
  | .ramoSwap s b a => 0x8000002B + s.toNat * 134217728 + b.toCode.toNat * 524288 + a.toCode.toNat * 8192
  | .ramoCas s b a d => 0x9000002B + s.toNat * 134217728 + b.toCode.toNat * 524288 + a.toCode.toNat * 8192 + d.toNat * 128
  | .ramoFadd b a => 0xA000002B + b.toCode.toNat * 524288 + a.toCode.toNat * 8192
  | .ramoBfadd2 b a => 0xB000002B + b.toCode.toNat * 524288 + a.toCode.toNat * 8192
  | .sflush a => 0x2D + a.toCode.toNat * 8192
  | .sflusha => 0x200002D
  | .fencef d => 0x400002D + d.toNat * 128
  | .ferr d => 0x600002D + d.toNat * 128
  | .pgcommit a d => 0x55 + a.toCode.toNat * 8192 + d.toNat * 128
  | .pgfree a d => 0x2000055 + a.toCode.toNat * 8192 + d.toNat * 128
  | .tlbinv b a => 0x4000055 + b.toCode.toNat * 524288 + a.toCode.toNat * 8192
  | .addrq a d => 0x6000055 + a.toCode.toNat * 8192 + d.toNat * 128
  | .padcfgChange | .registerWrite | .feTimeout | .feResend | .remoteFeRequest | .matrixJobAdmission
  | .matrixJobStart | .matrixJobCompletion | .kick | .copyAccept | .templateSlotWrite | .copyStart | .burstAck
  | .copyCompletion | .loaderSlotFill | .storerSlotDrain | .waitResume | .armedEntryPush | .gangSlot | .slotSend
  | .routerValueArrival | .sachetAgeDeparture | .elementApply | .elementAckTimeout | .elementStatus | .remoteNotice
  | .fabricInterfaceReset | .linkFailureReset | .linkRetrainComplete | .collectiveResend | .cfgFormatRegion
  | .cfgQueue | .cfgDomain | .cfgPoolPages | .cfgMigrate | .cfgRemoteFaultLog | .cfgAccessLog | .cfgSparseFaultQueue
  | .cfgErrorLog | .cfgUndoLog | .cfgAuditArea | .cfgReleaseQuarantine | .cfgResetCluster | .cfgStopCluster
  | .sliceReady | .dispatchMatch | .footprintStaging | .preemption | .suspension | .resumption | .retireWriteback
  | .budgetExhausted | .budgetGraceExhausted | .dispositionRelease | .dispositionKill | .dispositionStep
  | .clusterReset | .clusterStop | .rollback | .patrolScrub | .noseAuditPush | .noseVerdict | .auditAbandon
  | .hostWrite | .hostRead | .hostLaunch | .hostNotice | .noticeResend | .hostAck | .telemetry | .attest
  | .openSession | .closeSession | .partitionTable | .dieReset | .recordWrite | .powerOnBoot | .throttleRaise
  | .throttleLower | .thermalFloor | .thermalShutdown | .remoteFeResponse | .xrecvCyclePassed | .softError
  | .linkFailure | .vicgrpChange => 0

/-- The literal bytes of a source, low byte first (04 R52). -/
def Src.lit : Src → List Byte
  | .code _ => []
  | .lit32 x => (List.range 4).map fun k => x.extractLsb' (8 * k) 8
  | .lit64 x => (List.range 8).map fun k => x.extractLsb' (8 * k) 8

/-- The bytes of an instruction, lowest address first (00 R8, 04 R48). -/
def encode (i : Instr) : List Byte :=
  let w := encodeWord i
  (List.range (if i.isC then 2 else 4)).map (fun k => BitVec.ofNat 8 (w / 256 ^ k)) ++ (i.srcs.map Src.lit).flatten

/-- The instruction that the decoder reads from an instruction whose bits are `w`, numbered as the opcode table numbers
them, the bits above `nbits` zero: the bytes at rising addresses are `w`'s bytes from the least significant up. -/
def decodeTableWord (nbits w : Nat) : Option Instr :=
  match decode ((List.range 12).map fun k => BitVec.ofNat 8 (w % 2 ^ nbits / 256 ^ k)) with
  | .ok (i, _) => some i
  | .error _ => none

end Sys2Proof
end

