-- ==== Sys2Proof/Machine/Memory.lean ====
section
/-! DEFINITION. The one memory: bytes at location keys, in canonical form (02 R13, 19 R305). A byte of HBM stands at its
physical address, a byte of a pad at its coordinate pad-window address (06 R90). An unlisted byte reads zero
(12 R243; log entry 3). -/

namespace Sys2Proof.Machine

/-- What an address that is not listed reads as. -/
def Memory.unlisted : Byte := 0

/-- One byte. -/
def Memory.read : Memory → Nat → Byte
  | [], _ => Memory.unlisted
  | (c, x) :: m, a => if a = c then x else Memory.read m a

/-- One byte written; writing what an unlisted address reads as removes the entry. -/
def Memory.write : Memory → Nat → Byte → Memory
  | [], a, b => if b = Memory.unlisted then [] else [(a, b)]
  | (c, x) :: m, a, b =>
    if a < c then (if b = Memory.unlisted then (c, x) :: m else (a, b) :: (c, x) :: m)
    else if a = c then (if b = Memory.unlisted then m else (a, b) :: m)
    else (c, x) :: Memory.write m a b

/-- Addresses all above `lo`, strictly rising, no entry equal to what an unlisted address reads as. -/
def Memory.above : Nat → Memory → Bool
  | _, [] => true
  | lo, (c, x) :: m => decide (lo ≤ c) && (x != Memory.unlisted) && Memory.above (c + 1) m

/-- The canonical form. -/
def Memory.wf (m : Memory) : Bool := Memory.above 0 m

/-- The `n` bytes from an address up. -/
def Memory.readBytes (m : Memory) : Nat → Nat → List Byte
  | _, 0 => []
  | a, n + 1 => m.read a :: Memory.readBytes m (a + 1) n

/-- The little-endian number in the `n` bytes from an address up. -/
def Memory.readNat (m : Memory) (a n : Nat) : Nat := leNat (m.readBytes a n)

/-- Bytes written from an address up. -/
def Memory.writeBytes : Memory → Nat → List Byte → Memory
  | m, _, [] => m
  | m, a, b :: bs => Memory.writeBytes (m.write a b) (a + 1) bs

/-- A little-endian number written into `n` bytes. -/
def Memory.writeNat (m : Memory) (a n x : Nat) : Memory := m.writeBytes a (leBytes n x)

/-- Every byte from `a` to below `a + n` zero again. -/
def Memory.clear (m : Memory) (a n : Nat) : Memory := m.filter fun p => p.1 < a || a + n ≤ p.1

/-- The key of a pad's byte: die, row, column, lane in bits 30:17 of the compact address, the offset in bits 15:0
(06 R90, 02 R23). -/
def padBase : Nat := 0x01FFFFFF00000000

/-- The keys of a core's own pad start here; `core` is a `coreid`. -/
def padOf (core : Nat) : Nat := padBase + core / 2 ^ 17 * 2 ^ 17

/-- Whether a key is a pad's. -/
def isPad (key : Nat) : Bool := padBase ≤ key

/-- The doublewords that `n` bytes from `a` touch. -/
def dwordsOf (a n : Nat) : List Nat :=
  (List.range ((a + n + 7) / 8 - a / 8)).map fun i => a / 8 * 8 + 8 * i

end Sys2Proof.Machine
end

