-- ==== Sys2Proof/Machine/Base.lean ====
section
/-! DEFINITION. The monad in which meanings are written, and the accessors of the state. A meaning answers the state after
it, or it ends before its end: with a trap, or with nothing more happening in this step. -/

namespace Sys2Proof.Machine

/-- How a meaning ends before its end. The state of a trap is what its class leaves (05 R87). -/
inductive Stop where
  | trap (c : Cause) (tval : Word) (cls : TrapClass) (s : State)
  /-- nothing more happens in this step: the thread waits, or the event has no subject -/
  | stay (s : State)

abbrev M := StateT State (Except Stop)

/-- A trap of the Before class: what the state holds now stays (05 R87). -/
def trapNow {α : Type} (c : Cause) (tval : Word) : M α := fun s => .error (.trap c tval .before s)

/-- A trap of a given class. -/
def trapAs {α : Type} (c : Cause) (tval : Word) (cls : TrapClass) : M α := fun s => .error (.trap c tval cls s)

/-- Nothing more in this step. -/
def stayNow {α : Type} : M α := fun s => .error (.stay s)

/-- A trap unless the condition holds. -/
def require (p : Bool) (c : Cause) (tval : Word) : M Unit := if p then pure () else trapNow c tval

/-! Places of cores (02 R23). -/

def clusterOf (core : Nat) : Nat := core / 2 ^ 21
def laneOf (core : Nat) : Nat := core / 2 ^ 17 % 16
def coreKey (core : Nat) : Nat := core / 2 ^ 17
def dieOf (core : Nat) : Nat := core / 2 ^ 29 % 4
/-- The `coreid` of a cluster's lane, thread 0. -/
def coreAt (cl lane : Nat) : Nat := cl * 2 ^ 21 + lane * 2 ^ 17
/-- The `coreid` of a cluster's copy channel. -/
def channelCore (cl ch : Nat) : Nat := coreAt cl 9 + ch * 2
/-- An agent that is no core: a copy unit, a Cobbler, a matrix engine, another module. -/
def engineAgent : Nat := 2 ^ 40
/-- The kind of context a `coreid` names (02 R13). -/
def kindAt (core : Nat) : CtxKind := if laneOf core < 8 then .lane else if laneOf core = 8 then .control else .hart

/-! Parts of the state by number. -/

def State.ctx (s : State) (core : Nat) : Ctx :=
  if core = s.t.coreid then s.t else s.others.getD core (Ctx.reset (kindAt core) core)

def State.setCtx (s : State) (c : Ctx) : State :=
  if c.coreid = s.t.coreid then { s with t := c } else { s with others := s.others.put c.coreid c }

def State.core (s : State) (core : Nat) : CoreSt := s.cores.getD (coreKey core) CoreSt.reset
def State.setCore (s : State) (core : Nat) (c : CoreSt) : State := { s with cores := s.cores.put (coreKey core) c }
def State.cluster (s : State) (cl : Nat) : Cluster := s.clusters.getD cl Cluster.reset
def State.setCluster (s : State) (cl : Nat) (c : Cluster) : State := { s with clusters := s.clusters.put cl c }
def State.part (s : State) (p : Nat) : Partition := s.parts.getD p Partition.reset
def State.setPart (s : State) (p : Nat) (x : Partition) : State := { s with parts := s.parts.put p x }

/-- The partition a cluster belongs to (19 R321). -/
def State.partOf (s : State) (cl : Nat) : Option Nat := (s.parts.find? fun x => x.2.clusters.contains cl).map (·.1)

/-- The number `partid` reads: 0 where a core is in no partition (log entry 2). -/
def State.partNo (s : State) (core : Nat) : Nat := (s.partOf (clusterOf core)).getD 0

/-- The partition of the context whose turn it is. -/
def State.myPart (s : State) : Partition := s.part (s.partNo s.t.coreid)

def State.slice (s : State) (id : Nat) : Option Slice := s.slices.find? fun x => x.id == id

/-- A slice's entry replaced. -/
def State.setSlice (s : State) (x : Slice) : State :=
  { s with slices := s.slices.map fun y => if y.id = x.id then x else y }

/-- Whether a context is its partition's supervisor (19 R321). -/
def State.isSup (s : State) (core : Nat) : Bool :=
  match s.partOf (clusterOf core) with
  | some p => (s.part p).supervisor == core
  | none => false

/-- The gang of the context's slice, with the context's position (11 R213). -/
def State.gangOf (s : State) (core : Nat) : Option (Nat × Gang × Nat) :=
  (s.gangs.findSome? fun (id, g) =>
    match g.members.findIdx? (· == core) with
    | some p => some (id, g, p)
    | none => none)

/-- The formed gang a context is a member of; a member that ends its instruction in an abandoned slot still counts
(11 R219). -/
def State.formedGang (s : State) (core : Nat) : Option (Nat × Gang × Nat) :=
  match s.gangOf core with
  | some (id, g, p) => if g.formed && (!g.stopped || g.closing.contains p) then some (id, g, p) else none
  | none => none

/-- The context that holds the activity's table, sticky word and budget: the leader in a gang (09 R167, 13 R266). -/
def State.leaderOf (s : State) (core : Nat) : Nat :=
  match s.gangOf core with
  | some (_, g, _) => g.members.headD core
  | none => core

/-- A follower executing in a formed gang: it takes the leader's decisions (09 R167, 11 R216). -/
def State.follower (s : State) (core : Nat) : Bool :=
  match s.formedGang core with
  | some (_, _, p) => p != 0
  | none => false

/-! The context whose turn it is. -/

def readT {α : Type} (f : Ctx → α) : M α := fun s => .ok (f s.t, s)
def readS {α : Type} (f : State → α) : M α := fun s => .ok (f s, s)
def modS (f : State → State) : M Unit := fun s => .ok ((), f s)
def modT (f : Ctx → Ctx) : M Unit := fun s => .ok ((), { s with t := f s.t })

/-- A change of another context's, or this one's, record. -/
def State.modCtx (s : State) (core : Nat) (f : Ctx → Ctx) : State := s.setCtx (f (s.ctx core))
def State.modCluster (s : State) (cl : Nat) (f : Cluster → Cluster) : State := s.setCluster cl (f (s.cluster cl))
def State.modCore (s : State) (core : Nat) (f : CoreSt → CoreSt) : State := s.setCore core (f (s.core core))
def State.modPart (s : State) (p : Nat) (f : Partition → Partition) : State := s.setPart p (f (s.part p))
def State.modSlice (s : State) (id : Nat) (f : Slice → Slice) : State :=
  { s with slices := s.slices.map fun y => if y.id = id then f y else y }

/-- A free value's number (log entry 4). -/
def nextFresh : M Nat := fun s => .ok (s.fresh, { s with fresh := s.fresh + 1 })

/-- A trap whose `tval` the spec leaves open: a free value (log entry 18). -/
def trapOpen {α : Type} (c : Cause) : M α := do
  let n ← nextFresh
  trapNow c (Config.openTval n)

/-! The agenda (log entry 1). -/

/-- Something to happen after what already stands in the agenda. -/
def State.push (s : State) (i : Instr) (a : EventArg) : State := { s with agenda := s.agenda ++ [.event i a] }

/-- A turn of a context. -/
def State.pushTurn (s : State) (core : Nat) : State :=
  if s.agenda.contains (.turn core) then s else { s with agenda := s.agenda ++ [.turn core] }

/-- An event whose time has not come goes to the end, behind a turn of the current context. -/
def notYet {α : Type} (i : Instr) : M α := fun s =>
  let s1 := s.pushTurn s.t.coreid
  .error (.stay { s1 with agenda := s1.agenda ++ [.event i s.arg] })

/-- The codes of the causes (20 R329). -/
def Cause.code : Cause → Nat
  | .illop => 1 | .reprange => 2 | .align => 3 | .accv => 4 | .page => 5 | .tilefault => 6 | .ptersv => 7 | .perm => 8
  | .rankv => 9 | .unowed => 10 | .exitowe => 11 | .obfull => 12 | .budget => 14 | .slotviol => 15 | .xphase => 16
  | .gang => 17 | .poison => 18 | .fpe => 19 | .mcfg => 20 | .watch => 21 | .step => 22 | .brkpt => 23 | .svc => 24
  | .trapi => 25 | .preempt => 26 | .remote => 27

def TrapClass.code : TrapClass → Nat
  | .before => 0 | .after => 1 | .between => 2

end Sys2Proof.Machine
end

