-- ==== Sys2Proof/Machine/Logs.lean ====
section
/-! DEFINITION. Writing the memory as an agent does (poison, ownership, undo log), and the logs that Sorim keeps in HBM
(13 R267, 19 R312, R326, 22 R352, R356, 24 R377). -/

namespace Sys2Proof.Machine

/-- The 4-byte words of the sector at `sec` that `n` bytes from `key` touch. -/
def wordMask (sec key n : Nat) : BitVec 16 :=
  BitVec.ofNat 16 ((List.range 16).foldl
    (fun x i => if key < sec + 4 * i + 4 && sec + 4 * i < key + n then x + 2 ^ i else x) 0)

/-- A cache line's words that `n` bytes from `key` touch are no longer owned (12 R236). -/
def CacheLine.unown (l : CacheLine) (key n : Nat) : CacheLine :=
  if key < l.sector + 64 && l.sector < key + n then { l with owned := l.owned &&& ~~~wordMask l.sector key n } else l

/-- The doublewords that `n` bytes from `a` cover whole. -/
def wholeDwords (a n : Nat) : List Nat := (dwordsOf a n).filter fun d => a ≤ d && d + 8 ≤ a + n

/-- No core owns a word of the `n` bytes at a location of global memory any more (12 R236). -/
def State.unown (s : State) (key n : Nat) : State :=
  if isPad key then s else
    { s with cores := s.cores.map fun x => (x.1, { x.2 with lines := x.2.lines.map (·.unown key n) }) }

/-- Bytes written at a location by some agent: other cores' ownership ends. Poison stays: only the writes of `cleanStore`, of
08 R149, and Sorim's own of `lay` end it (22 R351). -/
def State.write (s : State) (key : Nat) (bs : List Byte) : State :=
  { s with mem := s.mem.writeBytes key bs }.unown key bs.length

/-- A store of a whole aligned 8-byte word ends its poison (06 R100, 22 R351). -/
def State.cleanStore (s : State) (key n : Nat) : State :=
  if n = 8 ∧ key % 8 = 0 then { s with bad := setDrop s.bad key } else s

/-- A record of Sorim's own written (a log's entry, a save area, a PTE): it goes out in aligned 8-byte words, so the whole
doublewords that it covers are no longer poisoned (log entry 81). -/
def State.lay (s : State) (key : Nat) (bs : List Byte) : State :=
  let s1 := s.write key bs
  { s1 with bad := s1.bad.filter fun d => !(wholeDwords key bs.length).contains d }

def State.writeNat (s : State) (key n x : Nat) : State := s.lay key (leBytes n x)

/-- Whether any of the `n` bytes lies in a poisoned doubleword (22 R350). -/
def State.poisoned (s : State) (key n : Nat) : Bool := (dwordsOf key n).any s.bad.contains

/-- Doublewords marked as uncorrectable data. -/
def State.poison (s : State) (key n : Nat) : State := { s with bad := (dwordsOf key n).foldl setAdd s.bad }

/-! Domains (11 R223, 22 R355, R356). -/

/-- A domain's member register bit of a core: bit 2l + t of a lane thread, bit 16 of the control core (11 R223). -/
def memberBit (core : Nat) : Nat := if laneOf core = 8 then 16 else 2 * laneOf core + core % 2

def Domain.hasMember (d : Domain) (core : Nat) : Bool := bitOf (d.members.getD (clusterOf core) 0) (memberBit core)

/-- The domains a thread is a member of, with their positions, lowest level first. -/
def State.domainsOf (s : State) (core : Nat) : List (Nat × Domain) :=
  let ds := (s.part (s.partNo core)).domains
  let here := ((List.range ds.length).zip ds).filter fun x => x.2.hasMember core
  [0, 1, 2, 3].flatMap fun l => here.filter fun x => x.2.level == l

/-- Whether a thread is in a transfer phase, and of which domain (11 R226, R231): its innermost domain that is in one and that
EXIT has not taken it out of (11 R229). A follower counts with its leader (11 R228). -/
def State.transferOf (s : State) (core : Nat) : Option (Nat × Domain) :=
  let lead := s.leaderOf core
  (s.domainsOf lead).find? fun d => d.2.transfer && !d.2.left.contains lead

/-- Whether a pad's location is kept from other agents while a member of a transfer phase runs on its core (11 R231): their
requests wait until the phase ends. -/
def State.padHeld (s : State) (core key : Nat) : Bool :=
  isPad key &&
    let k := (key - padBase) / 2 ^ 17 * 2 ^ 17
    coreKey core != coreKey k && ((s.transferOf k).isSome || (s.transferOf (k + 1)).isSome)

/-- A lane thread in no transfer phase whose core's other thread is in one: the core issues from that one only (11 R231). -/
def State.yieldsCore (s : State) : Bool :=
  s.t.kind == .lane && (s.transferOf s.t.coreid).isNone &&
    (let other := if s.t.coreid % 2 = 0 then s.t.coreid + 1 else s.t.coreid - 1
     (s.transferOf other).isSome && (s.ctx other).mode != .idle)

/-- A domain of a partition changed. -/
def State.modDomain (s : State) (p i : Nat) (f : Domain → Domain) : State :=
  s.modPart p fun x => { x with domains := x.domains.modify i f }

/-- The top-level domain of a thread with a snapshot in force (22 R355, R357). -/
def State.snapshotOf (s : State) (core : Nat) : Option (Nat × Domain) :=
  (s.domainsOf (s.leaderOf core)).find? fun x => x.2.parent.isNone && x.2.snapshot && x.2.repeatable

/-- A superstep becomes unrepeatable (22 R357). -/
def State.unrepeatable (s : State) (core : Nat) : State :=
  match s.snapshotOf core with
  | some (i, _) => s.modDomain (s.partNo core) i fun d => { d with repeatable := false }
  | none => s

/-- How many entries of 128 bytes an undone block takes: a tile or accumulator row takes one for each 64 bytes of it (22 R356,
log entry 20). -/
def Undo.pieces (u : Undo) : Nat := max 1 ((u.old.length + 63) / 64)

/-- The offsets in an undone block of the doublewords that were poisoned: of a tile row all, of an accumulator row the ones with
a marked cell (22 R356, 08 R149). -/
def Undo.badOffsets (u : Undo) : List Nat :=
  match u.space with
  | 2 => if u.bad.isEmpty then [] else dwordsOf 0 u.old.length
  | 3 => (u.bad.map fun j => 4 * j / 8 * 8).eraseDups
  | _ => u.bad.map (· % 64)

/-- The image of one entry of the undo log: piece `j` of a block (22 R356). -/
def Undo.image (u : Undo) (fullBits j : Nat) : List Byte :=
  leBytes 8 u.space ++ leBytes 8 u.block ++ leBytes 48 fullBits ++ ((u.old.drop (64 * j)).take 64 ++ List.replicate 64 0).take 64

/-- The entries of an undo log in HBM. -/
def Domain.undoEntries (d : Domain) : Nat := d.undo.foldl (fun n u => n + u.pieces) 0

/-- A block added to the undo log, with its image in HBM, unless the block is already there (22 R356). A full log makes
the superstep unrepeatable (R357). `space`, `block`, the eight full/empty bits and the old bytes come from the caller. -/
def State.undoEntry (s : State) (core space block : Nat) (old : List Byte) (full bad : List Nat) (fullBits : Nat) : State :=
  match s.snapshotOf core with
  | none => s
  | some (i, d) =>
    if d.undo.any fun u => u.space == space && u.block == block then s else
    match d.undoLog with
    | none => s
    | some (addr, size) =>
      let u : Undo := ⟨space, block, old, full, bad⟩
      if size < 128 * (d.undoEntries + u.pieces) then s.unrepeatable core else
      let a := addr + 128 * d.undoEntries
      let s1 := (List.range u.pieces).foldl (fun x j => x.lay (a + 128 * j) (u.image fullBits j)) s
      let s2 := u.badOffsets.foldl (fun x o => x.poison (a + o / 64 * 128 + 64 + o % 64) 8) s1
      s2.modDomain (s.partNo core) i fun x => { x with undo := x.undo ++ [u] }

/-- The undo entry of the 64-byte block at a key (spaces 0 and 1). -/
def State.undoBlock (s : State) (core key : Nat) : State :=
  let b := key / 64 * 64
  let fs := setRange s.full b 64
  s.undoEntry core (if isPad key then 0 else 1) (if isPad key then b - padBase else b) (s.mem.readBytes b 64) fs
    (setRange s.bad b 64) (fs.foldl (fun x k => x + 2 ^ ((k - b) / 8)) 0)

/-- Bytes written for a member thread or an engine it started: the old blocks are logged first. -/
def State.writeFor (s : State) (core key : Nat) (bs : List Byte) : State :=
  let blocks := (List.range ((key + bs.length + 63) / 64 - key / 64)).map fun i => key / 64 * 64 + 64 * i
  (blocks.foldl (fun x b => x.undoBlock core b) s).write key bs

/-- A full/empty bit changed for an agent, logged first (06 R111, 22 R356). -/
def State.setFull (s : State) (core key : Nat) (f : Bool) : State :=
  let d := key / 8 * 8
  if s.full.contains d == f then s else
  let s1 := s.undoBlock core d
  { s1 with full := if f then setAdd s1.full d else setDrop s1.full d }

/-! Logs and notices. -/

/-- A notice raised for a partition's host destination (24 R377): beyond 256 waiting it is only counted. -/
def State.notice (s : State) (p kind detail : Nat) : State :=
  let x := s.part p
  if 256 ≤ x.notices.length then s.setPart p { x with notSent := x.notSent + 1 } else
  let n : Notice := ⟨x.noticeSeq + 1, kind, detail, s.time, x.notSent, none⟩
  (s.setPart p { x with notices := x.notices ++ [n], noticeSeq := x.noticeSeq + 1, notSent := 0 }).push .hostNotice { x := p }

/-- An entry appended to a ring log at a physical address: a 64-byte header, then `cap` entries of `size` bytes. The
count of entries overwritten before they were read is at bytes 8 to 15, the read count at bytes 16 to 23 (19 R312). The
first overwrite of an unread entry raises a notice of kind 2 (19 R325, 24 R378). -/
def State.ringLog (s : State) (p : Nat) (log : Option Nat) (cap size : Nat) (entry : Nat → List Byte) : State :=
  match log with
  | none => s
  | some a =>
    let n := s.mem.readNat a 8
    let lost := cap ≤ n && s.mem.readNat (a + 16) 8 ≤ n - cap
    let s1 := s.lay (a + 64 + n % cap * size) (entry n)
    let s2 := if lost then (s1.writeNat (a + 8) 8 (s.mem.readNat (a + 8) 8 + 1)).notice p 2 a else s1
    s2.writeNat a 8 (n + 1)

/-- The access log (19 R326): address, slice or 0, core, cause, kind. -/
def State.logAccess (s : State) (p : Nat) (addr slice core cause kind : Nat) : State :=
  s.ringLog p (s.part p).accessLog 1024 32 fun _ =>
    leBytes 8 addr ++ leBytes 8 slice ++ leBytes 4 core ++ leBytes 1 cause ++ leBytes 1 kind ++ leBytes 2 0 ++ leBytes 8 s.time

/-- The sparse-fault queue (19 R312): address, slice, core, access. -/
def State.logSparse (s : State) (p : Nat) (addr slice core access : Nat) : State :=
  s.ringLog p (s.part p).sparseLog 1024 32 fun _ =>
    leBytes 8 addr ++ leBytes 8 slice ++ leBytes 4 core ++ leBytes 1 access ++ leBytes 3 0 ++ leBytes 8 s.time

/-- The error log (22 R352, R353). -/
structure ErrorEntry where
  addr : Nat := 0
  slice : Nat := 0
  location : Nat := 0
  kind : Nat
  cause : Nat := 0
  detailA : Nat := 0
  job : Nat := 0
  count : Nat := 1
  detailB : Nat := 0
  detailC : Nat := 0

def State.logError (s : State) (p : Nat) (e : ErrorEntry) : State :=
  s.ringLog p (s.part p).errorLog 4096 64 fun n =>
    leBytes 8 e.addr ++ leBytes 8 e.slice ++ leBytes 4 e.location ++ leBytes 1 e.kind ++ leBytes 1 e.cause ++
    leBytes 2 e.detailA ++ leBytes 4 e.job ++ leBytes 4 e.count ++ leBytes 8 e.detailB ++ leBytes 8 e.detailC ++
    leBytes 8 s.time ++ leBytes 8 n

/-- The location field of the Cobbler of a stack (22 R352). -/
def cobblerLocation (stack : Nat) : Nat := 0xFFFFFF00 + stack

/-- The stack that holds a physical address (19 R305). -/
def stackOf (pa : Nat) : Nat := pa / (80 * 2 ^ 30)

end Sys2Proof.Machine
end

