-- ==== Sys2Proof/Machine/Translate.lean ====
section
/-! DEFINITION. Address classes, pads, the five-level walk, the translation caches, and the checks every access passes
(06 R89, R90, R101, 19 R305 to R310, R326). -/

namespace Sys2Proof.Machine

/-- Where an access lands: memory, an offset of the configuration window, an offset of the aperture (19 R305). -/
inductive Place where
  | mem (key : Nat)
  | config (off : Nat)
  | aperture (off : Nat)
deriving DecidableEq, Repr

/-- What an access needs and how the logs name it: rights, the access log's kind (19 R326), the sparse-fault queue's
access (19 R312). -/
structure Acc where
  r : Bool := false
  w : Bool := false
  x : Bool := false
  a : Bool := false
  kind : Nat
  sparse : Nat
  /-- the `coreid` that the access log names for a remote element; for any other access it is the core that asks (19 R326) -/
  agent : Option Nat := none

def Acc.load : Acc := { r := true, kind := 0, sparse := 0 }
def Acc.store : Acc := { w := true, kind := 1, sparse := 1 }
def Acc.amo : Acc := { r := true, w := true, a := true, kind := 2, sparse := 2 }
def Acc.fetch : Acc := { x := true, kind := 3, sparse := 4 }
def Acc.object : Acc := { r := true, w := true, a := true, kind := 2, sparse := 5 }
/-- A full/empty access; one that changes the bit needs W as well (06 R101). -/
def Acc.ldx (change : Bool) : Acc := { r := true, w := change, kind := 2, sparse := 3 }
def Acc.stx : Acc := { w := true, kind := 2, sparse := 3 }

/-- The class of an address (06 R89). -/
inductive AddrClass where
  | global
  | pad
  | remote
  | none
deriving DecidableEq, Repr

def classOf (a : Word) : AddrClass :=
  if fieldOf a 57 7 = 0 then (if fieldOf a 32 25 = 0x1FFFFFF then .pad else .global)
  else if fieldOf a 57 1 = 0 then .remote else .none

/-- The first offset above a lane core's direct portion (06 R92). -/
def directTop (padcfg : Nat) : Nat := 0xC000 - 0x2000 * padcfg

/-- The self alias of a pad offset (06 R90). -/
def selfAlias (off : Nat) : Word := word (padBase + 2 ^ 31 + off)

/-- The key of `n` bytes at a compact pad address as a context of a partition names it, or none where 06 R90 refuses it. -/
def State.padKey (s : State) (core part compact n : Nat) : Option Nat :=
  let target := if bitOf compact 31 then core / 2 ^ 17 * 2 ^ 17 else compact / 2 ^ 17 * 2 ^ 17
  let off := compact % 2 ^ 16
  let lane := laneOf target
  let lawful := if bitOf compact 31 then bitsOf compact 16 15 = 0 && laneOf core != 9
    else !bitOf compact 16 && lane ≤ 8 && (s.part part).clusters.contains (clusterOf target)
  let top := if lane = 8 then 0x10000 else directTop (s.core target).padcfg.toNat
  if lawful && off + n ≤ top then some (padBase + target + off) else none

/-- Whether `n` bytes at a physical address lie in some windows, of which adjacent ones may share them. -/
def covered (ws : List (Nat × Nat)) : Nat → Nat → Nat → Bool
  | 0, pa, n => ws.any fun w => w.1 ≤ pa && pa + n ≤ w.1 + w.2
  | fuel + 1, pa, n =>
    ws.any (fun w => w.1 ≤ pa && pa + n ≤ w.1 + w.2) ||
    match ws.find? fun w => w.1 ≤ pa && pa < w.1 + w.2 with
    | some w => covered ws fuel (w.1 + w.2) (pa + n - (w.1 + w.2))
    | none => false

/-- Whether `n` bytes at a physical address lie in the partition's memory windows (19 R305). -/
def Partition.inWindows (x : Partition) (pa n : Nat) : Bool := covered x.windows x.windows.length pa n

/-- The index of a physical address (19 R322): bit `i` is the parity of PA[51:9] AND mask `i`. -/
def Partition.homeIndex (x : Partition) (pa : Nat) : Nat :=
  ((List.range 10).filter fun i => parity 43 (bitsOf pa 9 43 &&& (x.masks.getD i 0).toNat)).foldl (fun h i => h + 2 ^ i) 0

/-- The L2 slice that is the home of a physical address, named by the cluster it stands beside (19 R322). -/
def Partition.homeSlice (x : Partition) (pa : Nat) : Nat := x.sliceMap.getD (x.homeIndex pa) 0

/-- The two special pages (19 R305). -/
def configPage : Nat := 0xFFFFFFFFFE000
def aperturePage : Nat := 0xFFFFFFFFFF000

def Partition.reaches (x : Partition) (pa n : Nat) : Bool :=
  x.inWindows pa n || (configPage ≤ pa && pa + n ≤ aperturePage + 4096)

/-- How a walk ends. `addr` is the physical address of the entry it ended on. -/
inductive WalkEnd where
  | leaf (pte level addr : Nat)
  | fault (c : Cause) (level addr : Nat)
  /-- a physical address outside the partition's ranges (19 R305) -/
  | outside (pa level : Nat)
deriving DecidableEq, Repr

/-- The lowest VA bit a level indexes (19 R306). -/
def levelShift (lvl : Nat) : Nat := 12 + 9 * (5 - lvl)

/-- Whether an entry names the table of the next level (19 R306). -/
def namesTable (lvl e : Nat) : Bool :=
  bitOf e 0 && bitOf e 1 && lvl < 5 && bitsOf e 8 2 == 0 && bitsOf e 52 7 == 0 && !bitOf e 7

/-- The walk of 19 R306 from level `lvl` on, table at `t`; `n` levels remain. A level whose table entry a walk cache `w`
holds is not read (19 R309). -/
def State.walkFrom (s : State) (w : List WalkEntry) (part va : Nat) : Nat → Nat → Nat → WalkEnd
  | 0, lvl, t => .fault .ptersv lvl t
  | n + 1, lvl, t =>
    let sh := levelShift lvl
    let addr := t + 8 * bitsOf va sh 9
    match w.find? fun x => x.part == part && x.level == lvl && x.tag == va / 2 ^ sh with
    | some x => State.walkFrom s w part va n (lvl + 1) (bitsOf x.entry.toNat 12 40 * 4096)
    | none =>
      if !(s.part part).inWindows addr 8 then .outside addr lvl else
      let e := s.mem.readNat addr 8
      if namesTable lvl e then State.walkFrom s w part va n (lvl + 1) (bitsOf e 12 40 * 4096)
      else if !bitOf e 0 then .fault (if lvl = 5 && bitOf e 7 then .tilefault else .page) lvl addr
      else if bitsOf e 8 2 != 0 || bitsOf e 52 7 != 0 || bitOf e 7 || bitOf e 1 then .fault .ptersv lvl addr
      else if lvl < 3 then .fault .ptersv lvl addr
      else if lvl < 5 && bitsOf e 12 (sh - 12) != 0 then .fault .ptersv lvl addr
      else .leaf e lvl addr

/-- The table entries that such a walk reads. -/
def State.tablesMet (s : State) (w : List WalkEntry) (part va : Nat) : Nat → Nat → Nat → List WalkEntry
  | 0, _, _ => []
  | n + 1, lvl, t =>
    let sh := levelShift lvl
    let addr := t + 8 * bitsOf va sh 9
    match w.find? fun x => x.part == part && x.level == lvl && x.tag == va / 2 ^ sh with
    | some x => State.tablesMet s w part va n (lvl + 1) (bitsOf x.entry.toNat 12 40 * 4096)
    | none =>
      let e := s.mem.readNat addr 8
      if (s.part part).inWindows addr 8 && namesTable lvl e then
        ⟨part, lvl, va / 2 ^ sh, word e⟩ :: State.tablesMet s w part va n (lvl + 1) (bitsOf e 12 40 * 4096)
      else []

/-- The root table of a partition. -/
def Partition.root (x : Partition) : Nat := fieldOf x.ptbase 12 40 * 4096

/-- The walk of a virtual address for a partition, every level read from memory. -/
def State.walk (s : State) (part va : Nat) : WalkEnd := s.walkFrom [] part va 5 1 (s.part part).root

/-- The walk by a die's walkers, through its walk cache. -/
def State.walkOn (s : State) (die part va : Nat) : WalkEnd :=
  s.walkFrom (s.walks.getD die []) part va 5 1 (s.part part).root

/-- A die's walk cache after such a walk: the oldest entries give way (19 R309: replacement affects timing only; log
entry 7). -/
def State.walkFill (s : State) (die part va : Nat) : State :=
  let w := s.walks.getD die []
  let w1 := w ++ s.tablesMet w part va 5 1 (s.part part).root
  { s with walks := s.walks.put die (w1.drop (w1.length - Config.walkEntries)) }

/-- The physical address a leaf gives. -/
def leafPa (pte level va : Nat) : Nat := bitsOf pte 12 40 * 4096 + va % 2 ^ levelShift level

/-- Through which caches an address is translated (19 R309): a thread of a lane core has its core's micro-TLB before the
cluster's TLB, another agent of a cluster the TLB, a Cobbler its die's walkers only. -/
inductive Via where
  | core
  | cluster
  | die
deriving DecidableEq, Repr

/-- The cached leaf that holds an address (19 R309, R310). -/
def tlbHit (l : List TlbEntry) (part va : Nat) : Option TlbEntry :=
  l.find? fun e => e.part == part && e.base ≤ va && va < e.base + e.size

/-- Whether the leaf at an entry's address is honoured as part of one translation of 16 times its size (19 R308): the group
as it stands in memory is sixteen valid leaves with C = 1, alike outside bits 51:12, that map one aligned range in order. -/
def State.honoured (s : State) (part pte level addr : Nat) : Bool :=
  let size := 2 ^ levelShift level
  let g := addr / 128 * 128
  let pa := fun e : Nat => bitsOf e 12 40 * 4096
  let e0 := s.mem.readNat g 8
  bitOf pte 6 && (s.part part).inWindows g 128 && pa e0 % (16 * size) == 0 &&
    (List.range 16).all fun j =>
      let e := s.mem.readNat (g + 8 * j) 8
      bitOf e 0 && !bitOf e 1 && bitOf e 6 && e - pa e == pte - pa pte && pa e == pa e0 + j * size

/-- The entry that caches a leaf, its whole group where it is honoured. -/
def tlbEntry (part va pte level : Nat) (group : Bool) : TlbEntry :=
  let size := 2 ^ levelShift level
  let j := if group then va / size % 16 else 0
  ⟨part, va / size * size - j * size, if group then 16 * size else size, word (pte - j * size), level⟩

/-- A leaf cached among at most `n`; the oldest gives way (19 R309: replacement affects timing only; log entry 7). -/
def tlbFill (n : Nat) (l : List TlbEntry) (e : TlbEntry) : List TlbEntry := (if n ≤ l.length then l.drop 1 else l) ++ [e]

/-- Whether an agent's translations go through its core's micro-TLB. -/
def Via.micro (v : Via) (core : Nat) : Bool := v == .core && laneOf core < 8

/-- The cached translation in force for an agent, the nearest first. -/
def State.cachedLeaf (s : State) (via : Via) (core part va : Nat) : Option TlbEntry :=
  let near := if via.micro core then tlbHit (s.core core).micro part va else none
  near.orElse fun _ => if via = .die then none else tlbHit (s.cluster (clusterOf core)).tlb part va

/-- A leaf added to the micro-TLB of an agent that has one. -/
def State.microFill (s : State) (via : Via) (core part va : Nat) (e : TlbEntry) : State :=
  if via.micro core && (tlbHit (s.core core).micro part va).isNone then
    s.modCore core fun c => { c with micro := tlbFill Config.microEntries c.micro e }
  else s

/-- The leaf that a cached entry gives for an address in its range. -/
def leafAt (e : TlbEntry) (va : Nat) : Nat :=
  let size := 2 ^ levelShift e.level
  e.pte.toNat + (va - e.base) / size * size

/-- The translation in force for an agent, which a walk adds to the caches on its way. -/
def State.translate (s : State) (via : Via) (core part va : Nat) : State × WalkEnd :=
  match s.cachedLeaf via core part va with
  | some e => (s.microFill via core part va e, .leaf (leafAt e va) e.level 0)
  | none =>
    let s1 := s.walkFill (dieOf core) part va
    match s.walkOn (dieOf core) part va with
    | .leaf pte lvl addr =>
      let e := tlbEntry part va pte lvl (s.honoured part pte lvl addr)
      if via = .die then (s1, .leaf pte lvl addr) else
      ((s1.modCluster (clusterOf core) fun c => { c with tlb := tlbFill Config.tlbEntries c.tlb e }).microFill via core part va e,
        .leaf pte lvl addr)
    | w => (s1, w)

/-- Whether a leaf grants what an access needs (06 R101 check 4, 19 R307). -/
def Acc.granted (acc : Acc) (pte : Nat) : Bool :=
  (!acc.r || bitOf pte 2) && (!acc.w || bitOf pte 3) && (!acc.x || bitOf pte 4) && (!acc.a || bitOf pte 5)

/-- The place of a physical address. -/
def placeOf (pa : Nat) : Place :=
  if aperturePage ≤ pa then .aperture (pa - aperturePage)
  else if configPage ≤ pa then .config (pa - configPage)
  else .mem pa

/-- Whether a context runs an auditable slice (22 R360). -/
def State.auditable (s : State) (core : Nat) : Bool :=
  match s.slice (s.ctx core).sliceid.toNat with
  | some x => bitOf x.record.toNat 248
  | none => false

/-- Checks 2 to 4 of 06 R101 for an agent: `core` names the context whose pad and cluster the address is taken from,
`slice` what the access log names. Refusals that keep partitions apart enter the access log (06 R90, 19 R305). -/
def State.tryResolve (s : State) (core part slice : Nat) (via : Via) (va : Word) (n : Nat) (acc : Acc) :
    State × Except Cause Place :=
  match classOf va with
  | .pad =>
    match s.padKey core part (fieldOf va 0 32) n with
    | some k => (s, .ok (.mem k))
    | none => (s.logAccess part va.toNat slice (acc.agent.getD core) Cause.accv.code acc.kind, .error .accv)
  | .global =>
    let (s1, w) := s.translate via core part va.toNat
    match w with
    | .leaf pte lvl _ =>
      let pa := leafPa pte lvl va.toNat
      if !(s.part part).reaches pa n then (s1.logAccess part va.toNat slice (acc.agent.getD core) Cause.accv.code acc.kind, .error .accv)
      else if !acc.granted pte then (s1, .error .perm)
      else (s1, .ok (placeOf pa))
    | .fault c _ _ => (s1, .error c)
    | .outside _ _ => (s1.logAccess part va.toNat slice (acc.agent.getD core) Cause.accv.code 4, .error .accv)
  | _ => (s, .error .accv)

/-- Whether an address is in the thread's own pad, or the thread's slice may leave it (22 R360). -/
def State.noseAllows (s : State) (core : Nat) (va : Word) : Bool :=
  !s.auditable core ||
    (classOf va == .pad && (flagOf va 31 || fieldOf va 17 14 == coreKey core))

/-- Checks 1 to 4 of 06 R101 for the thread whose turn it is: `n` bytes at a multiple of `al`. -/
def resolveAt (va : Word) (al n : Nat) (acc : Acc) : M Place := do
  require (va.toNat % al == 0) .align va
  let s ← get
  require (acc.x || s.noseAllows s.t.coreid va) .accv va
  -- a copy hart is an engine (10, 19 R326)
  let named := if s.t.kind = .hart then { acc with kind := 5 } else acc
  let via := if s.t.kind = .hart then Via.cluster else .core
  let (s1, r) := s.tryResolve s.t.coreid (s.partNo s.t.coreid) s.t.sliceid.toNat via va n named
  set { s1 with t := { s1.t with access := acc.sparse, accessVa := va } }
  match r with
  | .ok p =>
    match p with
    | .mem k => if s1.padHeld s1.t.coreid k then stayNow
    | _ => pure ()
    pure p
  | .error c => trapNow c va

/-- The checks of an access aligned to its size. -/
def resolve (va : Word) (n : Nat) (acc : Acc) : M Place := resolveAt va n n acc

/-- As `resolveAt`, for an access that the special pages refuse (10 R198, 19 R327). -/
def resolveMemAt (va : Word) (al n : Nat) (acc : Acc) : M Nat := do
  match ← resolveAt va al n acc with
  | .mem k => pure k
  | .aperture _ => trapNow .accv va
  | .config _ =>
    let s ← get
    if s.isSup s.t.coreid then trapNow .accv va
    else
      set (s.logAccess (s.partNo s.t.coreid) va.toNat s.t.sliceid.toNat s.t.coreid Cause.perm.code 7)
      trapNow .perm va

/-- An access aligned to its size, of memory only. -/
def resolveMem (va : Word) (n : Nat) (acc : Acc) : M Nat := resolveMemAt va n n acc

end Sys2Proof.Machine
end

