-- ==== Sys2Proof/Machine/Access.lean ====
section
/-! DEFINITION. Watchpoints, the cache portion and the victim pool, acquire and release, and reads and writes by the thread
whose turn it is (06 R91 to R95, R104, R105, 12 R235 to R239, 23 R367 to R369). -/

namespace Sys2Proof.Machine

/-! Watchpoints. -/

/-- An address with a self alias turned into the core's coordinate form (23 R368). -/
def watchAddr (core : Nat) (va : Word) : Nat :=
  if classOf va == .pad && flagOf va 31 then padOf core + va.toNat % 2 ^ 16 else va.toNat

/-- Whether a watchpoint's range meets `n` bytes at an address (23 R367). -/
def wpInRange (addr : Word) (ctl : BitVec 32) (va n : Nat) : Bool :=
  let size := 2 ^ bitsOf ctl.toNat 8 4
  let base := addr.toNat / size * size
  base < va + n && va < base + size

/-- The watchpoints that an access of a kind (the control bit 1 to 4) by a thread matches. -/
def State.wpMatches (s : State) (core bit va n : Nat) : List Nat :=
  if laneOf core < 8 then
    let c := s.core core
    (List.range 4).filter fun i =>
      let ctl := c.wpctl[i]!.toNat
      let thr := bitsOf ctl 12 2
      bitOf ctl 0 && bitOf ctl bit && (thr == 0 || thr == core % 2 + 1) && wpInRange c.wpaddr[i]! c.wpctl[i]! va n
  else []

/-- HIT set in some of a core's watchpoints. -/
def State.wpHit (s : State) (core : Nat) (is : List Nat) : State :=
  s.modCore core fun c => { c with wpctl := is.foldl (fun v i => vecMod v i (· ||| 0x4000#32)) c.wpctl }

/-- Whether some thread of a cluster is frozen (23 R370). -/
def State.clusterFrozen (s : State) (cl : Nat) : Bool :=
  (s.t.mode == .frozen && clusterOf s.t.coreid == cl) ||
    s.others.any fun x => x.2.mode == .frozen && clusterOf x.1 == cl

/-- A stop of a cluster, at once: cluster, cause, the thread that triggered it (23 R370). -/
def State.triggerStop (s : State) (cl : Nat) (cause : Nat) (core : Nat) : State :=
  if s.clusterFrozen cl then s
  else { s with agenda := .event .clusterStop { x := cl, y := cause, z := core } :: s.agenda }

/-- Whether an address is in the pad of a core. -/
def inOwnPad (core : Nat) (va : Word) : Bool := classOf va == .pad && (flagOf va 31 || fieldOf va 17 14 == coreKey core)

/-- A match of watchpoints by the thread whose turn it is: HIT in each, and the lowest acts, unless an earlier access of the
instruction has matched; a fetch match is always of the Before class (23 R368). BEFORE is ignored for a request of watchpoint 3
that arrives at the core's own bank unit (R369). While a thread of the cluster is frozen a stop sets HIT only (R370). -/
def watch (bit : Nat) (va : Word) (n : Nat) : M Unit := do
  let s ← get
  let core := s.t.coreid
  match s.wpMatches core bit (watchAddr core va) n with
  | [] => pure ()
  | i :: is =>
    set (s.wpHit core (i :: is))
    let ctl := (s.core core).wpctl[i]!.toNat
    let arrives := bit == 3 && i == 3 && bitOf ctl 5 && inOwnPad core va
    let before := (bitOf ctl 6 && !arrives) || bit == 4
    if s.t.watchMet then pure ()
    else if bitOf ctl 7 then
      if s.clusterFrozen (clusterOf core) then pure () else
      modS (fun s => s.triggerStop (clusterOf core) Cause.watch.code core)
      if before then stayNow
      modT (fun t => { t with watchMet := true })
    else
      modT (fun t => { t with watchMet := true, watchDue := some (i, word (watchAddr core va)) })
      if before then trapNow .watch (word (watchAddr core va))

/-- Whether a thread holds a slice, or is its partition's supervisor. -/
def State.holdsSlice (s : State) (core : Nat) : Bool := s.isSup core || s.slices.any fun x => x.threads.contains core

/-- A request performed by a pad's bank unit: watchpoint 3 of the pad's core may watch arrivals (23 R369). -/
def State.bankArrive (s : State) (key n : Nat) : State :=
  if !isPad key then s else
  let core := (key - padBase) / 2 ^ 17 * 2 ^ 17
  let c := s.core core
  let ctl := c.wpctl[3].toNat
  if laneOf core < 8 && bitOf ctl 0 && bitOf ctl 5 && wpInRange c.wpaddr[3] c.wpctl[3] key n then
    let s1 := s.wpHit core [3]
    if bitOf ctl 7 then s1.triggerStop (clusterOf core) Cause.watch.code core
    else
      let th := core + (bitsOf ctl 12 2 - 1)
      let x := s1.ctx th
      if !s1.holdsSlice th || x.arriveDue.isSome then s1 else s1.setCtx { x with arriveDue := some (word key) }
  else s

/-! The cache portion (06 R94, R95). -/

/-- The lanes of a core's victim pool other than its own (06 R95). -/
def State.poolOf (s : State) (core : Nat) : List Nat :=
  let c := s.core core
  let lane := laneOf core
  if c.vicgrp == 0 || c.padcfg == 0 then [] else
    (List.range 8).filter fun m =>
      let d := s.core (coreAt (clusterOf core) m)
      m != lane && d.vicgrp == c.vicgrp && d.padcfg != 0

/-- Lines that a cache portion of a size holds (06 R92). -/
def portionLines (padcfg : Nat) : Nat := 128 * padcfg

/-- The pool member that receives the next evicted line: the first in rising lane order after the one that received the
last, round again from the lowest (06 R95; where the round starts is log entry 9's). -/
def nextMember (pool : List Nat) (last : Nat) : Option Nat :=
  match pool.find? (last < ·) with
  | some m => some m
  | none => pool.head?

/-- The oldest line that `lines` has in the portion of a lane leaves it. -/
def dropOldest (lane : Nat) (lines : List CacheLine) : List CacheLine :=
  match lines.findIdx? (·.holder == lane) with
  | some i => lines.eraseIdx i
  | none => lines

/-- A core's lines with the line `l` newest in its own portion. Where the portion is full its oldest line moves to the next
member of the pool, where the oldest line that this core placed gives way if the room is full, or is dropped without a pool
(06 R95). `room` is the number of lines a lane's portion holds. -/
def CoreSt.insertLine (c : CoreSt) (lane : Nat) (pool : List Nat) (room : Nat → Nat) (l : CacheLine) : CoreSt :=
  let lines := c.lines.filter (fun x => x.sector != l.sector) ++ [{ l with holder := lane }]
  if (lines.filter (·.holder == lane)).length ≤ room lane then { c with lines := lines } else
  match lines.find? (·.holder == lane), nextMember pool c.poolLast with
  | some o, some m =>
    let rest := dropOldest lane lines
    let kept := if (rest.filter (·.holder == m)).length < room m then rest else dropOldest m rest
    { c with lines := kept ++ [{ o with holder := m }], poolLast := m }
  | _, _ => { c with lines := dropOldest lane lines }

/-- A sector put into a core's portion, newest. -/
def State.placeLine (s : State) (core : Nat) (l : CacheLine) : State :=
  let room := fun lane => portionLines (s.core (coreAt (clusterOf core) lane)).padcfg.toNat
  s.modCore core fun c => c.insertLine (laneOf core) (s.poolOf core) room l

/-- Whether a context's accesses to a location pass through a cache portion. -/
def State.caches (s : State) (core key : Nat) : Bool :=
  !isPad key && laneOf core < 8 && (s.core core).padcfg != 0

/-- The line that holds every word of an access as a valid copy (12 R239). -/
def State.lineHit (s : State) (core key n : Nat) : Option CacheLine :=
  (s.core core).lines.find? fun l => l.sector == key / 64 * 64 && (wordMask l.sector key n &&& ~~~l.valid) == 0

/-- An access of a context that executes at the location's home (06 R108, R113, 12 R239): the copies in this core's portion
of the words it touches go. -/
def State.atHome (s : State) (core key n : Nat) : State :=
  if s.caches core key then
    s.modCore core fun c => { c with lines := c.lines.filterMap fun l =>
      let keep := ~~~wordMask l.sector key n
      if l.valid &&& keep == 0 then none else some { l with valid := l.valid &&& keep, owned := l.owned &&& keep } }
  else s

/-- A write by a context at the location's home, which fills no cache portion (06 R94). -/
def State.writeHome (s : State) (core key : Nat) (bs : List Byte) : State :=
  (s.writeFor core key bs).atHome core key bs.length

/-- The bytes a plain load of a context returns, with the fill it makes (06 R94, 12 R239). -/
def State.loadVia (s : State) (core key n : Nat) : State × List Byte :=
  if s.caches core key then
    match s.lineHit core key n with
    | some l => (if l.holder = laneOf core then s else s.placeLine core l, (l.data.drop (key % 64)).take n)
    | none =>
      let sec := key / 64 * 64
      let own := match (s.core core).lines.find? (·.sector == sec) with
        | some l => l.owned
        | none => 0
      (s.placeLine core ⟨sec, s.mem.readBytes sec 64, BitVec.allOnes 16, own, 0⟩, s.mem.readBytes key n)
  else (s, s.mem.readBytes key n)

/-- A plain store of a context: the bytes reach the home, which merges them into the words they touch, and a lane core with
a cache portion holds the merged words and owns them (12 R236). A line already held takes all its valid words anew from the
home, so that they are of one time and no load sees a part of another core's access (12 R239, R240). -/
def State.storeVia (s : State) (core key : Nat) (bs : List Byte) : State :=
  let s1 := s.writeFor core key bs
  if s1.caches core key then
    let sec := key / 64 * 64
    let own := wordMask sec key bs.length
    let l := ((s1.core core).lines.find? (·.sector == sec)).getD ⟨sec, [], BitVec.allOnes 16, 0, 0⟩
    s1.placeLine core { l with data := s1.mem.readBytes sec 64, valid := l.valid ||| own, owned := l.owned ||| own }
  else s1

/-- An acquire operation of a context (06 R104, 12 R237): unowned copies go. -/
def State.acquire (s : State) (core : Nat) : State :=
  if laneOf core < 8 && (s.core core).lines != [] then
    s.modCore core fun c =>
      let kept := c.lines.filterMap fun l =>
        if l.holder = laneOf core then (if l.owned = 0 then none else some { l with valid := l.owned })
        else if l.valid = (l.valid &&& l.owned) then some l else none
      { c with lines := kept }
  else s

def acquire : M Unit := modS fun s => s.acquire s.t.coreid

/-- A release operation (06 R105, 12 R238). Every earlier access is complete when its step ends, so nothing is left to wait
for. -/
def release : M Unit := pure ()

/-- Pool lines a core placed, and lines others placed with it, dropped (06 R95). -/
def State.leavePool (s : State) (core : Nat) : State :=
  let cl := clusterOf core
  let lane := laneOf core
  (List.range 8).foldl (fun x m =>
    let k := coreAt cl m
    if (x.core k).lines == [] then x else
    x.modCore k fun c => { c with lines := c.lines.filter fun l =>
      if m = lane then l.holder == lane else l.holder != lane }) s

/-! Accesses of the thread whose turn it is, after `resolve`. -/

/-- Check 5 of 06 R101. -/
def dataOk (va : Word) (key n : Nat) : M Unit := do
  if (← get).poisoned key n then trapNow .poison va

/-- A plain read of a location by this thread: data check, watchpoints (control bit given), the value. A read that is an
acquire drops the unowned copies before it takes the value (06 R104, 12 R237, R239). -/
def readPlain (bit : Nat) (va : Word) (key n : Nat) (acq : Bool := false) : M Nat := do
  dataOk va key n
  watch bit va n
  if acq then acquire
  let s ← get
  let (s1, bs) := s.loadVia s.t.coreid key n
  set s1
  pure (leNat bs)

/-- A read of a pad's report-ring disposition: the supervisor's write of a disposition word is noted (20 R335). -/
def State.noteDisposition (s : State) (core key n : Nat) : State :=
  if !isPad key || !s.isSup core then s else
  let base := padOf core
  if key < base + 0xF040 || base + 0x10000 < key + n then s else
  let e := (key + n - 1 - (base + 0xF040)) / 64
  if base + 0xF040 + 64 * e + 56 < key + n then
    let v := s.mem.readNat (base + 0xF040 + 64 * e + 56) 8
    let arg : EventArg := { x := s.partNo core, y := e }
    if v = 1 then s.push .dispositionRelease arg
    else if v = 2 then s.push .dispositionKill arg
    else if v = 3 then s.push .dispositionStep arg else s
  else s

/-- A store of a location by the thread whose turn it is (06 R100). -/
def State.storeBy (s : State) (key : Nat) (bs : List Byte) : State :=
  ((s.storeVia s.t.coreid key bs).cleanStore key bs.length).noteDisposition s.t.coreid key bs.length

/-- A plain write of a location by this thread. -/
def writePlain (va : Word) (key : Nat) (bs : List Byte) : M Unit := do
  watch 2 va bs.length
  modS fun s => s.storeBy key bs

end Sys2Proof.Machine
end

