-- ==== Sys2Proof/Machine/Objects.lean ====
section
/-! DEFINITION. Slices pushed into queues, objects, obligations, the wait rule and engines' completion steps
(09 R167 to R190, 18 R288 to R293). -/

namespace Sys2Proof.Machine

/-! Slice records (18 R286) and pushes. -/

/-- `n` bytes of a slice record at an offset. -/
def recField (r : BitVec 2048) (off n : Nat) : Nat := bitsOf r.toNat (8 * off) (8 * n)

/-- A counter's dependence condition (09 R196, 18 R292). -/
def counterHolds (count threshold : Nat) : Bool := 0 ≤ signed 32 (count + 2 ^ 32 - threshold % 2 ^ 32)

/-- The queue a record names. -/
def recQueue (r : BitVec 2048) : Nat := recField r 52 2

/-- The queue's descriptor. -/
def Partition.queue (x : Partition) (q : Nat) : Queue := x.queues.getD q ⟨false, 0, 0, 0⟩

/-- An occupancy changed by one (18 R288). -/
def State.occupy (s : State) (p q : Nat) (up : Bool) : State :=
  s.modPart p fun x =>
    let d := x.queue q
    { x with queues := x.queues.put q { d with occupancy := if up then d.occupancy + 1 else d.occupancy - 1 } }

/-! Objects (09 R169). -/

structure Obj where
  rank : Nat
  kind : Nat
  flags : Nat
  phase : Nat
  expected : Nat
  arrived : Nat
  aux : Nat
  status : Nat
deriving DecidableEq, Repr

def Obj.bar : Nat := 1
def Obj.bbar : Nat := 2
def Obj.sig : Nat := 3
def Obj.lock : Nat := 4
def Obj.ctr : Nat := 5
def Obj.ring : Nat := 6

def Obj.broken (o : Obj) : Bool := bitOf o.flags 0
def Obj.dutyCtr (o : Obj) : Bool := bitOf o.flags 1
def Obj.isBarrier (o : Obj) : Bool := o.kind == Obj.bar || o.kind == Obj.bbar

/-- The object at a location key. -/
def State.obj (s : State) (key : Nat) : Obj :=
  let f := s.mem.readNat key
  { rank := f 4, kind := s.mem.readNat (key + 4) 1, flags := s.mem.readNat (key + 5) 1
    phase := s.mem.readNat (key + 6) 2, expected := s.mem.readNat (key + 8) 4, arrived := s.mem.readNat (key + 12) 4
    aux := s.mem.readNat (key + 16) 8, status := s.mem.readNat (key + 24) 8 }

def Obj.bytes (o : Obj) : List Byte :=
  leBytes 4 o.rank ++ leBytes 1 o.kind ++ leBytes 1 o.flags ++ leBytes 2 o.phase ++ leBytes 4 o.expected ++
  leBytes 4 o.arrived ++ leBytes 8 o.aux ++ leBytes 8 o.status

/-- One indivisible step on an object's 32 bytes at its home, made for an agent (09 R170); the agent keeps no copy of them
(12 R239). -/
def State.setObj (s : State) (agent key : Nat) (o : Obj) : State :=
  ((s.writeFor agent key o.bytes).atHome agent key 32).bankArrive key 32

/-- A status ORed into an object's: the place of the first correction is not overwritten (08 R162). -/
def mergeStatus (old new : Nat) : Nat :=
  old ||| (if bitOf old 0 && bitOf new 0 then new - bitsOf new 32 23 * 2 ^ 32 else new)

/-! References (09 R171). -/

/-- The reference an operand stands for: a pad-window address becomes one with value 0. -/
def refOf (a : Word) : Word := if classOf a == .pad then word (fieldOf a 0 32 + 2 ^ 32) else a

/-- Bits 32:0 with a self alias in coordinate form: how tables and lists name the object. -/
def locOf (core : Nat) (ref : Word) : Nat :=
  let l := fieldOf ref 0 33
  if bitOf l 32 && bitOf l 31 then 2 ^ 32 + core / 2 ^ 17 * 2 ^ 17 + l % 2 ^ 16 else l

/-- A pad location under 06 R90. -/
def State.tryPadObject (s : State) (core part slice compact : Nat) (acc : Acc := Acc.object) : State × Except Cause Nat :=
  match s.padKey core part compact 32 with
  | some k => (s, .ok k)
  | none => (s.logAccess part (padBase + compact) slice (acc.agent.getD core) Cause.accv.code acc.kind, .error .accv)

/-- Checks 1 to 3 of 09 R171 for an agent: the location key. The two special pages refuse an object step as they refuse any
access of another size or by another thread (10 R198, 19 R326, R327), and a remote element as an address outside the windows
(13 R262). -/
def State.tryObject (s : State) (core part slice : Nat) (via : Via) (ref : Word) (acc : Acc := Acc.object) :
    State × Except Cause Nat :=
  if fieldOf ref 0 32 % 32 != 0 then (s, .error .align)
  else if fieldOf ref 33 15 != 0 then (s, .error .accv)
  else if flagOf ref 32 then s.tryPadObject core part slice (fieldOf ref 0 32) acc
  else
    let va := word ((s.part part).objbase.toNat + fieldOf ref 0 32)
    if classOf va != .global then (s, .error .accv) else
    match s.tryResolve core part slice via va 32 acc with
    | (s1, .ok (.mem k)) => (s1, .ok k)
    | (s1, .ok (.config _)) =>
      if acc.agent.isSome then (s1.logAccess part va.toNat slice (acc.agent.getD core) Cause.accv.code acc.kind, .error .accv)
      else if s.isSup core then (s1, .error .accv)
      else (s1.logAccess part va.toNat slice core Cause.perm.code 7, .error .perm)
    | (s1, .ok (.aperture _)) =>
      if acc.agent.isSome then (s1.logAccess part va.toNat slice (acc.agent.getD core) Cause.accv.code acc.kind, .error .accv)
      else (s1, .error .accv)
    | (s1, .error c) => (s1, .error c)

/-- The address that a reference stands for: a pad-window address, or one of the object region (09 R171). -/
def State.refAddr (s : State) (core : Nat) (ref : Word) : Word :=
  if flagOf ref 32 then word (padBase + fieldOf ref 0 32) else word ((s.part (s.partNo core)).objbase.toNat + fieldOf ref 0 32)

/-- Checks 1 to 4 for the thread whose turn it is; `tval` is what a trap reports. The key and the location come back. -/
def checkObjectAs (ref tval : Word) : M (Nat × Nat) := do
  let s ← get
  let va := s.refAddr s.t.coreid ref
  -- an auditable slice stays in its own pad (22 R360)
  require (fieldOf ref 0 5 != 0 || fieldOf ref 33 15 != 0 || s.noseAllows s.t.coreid va) .accv va
  let (s1, r) := s.tryObject s.t.coreid (s.partNo s.t.coreid) s.t.sliceid.toNat .core ref
  set { s1 with t := { s1.t with access := 5, accessVa := va } }
  match r with
  | .error c => trapNow c tval
  | .ok k =>
    if s1.poisoned k 32 then trapNow .poison tval
    if s1.padHeld s1.t.coreid k then stayNow
    modS fun s => s.atHome s.t.coreid k 32
    pure (k, locOf s.t.coreid ref)

def checkObject (ref : Word) : M (Nat × Nat) := checkObjectAs ref ref

/-- A watchpoint may watch an object step, once every check of 09 R171 has passed (23 R367, R368). -/
def watchObject (ref : Word) : M Unit := do watch 3 ((← get).refAddr (← get).t.coreid ref) 32

/-- The checks of an object step on a location that need hold no object. -/
def findObjectAs (ref tval : Word) : M (Nat × Nat) := do
  let r ← checkObjectAs ref tval
  watchObject ref
  pure r

def findObject (ref : Word) : M (Nat × Nat) := findObjectAs ref ref

/-- Checks 1 to 5: the object must be one that the step allows. -/
def findWhere (allows : Obj → Bool) (ref : Word) : M (Nat × Nat × Obj) := do
  let (k, loc) ← checkObject ref
  let o := (← get).obj k
  require (allows o) .illop ref
  watchObject ref
  pure (k, loc, o)

/-- Checks 1 to 5: the object must be of one of some kinds. -/
def findKind (kinds : List Nat) (ref : Word) : M (Nat × Nat × Obj) := findWhere (fun o => kinds.contains o.kind) ref

/-- The bank unit of a pad has performed an object step that only reads (23 R369). -/
def arrived (key : Nat) : M Unit := modS fun s => s.bankArrive key 32

/-! Obligations (09 R168, R174, R175). -/

def Duty.code : Duty → Nat
  | .arrive => 1 | .bytes => 2 | .signal => 3 | .unlock => 4 | .fill => 5 | .drain => 6 | .msg => 7

def Duty.ofCode : Nat → Option Duty
  | 1 => some .arrive | 2 => some .bytes | 3 => some .signal | 4 => some .unlock | 5 => some .fill | 6 => some .drain
  | 7 => some .msg | _ => none

def Duty.phased : Duty → Bool
  | .arrive => true | .bytes => true | _ => false

/-- The location key of an object named in a table (log entry 15: a location that no longer translates has none). -/
def State.locKey (s : State) (part loc : Nat) : Option Nat :=
  if bitOf loc 32 then some (padBase + loc % 2 ^ 32) else
  let va := (s.part part).objbase.toNat + loc
  match s.walk part va with
  | .leaf pte lvl _ => some (leafPa pte lvl va)
  | _ => none

/-- The rank of the object an entry is on, 0 where it has no location any more. -/
def State.obligRank (s : State) (part : Nat) (o : Oblig) : Nat :=
  match s.locKey part o.loc with
  | some k => (s.obj k).rank
  | none => 0

/-- The address of a save slot: the top 4 GiB of the partition's highest window (20 R338). -/
def Partition.slotAddr (x : Partition) (slot : Nat) : Nat :=
  (x.windows.map fun w => w.1 + w.2).foldl max 0 - 4 * 2 ^ 30 + slot * 0x20000

/-- A table entry's 16 bytes (09 R168). -/
def Oblig.bytes (o : Oblig) : List Byte :=
  leBytes 8 (o.loc + o.kind.code * 2 ^ 33 + (if o.orphaned then 2 ^ 36 else 0) + o.due.toNat * 2 ^ 48) ++
  leBytes 4 o.count ++ leBytes 4 o.share

/-- Bytes padded with zeros to a length. -/
def padTo (n : Nat) (bs : List Byte) : List Byte := bs ++ List.replicate (n - bs.length) 0

/-- A table's entries with their places in a save slot: resident ones from 0x0D00, spilled ones in the spill block. -/
def tablePlaces (slotAddr : Nat) : List Oblig → Nat → Nat → List (Oblig × Nat)
  | [], _, _ => []
  | o :: os, r, p =>
    if o.spilled then (o, slotAddr + 0x11000 + 16 * p) :: tablePlaces slotAddr os r (p + 1)
    else (o, slotAddr + 0xD00 + 16 * r) :: tablePlaces slotAddr os (r + 1) p

/-- The entries of a table that hold uncorrectable data are poisoned at their places (22 R351). -/
def State.poisonEntries (s : State) (slotAddr : Nat) (p : Oblig → Bool) (os : List Oblig) : State :=
  ((tablePlaces slotAddr os 0 0).filter fun x => x.1.bad && p x.1).foldl (fun y x => y.poison x.2 16) s

/-- The spill block of a save slot with its spilled entries, and their count in the slot's header (09 R168). -/
def State.laySpill (s : State) (slotAddr : Nat) (os : List Oblig) : State :=
  let sp := os.filter (·.spilled)
  ((s.lay (slotAddr + 0x11000) (padTo 15872 (sp.flatMap Oblig.bytes))).writeNat (slotAddr + 0x18) 4 sp.length).poisonEntries
    slotAddr (·.spilled) os

/-- The save slot of the activity that a leader runs: the supervisor's is slot 0 (20 R338). -/
def State.slotOf (s : State) (lead : Nat) : Option Nat :=
  let p := s.part (s.partNo lead)
  if s.isSup lead then some (p.slotAddr 0) else
  match s.slice (s.ctx lead).sliceid.toNat with
  | some x => x.slots.head?.map p.slotAddr
  | none => none

/-- The activity's table: the leader holds it (09 R167). Its spilled entries stand in the spill block at all times (09 R168). -/
def State.table (s : State) (core : Nat) : List Oblig := (s.ctx (s.leaderOf core)).obls
def State.setTable (s : State) (core : Nat) (os : List Oblig) : State :=
  let lead := s.leaderOf core
  let s1 := s.modCtx lead fun c => { c with obls := os }
  if (s.table core).filter (·.spilled) = os.filter (·.spilled) then s1 else
  match s.slotOf lead with
  | some a => s1.laySpill a os
  | none => s1

def findDuty (os : List Oblig) (loc : Nat) (k : Duty) : Option Oblig := os.find? fun o => o.loc == loc && o.kind == k

/-- The resident entry of highest rank spills while more than 32 are resident (09 R168). Of several of equal rank the first in
the list spills (log entry 82: the rule names none). -/
def State.spill (s : State) (part : Nat) (keep : Oblig → Bool) (os : List Oblig) : List Oblig :=
  if (os.filter (!·.spilled)).length ≤ 32 then os else
  let top := ((os.filter fun o => !o.spilled && !keep o).map (s.obligRank part)).foldl max 0
  match os.findIdx? (fun o => !o.spilled && !keep o && s.obligRank part o == top) with
  | some i => os.modify i fun o => { o with spilled := true }
  | none => os

/-- An entry replaced; it is brought back to the resident entries. The rule says so of a discharge; that a merge into a spilled
entry, or units given away from one, bring it back too is log entry 82's. -/
def State.putDuty (s : State) (part : Nat) (os : List Oblig) (o : Oblig) : List Oblig :=
  let same := fun x : Oblig => x.loc == o.loc && x.kind == o.kind
  s.spill part same (os.map fun x => if same x then { o with spilled := false } else x)

def dropDuty (os : List Oblig) (loc : Nat) (k : Duty) : List Oblig := os.filter fun o => !(o.loc == loc && o.kind == k)

/-- An entry ended; a spilled one is brought back first, so that a resident one may spill (09 R168). -/
def State.endDuty (s : State) (part : Nat) (os : List Oblig) (loc : Nat) (k : Duty) : List Oblig :=
  match findDuty os loc k with
  | some e => dropDuty (if e.spilled then s.putDuty part os e else os) loc k
  | none => os

/-- A duty received: merged into the entry of its pair, or a new entry (09 R168, R175). -/
def State.addDuty (s : State) (part : Nat) (os : List Oblig) (o : Oblig) : List Oblig :=
  match findDuty os o.loc o.kind with
  | some e => s.putDuty part os { e with count := e.count + o.count, share := e.share + o.share }
  | none => s.spill part (fun _ => false) (os ++ [{ o with spilled := false }])

/-- No entry of the pair and none free (09 R168). -/
def tableFull (os : List Oblig) (loc : Nat) (k : Duty) : Bool := (findDuty os loc k).isNone && 1024 ≤ os.length

/-- A receiver holds the pair at another due phase (09 R175). -/
def mergeConflict (os : List Oblig) (loc : Nat) (k : Duty) (due : BitVec 16) : Bool :=
  k.phased && match findDuty os loc k with | some e => e.due != due | none => false

/-- Units given away (09 R175): an emptied BYTES entry with a share advances, any other emptied entry ends. -/
def State.takeUnits (s : State) (part : Nat) (os : List Oblig) (o : Oblig) (n : Nat) : List Oblig :=
  if n < o.count then s.putDuty part os { o with count := o.count - n }
  else if o.kind = .bytes && o.share != 0 then s.putDuty part os { o with count := o.share, due := o.due + 1 }
  else s.endDuty part os o.loc o.kind

/-- The supervisor's orphan list, which only its discharges use (20 R344). -/
def State.orphansOf (s : State) (core : Nat) : List Oblig := if s.isSup core then (s.part (s.partNo core)).orphans else []

/-- `n` units of a counted duty discharged by a thread's activity: its own entry first, then its orphans. -/
def State.spend (s : State) (core loc : Nat) (k : Duty) (n : Nat) : Option State :=
  let part := s.partNo core
  let os := s.table core
  let own := match findDuty os loc k with | some e => e.count | none => 0
  let orph := match findDuty (s.orphansOf core) loc k with | some e => e.count | none => 0
  if own + orph < n then none else
  let s1 := match findDuty os loc k with
    | some e => s.setTable core (if n < own then s.putDuty part os { e with count := own - n } else s.endDuty part os loc k)
    | none => s
  if n ≤ own then some s1 else
  let left := orph - (n - own)
  let rest := fun os : List Oblig => if left = 0 then dropDuty os loc k
    else os.map fun o => if o.loc == loc && o.kind == k then { o with count := left } else o
  some (s1.modPart part fun x => { x with orphans := rest x.orphans })

/-- `obmin` (02 R19, 09 R168). The orphaned entries that the supervisor holds beside its table do not count, nor do they in
EXITOWE and OBXFER (log entry 83). -/
def State.obmin (s : State) (core : Nat) : Nat :=
  ((s.table core).map (s.obligRank (s.partNo core))).foldl min 0xFFFFFFFF

/-! Slices pushed (18 R288 to R293). -/

/-- The token of the next slice id: the next nonzero 32-bit number that no live slice has (09 R169, 18 R290). -/
def State.freshToken (s : State) : Nat :=
  (((List.range (s.slices.length + 1)).map fun i => (s.tokens + i) % (2 ^ 32 - 1) + 1).find? fun t =>
    !s.slices.any fun x => x.id % 2 ^ 32 == t).getD 1

/-- The arrival number of a slice that enters its pool now from a source: later numbers in later cycles, and in one cycle in
ascending `coreid`, with engines and the host after cores (18 R293). -/
def State.arrivalOf (s : State) (source : Nat) : Nat := (s.time * 2 ^ 48 + source) * 2 ^ 64 + s.arrivals

/-- The locks of moved UNLOCK units hold the receiver's token (09 R175). -/
def State.handLocks (s : State) (agent part token : Nat) (obls : List Oblig) : State :=
  (obls.filter (·.kind == .unlock)).foldl (fun x o =>
    match x.locKey part o.loc with
    | some k => x.setObj agent k { x.obj k with arrived := token }
    | none => x) s

/-- A slice entered into its queue by a source: a new id (18 R290), the record with the id at offset 56, the priority capped,
the units that it receives. It is PENDING until its counter allows it, else READY with a new arrival number (18 R292, R293). -/
def State.pushSlice (s : State) (source p : Nat) (r : BitVec 2048) (obls : List Oblig) (counter : Option Nat) : State × Nat :=
  let x := s.part p
  let token := s.freshToken
  let id := (x.ids + 1) % 2 ^ 32 * 2 ^ 32 + token
  let r1 := BitVec.ofNat 2048 (putBits r.toNat (8 * 56) 64 id)
  let ready := match counter with
    | none => true
    | some k => (s.obj k).broken || counterHolds (s.obj k).arrived (recField r 48 4)
  let sl : Slice := {
    id := id, part := p, record := r1, prio := min (recField r 28 1) x.cap
    state := if ready then .ready else .pending
    arrival := s.arrivalOf source, counted := true, counter := counter, threads := [], lastThreads := [], slots := [], obls := obls, saved := []
    reason := 0, refill := true, bounds := [], padcfgs := [], parked := none, staged := 0, restage := false
    pinned := false, victimOf := none, dispatches := 0, matchedAt := 0, die := (x.queue (recQueue r)).die, reserved := [], replayOf := none }
  let s1 := ((s.setPart p { x with ids := x.ids + 1 }).occupy p (recQueue r) true).handLocks source p token obls
  let s2 := { s1 with slices := s1.slices ++ [sl], tokens := token, arrivals := s1.arrivals + 1 }
  (if ready then s2.push .dispatchMatch { x := p } else s2, id)

/-! The wait rule (09 R176, 11 R225). -/

/-- Every entry and every domain duty outranks what is awaited, but for the exempt ones. `level` is that of a SYNC. -/
def State.mayWait (s : State) (core : Nat) (os : List Oblig) (rank : Nat) (exempt : Oblig → Bool) (level : Option Nat) : Bool :=
  os.all (fun o => rank < s.obligRank (s.partNo core) o || exempt o) &&
  (s.domainsOf (s.leaderOf core)).all fun d => rank < d.2.rank || match level with | some l => d.2.level ≤ l | none => false

/-- The exemption of a BAR or BBAR awaited for a value. -/
def barrierExempt (loc v : Nat) (o : Oblig) : Bool := o.loc == loc && o.kind.phased && atOrAfter o.due.toNat v

/-- The exemption of a RING in a handle wait. -/
def ringExempt (loc : Nat) (o : Oblig) : Bool := o.loc == loc

/-! Steps on objects. -/

/-- A waiter's condition (09 R180). -/
def Obj.satisfies (o : Obj) (v : BitVec 16) : Bool :=
  if o.isBarrier then atOrAfter o.phase v.toNat else atOrAfter (o.arrived % 2 ^ 16) v.toNat

/-- A waiting thread released with a status word (09 R178). -/
def State.wake (s : State) (core status : Nat) (redo : Bool := false) : State :=
  (s.modCtx core fun c => { c with mode := .released redo, result := word status }).pushTurn core

/-- Waiters of an object that meet a condition, released in order of arrival. -/
def State.wakeIf (s : State) (key : Nat) (p : Waiter → Bool) (status : Nat) : State :=
  let go := s.waiters.filter fun w => w.key == key && p w
  go.foldl (fun x w => x.wake w.core status true) { s with waiters := s.waiters.filter fun w => !(w.key == key && p w) }

/-- The PENDING slices of a counter that has become BROKEN are to be READY (18 R292). -/
def State.readyOn (s : State) (key : Nat) : State :=
  (s.slices.filter fun x => x.state == .pending && x.counter == some key).foldl (fun x sl => x.push .sliceReady { x := sl.id }) s

/-- A status with those of the steps pending at a location, which are performed at once (09 R185). -/
def State.pendingStatus (s : State) (key st : Nat) : Nat :=
  (s.pendings.filter (·.key == key)).foldl (fun x p => mergeStatus x p.status.toNat) st

def State.dropPendings (s : State) (key : Nat) : State := { s with pendings := s.pendings.filter (·.key != key) }

/-- An object made BROKEN (09 R181): BRK, every waiter released, pending steps performed at once, slices that depend on
the counter READY (18 R292). A pending step that is performed so ORs in its status and adds nothing to `arrived`, which no
phase counts any more (log entry 84). -/
def State.breakObj (s : State) (agent key : Nat) : State :=
  let o := s.obj key
  let st := s.pendingStatus key (o.status ||| 2 ^ 63)
  let s1 := (s.dropPendings key).setObj agent key { o with flags := o.flags ||| 1, status := st }
  (s1.wakeIf key (fun _ => true) st).readyOn key

/-- Units added to a barrier's phase by an engine; excess breaks the object (09 R185). -/
def State.addArrival (s : State) (agent key c status : Nat) : State :=
  let o := s.obj key
  let o1 := { o with status := mergeStatus o.status status }
  if o.expected < o.arrived + c then (s.setObj agent key o1).breakObj agent key
  else s.setObj agent key { o1 with arrived := o.arrived + c }

/-- A barrier that is full completes its phase and performs the steps pending for the new one (09 R180, R185). -/
def State.settle (agent key : Nat) : Nat → State → State
  | 0, s => s
  | n + 1, s =>
    let o := s.obj key
    if o.isBarrier && 0 < o.expected && o.arrived == o.expected then
      let o1 := { o with phase := (o.phase + 1) % 2 ^ 16, arrived := 0, expected := o.expected - o.aux % 2 ^ 32, aux := 0 }
      let s1 := (s.setObj agent key o1).wakeIf key (fun w => !w.lock && o1.satisfies w.value) o1.status
      State.settlePending agent key o1.phase (State.settle agent key n) s1.pendings s1
    else s
where
  /-- the steps pending for a phase, in order of arrival -/
  State.settlePending (agent key phase : Nat) (again : State → State) : List PendingStep → State → State
    | [], s => again s
    | p :: ps, s =>
      if p.key = key && p.due.toNat = phase then
        State.settlePending agent key phase again ps
          ({ s with pendings := s.pendings.erase p }.addArrival agent key p.count p.status.toNat)
      else State.settlePending agent key phase again ps s

/-- A barrier settled as far as it goes. -/
def State.settled (s : State) (agent key : Nat) : State := State.settle agent key (s.pendings.length + 2) s

/-- Waiting-task entries and PENDING slices that a changed counter satisfies (09 R196, 18 R289, R292). -/
def State.fireCounter (s : State) (key : Nat) : State :=
  let count := (s.obj key).arrived
  let s1 := (s.slices.filter fun x => x.state == .pending && x.counter == some key &&
      counterHolds count (recField x.record 48 4)).foldl (fun x sl => x.push .sliceReady { x := sl.id }) s
  s1.clusters.foldl (fun x (cl, c) => (c.armed.filter fun e =>
      e.2.counter == key && !e.2.fired && counterHolds count (recField e.2.record 48 4)).foldl
    (fun y (i, _) =>
      (y.modCluster cl fun c => { c with armed := c.armed.map fun e => if e.1 = i then (i, { e.2 with fired := true }) else e }).push
        .armedEntryPush { x := cl, y := i }) x) s1

/-- `n` added to a SIG's or CTR's count (09 R187). -/
def State.addCount (s : State) (agent key n status : Nat) : State :=
  let o := s.obj key
  let o1 := { o with arrived := (o.arrived + n) % 2 ^ 32, status := mergeStatus o.status status }
  let s1 := (s.setObj agent key o1).wakeIf key (fun w => !w.lock && o1.satisfies w.value) o1.status
  if o.kind = Obj.ctr then s1.fireCounter key else s1

/-- An engine's completion step at the home (09 R185, 08 R162, 10 R205). A location that holds no object any more only
ends the duty (09 R184). -/
def State.engineStep (s : State) (agent key : Nat) (due : BitVec 16) (count status : Nat) : State :=
  let o := s.obj key
  if o.isBarrier then
    if due.toNat = o.phase then (s.addArrival agent key count status).settled agent key
    else if due.toNat = (o.phase + 1) % 2 ^ 16 && !o.broken then
      { s with pendings := s.pendings ++ [⟨key, agent, due, count, word status⟩] }
    else (s.setObj agent key { o with status := mergeStatus o.status status }).breakObj agent key
  else if o.kind = Obj.sig || o.kind = Obj.ctr then s.addCount agent key 1 status
  else s

/-! Waits of the thread whose turn it is. -/

/-- The thread enters a wait (09 R178). -/
def waitOn {α : Type} (w : Wait) : M α := do
  modT fun t => { t with mode := .waiting w }
  stayNow

/-- A wait withdrawn: the thread leaves every list and is at its instruction again, whose watch matches it meets anew
(09 R178). -/
def State.withdraw (s : State) (core : Nat) : State :=
  match (s.ctx core).mode with
  | .waiting _ =>
    let drop := fun c : Cluster => { c with offers := c.offers.filter (·.core != core) }
    let parked := s.parked.filter fun p => p.remote || p.req.core != core
    let s1 := { s with
      waiters := s.waiters.filter (·.core != core), parked := parked, clusters := s.clusters.map fun (x : Nat × Cluster) => (x.1, drop x.2) }
    s1.modCtx core fun c => { c with mode := .running, watchDue := none, watchMet := false }
  | _ => s

end Sys2Proof.Machine
end

