-- ==== Sys2Proof/Machine/Retire.lean ====
section
/-! DEFINITION. How an instruction completes: the sequential advance with end processing, jumps, REP pairs, and the
bookkeeping of a gang (04 R56, 05 R71, R74, R78, 11 R216, R222). -/

namespace Sys2Proof.Machine

/-- End processing of 05 R74 at one level: the loop counts, the next address, whether the search goes on. -/
def endLevel (lbeg lend : Vector Word 3) (m : Nat) (x : Vector Word 3 × Word × Bool) : Vector Word 3 × Word × Bool :=
  let (lc, nx, go) := x
  if go && lc[m]! != 0 && nx == lend[m]! then
    let lc1 := lc.set! m (lc[m]! - 1)
    if lc1[m]! != 0 then (lc1, lbeg[m]!, false) else (lc1, nx, true)
  else (lc, nx, go)

/-- A context after a sequential advance to `nx` (05 R74). -/
def Ctx.advance (c : Ctx) (nx : Word) : Ctx :=
  let (lc, pc, _) := endLevel c.lbeg c.lend 0 (endLevel c.lbeg c.lend 1 (endLevel c.lbeg c.lend 2 (c.lc, nx, true)))
  { c with lc := lc, pc := pc }

/-- The entry of a gang's skew queue for an index (11 R222). -/
def Gang.entry (g : Gang) (i : Nat) : Option Skew := g.queue[i - g.base]?

/-- The count of a position. -/
def Gang.count (g : Gang) (p : Nat) : Nat := g.counts.getD p 0

/-- Entries that every member has executed leave the queue. -/
def Gang.trim (g : Gang) : Gang :=
  let low := g.counts.foldl min (g.counts.headD 0)
  { g with base := max g.base low, queue := g.queue.drop (low - g.base) }

/-- The address of a member's next instruction (11 R221). -/
def Gang.pcOf (g : Gang) (p : Nat) : Word :=
  match g.entry (g.count p) with
  | some e => e.here
  | none => g.front

/-- The values of a member's ports after its last completed instruction, and before that one (11 R222). -/
def Ctx.eoLast (c : Ctx) : Word := if c.eoMark then c.eoPrev else c.eo
def Ctx.woLast (c : Ctx) : Word := if c.woMark then c.woPrev else c.wo
def Ctx.eoBefore (c : Ctx) : Word := if c.eoMark then c.eoOld else c.eoPrev
def Ctx.woBefore (c : Ctx) : Word := if c.woMark then c.woOld else c.woPrev

/-- A context whose instruction has completed. -/
def Ctx.done (c : Ctx) : Ctx := { c with mode := .running, rep := none, issued := false, watchMet := false }

/-- The port versions move on as a member completes an instruction of the stream (11 R217, R222). -/
def Ctx.portsOn (c : Ctx) : Ctx :=
  { c with eoPrev := c.eoLast, woPrev := c.woLast, eoMark := false, woMark := false, eoOld := c.eoLast, woOld := c.woLast }

/-- The current context completes the instruction at `here`: `next` is its context after the advance or the jump. In a
formed gang the leader enters its next address, its decision and its `d` value into the skew queue, and a follower takes
the leader's next address. -/
def State.finish (s : State) (next : Ctx) (decision dval : Word) : State :=
  let here := s.t.pc
  match s.formedGang s.t.coreid with
  | none => { s with t := next.done }
  | some (id, g, p) =>
    let counts := g.counts.set p (g.count p + 1)
    if p = 0 then
      let g1 := { g with
        counts := counts, queue := g.queue ++ [Skew.mk next.pc decision dval here g.code], front := next.pc, code := [] }
      { s with t := next.done.portsOn, gangs := s.gangs.put id g1.trim }
    else
      let c := { next with lc := s.t.lc, pc := match g.entry (g.count p) with | some e => e.next | none => next.pc }
      { s with t := c.done.portsOn, gangs := s.gangs.put id { g with counts := counts }.trim }

/-- The entry of the skew queue that a follower executes, none for any other context (05 R71, 09 R167). -/
def State.leaderEntry (s : State) : Option Skew :=
  match s.formedGang s.t.coreid with
  | some (_, g, p) => if p = 0 then none else g.entry (g.count p)
  | none => none

/-- The length of a REP word with its literal. -/
def repLen (word : Nat) : Nat := if bitsOf word 7 6 = 62 then 8 else if bitsOf word 7 6 = 63 then 12 else 4

/-- The current context completes an instruction of `len` bytes that does not transfer control: a repetition of a REP
moves on to the next one, the last one ends the pair (05 R78). -/
def State.complete (s : State) (len : Nat) (decision dval : Word) : State :=
  match s.t.rep with
  | some r =>
    if r.j + 1 < r.n then { s with t := { s.t with rep := some { r with j := r.j + 1 }, mode := .running, watchMet := false } }
    else s.finish ({ s.t with repcnt := 0 }.advance (r.partner + BitVec.ofNat 64 r.partnerLen)) (word r.n) dval
  | none => s.finish (s.t.advance (s.t.pc + BitVec.ofNat 64 len)) decision dval

/-- An instruction stops at a boundary: `repcnt` for a REP that stops before its repetition `j` (05 R79); a shaped one has kept
`vprog` (07 R138). -/
def Ctx.stopRep (c : Ctx) : Ctx :=
  match c.rep with
  | some r => { c with repcnt := BitVec.ofNat 32 (r.n - r.j), rep := none, issued := false }
  | none => { c with issued := false }

/-- The current context's record exchanged for another's. -/
def State.swapIn (s : State) (core : Nat) : State :=
  if core = s.t.coreid then s else
    { s with t := s.ctx core, others := (s.others.erase core).put s.t.coreid s.t }

/-- A function of the state done with another context as the current one. -/
def State.asCtx (s : State) (core : Nat) (f : State → State) : State := (f (s.swapIn core)).swapIn s.t.coreid

/-- The members of a gang that still execute in an abandoned slot. -/
def State.closeSlot (s : State) (id : Nat) (cs : List Nat) : State :=
  match s.gangs.find id with
  | some g => { s with gangs := s.gangs.put id { g with closing := cs } }
  | none => s

/-- What an event does to the instruction in progress of a context. A member of a gang that has been stopped completes its
instruction in the stream all the same, unless it is the one that runs its handler (11 R219). -/
def State.eventFor (s : State) (core : Nat) (f : State → State) : State :=
  match s.gangOf core with
  | some (id, g, p) =>
    if g.formed && g.stopped && g.runner != some p && !g.closing.contains p then
      ((s.closeSlot id (p :: g.closing)).asCtx core f).closeSlot id g.closing
    else s.asCtx core f
  | none => s.asCtx core f

/-- A scalar or port destination written (02 R11, R17, R18). The `wo` of a leader and the `eo` of an east end, which no member
receives, are kept and saved like any other (log entry 75). -/
def Ctx.writeDest (c : Ctx) (d : Nat) (v : Word) : Ctx :=
  if d = 0 then c
  else if d < 32 then { c with s := c.s.set! d v, badRegs := setDrop c.badRegs d }
  else if d = 49 then { c with eoPrev := c.eoLast, eoOld := c.eoBefore, eoMark := true, eo := v }
  else if d = 51 then { c with woPrev := c.woLast, woOld := c.woBefore, woMark := true, wo := v }
  else c

/-- Entries of the slot in progress that are still to come for some threads. -/
def State.slotBusy (s : State) (threads : List Nat) : Bool :=
  s.agenda.any fun x => match x with | .member c _ => threads.contains c | _ => false

/-- The end of a gang's slot: once the east end has completed its VROWMAX, the maximum goes to element 0 of the destination
in every member (07 R132). Where the destination is a send port, the value counts as written by the member's next
instruction (log entry 75). -/
def State.endSlot (s : State) (id : Nat) : State :=
  match s.gangs.find id with
  | none => s
  | some g =>
    match g.rowmax with
    | none => s
    | some m =>
      if s.slotBusy g.members || g.count (g.members.length - 1) ≤ m then s else
      let v := (s.ctx (g.members.getLastD 0)).vprog
      let put := fun c : Ctx =>
        let c1 := { c with vprog := 0 }
        if g.rowdest.toNat < 32 then
          { c1 with v := c1.v.set! g.rowdest.toNat (v.setWidth 512), badRegs := setDrop c1.badRegs (32 + g.rowdest.toNat) }
        else c1.writeDest g.rowdest.toNat (v.setWidth 64)
      g.members.foldl (fun x c => x.modCtx c put) { s with gangs := s.gangs.put id { g with rowmax := none } }

/-- A released wait returns: `d` receives the status, the wait is an acquire, the instruction completes (09 R178, R186). -/
def State.finishWait (s : State) : State :=
  match s.t.mode with
  | .released _ =>
    let v := s.t.result
    (({ s with t := s.t.writeDest s.t.dest.toNat v }).acquire s.t.coreid).complete s.t.len 0 v
  | _ => s

end Sys2Proof.Machine
end

