-- ==== Sys2Proof/Machine/Suspend.lean ====
section
/-! DEFINITION. Taking an activity off its threads: sachets flushed, copies quiesced, the save area written, reports to
the supervisor, kills (13 R256, R270, 20 R334 to R344). -/

namespace Sys2Proof.Machine

/-! Sachets depart (13 R256). -/

/-- A packet sent: to this module by loopback (13 R253), to another one as a message. -/
def State.send (s : State) (pk : Packet) : State :=
  if pk.dest = s.fabric then s.push .elementApply { packet := some pk } else { s with outbox := s.outbox ++ [.packet pk] }

/-- Elements leave for a destination, a peer value's bits 19:0; each awaits its status (13 R265, R266). -/
def State.launch (s : State) (die dest : Nat) (es : List Element) : State :=
  let pk := Packet.mk (dest % 2 ^ 14) s.fabric (dest / 2 ^ 16 % 16) es
  let s1 := { s with flying := s.flying ++ es.map fun e => Flying.mk e dest s.time die }
  (s1.send pk).push .elementAckTimeout { packet := some pk, x := s.time }

/-- A sachet departs as one packet (13 R256). -/
def State.depart (s : State) (x : Sachet) : State :=
  { s with sachets := s.sachets.filter fun y => !(y.die == x.die && y.index == x.index) }.launch x.die x.dest x.elements

/-- Every sachet that meets a condition departs. -/
def State.departIf (s : State) (p : Sachet → Bool) : State := (s.sachets.filter p).foldl State.depart s

/-- Whether an element is of an activity: a slice, or a partition's supervisor, whose slice id is 0 (13 R256). -/
def isOf (core slice : Nat) (e : Element) : Bool := e.slice == slice && (slice != 0 || e.core == core)

/-- Whether two elements come from one activity. -/
def sameActivity (e f : Element) : Bool := isOf f.core f.slice e

/-- SFLUSHA of an activity: the sachets of its die that hold an element of it (13 R268). `core` is one of its threads. -/
def State.flushFor (s : State) (core slice : Nat) : State :=
  s.departIf fun x => x.die == dieOf core && x.elements.any (isOf core slice)

/-! Copies end (10 R205). -/

/-- Bits of an object's status word that the copy unit sets (10 R207). -/
def ctpl : Nat := 2 ^ 10
def cpsn : Nat := 2 ^ 9
def cfault : Nat := 2 ^ 8

/-- Whether a copy has a name: its record stands with the activity's thread, in a place (10 R202, R208). -/
def Copy.isAt (c : Copy) (core slice slot : Nat) : Bool := c.core == core && c.slice.toNat == slice && c.slot == slot

/-- The record in a place, 0 to 7, of an activity's thread. -/
def State.copyAt (s : State) (core slice slot : Nat) : Option Copy := s.copies.find? (·.isAt core slice slot)

/-- A copy's record changed. -/
def State.modCopy (s : State) (c : Copy) (f : Copy → Copy) : State :=
  { s with copies := s.copies.map fun x => if x.isAt c.core c.slice.toNat c.slot then f x else x }

/-- What an event about a copy carries: its name. -/
def Copy.arg (c : Copy) : EventArg := { x := c.core, y := c.slot, nums := [c.slice.toNat] }

/-- The copy that an event names. -/
def State.copyOf (s : State) (a : EventArg) : Option Copy := s.copyAt a.x (a.nums.headD 0) a.y

/-- The completion step of a copy. A tag's pending count is the number of copies that name it; an activity that has retired
receives no bit. -/
def State.copyDone (s : State) (c : Copy) : State :=
  let s1 := { s with copies := s.copies.erase c }
  let st := c.status.toNat
  let s2 := if st = 0 then s1 else s1.logError c.part
    { kind := 6, slice := c.slice.toNat, location := c.core, cause := c.cause, detailA := c.template + 256 * c.channel
      detailB := st, detailC := c.tval.toNat }
  if fieldOf c.cref 62 2 = 0 then
    let tag := fieldOf c.cref 0 6
    let left := s2.copies.any fun x => x.core == c.core && x.slice == c.slice && fieldOf x.cref 62 2 == 0 && fieldOf x.cref 0 6 == tag
    let x := s2.ctx c.core
    let lives := c.slice == 0 || (s2.slice c.slice.toNat).isSome
    if left || x.sliceid != c.slice || !lives then s2
    else s2.setCtx { x with tagrdy := x.tagrdy ||| word (2 ^ tag) }
  else s2.engineStep c.core c.key c.due (if c.duty == some .bytes then c.length else 1) st

/-- Whether an earlier ORD copy of a copy's channel has its completion step still to perform, before that of this ORD copy
(10 R208). -/
def State.copyBlocked (s : State) (c : Copy) : Bool :=
  c.ord && (s.copies.takeWhile fun x => !x.isAt c.core c.slice.toNat c.slot).any fun x =>
    x.cluster == c.cluster && x.channel == c.channel && x.ord && !x.held

/-- The copies of one channel in queue order; the running one, if any, is the first (10 R203). -/
def State.channelQueue (s : State) (cl ch : Nat) : List Copy :=
  s.copies.filter fun c => c.cluster == cl && c.channel == ch && !c.held && !c.ended

/-- The channel's context stopped. -/
def State.stopChannel (s : State) (cl ch : Nat) : State := s.setCtx (Ctx.reset .hart (channelCore cl ch))

/-- The copies of an activity's thread. -/
def State.copiesOf (s : State) (core slice : Nat) : List Copy := s.copies.filter fun c => c.core == core && c.slice.toNat == slice

/-- An activity's copies stop: a running one goes on to its next BURST, a queued one leaves its queue; both keep their records
(20 R337). -/
def State.holdCopies (s : State) (core slice : Nat) : State :=
  let mine := (s.copiesOf core slice).filter fun c => !c.held && !c.ended
  let s1 := mine.foldl (fun x c => x.modCopy c fun y => if y.running then { y with stopping := true } else { y with held := true }) s
  (mine.filter (!·.running)).foldl (fun x c => x.push .copyStart { x := c.cluster, y := c.channel }) s1

/-- A copy stops before its BURST: its channel takes the next one (20 R337). -/
def State.holdRunning (s : State) (c : Copy) : State :=
  ((s.modCopy c fun y => { y with held := true, stopping := false, running := false }).stopChannel c.cluster c.channel).push
    .copyStart { x := c.cluster, y := c.channel }

/-- An activity's copies that stopped go on without a suspension: each stands in its channel's queue again. -/
def State.releaseCopies (s : State) (core slice : Nat) : State :=
  let mine := s.copiesOf core slice
  let back := (mine.filter (·.held)).map fun c => { c with held := false }
  let s1 := { s with copies := (s.copies.filter fun c => !(mine.contains c && c.held)) ++ back }
  let s2 := (mine.filter (·.stopping)).foldl (fun x c => x.modCopy c fun y => { y with stopping := false }) s1
  back.foldl (fun x c => x.push .copyStart { x := c.cluster, y := c.channel }) s2

/-- Whether an activity's copies on a thread have all stopped, every transfer of theirs to another module is acknowledged, and
no ended copy waits for one of another activity (10 R206, R208, 20 R337). Transfers within the module are done when they are
issued. -/
def State.copiesSettled (s : State) (core slice : Nat) : Bool :=
  (s.copiesOf core slice).all fun c => !c.running && c.resend.isEmpty && !(c.ended && (s.copyBlocked c || s.padHeld engineAgent c.key))

/-- A thread's copies quiesced (20 R337): they stop, their transfers are acknowledged, and one that has ended performs its
completion step. -/
def State.quiesce (s : State) (core slice : Nat) : State :=
  let s0 := s.holdCopies core slice
  let s1 := ((s0.copiesOf core slice).filter (·.running)).foldl State.holdRunning s0
  let acked := fun x : Agenda => match x with
    | .event .burstAck a => a.x == core && a.nums.headD 0 == slice
    | _ => false
  let s2 := { s1 with agenda := s1.agenda.filter fun x => !acked x }
  let s3 := (s2.copiesOf core slice).foldl (fun x c => x.modCopy c fun y => { y with inFlight := y.resend.length }) s2
  ((s3.copiesOf core slice).filter (·.ended)).foldl State.copyDone s3

/-! The save area (20 R338 to R340). -/

/-! Sticky word and outstanding count (13 R266). -/

/-- A change of an activity's sticky word and count, in its leader or in its save area. -/
def State.modActivity (s : State) (core slice : Nat) (f : Ctx → Ctx) : State :=
  match s.slice slice with
  | none => if slice = 0 then s.modCtx core f else s
  | some x =>
    match x.saved, x.threads with
    | c :: cs, _ =>
      let c1 := f c
      let a := (s.part x.part).slotAddr (x.slots.headD 0)
      ((s.modSlice slice fun y => { y with saved := c1 :: cs }).writeNat (a + 0x30) 8 c1.sticky.toNat).writeNat (a + 0x38) 4 c1.outstanding
    | [], c :: _ => s.modCtx c f
    | [], [] => s

/-- Whether an activity runs on its threads. -/
def State.onThreads (s : State) (slice : Nat) : Bool :=
  match s.slice slice with
  | some x => x.state == .running
  | none => true

/-- An entry of the remote-fault log (13 R267). -/
def State.logRemote (s : State) (e : Element) (dest status : Nat) : State :=
  let p := s.partNo e.core
  s.ringLog p (s.part p).remoteLog 4096 64 fun n =>
    leBytes 8 e.addr ++ leBytes 8 e.payload.toNat ++ leBytes 8 e.compare.toNat ++ leBytes 8 e.slice ++ leBytes 4 e.core ++
    leBytes 2 (dest % 2 ^ 14) ++ leBytes 1 (dest / 2 ^ 16) ++ leBytes 1 e.slot ++ leBytes 1 e.major ++ leBytes 1 e.f7 ++
    leBytes 1 status ++ leBytes 5 0 ++ leBytes 8 s.time ++ leBytes 8 n

/-- A failure's trace: the log entry, then the sticky bit. A REMOTE notice is due when the word of a running activity leaves 0
with notices enabled (13 R265, 20 R333). -/
def State.remoteFailure (s : State) (e : Element) (dest status : Nat) : State :=
  let runs := s.onThreads e.slice
  (s.logRemote e dest status).modActivity e.core e.slice fun c =>
    { c with remoteDue := c.remoteDue || (runs && flagOf c.tstat 2 && c.sticky == 0), sticky := c.sticky ||| word (2 ^ e.slot) }

/-- An element's status reaches its activity (13 R265, R266). -/
def State.statusOf (s : State) (e : Element) (dest status : Nat) : State :=
  let s1 := if status = 0 then s else s.remoteFailure e dest status
  s1.modActivity e.core e.slice fun c => { c with outstanding := c.outstanding - e.parts }

def Role.code : Role → Nat
  | .unbound => 0 | .consumer => 1 | .producer => 2

/-- The CSR block (02 R19): 23 registers, then zeros. -/
def Ctx.csrBlock (c : Ctx) (gangpos : Nat) : List Nat :=
  [c.vtype.toNat, c.vround.toNat, c.vflags.toNat, c.vmask.toNat, c.vprog.toNat, c.repcnt.toNat, c.qscale.toNat,
   c.acscale.toNat, c.lastjob.toNat, c.rstep.toNat, c.budget.toNat, c.deadline.toNat, c.prio.toNat, c.sliceid.toNat,
   c.tagrdy.toNat, c.tagrank.toNat, gangpos, c.tvec.toNat, c.tcause.toNat, c.tval.toNat, c.tpc.toNat, c.tstat.toNat,
   c.stepctl.toNat]

/-- A copy record's 32 bytes: an address in the core's own pad becomes an offset, with its flag (20 R337). -/
def Copy.bytes (c : Copy) (core : Nat) : List Byte :=
  let own := fun a : Word => a.toNat / 2 ^ 17 == padOf core / 2 ^ 17
  let img := fun a : Word => if own a then a.toNat % 2 ^ 16 else a.toNat
  let flags := 1 + (if c.started then 2 else 0) + (if own c.dest then 4 else 0) + (if own c.source then 8 else 0) +
    (if c.ord then 16 else 0)
  leBytes 1 c.template ++ leBytes 1 c.channel ++ leBytes 2 flags ++ leBytes 4 c.remaining ++ leBytes 8 (img c.source) ++
  leBytes 8 (img c.dest) ++ leBytes 8 c.cref.toNat

/-- The status word of a save area (20 R340). -/
def saveStatus (core : Nat) (bound gang : Bool) (padcfg reason : Nat) : Nat :=
  core * 2 ^ 32 + (if bound then 2 ^ 18 else 0) + (if gang then 2 ^ 17 else 0) + padcfg * 256 + reason

/-- The table part of a save area: resident entries, and the spill block with its count (09 R168). -/
def State.saveTable (s : State) (slotAddr : Nat) (os : List Oblig) : State :=
  ((s.lay (slotAddr + 0xD00) (padTo 512 ((os.filter (!·.spilled)).flatMap Oblig.bytes))).laySpill slotAddr os).poisonEntries
    slotAddr (!·.spilled) os

/-- What a save area needs besides the context. -/
structure SaveInfo where
  bound : Bool
  gang : Bool
  padcfg : Nat
  reason : Nat
  slotAddr : Nat
  gangBlock : Nat
  gangpos : Nat

/-- Save-area bytes 0x0000 to 0x0FFF (20 R339). A level's body length has 2 bytes (02 R10): for an inactive level whose `lend`
lies below its `lbeg`, or more than 131,070 bytes above it, which CSR writes can leave, the spec gives no image: the model has
0 below and the low 16 bits above (log entry 87). -/
def State.saveImage (s : State) (c : Ctx) (i : SaveInfo) : List Byte :=
  let loop := (List.range 3).flatMap fun m => leBytes 8 c.lc[m]!.toNat ++ leBytes 8 c.lbeg[m]!.toNat
  let lens := (List.range 3).flatMap fun m => leBytes 2 ((c.lend[m]!.toNat - c.lbeg[m]!.toNat) / 2)
  let act := (List.range 3).foldl (fun x m => if c.lc[m]! = 0 then x else x + 2 ^ m) 0
  let kicks := (List.range 8).flatMap fun n => leBytes 4 (match s.copyAt c.coreid c.sliceid.toNat n with | some x => x.length | none => 0)
  let recs := (List.range 8).flatMap fun n =>
    match s.copyAt c.coreid c.sliceid.toNat n with | some x => x.bytes c.coreid | none => List.replicate 32 (0 : Byte)
  leBytes 8 c.sliceid.toNat ++ leBytes 8 c.pc.toNat ++
  leBytes 8 (saveStatus c.coreid i.bound i.gang i.padcfg i.reason) ++
  leBytes 4 (c.obls.filter (·.spilled)).length ++ leBytes 4 0 ++
  leBytes 8 (i.slotAddr + 0x11000) ++ leBytes 8 i.gangBlock ++ leBytes 8 c.sticky.toNat ++ leBytes 8 c.outstanding ++
  (leBytes 8 0 ++ (c.s.toList.drop 1).flatMap fun x => leBytes 8 x.toNat) ++
  (leBytes 8 (2 ^ 64 - 1) ++ (c.k.toList.drop 1).flatMap fun x => leBytes 8 x.toNat) ++
  padTo 256 ((c.csrBlock i.gangpos).flatMap (leBytes 8)) ++
  padTo 64 (loop ++ lens ++ leBytes 1 act) ++
  (c.h.toList.flatMap fun h =>
    leBytes 8 h.ref.toNat ++ leBytes 2 h.need.toNat ++ leBytes 2 h.cursor.toNat ++ leBytes 4 h.role.code) ++
  (c.q.toList.flatMap fun x => leBytes 32 x.toNat) ++
  leBytes 8 c.eoLast.toNat ++ leBytes 8 c.woLast.toNat ++ leBytes 8 c.eoBefore.toNat ++ leBytes 8 c.woBefore.toNat ++
  kicks ++ List.replicate 32 0 ++ (c.v.toList.flatMap fun x => leBytes 64 x.toNat) ++
  padTo 512 ((c.obls.filter (!·.spilled)).flatMap Oblig.bytes) ++ recs

/-- A range of memory copied, poison with it (22 R351); no core owns a word of its destination any more (12 R236). -/
def State.copyRange (s : State) (src dst n : Nat) : State :=
  let cells := s.mem.filter fun x => src ≤ x.1 && x.1 < src + n
  let marks := setRange s.bad src n
  let s1 := { s with
    mem := cells.foldl (fun (m : Memory) (x : Host.Cell) => m.write (dst + (x.1 - src)) x.2) (s.mem.clear dst n)
    bad := setDropRange s.bad dst n }.unown dst n
  marks.foldl (fun x d => x.poison (dst + (d - src)) 8) s1

/-- The direct portion's size in bytes of a context's own pad (06 R92, 02 R13). -/
def State.directSize (s : State) (core : Nat) : Nat :=
  if laneOf core = 8 then 0x10000 else if laneOf core < 8 then directTop (s.core core).padcfg.toNat else 0

/-- Where a save area holds the registers that can hold uncorrectable data: register, offset, bytes (22 R351). -/
def badPlaces : List (Nat × Nat × Nat) :=
  (List.range 32).map (fun n => (n, 0x40 + 8 * n, 8)) ++ (List.range 32).map (fun n => (32 + n, 0x500 + 64 * n, 64)) ++
  (List.range 8).map (fun n => (64 + n, 0x140 + 8 * n, 8)) ++ (List.range 7).map (fun n => (72 + n, 0x3C0 + 32 * n, 32)) ++
  (List.range 16).map (fun n => (80 + n, 0x2C0 + 16 * n, 16)) ++
  (List.range 23).zipWith (fun k n => (128 + n, 0x180 + 8 * k, 8)) [0, 1, 2, 3, 4, 5, 6, 0x210, 0x211, 0x300, 0x303, 0x304, 0x305,
    0x306, 0x308, 0x309, 0x400, 0x700, 0x701, 0x702, 0x703, 0x704, 0x728]

/-- The save area's copies of a context's registers that hold uncorrectable data are poisoned. -/
def State.saveMarks (s : State) (c : Ctx) (slotAddr : Nat) : State :=
  (badPlaces.filter fun x => c.badRegs.contains x.1).foldl (fun y x => y.poison (slotAddr + x.2.1) x.2.2) s

/-- A context's save area and spill block written; without the pad image for a core-bound slice (20 R339, R341). -/
def State.saveCtx (s : State) (c : Ctx) (i : SaveInfo) : State :=
  let s1 := ((s.lay i.slotAddr (s.saveImage c i)).saveTable i.slotAddr c.obls).saveMarks c i.slotAddr
  if i.bound then s1 else s1.copyRange (padOf c.coreid) (i.slotAddr + 0x1000) (s.directSize c.coreid)

/-- The gang block (11 R222). -/
def Gang.block (g : Gang) : List Byte :=
  let wend := g.ended.contains 0 && !g.exiting
  let flags := (if g.formed then 1 else 0) + (if wend then 2 else 0) + (if g.rowmax.isSome then 4 else 0)
  let entries := g.queue.flatMap fun e => leBytes 8 e.next.toNat ++ leBytes 8 e.decision.toNat
  padTo 0x40 (leBytes 4 g.counts.length ++ leBytes 4 g.queue.length ++ leBytes 4 g.base ++ leBytes 4 flags ++
    leBytes 8 (g.pcOf (g.counts.length - 1)).toNat ++ leBytes 4 (g.rowmax.getD 0)) ++
  padTo 256 (g.counts.flatMap (leBytes 4)) ++ padTo 2016 entries ++ List.replicate 1760 0

/-- Whether a context is core-bound (20 R341, R342): a bound handle, or a duty of its activity on an object in its own pad. -/
def Ctx.bound (c : Ctx) (os : List Oblig) : Bool :=
  c.h.toList.any (·.role != .unbound) || os.any fun o => bitOf o.loc 32 && o.loc % 2 ^ 32 / 2 ^ 17 == coreKey c.coreid

/-- What a completed LDX or STX of the current context writes: `k7`, and `d` of an LDX that was performed (06 R113). -/
def State.feWrite (s : State) (load : Bool) (v : Option Word) (k7 : Word) : State :=
  let t1 := { s.t with k := s.t.k.set! 7 k7, badRegs := setDrop s.t.badRegs 71 }
  let t2 := match v with | some x => if load then t1.writeDest t1.dest.toNat x else t1 | none => t1
  { s with t := t2 }.complete t2.len 0 0

/-- What `k7` receives when a request completes (06 R113). -/
def feFlag (cond : Nat) (full : Bool) : Word := if cond = 0 then (if full then BitVec.allOnes 64 else 0) else BitVec.allOnes 64

/-- The destination a peer slot names: the peer value's bits 19:0. -/
def State.peerDest (s : State) (core slot : Nat) : Nat := fieldOf (s.ctx core).peers[slot]! 0 20

/-- The trace of a remote request that was rejected with a status (06 R115). -/
def State.feRejected (s : State) (r : FeReq) (status : Nat) : State :=
  let core := r.core
  let f7 := (if r.store then 64 else 0) + 16 * r.size.log2 + 4 * r.cond + r.after
  let e : Element := {
    major := 19, f7 := f7, addr := r.addr, size := r.size, payload := r.data, compare := 0, bytes := [], counter := 0
    slice := (s.ctx core).sliceid.toNat, core := core, slot := r.slot, parts := 0, multicast := false, accepted := s.time, bad := [] }
  s.remoteFailure e (s.peerDest core r.slot) status

/-- The trap of the After class that is due as a context completes an instruction: a watch match of its own, an arrival that is
due, a step (23 R368, R369, R373). -/
def Ctx.afterTrap (c : Ctx) : Option (Cause × Word) :=
  if c.rep.isSome then none else
  match (c.watchDue.map (·.2)).orElse fun _ => c.arriveDue with
  | some a => some (.watch, a)
  | none => if bitOf c.stepctl.toNat 1 && !flagOf c.tstat 0 then some (.step, 0) else none

/-- The current context has completed an instruction while it is being stopped: the trap that this leaves to be taken before
the next one, and its skid (23 R371, R373). -/
def Ctx.keepTrap (c : Ctx) : Ctx := { c with late := c.afterTrap, skid := 1 }

/-- The answer to the current context's remote request: the instruction completes, or stands to be executed again where the
request was withdrawn (06 R115, R116). A thread whose request a stop has asked back executes nothing more. -/
def State.feAnswered (s : State) (r : FeReq) (a : FeAnswer) : State :=
  let asked := match s.t.mode with | .waiting (.feRemote _ _ q) => q | _ => false
  let done := fun x : State => if asked then { x with t := { x.t with mode := .stopping, skid := 1 } } else x
  match a with
  | .done v full => done (s.feWrite (!r.store) (some v) (feFlag r.cond full))
  | .timeout => done (s.feWrite (!r.store) none 0)
  | .withdrawn => { s with t := { s.t with mode := if asked then .stopping else .running } }
  | .rejected st => done ((s.feRejected r st.toNat).feWrite (!r.store) none 0)

/-- Whether an agenda entry is a request on its way to this module, or its answer on its way back. -/
def Agenda.isRequest (r : FeReq) : Agenda → Bool
  | .event .remoteFeRequest a => a.fe == some r && a.y == 0
  | _ => false
def Agenda.isAnswer (r : FeReq) : Agenda → Bool
  | .event .remoteFeResponse a => a.fe == some r
  | _ => false

/-- A thread's remote request resolved (06 R116). One to this module is resolved here: it has its answer, or it leaves its
list with no effect. One to another module is asked back, and its answer is to come. -/
def State.resolveRemote (s : State) (core : Nat) : State :=
  match (s.ctx core).mode with
  | .waiting (.feRemote dest r asked) =>
    if dest % 2 ^ 14 = s.fabric then
      match s.agenda.find? (·.isAnswer r) with
      | some (.event _ a) => { s with agenda := s.agenda.filter (!·.isAnswer r) }.eventFor core fun x =>
          let y := x.feAnswered r a.answer
          { y with t := y.t.keepTrap }
      | _ =>
        { s with
          agenda := s.agenda.filter (!·.isRequest r)
          parked := s.parked.filter fun p => !(p.remote && p.req == r) }.modCtx core fun c => { c with mode := .running }
    else if asked then s
    else { s with outbox := s.outbox ++ [Message.takeBack (dest % 2 ^ 14) r] }.modCtx core fun c =>
      { c with mode := .waiting (.feRemote dest r true) }
  | _ => s

/-- Whether a thread waits for the answer of another module. -/
def State.awaitsModule (s : State) (core : Nat) : Bool :=
  match (s.ctx core).mode with
  | .waiting (.feRemote dest _ _) => dest % 2 ^ 14 != s.fabric
  | _ => false

/-- A thread stopped at a boundary (20 R336 step 1): a released LOCK or SYNC returns, a released WAIT is withdrawn as any other
wait is (18 R303), an LDX or STX resolves, a REP keeps its count. -/
def State.stopThread (s : State) (core : Nat) : State :=
  let s1 := match (s.ctx core).mode with
    | .stopping => s
    | .released false => s.eventFor core fun x => let y := x.finishWait; { y with t := y.t.keepTrap }
    | .released true => s.modCtx core fun c => { c with mode := .running, watchDue := none, watchMet := false, skid := 0 }
    | _ => s.modCtx core fun c => { c with skid := 0 }
  let s2 := s1.resolveRemote core
  if s2.awaitsModule core then s2 else (s2.withdraw core).modCtx core Ctx.stopRep

/-- `tpc` of a thread that a Between-class event stops: where it goes on (05 R79, R87). A handler's own `tpc` stays (log
entry 72). -/
def Ctx.between (c : Ctx) : Ctx := if flagOf c.tstat 0 then c else { c with tpc := c.pc }

/-- A suspended slice back in its pool (18 R293, R300): with its old arrival number, or a new one. -/
def State.makeReady (s : State) (id : Nat) (fresh : Bool) : State :=
  match s.slice id with
  | none => s
  | some x =>
    ({ s with arrivals := if fresh then s.arrivals + 1 else s.arrivals }.modSlice id fun y => { y with
      state := .ready, parked := none
      arrival := if fresh then s.arrivalOf (x.lastThreads.headD 0) else y.arrival }).push .dispatchMatch { x := x.part }

/-! Reports (20 R334). -/

def State.supPad (s : State) (p : Nat) : Nat := padOf (s.part p).supervisor

/-- A report written to the ring, or kept while its entry is protected. A report of the supervisor's ring raises a notice
(19 R325, 24 R378). -/
def State.report (s : State) (p : Nat) (r : Report) : State :=
  let base := s.supPad p
  let n := s.mem.readNat (base + 0xF000) 8
  let x := s.part p
  if x.waiting != [] || x.undisposed.any (fun u => u.1 % 63 == n % 63) then s.setPart p { x with waiting := x.waiting ++ [r] } else
  let e := base + 0xF040 + 64 * (n % 63)
  let bytes := leBytes 8 r.slice ++ leBytes 8 r.resume.toNat ++ leBytes 8 r.tval.toNat ++ leBytes 4 r.core ++
    leBytes 1 r.cause ++ leBytes 1 r.kind ++ leBytes 2 0 ++ leBytes 8 (x.slotAddr r.slot) ++ leBytes 8 s.time ++
    leBytes 8 n ++ leBytes 8 0
  let s1 := (s.lay e bytes).writeNat (base + 0xF000) 8 (n + 1)
  let keep := r.kind == 0 || r.kind == 1 || r.kind == 5
  ((if keep then s1.modPart p fun y => { y with undisposed := y.undisposed ++ [(n, r)] } else s1)).notice p 1 n

/-- A PREEMPT notice that waited has been written: its slice is READY (18 R300, 20 R334). -/
def State.noticed (s : State) (r : Report) : State :=
  match s.slice r.slice with
  | some x => if r.kind = 2 && x.state == .suspended then s.makeReady x.id false else s
  | none => s

/-- Reports that waited, written as far as their entries are free. -/
def State.drainReports (s : State) (p : Nat) : Nat → State
  | 0 => s
  | n + 1 =>
    match (s.part p).waiting with
    | [] => s
    | r :: rs =>
      let s1 := (s.modPart p fun y => { y with waiting := [] }).report p r
      if (s1.part p).waiting.isEmpty then State.drainReports ((s1.modPart p fun y => { y with waiting := rs }).noticed r) p n else s

/-! Suspension (20 R336). -/

/-- The position of a context in its slice. -/
def Slice.positionOf (x : Slice) (core : Nat) : Nat := (x.threads.findIdx? (· == core)).getD 0

/-- The skid record of a stopped gang, with the leader's save area (11 R222). -/
def State.laySkid (s : State) (id : Nat) : State :=
  match s.gangs.find id, s.slice id with
  | some g, some x => if g.stopped then s.lay ((s.part x.part).slotAddr (x.slots.headD 0) + 0x15000) g.block else s
  | _, _ => s

/-- The gang of a slice stopped, with its members' contexts off their threads. -/
def Gang.offThreads (g : Gang) : Gang := { g with stopped := true, members := [] }

/-- Threads leave the slot in progress. -/
def State.dropMembers (s : State) (threads : List Nat) : State :=
  { s with agenda := s.agenda.filter fun x => match x with | .member c _ => !threads.contains c | _ => true }

/-- Whether a slice can leave its threads: none of them has a transfer or a request of another module to wait for (06 R116,
20 R337). -/
def State.canLeave (s : State) (x : Slice) : Bool :=
  x.threads.all fun c => !s.awaitsModule c && s.copiesSettled c x.id

/-- A slice whose threads have stopped at a boundary and wait until it can leave (20 R336, R337). -/
def State.stopSlice (s : State) (x : Slice) : State :=
  x.threads.foldl (fun y c =>
    let y1 := (y.stopThread c).holdCopies c x.id
    match (y1.ctx c).mode with
    | .running => y1.modCtx c fun t => { t with mode := .stopping }
    | _ => y1) s

/-- A slice's threads that stopped, and their copies, go on. -/
def State.unstop (s : State) (x : Slice) : State :=
  x.threads.foldl (fun y c =>
    (y.modCtx c fun t => if t.mode == .stopping then { t with mode := .running } else t).releaseCopies c x.id) s

/-- A formed gang begins no further slot; a member in its handler goes on to its boundary (11 R219). -/
def State.halt (s : State) (id : Nat) : State :=
  match s.gangs.find id with
  | some g => if g.formed && !g.stopped then { s with gangs := s.gangs.put id { g with stopped := true, runner := none } } else s
  | none => s

/-- Whether the threads of a slice stand at boundaries at which it can leave them: a gang has ended its slot. -/
def State.readyToLeave (s : State) (x : Slice) : Bool := !s.slotBusy x.threads && s.canLeave x

/-- A slice on its way to such boundaries (20 R336). -/
def State.towardLeaving (s : State) (x : Slice) : State :=
  let s1 := s.halt x.id
  if s1.slotBusy x.threads then s1 else s1.stopSlice x

/-- The save slots of a slice written, position by position; in a gang the block stands with the leader's (20 R339, R340,
11 R222). -/
def State.saveSlice (s : State) (x : Slice) (ctxs : List Ctx) (bounds : List Bool) (reason : Nat) (padcfgs : List Nat) : State :=
  let p := s.part x.part
  let gang := s.gangs.find x.id
  let lead := p.slotAddr (x.slots.headD 0)
  let s1 := match gang with
    | some g => s.lay (lead + 0x15000) g.block
    | none => s
  let len := if ctxs.length = 1 then 0 else ctxs.length
  ((List.range ctxs.length).zip ctxs).foldl (fun y (i, c) => y.saveCtx c
    { bound := bounds.getD i false, gang := gang.isSome, padcfg := padcfgs.getD i 0, reason := reason
      slotAddr := p.slotAddr (x.slots.getD i 0), gangBlock := if gang.isSome then lead + 0x15000 else 0
      gangpos := len * 256 + (if len = 0 then 0 else i) }) s1

/-- A RUNNING slice suspended with a reason, by a Between-class event where `event` says so; its state becomes SUSPENDED (05 R79,
20 R336). It can leave its threads. -/
def State.suspend (s : State) (id reason : Nat) (event : Bool := false) : State :=
  match s.slice id with
  | none => s
  | some x =>
    let s1 := (x.threads.foldl State.stopThread s).dropMembers x.threads
    let s2 := s1.flushFor (x.threads.headD 0) id
    let s3 := x.threads.foldl (fun y c => y.quiesce c id) s2
    let mark := fun c : Ctx => if event then c.between else c
    let ctxs := x.threads.map fun c => mark (s3.ctx c)
    let bounds := ctxs.map fun c => c.bound (ctxs.headD s3.t).obls
    let padcfgs := ctxs.map fun c => (s3.core c.coreid).padcfg.toNat
    let s4 := s3.saveSlice x ctxs bounds reason padcfgs
    let s5 := x.threads.foldl (fun y c => y.setCtx (Ctx.reset (kindAt c) c)) s4
    let s6 := match s5.gangs.find id with
      | some g => { s5 with gangs := s5.gangs.put id g.offThreads }
      | none => s5
    (s6.modSlice id fun y => { y with
      state := .suspended, threads := [], lastThreads := x.threads, saved := ctxs, reason := reason, bounds := bounds
      padcfgs := padcfgs, pinned := false }).push .dispatchMatch { x := x.part }

/-! Kill (20 R343, R344). -/

/-- The orphan list as the supervisor's slot shows it (20 R338, R344). -/
def State.writeOrphans (s : State) (p : Nat) : State :=
  s.lay ((s.part p).slotAddr 0 + 0x16000) (padTo 40960 ((s.part p).orphans.flatMap Oblig.bytes))

/-- Units orphaned: they pass to the supervisor, and the object they are on becomes BROKEN; a full list sets ORF. -/
def State.orphan (s : State) (p core : Nat) (o : Oblig) : State :=
  let os := (s.part p).orphans
  let full := (findDuty os o.loc o.kind).isNone && 2560 ≤ os.length
  let merge := match findDuty os o.loc o.kind with
    | some _ => os.map fun x => if x.loc == o.loc && x.kind == o.kind then { x with count := x.count + o.count } else x
    | none => os ++ [{ o with orphaned := true, spilled := false }]
  let s1 := if full then s else s.modPart p fun x => { x with orphans := merge }
  match s1.locKey p o.loc with
  | some k =>
    let s2 := if (s1.obj k).broken then s1 else s1.breakObj core k
    if full then s2.setObj core k { s2.obj k with status := (s2.obj k).status ||| 2 ^ 62 } else s2
  | none => s1

/-- The units a copy holds, as an entry (20 R343). -/
def Copy.units (c : Copy) : List Oblig :=
  match c.duty with
  | some d => [⟨locOf c.core c.cref, d, if d == .bytes then c.length else 1, 0, c.due, false, false, false⟩]
  | none => []

/-- The word that SYNC returns (11 R226). -/
def syncWord (phase : Nat) (transfer broken : Bool) : Word :=
  word (phase + (if transfer then 2 ^ 16 else 0) + (if broken then 2 ^ 63 else 0))

/-- Threads waiting in SYNC on a domain, by its members. -/
def State.syncWaiters (s : State) (d : Domain) : List Nat :=
  ((s.t.coreid, s.t) :: s.others).filterMap fun (c, x) =>
    if x.mode == .waiting (.sync d.level) && d.hasMember c then some c else none

/-- A domain's barrier BROKEN: every waiting member returns with BRK (11 R229). -/
def State.breakDomain (s : State) (p i : Nat) : State :=
  match (s.part p).domains[i]? with
  | none => s
  | some d =>
    let s1 := s.modDomain p i fun d => { d with broken := true, transfer := false }
    (s.syncWaiters d).foldl (fun x c => x.wake c (syncWord d.phase.toNat false true).toNat) s1

/-- A context whose slice has left it for good: its registers stand as they were until the next dispatch (02 R22). -/
def Ctx.retired (c : Ctx) : Ctx :=
  { c with
    mode := .idle, rep := none, issued := false, obls := [], remoteDue := false, watchDue := none, watchMet := false
    arriveDue := none, ringTrap := false, late := none, skid := 0 }

/-- A slice retired: its id, slots and threads are free. -/
def State.retireSlice (s : State) (id : Nat) : State :=
  match s.slice id with
  | none => s
  | some x =>
    let s1 := x.threads.foldl (fun y c => y.modCtx c Ctx.retired) s
    let s2 := s1.modPart x.part fun y => { y with slots := y.slots.filter fun n => !x.slots.contains n }
    let audits := s2.audits.filter fun u => !(u.id == id && u.since.isNone)
    ({ s2 with slices := s2.slices.filter (·.id != id), gangs := s2.gangs.erase id, audits := audits }).push .dispatchMatch { x := x.part }

/-- A slice killed, with the cause its report carries (20 R343). It can leave its threads. -/
def State.killNow (s : State) (id cause : Nat) : State :=
  match s.slice id with
  | none => s
  | some x =>
    let core := (x.threads ++ x.lastThreads).headD 0
    let resume := ((x.threads.map fun c => (s.ctx c).pc) ++ x.saved.map (·.pc)).headD 0
    let s1 := (x.threads.foldl State.stopThread s).dropMembers x.threads
    let s2 := s1.flushFor core id
    let s3 := x.threads.foldl (fun y c => y.quiesce c id) s2
    let mine := s3.copies.filter fun c => c.slice.toNat == id
    let s4 := { s3 with copies := s3.copies.filter fun c => c.slice.toNat != id }
    let held := match x.saved with
      | c :: _ => c.obls
      | [] => if x.threads.isEmpty then x.obls else s4.table core
    let s5 := (held ++ mine.flatMap Copy.units).foldl (fun y o => y.orphan x.part core o) s4
    let s6 := if held.isEmpty && mine.isEmpty then s5 else s5.writeOrphans x.part
    let members := if x.threads.isEmpty then x.lastThreads else x.threads
    let s7 := (members.flatMap s6.domainsOf).foldl (fun y d => y.breakDomain x.part d.1) s6
    let s8 := if x.counted then s7.occupy x.part (recQueue x.record) false else s7
    (s8.retireSlice id).report x.part
      { kind := 3, cause := cause, slice := id, position := 0, resume := resume, tval := 0, core := core, slot := x.slots.headD 0 }

end Sys2Proof.Machine
end

