-- ==== Sys2Proof/Machine/Ops.lean ====
section
/-! DEFINITION. The operations every meaning shares: taking a trap and returning from one, the decode checks that depend
on the context, completing an instruction, and running a meaning (04 R57, 05 R82, R87, R88, 20 R330 to R333). -/

namespace Sys2Proof.Machine

/-! Taking a trap. -/

/-- `tstat` at trap entry: every field but REN is written (20 R330). -/
def trapStat (old : Word) (gpos widx : Nat) (cls : TrapClass) (stg : Bool) : Word :=
  word (gpos * 2 ^ 16 + widx * 2 ^ 8 + cls.code * 16 + fieldOf old 2 1 * 4 + (if stg then 2 else 0) + 1)

/-- Trap entry into the thread's handler, one step (05 R88): the saved registers, the trap in progress, the pc at `tvec`.
`gpos` is the gang position, `stg` marks a staging that has not completed (18 R297). -/
def Ctx.enter (t : Ctx) (c : Cause) (tval : Word) (cls : TrapClass) (gpos : Nat) (stg : Bool) : Ctx :=
  let widx := if c = .watch then (match t.watchDue with | some (i, _) => i | none => 3) else 0
  { t.stopRep with
    tcause := BitVec.ofNat 8 c.code
    tval := tval
    tpc := t.pc
    tstat := trapStat t.tstat gpos widx cls stg
    pc := t.tvec
    mode := .running
    budget := if c = .budget then 4096 else t.budget
    grace := t.grace || c == .budget }

/-- The trap's bookkeeping that is not architectural: a watch match that this trap reports, or that a Before-class trap
drops with its instruction, is no longer due (23 R368). An arrival stays due until a WATCH of the After class (R369). -/
def State.clearWatch (s : State) (c : Cause) (cls : TrapClass) : State :=
  let t := if c = .watch || cls = .before then { s.t with watchDue := none, watchMet := false } else s.t
  { s with t := if c = .watch && cls = .after then { t with arriveDue := none } else t }

/-- A copy ended on its channel: the context stops, the completion step is to come (10 R205). -/
def State.endCopy (s : State) (core : Nat) (status cause : Nat) (tval : Word) : State :=
  let cl := clusterOf core
  let ch := core / 2 % 8
  match s.channelQueue cl ch with
  | c :: _ =>
    let c1 := { c with ended := true, running := false, status := c.status ||| word status, cause := cause, tval := tval }
    (({ s with copies := s.copies.map fun x => if x = c then c1 else x }.stopChannel cl ch).push .copyCompletion c.arg).push
      .copyStart { x := cl, y := ch }
  | [] => s.stopChannel cl ch

/-- Where a trap of a thread goes to its partition's supervisor (20 R331). -/
def State.toSupervisor (s : State) (c : Cause) : Bool :=
  let flagged := match s.slice s.t.sliceid.toNat with
    | some x => bitOf (recField x.record 31 1) 3
    | none => false
  let used := (s.ctx (s.leaderOf s.t.coreid)).grace
  flagged || s.t.tvec == 0 || flagOf s.t.tstat 0 || (c == .budget && used)

/-- A stopped gang goes on: the member that was in its handler goes on with it, else the gang re-forms (11 R221). -/
def State.again (s : State) (id : Nat) : State :=
  match s.gangs.find id with
  | some g =>
    let r := g.runner.filter fun q => flagOf (s.ctx (g.members.getD q 0)).tstat 0
    { s with gangs := s.gangs.put id { g with stopped := r.isSome, runner := r } }
  | none => s

/-- TILEFAULT's step at the home of the entry (19 R312): a committed entry lets the instruction run again, a reserved one
parks the activity, which is suspended. -/
def State.tileFaultOf (s : State) (core id : Nat) : State :=
  let p := s.partNo core
  let c := s.ctx core
  match s.walkOn (dieOf core) p c.accessVa.toNat with
  | .fault .tilefault _ addr =>
    if s.isSup core then
      ((s.logSparse p c.accessVa.toNat id core c.access).modCtx core fun t => { t with mode := .stopping }).modPart p
        fun x => { x with supParked := some addr }
    else
      ((s.logSparse p c.accessVa.toNat id core c.access).suspend id Cause.tilefault.code).modSlice id
        fun x => { x with parked := some addr }
  | _ =>
    match s.slice id with
    | some x => (s.unstop x).again id
    | none => s

/-- A slice suspended by a trap of one of its threads, and reported (20 R331, R334). -/
def State.supSuspend (s : State) (core id : Nat) (c : Cause) (tval : Word) : State :=
  match s.slice id with
  | none => s
  | some x =>
    let pc := (s.ctx core).pc
    let pos := x.positionOf core
    (s.suspend id c.code).report x.part
      { kind := if c = .budget then 1 else 0, cause := c.code, slice := id, position := pos, resume := pc
        tval := tval, core := core, slot := x.slots.getD pos 0 }

/-- A victim leaves its threads, and is READY again with its old arrival number and its remaining budget; where it asks for
it the supervisor has a report, which is written first (18 R300, 20 R334, R336). -/
def State.displace (s : State) (x : Slice) : State :=
  let s1 := (s.suspend x.id Cause.preempt.code true).modSlice x.id fun y => { y with victimOf := none }
  let resume := ((s1.slice x.id).bind fun y => y.saved.head?.map (·.pc)).getD 0
  if !bitOf (recField x.record 31 1) 3 then s1.makeReady x.id false else
  let s2 := s1.report x.part
    { kind := 2, cause := Cause.preempt.code, slice := x.id, position := 0, resume := resume, tval := 0, core := x.threads.headD 0
      slot := x.slots.headD 0 }
  if (s2.part x.part).waiting.any fun r => r.kind == 2 && r.slice == x.id then s2 else s2.makeReady x.id false

/-- A slice that YIELDs leaves its threads: it is READY with a new arrival number and a fresh budget to come (09 R194,
18 R300). -/
def State.yieldNow (s : State) (x : Slice) : State :=
  ((s.suspend x.id 0).modSlice x.id fun y => { y with refill := true }).makeReady x.id true

/-- The causes by their codes (20 R329). -/
def Cause.ofCode (n : Nat) : Option Cause :=
  [Cause.illop, .reprange, .align, .accv, .page, .tilefault, .ptersv, .perm, .rankv, .unowed, .exitowe, .obfull, .budget, .slotviol,
    .xphase, .gang, .poison, .fpe, .mcfg, .watch, .step, .brkpt, .svc, .trapi, .preempt, .remote].find? fun c => c.code == n

/-- The codes that stand for YIELD, and with a report's cause added for a kill, where a suspension names its reason by a
cause's code. -/
def yieldCode : Nat := 256
def killCode : Nat := 512

/-- A slice at a boundary leaves its threads (20 R336): as a victim, by YIELD, by a kill, or for a trap of cause `a.y` and
`tval` `a.v` of thread `a.z`. -/
def State.leaveAt (s : State) (x : Slice) (a : EventArg) : State :=
  if killCode ≤ a.y then s.killNow x.id (a.y - killCode) else
  if a.y = yieldCode then s.yieldNow x else
  match Cause.ofCode a.y with
  | some c => if c = .tilefault then s.tileFaultOf a.z x.id else s.supSuspend a.z x.id c a.v
  | none => s.displace x

/-- Slice `a.x` leaves its threads: now, where they all stand at boundaries, else when they do (11 R219, 20 R336, R337). -/
def State.leave (s : State) (a : EventArg) : State :=
  match s.slice a.x with
  | none => s
  | some x => if s.readyToLeave x then s.leaveAt x a else (s.towardLeaving x).push .suspension a

/-- A slice killed, with the cause its report carries (20 R343): a running one once its threads stand at boundaries, as a
suspension stops it, with its requests to other modules resolved and its transfers acknowledged (06 R116, 20 R337). -/
def State.kill (s : State) (id cause : Nat) : State := s.leave { x := id, y := killCode + cause }

/-- The current context's slice leaves its threads for a trap. A transfer phase does not put it off, as a synchronous trap is
no event of 11 R231 (log entry 62). -/
def State.leaveFor (s : State) (c : Cause) (tval : Word) : State :=
  let core := s.t.coreid
  let id := s.t.sliceid.toNat
  if s.isSup core then s.tileFaultOf core id else s.leave { x := id, y := c.code, z := core, v := tval }

/-- A trap sent to the supervisor (20 R331): the activity is suspended with the cause as reason and reported. A trap of the
supervisor itself freezes it and raises a notice. -/
def State.supTrap (s : State) (c : Cause) (tval : Word) : State :=
  let core := s.t.coreid
  let p := s.partNo core
  if s.isSup core then
    ({ s with t := { s.t.stopRep with mode := .frozen } }.modPart p fun x => { x with supFrozen := true }).notice p 4 0
  else
    match s.slice s.t.sliceid.toNat with
    | none => { s with t := { s.t.stopRep with mode := .idle } }
    | some _ => { s with t := s.t.stopRep }.leaveFor c tval

/-- The domain whose snapshotted superstep can no longer be repeated (22 R359). -/
def State.escalates (s : State) : Option (Nat × Domain) :=
  (s.domainsOf (s.leaderOf s.t.coreid)).find? fun d => d.2.parent.isNone && d.2.snapshot && (!d.2.repeatable || d.2.rolledBack)

/-- Whether a POISON, by a route of 22 R351, in a repeatable superstep that has not been rolled back: the domain is (22 R358). A
BROKEN ring's is of no such route (07 R140). -/
def State.rollsBack (s : State) (c : Cause) : Option Nat :=
  if c = .poison && !s.t.ringTrap then
    match s.snapshotOf s.t.coreid with
    | some (i, d) => if d.rolledBack then none else some i
    | none => none
  else none

/-- A trap of the current context taken (05 R87, R88, 20 R331, 22 R358, R359). One of a gang's member in a slot waits for the
slot's end, where that of the lowest position is taken (11 R219, R220). A gang that stops for it leaves its skid record
(11 R222). -/
def State.takeTrap (s : State) (c : Cause) (tval : Word) (cls : TrapClass) : State :=
  let core := s.t.coreid
  let due := s.t.watchDue
  let s0 := s.clearWatch c cls
  if s0.t.kind = .hart then
    s0.endCopy core (if c = .illop || c = .reprange then ctpl else cfault) c.code tval
  else
    match s0.gangOf core with
    | some (id, g, p) =>
      if g.formed && g.runner != some p && (!g.stopped || g.closing.contains p) then
        { s with gangs := s.gangs.put id { g with trapped := g.trapped.put p (some (c, tval)) } }
      else
        let s1 := if g.formed && !g.stopped then
            { s0 with gangs := s0.gangs.put id { g with stopped := true, runner := some p } }.laySkid id
          else s0
        State.deliver s1 c tval cls due p
    | none => State.deliver s0 c tval cls due 0
where
  /-- where the trap goes -/
  State.deliver (s : State) (c : Cause) (tval : Word) (cls : TrapClass) (due : Option (Nat × Word)) (gpos : Nat) : State :=
    match s.rollsBack c with
    | some i => { s with agenda := .event .rollback { x := s.partNo s.t.coreid, y := i } :: s.agenda }
    | none =>
    let s := { s with t := { s.t with ringTrap := false } }
    if c = .tilefault then s.leaveFor .tilefault tval
    else if s.toSupervisor c then
      let s1 := s.supTrap c tval
      match c, s.escalates with
      | .poison, some (i, d) =>
        { s1 with agenda := .event .rollback { x := s.partNo s.t.coreid, y := i, z := d.phase.toNat + 1 } :: s1.agenda }
      | _, _ => s1
    else { s with t := { ({ s.t with watchDue := due }.enter c tval cls gpos false) with watchDue := s.t.watchDue } }

/-- A meaning run: its next state, or the trap taken. Whatever an instruction meets, it has a next state. -/
def runM (m : M Unit) (s : State) : Host.Outcome State Fault Refusal :=
  match m s with
  | .ok (_, s1) => .next s1
  | .error (.trap c tval cls s1) => .next (s1.takeTrap c tval cls)
  | .error (.stay s1) => .next s1

/-! The decode checks that depend on the context (04 R57, checks 6 and 8). -/

/-- A CSR access's number, and whether it writes. -/
def csrOf : Instr → Option (Nat × Bool)
  | .csrr c _ => some (c.toNat, false)
  | .csrw c _ _ => some (c.toNat, true)
  | .csrs c _ _ => some (c.toNat, true)
  | .csrc c _ _ => some (c.toNat, true)
  | _ => none

/-- The majors that a kind of context has (02 R13). -/
def familyOn (k : CtxKind) (major : Nat) : Bool :=
  match k with
  | .lane => major != 35
  | .control => major ≤ 23 || (31 ≤ major && major ≤ 34) || (37 ≤ major && major ≤ 39) || major == 41 || major == 42
  | .hart => major ≤ 18 || major == 23 || major == 35

/-- How a CSR may be reached (02 R19). -/
inductive CsrAccess where
  | ro | rw | sv
deriving DecidableEq, Repr

/-- The table of 02 R19: the access of a number, and whether only lane cores have it (02 R13, 23 R367). -/
def csrInfo (n : Nat) : Option (CsrAccess × Bool) :=
  if n ≤ 4 then some (.rw, true) else if n = 5 then some (.rw, false) else if 6 ≤ n && n ≤ 8 then some (.rw, true)
  else if 0x10 ≤ n && n ≤ 0x18 then some (.rw, false)
  else if 0x200 ≤ n && n ≤ 0x210 then some (.rw, false) else if n = 0x211 then some (.ro, false)
  else if n = 0x300 then some (.rw, false) else if n = 0x301 then some (.ro, false) else if n = 0x302 then some (.sv, false)
  else if 0x303 ≤ n && n ≤ 0x308 then some (.ro, false) else if n = 0x309 then some (.rw, false)
  else if n = 0x400 then some (.ro, false) else if 0x401 ≤ n && n ≤ 0x404 then some (.sv, false)
  else if 0x500 ≤ n && n ≤ 0x502 then some (.sv, false) else if 0x540 ≤ n && n ≤ 0x57F then some (.sv, false)
  else if n = 0x600 then some (.sv, false) else if n = 0x601 then some (.ro, false)
  else if 0x700 ≤ n && n ≤ 0x704 then some (.rw, false) else if n = 0x710 || n = 0x711 then some (.sv, false)
  else if 0x720 ≤ n && n ≤ 0x727 then some (.rw, true) else if n = 0x728 then some (.sv, false)
  else none

/-- Whether a kind of context has a register (02 R13, R20 checks 1 and 2). -/
def csrOn (k : CtxKind) (n : Nat) : Bool :=
  match csrInfo n with
  | some (_, laneOnly) => k == .lane || !laneOnly
  | none => false

/-- A decode trap; on a copy hart it ends the copy with CTPL (10 R205). -/
def decodeTrap {α : Type} (c : Cause) (tval : Word) : M α := fun s =>
  if s.t.kind = .hart then .error (.stay ((s.clearWatch c .before).endCopy s.t.coreid ctpl c.code tval))
  else .error (.trap c tval .before s)

/-- Whether the family's majors are forbidden to an auditable slice (22 R360). -/
def noseForbids (i : Instr) : Bool :=
  (31 ≤ i.major && i.major ≤ 38) || (40 ≤ i.major && i.major ≤ 42) ||
  (i.major == 39 && !(i == .exit || i == .yield || match i with | .now _ => true | _ => false))

/-- A decode trap unless the condition holds. -/
def decodeRequire (p : Bool) (c : Cause) (tval : Word) : M Unit := if p then pure () else decodeTrap c tval

/-- Whether an instruction moves values over the routers (11 R233, R234). -/
def Instr.onRouter : Instr → Bool
  | .xmit _ _ => true
  | .xrecv _ _ => true
  | _ => false

/-- The context's kind has the family and the registers; WELT runs in a gang only (02 R13). -/
def State.hasFamily (s : State) (i : Instr) : Bool :=
  familyOn s.t.kind i.major && (s.t.kind == .lane || !(i.isC || i.codes.any fun c => 32 ≤ c.toNat && c.toNat < 52)) &&
    (s.t.kind == .lane || !Instr.onRouter i) && (i.major != 40 || (s.gangOf s.t.coreid).isSome)

/-- The context's kind has the CSR (02 R20 checks 1 and 2). -/
def State.hasCsr (s : State) (i : Instr) : Bool :=
  match csrOf i with
  | some (n, _) => csrOn s.t.kind n
  | none => true

/-- The context may write the CSR, if the instruction writes (02 R20 check 3). -/
def State.mayWriteCsr (s : State) (i : Instr) : Bool :=
  match csrOf i with
  | some (n, true) =>
    match csrInfo n with
    | some (.ro, _) => false
    | some (.sv, _) => s.isSup s.t.coreid
    | _ => true
  | _ => true

/-- Check 6 of 04 R57: the context has the family, the registers and the CSR, and may write it. -/
def gateContext (i : Instr) (w : Word) : M Unit := do
  let s ← get
  decodeRequire (s.hasFamily i) .illop w
  decodeRequire (s.hasCsr i) .illop w
  decodeRequire (s.mayWriteCsr i) .perm w
  require (!(noseForbids i && s.auditable s.t.coreid)) .illop w

/-- The Welt port an instruction names: of several the one in b, then a, then d, whose code GANG reports (04 R57 has "the code
found"; log entry 79). -/
def portOf (i : Instr) : Option Code := i.codes.find? fun c => 48 ≤ c.toNat && c.toNat < 52

/-- Check 8 of 04 R57: ports outside a formed gang. -/
def gatePorts (i : Instr) : M Unit := do
  let s ← get
  match portOf i with
  | some c => require (s.formedGang s.t.coreid).isSome .gang (word c.toNat)
  | none => pure ()

/-- The first 32 bits of an instruction, the halfword of a C form: what ILLOP reports (04 R57). -/
def imageOf (i : Instr) : Word := word (encodeWord i)

/-- What an instruction reads beside its scalar, predicate and vector registers, as `badRegs` numbers it: shape slots from 72,
handles from 80, CSRs from 128. -/
def marksRead (i : Instr) : List Nat :=
  let m := i.major
  let vec := i.isC || (24 ≤ m && m ≤ 29)
  let q := match i with
    | .vcmp _ _ _ _ | .vsel _ _ _ _ => 0
    | _ => if 24 ≤ m && m ≤ 27 then bitsOf (encodeWord i) 25 3 else 0
  (match csrOf i with | some (n, _) => [128 + n] | none => []) ++
  (if vec then [128, 129] else []) ++ (if q = 0 then [] else [131, 132, 71 + q]) ++
  (if 31 ≤ m && m ≤ 34 then [128 + 0x210] else []) ++
  (match i with
  | .hbind _ _ _ => []
  | _ => (i.codes.filter fun c => 32 ≤ c.toNat && c.toNat < 48).map fun c => 48 + c.toNat) ++
  match i with
  | .rep _ _ _ _ => [133]
  | .eret => [128 + 0x703, 128 + 0x704]
  | .tagwany _ _ | .tagwall _ _ => [128 + 0x309]
  | .obnew _ _ _ => [128 + 0x300]
  | .shpst q _ => [71 + q.toNat]
  | .vqnt _ _ _ _ | .vdq _ _ _ _ | .vscale _ _ _ _ => [134]
  | _ => []

/-- Whether an instruction reads its activity's obligation table: OBJ, TASK and BSP, a read of `obmin`, a handle operand, whose
wait the table may forbid (09 R168, R176). -/
def readsTable (i : Instr) : Bool :=
  (37 ≤ i.major && i.major ≤ 39) || i.major == 41 || (match csrOf i with | some (n, _) => n == 0x301 | none => false) ||
    i.codes.any fun c => 32 ≤ c.toNat && c.toNat < 48

/-- A register, CSR or obligation entry that holds uncorrectable data traps at the first instruction that reads it (22 R351). -/
def gateMarks (i : Instr) : M Unit := do
  let s ← get
  require (s.t.badRegs.isEmpty || !(marksRead i).any s.t.badRegs.contains) .poison 0
  require (!(readsTable i && (s.table s.t.coreid).any (·.bad))) .poison 0

/-- Checks 6 and 8 of 04 R57, then the marks of uncorrectable data. -/
def gate (i : Instr) : M Unit := do
  gateContext i (imageOf i)
  gatePorts i
  gateMarks i

/-! Completing an instruction. -/

/-- The traps of the After class that a completed instruction may raise: a watch match of its own, an arrival that is due, a
step (23 R368, R369, R373). -/
def afterInstr : M Unit := do
  match ← readT Ctx.afterTrap with
  | some (c, v) => trapAs c v .after
  | none => pure ()

/-- The instruction completes and advances; `decision` and `dval` are what a gang's leader hands on (05 R71, 09 R167). -/
def retireWith (i : Instr) (decision dval : Word) : M Unit := do
  modS fun s => s.complete i.len decision dval
  afterInstr

def retire (i : Instr) : M Unit := retireWith i 0 0

/-- The instruction completes with the context's changes `f` and its pc at `target`, not advancing sequentially. -/
def jumpTo (target : Word) (f : Ctx → Ctx) : M Unit := do
  modS fun s => s.finish { f s.t with pc := target } 0 0
  afterInstr

/-! Returning from a trap. -/

/-- ERET's effect on the context (05 R82, 20 R330): TIP cleared, the pc at `tpc`, nothing else restored. -/
def Ctx.leave (t : Ctx) : Ctx := { t with tstat := t.tstat &&& ~~~(1#64), pc := t.tpc, mode := .running }

/-- The After-class traps that are due, taken: for an instruction that an event completed. -/
def State.afterTaken (s : State) : State :=
  match afterInstr s with
  | .error (.trap c v cls s1) => s1.takeTrap c v cls
  | _ => s

/-- The class of a trap that stands before the next instruction: one that a completed instruction has left (11 R219, 23 R373), or
the POISON of a handle wait that a reset has ended (20 R345, 07 R140). -/
def lateClass (c : Cause) : TrapClass := if c = .poison then .before else .after

/-- The trap that stands before the next instruction, taken. -/
def State.takeLate (s : State) : State :=
  match s.t.late with
  | some (c, v) => { s with t := { s.t with late := none } }.takeTrap c v (lateClass c)
  | none => s

/-- In a transfer phase an instruction that can stall traps with XPHASE (11 R231). -/
def notInTransfer (i : Instr) : M Unit := do
  let s ← get
  if (s.transferOf s.t.coreid).isSome then trapNow .xphase (imageOf i)

/-- An event's meaning: it has no context checks and no advance; without a fitting subject nothing happens. -/
def event (f : State → State) : M Unit := modS f

end Sys2Proof.Machine
end

