-- ==== Sys2Proof/Machine/Operands.lean ====
section
/-! DEFINITION. Operands: scalar sources and destinations, predicates, Welt ports, vector registers and ring handles
(02 R11, R17, R18, 04 R52, 05 R58, 07 R139 to R141, 11 R217). -/

namespace Sys2Proof.Machine

/-! Poisoned registers (22 R350, R351). -/

/-- A register that holds uncorrectable data traps at the first instruction that reads it. -/
def regOk (n : Nat) : M Unit := do
  let s ← get
  require (!s.t.badRegs.contains n) .poison 0

/-! Welt ports (11 R217). -/

/-- `wi`: the west neighbour's `eo` as it stood after its instruction of the same index. -/
def State.readWi (s : State) : Word :=
  match s.formedGang s.t.coreid with
  | some (_, g, p) =>
    if p = 0 then 0 else
      let west := s.ctx (g.members.getD (p - 1) 0)
      if g.count (p - 1) ≤ g.count p + 1 then west.eoLast else west.eoBefore
  | none => 0

/-- `ei`: the east neighbour's `wo` as it stood after its instruction two places earlier. -/
def State.readEi (s : State) : Word :=
  match s.formedGang s.t.coreid with
  | some (_, g, p) =>
    if p + 1 = g.members.length then 0 else
      let east := s.ctx (g.members.getD (p + 1) 0)
      if g.count (p + 1) + 1 ≤ g.count p then east.woLast else east.woBefore
  | none => 0

/-! Scalar operands (05 R58). -/

/-- A scalar source read as 64 bits: `s0` is 0, a 32-bit literal is sign-extended. -/
def readSrc : Src → M Word
  | .code c => do
    let s ← get
    if c.toNat < 32 then
      regOk c.toNat
      pure (if c = 0 then 0 else s.t.s[c.toNat]!)
    else if c.toNat = 48 then pure s.readWi
    else if c.toNat = 50 then pure s.readEi
    else pure 0
  | .lit32 x => pure (x.signExtend 64)
  | .lit64 x => pure x

/-- The old value of a scalar destination that an instruction also reads. -/
def readDest (d : Code) : M Word := readSrc (.code d)

/-- A scalar register or send port written; `s0` discards (02 R11). -/
def writeD (d : Code) (v : Word) : M Unit := modT fun t => t.writeDest d.toNat v

/-- A predicate; `k0` reads all ones. -/
def readK (k : Nat) : M Word := do
  regOk (64 + k)
  readT fun t => if k = 0 then BitVec.allOnes 64 else t.k[k]!

/-- A predicate written; `k0` discards. -/
def Ctx.writeK (c : Ctx) (k : Nat) (v : Word) : Ctx :=
  if k = 0 then c else { c with k := c.k.set! k v, badRegs := setDrop c.badRegs (64 + k) }

def writeK (k : Nat) (v : Word) : M Unit := modT fun t => t.writeK k v

/-! Vector registers. -/

def readV (n : Nat) : M Line := do
  regOk (32 + n)
  readT fun t => t.v[n]!

def Ctx.writeV (c : Ctx) (n : Nat) (x : Line) : Ctx :=
  { c with v := c.v.set! n x, badRegs := setDrop c.badRegs (32 + n) }

/-! Ring handles (07 R139 to R141). -/

/-- A ring's fields in its aux word. -/
def Obj.slotBase (o : Obj) : Nat := bitsOf o.aux 0 32
def Obj.slotSize (o : Obj) : Nat := bitsOf o.aux 32 16
def Obj.producerIndex (o : Obj) : Nat := bitsOf o.aux 48 8
def Obj.consumerIndex (o : Obj) : Nat := bitsOf o.aux 56 8

/-- A ring's compact slot base: a self alias names the pad that holds the object (07 R139). -/
def Obj.basePad (o : Obj) (loc : Nat) : Nat :=
  if bitOf o.slotBase 31 then loc % 2 ^ 32 / 2 ^ 17 * 2 ^ 17 + o.slotBase % 2 ^ 16 else o.slotBase

/-- A ring after an advance of its producer or its consumer (07 R141). -/
def Obj.advanceRing (o : Obj) (producer : Bool) : Obj :=
  if producer then
    { o with arrived := o.arrived + 1, aux := putBits o.aux 48 8 ((o.producerIndex + 1) % o.expected) }
  else
    { o with arrived := o.arrived - 1, aux := putBits o.aux 56 8 ((o.consumerIndex + 1) % o.expected) }

/-- What one side of a ring finds: the filled slots, or the free ones. -/
def Obj.ringHas (o : Obj) (producer : Bool) : Nat := if producer then o.expected - o.arrived else o.arrived

/-- A ring's step. It releases the thread whose condition it makes hold: that one goes on in its next turn (09 R178). The
advance is a release. -/
def State.ringStep (s : State) (agent key : Nat) (producer : Bool) : State :=
  s.setObj agent key ((s.obj key).advanceRing producer)

/-- The key and location of a handle's ring, checked as an object of that kind (09 R171). -/
def handleRing (h : Handle) : M (Nat × Nat) := do
  let (key, loc, _) ← findKind [Obj.ring] h.ref
  pure (key, loc)

/-- A duty on a ring that is held while a handle is bound. -/
def ringDuty (producer : Bool) : Duty := if producer then .fill else .drain

/-- An advance of the current context's side of a ring, which brings its duty's entry back if it was spilled (07 R141,
09 R168). -/
def State.ownAdvance (s : State) (key loc : Nat) (producer : Bool) : State :=
  let core := s.t.coreid
  let os := s.table core
  let s1 := match findDuty os loc (ringDuty producer) with
    | some e => s.setTable core (s.putDuty (s.partNo core) os e)
    | none => s
  s1.ringStep core key producer

/-- Whether a context is in a handle wait on a ring that no step has released. -/
def State.waitsOnRing (s : State) (key : Nat) (c : Ctx) : Option Bool :=
  match c.mode with
  | .waiting (.handle k _ p need _) => if k == key && (s.obj key).ringHas p < need then some p else none
  | _ => none

/-- Whether the other side of a ring is in a handle wait on it (07 R140, 09 R177): a thread, a storer, or a loader. -/
def State.otherWaits (s : State) (key : Nat) (producer : Bool) : Bool :=
  s.others.any (fun x => s.waitsOnRing key x.2 == some (!producer)) ||
  s.subs.any fun x => s.locKey x.part x.loc == some key && x.loader == !producer && !x.ending &&
    (let o := s.obj key; if x.loader then o.arrived == o.expected else o.arrived == 0)

/-- The runs of `n` bytes from offset `cur` of slot `idx`, over as many slots as they need. -/
def slotRuns (base size slots : Nat) : Nat → Nat → Nat → Nat → List (Nat × Nat)
  | 0, _, _, _ => []
  | m + 1, idx, cur, n =>
    let at1 := base + idx * size + cur
    if n ≤ size - cur then [(at1, n)] else (at1, size - cur) :: slotRuns base size slots m ((idx + 1) % slots) 0 (n - (size - cur))

/-- The implicit advance of a handle whose cursor stands at its slot's end: HADVP or HADVC (07 R140, R141). -/
def advanceAtEnd (hn key loc : Nat) (producer : Bool) : M Unit := do
  let s ← get
  let h := s.t.h[hn]!
  let o := s.obj key
  if h.cursor.toNat == o.slotSize then
    require (if producer then o.arrived < o.expected else o.arrived != 0) .unowed h.ref
    release
    modS fun s => s.ownAdvance key loc producer
    modT fun t => { t with h := vecMod t.h hn fun h => { h with cursor := 0 } }

/-- The consumer of a ring whose handle wait on it began in this same cycle: of the two it is the one that traps (09 R177). -/
def State.consumerNow (s : State) (key : Nat) : Option Nat :=
  (s.others.find? fun x => match x.2.mode with
    | .waiting (.handle _ _ _ _ since) => s.waitsOnRing key x.2 == some false && since == s.time
    | _ => false).map (·.1)

/-- The wait of a handle operand for `need` slots: the wait rule, a BROKEN ring, the other side's wait, the wait itself, which
is an acquire as it returns (07 R140, R141, 09 R176, R177). A wait that has passed the rule holds: where the instruction is
executed again it is not tested anew, nor are the waits before it, which are over; the ones after it still are. -/
def handleWait (key loc : Nat) (producer : Bool) (need : Nat) (ref : Word) : M Unit := do
  let s ← get
  let o := s.obj key
  let again := match s.t.mode with | .waiting (.handle _ _ _ _ _) => true | _ => false
  let (mine, since) := match s.t.mode with
    | .waiting (.handle k _ p _ t) => if k == key && p == producer then (true, t) else (false, s.time)
    | _ => (false, s.time)
  if !again && !s.mayWait s.t.coreid (s.table s.t.coreid) o.rank (ringExempt loc) none then trapNow .rankv ref
  if o.broken then
    modT fun t => { t with ringTrap := true }
    trapNow .poison ref
  if o.ringHas producer < need then
    match if producer then s.consumerNow key else none with
    | some c => modS fun s => (s.withdraw c).asCtx c fun x => x.takeTrap .rankv ref .before
    | none => if s.otherWaits key producer then trapNow .rankv ref
    waitOn (.handle key loc producer need since)
  if mine then modT fun t => { t with mode := .running }
  acquire

/-- A handle used as an operand for `n` bytes: the implicit advance, the wait, and the access's place. The location keys of
the `n` bytes come back, in runs (07 R140). The rule has a step that spans two slots wait for both; an unshaped access that
does, and two sources of one handle, are taken the same way (log entry 78). -/
def touchHandle (i : Instr) (hn : Nat) (producer : Bool) (n : Nat) : M (List (Nat × Nat)) := do
  notInTransfer i
  let h ← readT fun t => t.h[hn]!
  require (h.role == (if producer then .producer else .consumer)) .illop (imageOf i)
  let (key, loc) ← handleRing h
  advanceAtEnd hn key loc producer
  let s ← get
  let o := s.obj key
  let cur := (s.t.h[hn]!).cursor.toNat
  let span := (cur + n + o.slotSize - 1) / o.slotSize
  if cur == 0 || 1 < span then
    handleWait key loc producer (if cur == 0 then max h.need.toNat span else span) h.ref
  let idx := if producer then o.producerIndex else o.consumerIndex
  let runs := slotRuns (padBase + o.basePad loc) o.slotSize o.expected (span + 1) idx cur n
  -- an auditable slice stays in its own pad (22 R360)
  match runs.find? fun r => !s.noseAllows s.t.coreid (word r.1) with
  | some (k, _) => trapNow .accv (word k)
  | none => if runs.any fun r => s.padHeld s.t.coreid r.1 then stayNow
  pure runs

/-- `n` advances of a ring. -/
def State.ringSteps (key loc : Nat) (producer : Bool) : Nat → State → State
  | 0, s => s
  | n + 1, s => State.ringSteps key loc producer n (s.ownAdvance key loc producer)

/-- The cursor after `n` bytes of an access that `touchHandle` placed; a step that passes a slot's end advances the ring. -/
def moveHandle (hn : Nat) (producer : Bool) (n : Nat) : M Unit := do
  let s ← get
  let h := s.t.h[hn]!
  match s.locKey (s.partNo s.t.coreid) (locOf s.t.coreid h.ref) with
  | none => pure ()
  | some key =>
    let size := (s.obj key).slotSize
    let ends := (h.cursor.toNat + n - 1) / size
    modS fun s => State.ringSteps key (locOf s.t.coreid h.ref) producer ends s
    modT fun t => { t with h := vecMod t.h hn fun x => { x with cursor := BitVec.ofNat 16 (h.cursor.toNat + n - ends * size) } }

/-- The bytes that a handle's runs hold, read as a thread's slot read (23 R368). -/
def readRuns : List (Nat × Nat) → M (List Byte)
  | [] => pure []
  | (k, n) :: rs => do
    dataOk (word k) k n
    watch 1 (word k) n
    let bs ← readS fun s => s.mem.readBytes k n
    let more ← readRuns rs
    pure (bs ++ more)

/-- Bytes written to a handle's runs. -/
def writeRuns : List (Nat × Nat) → List Byte → M Unit
  | [], _ => pure ()
  | (k, n) :: rs, bs => do
    watch 2 (word k) n
    modS fun s => s.writeFor s.t.coreid k (bs.take n)
    writeRuns rs (bs.drop n)

/-- An entry that the state `s1` has added to the access log of the current context's partition is added here too. -/
def State.relog (s s1 : State) : State :=
  let p := s.partNo s.t.coreid
  match (s.part p).accessLog with
  | none => s
  | some a =>
    let n := s.mem.readNat a 8
    if s1.mem.readNat a 8 = n then s else
    s.ringLog p (some a) 1024 32 fun _ => s1.mem.readBytes (a + 64 + n % 1024 * 32) 32

/-- A stop that a watchpoint has triggered. -/
def Agenda.isStop : Agenda → Bool
  | .event .clusterStop _ => true
  | _ => false

/-- A meaning whose Before-class traps leave the state it began with (05 R87), but for cached translations, watch matches, the
access log, the access that a page fault repeats (19 R312), and the flags that FPE reports (03 R32). -/
def whole (m : M Unit) : M Unit := fun s =>
  match m s with
  | .error (.trap c tval .before s1) =>
    let flags := if c = .fpe then s1.t.vflags else s.t.vflags
    let s2 := s.relog s1
    .error (.trap c tval .before { s2 with
      clusters := s1.clusters, cores := s1.cores, walks := s1.walks, fresh := s1.fresh
      agenda := (s1.agenda.filter fun x => x.isStop && !s.agenda.contains x) ++ s2.agenda
      t := { s.t with
        watchDue := s1.t.watchDue, watchMet := s1.t.watchMet, ringTrap := s1.t.ringTrap, access := s1.t.access
        accessVa := s1.t.accessVa, vflags := flags } })
  | r => r

end Sys2Proof.Machine
end

