-- ==== Sys2Proof/Machine/Alu.lean ====
section
/-! DEFINITION. ALU, ADDI and ADDR: majors 1 to 3 (05 R58 to R65). -/

namespace Sys2Proof.Machine

open Host (Outcome)

/-- An instruction that reads A and B and writes d. -/
def alu2 (i : Instr) (b a : Src) (d : Code) (f : Word → Word → Word) : M Unit := do
  gate i
  let x ← readSrc a
  let y ← readSrc b
  writeD d (f x y)
  retire i

/-- An instruction that reads A and writes d. -/
def alu1 (i : Instr) (a : Src) (d : Code) (f : Word → Word) : M Unit := do
  gate i
  let x ← readSrc a
  writeD d (f x)
  retire i

/-- An instruction that also reads d. -/
def alu3 (i : Instr) (b a : Src) (d : Code) (f : Word → Word → Word → Word) : M Unit := do
  gate i
  let x ← readSrc a
  let y ← readSrc b
  let z ← readDest d
  writeD d (f z x y)
  retire i

/-- ADD: d := A + B (05 R59). -/
def execAdd (w : Bool) (b a : Src) (d : Code) (s : State) : Outcome State Fault Refusal :=
  runM (alu2 (.add w b a d) b a d (wide2 w (· + ·))) s

/-- SUB: d := A - B (05 R59). -/
def execSub (w : Bool) (b a : Src) (d : Code) (s : State) : Outcome State Fault Refusal :=
  runM (alu2 (.sub w b a d) b a d (wide2 w (· - ·))) s

/-- AND: d := A AND B (05 R59). -/
def execAnd (w : Bool) (b a : Src) (d : Code) (s : State) : Outcome State Fault Refusal :=
  runM (alu2 (.and w b a d) b a d (wide2 w (· &&& ·))) s

/-- OR: d := A OR B (05 R59). -/
def execOr (w : Bool) (b a : Src) (d : Code) (s : State) : Outcome State Fault Refusal :=
  runM (alu2 (.or w b a d) b a d (wide2 w (· ||| ·))) s

/-- XOR: d := A XOR B (05 R59). -/
def execXor (w : Bool) (b a : Src) (d : Code) (s : State) : Outcome State Fault Refusal :=
  runM (alu2 (.xor w b a d) b a d (wide2 w (· ^^^ ·))) s

/-- ANDN: d := A AND NOT B (05 R59). -/
def execAndn (w : Bool) (b a : Src) (d : Code) (s : State) : Outcome State Fault Refusal :=
  runM (alu2 (.andn w b a d) b a d (wide2 w (fun a b => a &&& ~~~b))) s

/-- ORN: d := A OR NOT B (05 R59). -/
def execOrn (w : Bool) (b a : Src) (d : Code) (s : State) : Outcome State Fault Refusal :=
  runM (alu2 (.orn w b a d) b a d (wide2 w (fun a b => a ||| ~~~b))) s

/-- SHL: a shift left (05 R61). -/
def execShl (w : Bool) (b a : Src) (d : Code) (s : State) : Outcome State Fault Refusal :=
  runM (alu2 (.shl w b a d) b a d (wide2 w opShl)) s

/-- SHR: a logical shift right (05 R61). -/
def execShr (w : Bool) (b a : Src) (d : Code) (s : State) : Outcome State Fault Refusal :=
  runM (alu2 (.shr w b a d) b a d (wide2 w opShr)) s

/-- SRA: an arithmetic shift right (05 R61). -/
def execSra (w : Bool) (b a : Src) (d : Code) (s : State) : Outcome State Fault Refusal :=
  runM (alu2 (.sra w b a d) b a d (wide2 w opSra)) s

/-- ROL: a rotation left (05 R61). -/
def execRol (w : Bool) (b a : Src) (d : Code) (s : State) : Outcome State Fault Refusal :=
  runM (alu2 (.rol w b a d) b a d (wide2 w opRol)) s

/-- ROR: a rotation right (05 R61). -/
def execRor (w : Bool) (b a : Src) (d : Code) (s : State) : Outcome State Fault Refusal :=
  runM (alu2 (.ror w b a d) b a d (wide2 w opRor)) s

/-- MUL: the low half of the product (05 R59). -/
def execMul (w : Bool) (b a : Src) (d : Code) (s : State) : Outcome State Fault Refusal :=
  runM (alu2 (.mul w b a d) b a d (wide2 w (· * ·))) s

/-- MULH: the high half of the signed product (05 R59). -/
def execMulh (w : Bool) (b a : Src) (d : Code) (s : State) : Outcome State Fault Refusal :=
  runM (alu2 (.mulh w b a d) b a d (wide2 w opMulh)) s

/-- MULHN: the high half of the unsigned product (05 R59). -/
def execMulhn (w : Bool) (b a : Src) (d : Code) (s : State) : Outcome State Fault Refusal :=
  runM (alu2 (.mulhn w b a d) b a d (wide2 w opMulhn)) s

/-- DIV: the signed quotient (05 R62). -/
def execDiv (w : Bool) (b a : Src) (d : Code) (s : State) : Outcome State Fault Refusal :=
  runM (alu2 (.div w b a d) b a d (wide2 w opDiv)) s

/-- DIVN: the unsigned quotient (05 R62). -/
def execDivn (w : Bool) (b a : Src) (d : Code) (s : State) : Outcome State Fault Refusal :=
  runM (alu2 (.divn w b a d) b a d (wide2 w opDivn)) s

/-- REM: the signed remainder (05 R62). -/
def execRem (w : Bool) (b a : Src) (d : Code) (s : State) : Outcome State Fault Refusal :=
  runM (alu2 (.rem w b a d) b a d (wide2 w opRem)) s

/-- REMN: the unsigned remainder (05 R62). -/
def execRemn (w : Bool) (b a : Src) (d : Code) (s : State) : Outcome State Fault Refusal :=
  runM (alu2 (.remn w b a d) b a d (wide2 w opRemn)) s

/-- MIN: the smaller signed operand (05 R59). -/
def execMin (w : Bool) (b a : Src) (d : Code) (s : State) : Outcome State Fault Refusal :=
  runM (alu2 (.min w b a d) b a d (wide2 w opMin)) s

/-- MAX: the larger signed operand (05 R59). -/
def execMax (w : Bool) (b a : Src) (d : Code) (s : State) : Outcome State Fault Refusal :=
  runM (alu2 (.max w b a d) b a d (wide2 w opMax)) s

/-- MINN: the smaller unsigned operand (05 R59). -/
def execMinn (w : Bool) (b a : Src) (d : Code) (s : State) : Outcome State Fault Refusal :=
  runM (alu2 (.minn w b a d) b a d (wide2 w opMinn)) s

/-- MAXN: the larger unsigned operand (05 R59). -/
def execMaxn (w : Bool) (b a : Src) (d : Code) (s : State) : Outcome State Fault Refusal :=
  runM (alu2 (.maxn w b a d) b a d (wide2 w opMaxn)) s

/-- SLT: 1 if A < B signed (05 R59). -/
def execSlt (w : Bool) (b a : Src) (d : Code) (s : State) : Outcome State Fault Refusal :=
  runM (alu2 (.slt w b a d) b a d (wide2 w opSlt)) s

/-- SLTN: 1 if A < B unsigned (05 R59). -/
def execSltn (w : Bool) (b a : Src) (d : Code) (s : State) : Outcome State Fault Refusal :=
  runM (alu2 (.sltn w b a d) b a d (wide2 w opSltn)) s

/-- SEQ: 1 if A = B (05 R59). -/
def execSeq (w : Bool) (b a : Src) (d : Code) (s : State) : Outcome State Fault Refusal :=
  runM (alu2 (.seq w b a d) b a d (wide2 w opSeq)) s

/-- SNE: 1 if A differs from B (05 R59). -/
def execSne (w : Bool) (b a : Src) (d : Code) (s : State) : Outcome State Fault Refusal :=
  runM (alu2 (.sne w b a d) b a d (wide2 w opSne)) s

/-- SEL: A if the old d is nonzero, at 32 bits its low word, else B (05 R59, R60). -/
def execSel (w : Bool) (b a : Src) (d : Code) (s : State) : Outcome State Fault Refusal :=
  runM (alu3 (.sel w b a d) b a d fun z x y =>
    if w then (if z.setWidth 32 = 0 then (y.setWidth 32).signExtend 64 else (x.setWidth 32).signExtend 64)
    else if z = 0 then y else x) s

/-- CLZ: leading zero bits of A (05 R59). -/
def execClz (w : Bool) (a : Src) (d : Code) (s : State) : Outcome State Fault Refusal :=
  runM (alu1 (.clz w a d) a d (wide1 w opClz)) s

/-- CTZ: trailing zero bits of A (05 R59). -/
def execCtz (w : Bool) (a : Src) (d : Code) (s : State) : Outcome State Fault Refusal :=
  runM (alu1 (.ctz w a d) a d (wide1 w opCtz)) s

/-- POPC: one bits of A (05 R59). -/
def execPopc (w : Bool) (a : Src) (d : Code) (s : State) : Outcome State Fault Refusal :=
  runM (alu1 (.popc w a d) a d (wide1 w opPopc)) s

/-- BREV: the bits in the opposite order of A (05 R59). -/
def execBrev (w : Bool) (a : Src) (d : Code) (s : State) : Outcome State Fault Refusal :=
  runM (alu1 (.brev w a d) a d (wide1 w opBrev)) s

/-- BSWAP: the bytes in the opposite order of A (05 R59). -/
def execBswap (w : Bool) (a : Src) (d : Code) (s : State) : Outcome State Fault Refusal :=
  runM (alu1 (.bswap w a d) a d (wide1 w opBswap)) s

/-- ADDI: d := A + the immediate (05 R63). -/
def execAddi (imm : BitVec 13) (a : Src) (d : Code) (s : State) : Outcome State Fault Refusal :=
  runM (alu1 (.addi imm a d) a d (· + imm.signExtend 64)) s

/-- LEA: d := A + B shifted left by the scale (05 R64). -/
def execLea (sc : BitVec 2) (b a : Src) (d : Code) (s : State) : Outcome State Fault Refusal :=
  runM (alu2 (.lea sc b a d) b a d fun x y => x + y <<< sc.toNat) s

/-- BFX: a sign-extended bit field of A (05 R64). -/
def execBfx (b a : Src) (d : Code) (s : State) : Outcome State Fault Refusal :=
  runM (alu2 (.bfx b a d) b a d opBfx) s

/-- BFXZ: a zero-extended bit field of A (05 R64). -/
def execBfxz (b a : Src) (d : Code) (s : State) : Outcome State Fault Refusal :=
  runM (alu2 (.bfxz b a d) b a d opBfxz) s

/-- BFI: the old d with a bit field replaced by the low bits of A (05 R64). -/
def execBfi (b a : Src) (d : Code) (s : State) : Outcome State Fault Refusal :=
  runM (alu3 (.bfi b a d) b a d opBfi) s

end Sys2Proof.Machine
end

