-- ==== Sys2Proof/Machine/Obj.lean ====
section
/-! DEFINITION. OBJ: major 38, and the event that resumes a released wait (09 R172 to R190). -/

namespace Sys2Proof.Machine

open Host (Outcome)

/-! Instructions that take effect once for a gang (09 R167). -/

/-- `m` done by the leader, or by a thread in no gang; a follower receives the leader's value. -/
def shared (i : Instr) (d : Option Code) (m : M Word) : M Unit := do
  gate i
  match ← readS State.leaderEntry with
  | some e =>
    match d with
    | some c => writeD c e.dval
    | none => pure ()
    retire i
  | none =>
    let v ← m
    match d with
    | some c => writeD c v
    | none => pure ()
    retireWith i 0 v

/-! Duties of the activity, and the supervisor's orphans (20 R344). -/

/-- An activity's entry on a pair, its own before an orphaned one; whether it is orphaned. -/
def State.dutyOf (s : State) (core loc : Nat) (k : Duty) : Option (Oblig × Bool) :=
  match findDuty (s.table core) loc k with
  | some e => some (e, false)
  | none => (findDuty (s.orphansOf core) loc k).map fun e => (e, true)

/-- The orphan list shown in the supervisor's slot again. -/
def State.showOrphans (s : State) (core : Nat) : State :=
  let p := s.partNo core
  if s.isSup core then s.writeOrphans p else s

/-- An entry replaced, or ended. -/
def State.updateDuty (s : State) (core loc : Nat) (k : Duty) (orphan : Bool) (o : Option Oblig) : State :=
  let p := s.partNo core
  if orphan then
    (s.modPart p fun x => { x with orphans := match o with
      | some e => x.orphans.map fun y => if y.loc == loc && y.kind == k then e else y
      | none => dropDuty x.orphans loc k }).showOrphans core
  else
    match o with
    | some e => s.setTable core (s.putDuty p (s.table core) e)
    | none => s.setTable core (s.endDuty p (s.table core) loc k)

/-- Units of a counted duty discharged, or none where too few are held. -/
def State.discharge (s : State) (core loc : Nat) (k : Duty) (n : Nat) : Option State :=
  let held := !(s.orphansOf core).isEmpty
  (s.spend core loc k n).map fun x => if held then x.showOrphans core else x

/-! Locks passed on (09 R188). -/

/-- A slice's token: bits 31:0 of its id. -/
def tokenOf (c : Ctx) : Nat := fieldOf c.sliceid 0 32

/-- A lock passed to its first locker, or free. -/
def State.passLock (s : State) (agent key : Nat) : State :=
  let o := s.obj key
  match s.waiters.find? fun w => w.key == key && w.lock with
  | none => s.setObj agent key { o with arrived := 0 }
  | some w =>
    let s1 := ({ s with waiters := s.waiters.erase w }).setObj agent key { o with arrived := tokenOf (s.ctx w.core) }
    let loc := match (s.ctx w.core).mode with | .waiting (.lock _ l) => l | _ => 0
    (s1.setTable w.core (s1.addDuty (s1.partNo w.core) (s1.table w.core) ⟨loc, .unlock, 1, 0, 0, false, false, false⟩)).wake w.core o.status

/-! OBNEW (09 R173, R183). -/

/-- The rank of a rank specification. -/
def rankSpec (i : Instr) (a : Word) : M Nat := do
  let t ← readT id
  let r ← match fieldOf a 62 2 with
    | 0 => do
      require (fieldOf a 32 30 == 0) .illop (imageOf i)
      pure (fieldOf a 0 32)
    | 1 => do
      require (fieldOf a 32 30 == 0) .illop (imageOf i)
      let om ← readS fun s => s.obmin s.t.coreid
      let step := if fieldOf a 0 32 = 0 then t.rstep.toNat else fieldOf a 0 32
      if om < step then trapOpen .rankv
      pure (om - step)
    | 2 => do
      require (fieldOf a 33 29 == 0) .illop (imageOf i)
      let (key, _, o) ← findKind [1, 2, 3, 4, 5, 6] (word (fieldOf a 0 33))
      arrived key
      pure o.rank
    | _ => trapNow .illop (imageOf i)
  if r = 0xFFFFFFFF then trapOpen .rankv
  pure r

/-- The duty that a creator of an object receives. -/
def creatorDuty (kind x : Nat) (dutyCtr : Bool) : Option Duty :=
  if x = 0 then none
  else if kind = Obj.bar then some .arrive
  else if kind = Obj.bbar then some .bytes
  else if kind = Obj.sig then some .signal
  else if kind = Obj.ctr && dutyCtr then some .msg
  else none

/-- The new object at a location, in the step that writes it (09 R183): waiters listed there whose condition it makes hold are
released (R178), steps pending for its phase performed, armed entries and slices of a counter fired. -/
def State.placeObj (s : State) (core key : Nat) (o : Obj) : State :=
  let s1 := s.setObj core key o
  if o.kind = Obj.lock then s1.passLock core key
  else if o.isBarrier then
    (State.settle.State.settlePending core key 0 (fun x => x) s1.pendings
      (s1.wakeIf key (fun w => !w.lock && o.satisfies w.value) o.status)).settled core key
  else if o.kind = Obj.ring then s1
  else
    let s2 := s1.wakeIf key (fun w => !w.lock && o.satisfies w.value) o.status
    if o.kind = Obj.ctr then s2.fireCounter key else s2

/-- OBNEW (09 R183). -/
def execObnew (b a : Src) (d : Code) (s : State) : Outcome State Fault Refusal :=
  runM (do
    let i := Instr.obnew b a d
    shared i (some d) do
      let av ← readSrc a
      let bv ← readSrc b
      let ref := word (fieldOf bv 0 33)
      let (key, loc) ← findObject ref
      let kind := fieldOf bv 44 4
      let x := fieldOf bv 34 8 * 2 ^ 16 + fieldOf bv 48 16
      let dutyCtr := flagOf bv 43
      require (1 ≤ kind && kind ≤ 6 && !flagOf bv 42 && !flagOf bv 33 && (!dutyCtr || kind == Obj.ctr)) .illop (imageOf i)
      require (!((kind == Obj.bar || kind == Obj.bbar) && x == 0) && !(kind == Obj.lock && x != 0) &&
        !(kind == Obj.ring && (x == 0 || 255 < x))) .illop (imageOf i)
      let r ← rankSpec i av
      let s ← get
      let core := s.t.coreid
      let os := s.table core
      let duty := creatorDuty kind x dutyCtr
      match duty with
      | some k =>
        if k.phased && ((findDuty os loc .arrive).isSome || (findDuty os loc .bytes).isSome) then trapNow .illop (imageOf i)
        if tableFull os loc k then trapNow .obfull ref
      | none => pure ()
      release
      let old := s.obj key
      let o : Obj := {
        rank := r, kind := kind, flags := if dutyCtr then 2 else 0, phase := 0, expected := x, arrived := 0
        aux := if kind = Obj.ring then old.aux % 2 ^ 48 else 0, status := 0 }
      modS fun s =>
        let s1 := s.placeObj core key o
        match duty with
        | some k => s1.setTable core (s1.addDuty (s1.partNo core) (s1.table core)
            ⟨loc, k, x, if k = .bytes then x else 0, 0, false, false, false⟩)
        | none => s1
      pure (if kind = Obj.lock || kind = Obj.ring then ref else ref + word (2 ^ 48))) s

/-- OBDEL (09 R184). A matrix job that waits on the object is no waiter of R178 and does not hold it up (log entry 86). -/
def execObdel (a : Src) (s : State) : Outcome State Fault Refusal :=
  runM (do
    let i := Instr.obdel a
    shared i none do
      let av ← readSrc a
      let (key, loc, o) ← findKind [1, 2, 3, 4, 5, 6] (refOf av)
      let s ← get
      let waited := s.waiters.any (·.key == key) ||
        s.others.any fun x => (s.waitsOnRing key x.2).isSome
      let bound := o.kind == Obj.ring && o.flags &&& 12 != 0
      let owes := (s.table s.t.coreid ++ s.orphansOf s.t.coreid).any (·.loc == loc)
      require (!waited && !bound && !(o.kind == Obj.lock && o.arrived != 0) && !owes) .illop (imageOf i)
      release
      modS fun s =>
        let s1 := (s.dropPendings key).setObj s.t.coreid key { o with
          kind := 0, flags := o.flags ||| 1, status := s.pendingStatus key (o.status ||| 2 ^ 63) }
        if o.kind = Obj.ctr then s1.readyOn key else s1
      pure 0) s

/-! Arrivals (09 R185). -/

/-- An object for a discharge: one of some kinds, or a retired location, where the discharge only ends its duty
(09 R184). -/
def findDischarge (kinds : List Nat) (ref : Word) : M (Nat × Nat × Obj) :=
  findWhere (fun o => kinds.contains o.kind || (o.kind == 0 && o.broken)) ref

/-- The entry of an activity on a location of one of some kinds. -/
def State.anyDuty (s : State) (core loc : Nat) (ks : List Duty) : Option (Oblig × Bool) := ks.findSome? (s.dutyOf core loc)

/-- An arrival's entry afterwards: none where it ends. -/
def arrivedEntry (e : Oblig) (c : Nat) (leave : Bool) : Option Oblig :=
  if leave then none
  else if e.kind = .arrive then some { e with due := e.due + 1 }
  else if c < e.count then some { e with count := e.count - c }
  else if e.share = 0 then none
  else some { e with count := e.share, due := e.due + 1 }

/-- The entries of an activity on a barrier that are due at a phase: its own, then an orphaned one (20 R344). -/
def State.dueAt (s : State) (core loc : Nat) (k : Duty) (phase : Nat) : List (Oblig × Bool) :=
  (((findDuty (s.table core) loc k).map fun e => (e, false)).toList ++
    ((findDuty (s.orphansOf core) loc k).map fun e => (e, true)).toList).filter fun e => e.1.due.toNat == phase

/-- `c` units of an arrival taken from such entries, its own first. On a BROKEN object the arrival ends its duty (09 R181). -/
def State.arriveFrom (core loc : Nat) (broken leave : Bool) : List (Oblig × Bool) → Nat → State → State
  | [], _, s => s
  | (e, orphan) :: es, c, s =>
    if c = 0 then s else
    let n := min c e.count
    State.arriveFrom core loc broken leave es (c - n)
      (s.updateDuty core loc e.kind orphan (if broken then none else arrivedEntry e n leave))

/-- The duty kind that an arrival on a barrier discharges. An entry of the other kind, carried over from an object of the other
kind at the location, does not serve it: UNOWED (09 R183 has carried-over duties apply to the new object; log entry 85). -/
def arrivalDuty (o : Obj) : Duty := if o.kind = Obj.bar then .arrive else .bytes

/-- ARRIVE, ARRIVE.LEAVE and ARRIVEB; `bytes` is ARRIVEB's operand. -/
def arriveOn (i : Instr) (a : Src) (leave : Bool) (bytes : Option (M Word)) : M Unit :=
  shared i none do
    let av ← readSrc a
    let ref := refOf av
    let b ← match bytes with
      | some m => do pure (some (← m))
      | none => pure none
    let (key, loc, o) ← findDischarge [Obj.bar, Obj.bbar] ref
    let s ← get
    let core := s.t.coreid
    if o.kind = 0 then
      match s.anyDuty core loc [.arrive, .bytes] with
      | none => trapNow .unowed ref
      | some (e, orphan) => modS fun s => s.updateDuty core loc e.kind orphan none
    else
      let es := s.dueAt core loc (arrivalDuty o) o.phase
      match es with
      | [] => trapNow .unowed ref
      | (e, _) :: _ =>
        let c ← match b with
          | none => pure e.count
          | some n => do
            require (o.kind == Obj.bbar && n != 0) .illop (imageOf i)
            require (n.toNat ≤ (es.map (·.1.count)).foldl (· + ·) 0) .unowed ref
            pure n.toNat
        require (o.arrived + c ≤ o.expected) .unowed ref
        release
        let left := if leave then (if o.kind = Obj.bar then e.count else e.share) else 0
        modS fun s =>
          let s1 := State.arriveFrom core loc o.broken leave es c s
          (s1.setObj core key { o with
            arrived := o.arrived + c
            aux := putBits o.aux 0 32 (o.aux % 2 ^ 32 + left) }).settled core key
    pure 0

/-- ARRIVE (09 R185). -/
def execArrive (a : Src) (s : State) : Outcome State Fault Refusal := runM (arriveOn (.arrive a) a false none) s
/-- ARRIVE.LEAVE (09 R185). -/
def execArriveLeave (a : Src) (s : State) : Outcome State Fault Refusal := runM (arriveOn (.arriveLeave a) a true none) s
/-- ARRIVEB (09 R185). -/
def execArriveb (b a : Src) (s : State) : Outcome State Fault Refusal :=
  runM (arriveOn (.arriveb b a) a false (some (readSrc b))) s

/-! WAIT and SIGNAL (09 R186, R187). -/

/-- The thread waits on an object, listed at its home; `d` receives the status when it is released. -/
def waitListed {α : Type} (i : Instr) (d : Code) (key loc : Nat) (v : BitVec 16) (lock : Bool) : M α := do
  modT fun t => { t with dest := d, len := i.len }
  modS fun s => { s with waiters := s.waiters ++ [⟨key, s.t.coreid, v, lock⟩] }
  waitOn (if lock then .lock key loc else .object key loc v)

/-- What WAIT may name (09 R186). -/
def Obj.awaitable (o : Obj) : Bool := o.isBarrier || o.kind == Obj.sig || (o.kind == Obj.ctr && o.dutyCtr)

/-- WAIT (09 R186). -/
def execWait (a : Src) (d : Code) (s : State) : Outcome State Fault Refusal :=
  runM (do
    let i := Instr.wait a d
    shared i (some d) do
      notInTransfer i
      let av ← readSrc a
      let ref := refOf av
      let (key, loc, o) ← findWhere Obj.awaitable ref
      let s ← get
      let v := BitVec.ofNat 16 (fieldOf ref 48 16)
      let exempt := fun x : Oblig => o.isBarrier && barrierExempt loc v.toNat x
      require (s.mayWait s.t.coreid (s.table s.t.coreid) o.rank exempt none) .rankv ref
      arrived key
      if o.broken || o.satisfies v then
        acquire
        pure (word o.status)
      else waitListed i d key loc v false) s

/-- SIGNAL (09 R187). -/
def execSignal (b a : Src) (s : State) : Outcome State Fault Refusal :=
  runM (do
    let i := Instr.signal b a
    shared i none do
      let av ← readSrc a
      let bv ← readSrc b
      let ref := refOf av
      let n := max 1 bv.toNat
      let (key, loc, o) ← findDischarge [Obj.sig, Obj.ctr] ref
      let s ← get
      let core := s.t.coreid
      if o.kind = 0 then
        match s.anyDuty core loc [.signal, .msg] with
        | none => trapNow .unowed ref
        | some (e, orphan) => modS fun s => s.updateDuty core loc e.kind orphan none
      else
        let needs := if o.kind = Obj.sig then some Duty.signal else if o.dutyCtr then some Duty.msg else none
        match needs with
        | some k =>
          match s.discharge core loc k n with
          | none => trapNow .unowed ref
          | some s1 => set s1
        | none => pure ()
        release
        modS fun s => s.addCount core key n 0
      pure 0) s

/-! Locks (09 R188). -/

/-- LOCK (09 R188). -/
def execLock (a : Src) (d : Code) (s : State) : Outcome State Fault Refusal :=
  runM (do
    let i := Instr.lock a d
    shared i (some d) do
      notInTransfer i
      let av ← readSrc a
      let ref := refOf av
      let (key, loc, o) ← findKind [Obj.lock] ref
      let s ← get
      let core := s.t.coreid
      require (s.mayWait core (s.table core) o.rank (fun _ => false) none) .rankv ref
      if o.broken then
        arrived key
        acquire
        pure (word o.status)
      else
        if tableFull (s.table core) loc .unlock then trapNow .obfull ref
        if o.arrived = 0 then
          modS fun s =>
            let s1 := s.setObj core key { o with arrived := tokenOf s.t }
            s1.setTable core (s1.addDuty (s1.partNo core) (s1.table core) ⟨loc, .unlock, 1, 0, 0, false, false, false⟩)
          acquire
          pure (word o.status)
        else
          arrived key
          waitListed i d key loc 0 true) s

/-- UNLOCK (09 R188). -/
def execUnlock (a : Src) (s : State) : Outcome State Fault Refusal :=
  runM (do
    let i := Instr.unlock a
    shared i none do
      let av ← readSrc a
      let ref := refOf av
      let (key, loc, o) ← findDischarge [Obj.lock] ref
      let s ← get
      let core := s.t.coreid
      match s.dutyOf core loc .unlock with
      | none => trapNow .unowed ref
      | some (_, orphan) =>
        release
        modS fun s =>
          let s1 := s.updateDuty core loc .unlock orphan none
          if o.kind = 0 then s1 else s1.passLock core key
      pure 0) s

/-! OBXFER (09 R175, R189). -/

/-- A slice's obligation table, where it is held: in its save area until its context is back on a thread. -/
def State.sliceTable (s : State) (x : Slice) : List Oblig :=
  match x.saved, x.threads with
  | c :: _, _ => c.obls
  | [], c :: _ => s.table c
  | [], [] => x.obls

def State.setSliceTable (s : State) (x : Slice) (os : List Oblig) : State :=
  match x.saved, x.threads with
  | c :: cs, _ => (s.modSlice x.id fun y => { y with saved := { c with obls := os } :: cs }).saveTable
      ((s.part x.part).slotAddr (x.slots.headD 0)) os
  | [], c :: _ => s.setTable c os
  | [], [] => s.modSlice x.id fun y => { y with obls := os }

/-- The states in which a slice is live (09 R189). -/
def Slice.live (x : Slice) : Bool :=
  match x.state with
  | .pending | .ready | .staging | .running | .suspended => true
  | _ => false

/-- Whether a context's wait, if it is in one, passes its whole test with the table `os` (09 R189 check 6). A tag wait compares
ranks alone (10 R209). -/
def State.waitAllows (s : State) (core : Nat) (os : List Oblig) : Bool :=
  let may := fun rank exempt level => s.mayWait core os rank exempt level
  match (s.ctx core).mode with
  | .waiting (.object key loc v) =>
    let x := s.obj key
    may x.rank (fun y => x.isBarrier && barrierExempt loc v.toNat y) none
  | .waiting (.lock key _) => may (s.obj key).rank (fun _ => false) none
  | .waiting (.handle key loc _ _ _) => (s.waitsOnRing key (s.ctx core)).isNone || may (s.obj key).rank (ringExempt loc) none
  | .waiting (.job (some r)) => may r (fun _ => false) none
  | .waiting (.jobQueue (some r)) => may r (fun _ => false) none
  | .waiting (.sync l) =>
    match (s.domainsOf (s.leaderOf core)).find? fun d => d.2.level == l with
    | some d => may d.2.rank (fun _ => false) (some l)
    | none => true
  | .waiting .tag => os.all fun o => (s.ctx core).tagrank.toNat < s.obligRank (s.partNo core) o
  | _ => true

/-- What a waiting context awaits, as a reference. -/
def awaitedRef (c : Ctx) : Option Word :=
  match c.mode with
  | .waiting (.object _ loc v) => some (word (loc + v.toNat * 2 ^ 48))
  | .waiting (.lock _ loc) => some (word loc)
  | .waiting (.handle _ loc _ _ _) => some (word loc)
  | _ => none

/-- OBXFER (09 R189, 22 R357). -/
def execObxfer (b a d : Src) (s : State) : Outcome State Fault Refusal :=
  runM (do
    let i := Instr.obxfer b a d
    shared i none do
      let dv ← readSrc d
      let av ← readSrc a
      let bv ← readSrc b
      let ref := refOf av
      let (key, loc, _) ← findKind [1, 2, 3, 4, 5, 6] ref
      arrived key
      let n := fieldOf bv 0 32
      match Duty.ofCode (fieldOf bv 32 3) with
      | none => trapNow .illop (imageOf i)
      | some k =>
        require (n != 0 && k != .fill && k != .drain && !(k == .unlock && n != 1) && fieldOf bv 35 29 == 0) .illop (imageOf i)
        let s ← get
        let core := s.t.coreid
        let p := s.partNo core
        match findDuty (s.table core) loc k with
        | none => trapNow .unowed ref
        | some e =>
          require (n ≤ e.count) .unowed ref
          match s.slice dv.toNat with
          | none => trapNow .illop dv
          | some x =>
            require (x.live && x.part == p && x.id != s.t.sliceid.toNat) .illop dv
            let os := s.sliceTable x
            if mergeConflict os loc k e.due then trapNow .illop (imageOf i)
            if tableFull os loc k then trapNow .obfull ref
            let moved : Oblig := ⟨loc, k, n, 0, e.due, false, false, false⟩
            match x.threads.find? fun c => !s.waitAllows c (s.addDuty p os moved) with
            | some c =>
              match awaitedRef (s.ctx c) with
              | some r => trapNow .rankv r
              | none => trapOpen .rankv
            | none => pure ()
            release
            modS fun s =>
              let s1 := (s.unrepeatable core).setTable core (s.takeUnits p (s.table core) e n)
              let s2 := s1.setSliceTable x (s1.addDuty p (s1.sliceTable x) moved)
              s2.handLocks core p (fieldOf dv 0 32) [moved]
      pure 0) s

/-! Reading objects (09 R190). -/

/-- OBRD (09 R190). -/
def execObrd (b a : Src) (d : Code) (s : State) : Outcome State Fault Refusal :=
  runM (do
    let i := Instr.obrd b a d
    shared i (some d) do
      let av ← readSrc a
      let bv ← readSrc b
      let (key, _, _) ← findKind [1, 2, 3, 4, 5, 6] (refOf av)
      require (bv.toNat ≤ 3) .illop (imageOf i)
      arrived key
      readS fun s => word (s.mem.readNat (key + 8 * bv.toNat) 8)) s

/-- RANKOF (09 R190). -/
def execRankof (a : Src) (d : Code) (s : State) : Outcome State Fault Refusal :=
  runM (do
    let i := Instr.rankof a d
    shared i (some d) do
      let av ← readSrc a
      let (key, _, o) ← findKind [1, 2, 3, 4, 5, 6] (refOf av)
      arrived key
      pure (word o.rank)) s

/-- A released WAIT, LOCK or SYNC of the current context returns (09 R178, R186, R188, 11 R226). -/
def execWaitResume (s : State) : Outcome State Fault Refusal :=
  runM (do
    match ← readT fun t => t.mode with
    | .released _ =>
      modS State.finishWait
      afterInstr
    | _ => pure ()) s

end Sys2Proof.Machine
end

