-- ==== Sys2Proof/Machine/Bsp.lean ====
section
/-! DEFINITION. BSP: major 41, the phases of domains, their snapshots, and the routers in circuit mode (11 R223 to R234,
22 R355, R357). -/

namespace Sys2Proof.Machine

open Host (Outcome)

/-! Members and phases (11 R223, R225, R226, R228, R229). -/

/-- The core threads that a domain's membership registers name. -/
def Domain.cores (d : Domain) : List Nat :=
  d.members.flatMap fun (cl, reg) => (setBits 17 reg).map fun b => if b = 16 then coreAt cl 8 else coreAt cl (b / 2) + b % 2

/-- A member counts as arrived: it has left, or its thread, in a gang the leader, waits in SYNC at this level or a higher
one. -/
def State.countsIn (s : State) (d : Domain) (core : Nat) : Bool :=
  d.left.contains core || match (s.ctx (s.leaderOf core)).mode with | .waiting (.sync l) => d.level ≤ l | _ => false

/-- Whether a domain's superstep is to be snapshotted: its undo log and its members' slices allow it (22 R355). -/
def State.mayRecord (s : State) (d : Domain) : Bool :=
  d.parent.isNone && d.snapen && d.undoLog.isSome &&
    d.cores.all fun c => match s.slice (s.ctx c).sliceid.toNat with | some x => bitOf (recField x.record 31 1) 1 | none => false

/-- The snapshot image of a running slice's thread at a position, with its marks of uncorrectable data (22 R351, R355). -/
def State.writeSnapshot (s : State) (x : Slice) (pos : Nat) (c : Ctx) : State :=
  let p := s.part x.part
  let lead := p.slotAddr (x.slots.headD 0)
  let gang := (s.gangs.find x.id).isSome
  let len := if x.threads.length = 1 then 0 else x.threads.length
  let a := p.slotAddr (x.slots.getD pos 0)
  let image := s.saveImage c
    { bound := c.bound (s.table c.coreid), gang := gang, padcfg := (s.core c.coreid).padcfg.toNat, reason := 0, slotAddr := a
      gangBlock := if gang then lead + 0x15000 else 0, gangpos := len * 256 + (if len = 0 then 0 else pos) }
  ((s.lay (a + 0x16000) image).saveMarks c (a + 0x16000)).poisonEntries (a + 0x16000) (!·.spilled) c.obls

/-- The end of a domain's superstep and the start of the next (22 R355, R357): the undo log is emptied, and the members'
states as their SYNC returns are kept where the next superstep is snapshotted. -/
def State.beginSuperstep (s : State) (p i : Nat) (d : Domain) : State :=
  if d.parent.isSome then s else
  let record := s.mayRecord d
  let slices := s.slices.filter fun x => x.threads.any d.cores.contains
  let after := (slices.flatMap (·.threads)).foldl (fun y c => y.asCtx c State.finishWait) s
  let ctxs := slices.flatMap fun x => ((List.range x.threads.length).zip x.threads).map fun (k, c) => (x, k, after.ctx c)
  let busy := s.copies.any (fun c => !c.ended && slices.any (·.id == c.slice.toNat)) ||
    s.clusters.any fun c => c.2.jobs.any fun j => slices.any (·.id == j.slice.toNat)
  let s1 := if record then ctxs.foldl (fun y (x, k, c) => y.writeSnapshot x k c) s else s
  -- the writes of a subscription that has begun before are not of this superstep (22 R356)
  let s2 := { s1 with subs := s1.subs.map fun u : Subscription => if d.hasMember u.core then { u with early := true } else u }
  s2.modDomain p i fun d => { d with
    undo := [], rolledBack := false, snapshot := record, repeatable := record && !busy
    undoCtx := if record then ctxs.map (·.2.2) else []
    undoGangs := if record then after.gangs.filter (fun g => slices.any (·.id == g.1)) else [] }

/-- A phase completed: the counter advances, members in SYNC at this level are released, circuit mode begins or ends
(11 R226, R230, R232). Transfer cycle 0 is the second nanosecond from now: every member has a turn in the first, in which its
SYNC returns (11 R227). MUXSEL selections last until the end of the domain's own transfer phase, and none stands at its transfer
cycle 0 (R232). -/
def State.releaseDomain (s : State) (p i : Nat) (d : Domain) : State :=
  let toTransfer := d.period != 0 && !d.transfer
  let gone := s.flits.filter fun f => f.part == p && f.dom == i
  let s0 := { s with flits := s.flits.filter fun f => !(f.part == p && f.dom == i) }
  let s1 := s0.modDomain p i fun d => { d with
    phase := d.phase + 1, transfer := toTransfer, start := s.time + 2
    log := d.log ++ gone.map fun f : Flit => [0, f.cluster, f.input, f.cycle] }
  let s2 := if toTransfer || d.transfer then d.members.foldl (fun x (cl, _) => x.modCluster cl fun c => { c with muxsel := [] }) s1 else s1
  let lanes := d.members.flatMap fun (cl, _) => (List.range 9).map (coreAt cl)
  let s3 := if toTransfer then lanes.foldl (fun x c => if (x.core c).latch.isSome then x.modCore c fun k => { k with latch := none } else x) s2
    else s2
  let s4 := (s3.syncWaiters d).foldl (fun x c => x.wake c (syncWord (d.phase + 1).toNat toTransfer false).toNat) s3
  s4.beginSuperstep p i d

/-- A domain's phase completes if every member counts as arrived; the caller's step carries an arrival at its level. -/
def State.tryDomain (s : State) (p i : Nat) : State :=
  match (s.part p).domains[i]? with
  | none => s
  | some d => if !d.broken && !d.cores.isEmpty && d.cores.all (s.countsIn d) then s.releaseDomain p i d else s

/-- ARRIVE.LEAVE on each of a thread's domains (11 R229): an arrival at each one's own level, which may be the last one of a
phase (16 R282). -/
def State.leaveDomains (s : State) (core : Nat) : State :=
  let p := s.partNo core
  (s.domainsOf core).foldl (fun x (i, _) =>
    (x.modDomain p i fun d => { d with left := setAdd d.left core }).tryDomain p i) s

/-- A thread that a slice is dispatched on takes part in its domains again (11 R223). -/
def State.joinDomains (s : State) (core : Nat) : State :=
  let p := s.partNo core
  (s.domainsOf core).foldl (fun x (i, _) => x.modDomain p i fun d => { d with left := setDrop d.left core }) s

/-- SYNC: the arrival and the wait (11 R226, R228). -/
def execSync (a : Src) (d : Code) (s : State) : Outcome State Fault Refusal :=
  runM (do
    let i := Instr.sync a d
    shared i (some d) do
      let av ← readSrc a
      let s ← get
      let core := s.t.coreid
      let ds := s.domainsOf core
      let l := fieldOf av 0 2
      match ds.find? (fun x => x.2.level == l) with
      | none => trapNow .illop (imageOf i)
      | some (n, dom) =>
        require (fieldOf av 2 62 == 0) .illop (imageOf i)
        require (!ds.any fun x => x.2.transfer && x.2.level != l) .xphase (imageOf i)
        require (s.mayWait core (s.table core) dom.rank (fun _ => false) (some l)) .rankv av
        release
        if dom.broken then
          acquire
          pure (syncWord dom.phase.toNat false true)
        else
          modT fun t => { t with dest := d, len := i.len, mode := .waiting (.sync l) }
          modS fun s => s.tryDomain (s.partNo core) n
          stayNow) s

/-! Circuit mode (11 R230 to R234). -/

/-- A cluster's place in the module's grid of clusters (00 R1): row, column. -/
def gridOf (cl : Nat) : Nat × Nat := (16 * (cl / 512) + cl / 16 % 16, 16 * (cl / 256 % 2) + cl % 16)

/-- The cluster at a place of the grid. -/
def clusterAt (row col : Nat) : Nat := (row / 16 * 2 + col / 16) * 256 + row % 16 * 16 + col % 16

/-- The router that a link output leads to: 0 N, 1 E, 2 S, 3 W. -/
def nextRouter (cl out : Nat) : Option Nat :=
  let (r, c) := gridOf cl
  match out with
  | 0 => if r = 0 then none else some (clusterAt (r - 1) c)
  | 1 => if c = 31 then none else some (clusterAt r (c + 1))
  | 2 => if r = 31 then none else some (clusterAt (r + 1) c)
  | _ => if c = 0 then none else some (clusterAt r (c - 1))

/-- The slot-table entry of a router's output in a cycle; 0 where the router is in no member cluster. -/
def Domain.entry (d : Domain) (cl out x : Nat) : Nat :=
  match d.members.findIdx? (·.1 == cl) with
  | some n => d.tables.getD ((5 * n + out) * d.period + x % d.period) 0
  | none => 0

/-- A domain's transfer cycle. -/
def State.cycleOf (s : State) (d : Domain) : Nat := s.time - d.start

/-- The input that a router's output takes in a cycle, by the latest MUXSEL in force, the highest lane last. -/
def Cluster.selected (c : Cluster) (out a : Nat) : Option Nat :=
  ((c.muxsel.filter fun m => m.1 == out && m.2.1 ≤ a).foldl (fun b m =>
    match b with
    | some n => if m.2.1 < n.2.1 || (m.2.1 == n.2.1 && m.2.2.1 < n.2.2.1) then b else some m
    | none => some m) none).map (·.2.2.2)

/-- A value leaves a router on a link in a cycle: it arrives one cycle later, five across a die edge. -/
def State.sendOn (s : State) (p i cl out x : Nat) (v : Line) : State :=
  match nextRouter cl out with
  | none => s.modDomain p i fun d => { d with log := d.log ++ [[0, cl, out, x]] }
  | some n =>
    let f : Flit := ⟨n, (out + 2) % 4, x + (if n / 256 = cl / 256 then 1 else 5), v, p, i⟩
    { s with flits := s.flits ++ [f] }.push .routerValueArrival { x := n, y := f.input, z := f.cycle, nums := [p, i] }

/-- A value that arrives on an input of a router in cycle `a`: forwarded, delivered, or dropped. -/
def State.arrive (s : State) (d : Domain) (f : Flit) : State :=
  let takes := (List.range 5).filter fun o =>
    let e := d.entry f.cluster o f.cycle
    (s.cluster f.cluster).selected o f.cycle == some f.input && (if o < 4 then e == 10 else 1 ≤ e && e ≤ 9)
  if takes.isEmpty then s.modDomain f.part f.dom fun d => { d with log := d.log ++ [[0, f.cluster, f.input, f.cycle]] } else
  takes.foldl (fun x o =>
    if o < 4 then x.sendOn f.part f.dom f.cluster o f.cycle f.value
    else x.modCore (coreAt f.cluster (d.entry f.cluster 4 f.cycle - 1)) fun c => { c with latch := some (f.value, f.cycle) }) s

/-- Whether a value still to come reaches a router of a domain by a cycle. -/
def State.stillComing (s : State) (p i a : Nat) : Bool :=
  s.flits.any (fun f => f.part == p && f.dom == i && f.cycle ≤ a) ||
    s.agenda.any fun x => match x with | .event .slotSend e => e.nums == [p, i] && e.z < a | _ => false

/-- The value of `nums` part and domain that arrives at router `x` on input `y` in cycle `z` (11 R230). -/
def execRouterValueArrival (s : State) : Outcome State Fault Refusal :=
  runM (do
    let s ← get
    match s.flits.find? (fun f => f.cluster == s.arg.x && f.input == s.arg.y && f.cycle == s.arg.z && s.arg.nums == [f.part, f.dom]) with
    | none => pure ()
    | some f =>
      match (s.part f.part).domains[f.dom]? with
      | none => modS fun s => { s with flits := s.flits.erase f }
      | some d =>
        if s.time < d.start + f.cycle || s.stillComing f.part f.dom (f.cycle - 1) then notYet .routerValueArrival
        modS fun s => { s with flits := s.flits.erase f }.arrive d f) s

/-- The transfer phase that the current context is in: its partition, domain and description. -/
def inTransfer (i : Instr) : M (Nat × Nat × Domain) := do
  let s ← get
  match s.transferOf s.t.coreid with
  | some (n, d) => pure (s.partNo s.t.coreid, n, d)
  | none => trapNow .xphase (imageOf i)

/-- MUXSEL (11 R232). -/
def execMuxsel (a : Src) (s : State) : Outcome State Fault Refusal :=
  runM (do
    let i := Instr.muxsel a
    gate i
    let av ← readSrc a
    let (_, _, d) ← inTransfer i
    let out := fieldOf av 0 3
    let inp := fieldOf av 3 3
    require (out ≤ 4 && (inp ≤ 3 || inp == 7) && fieldOf av 6 58 == 0) .illop (imageOf i)
    modS fun s => s.modCluster (clusterOf s.t.coreid) fun c =>
      { c with muxsel := c.muxsel ++ [(out, s.cycleOf d + 1, laneOf s.t.coreid, inp)] }
    retire i) s

/-- The slot-table code of a core. -/
def slotCode (core : Nat) : Nat := laneOf core + 1

/-- XMIT (11 R233): its checks; it sends at once in its own cycle, and waits for a later one. -/
def execXmit (b : Src) (a : Code) (s : State) : Outcome State Fault Refusal :=
  runM (do
    let i := Instr.xmit b a
    gate i
    let bv ← readSrc b
    let v ← readV a.toNat
    require (fieldOf bv 34 30 == 0) .illop (imageOf i)
    let (p, n, d) ← inTransfer i
    let x := fieldOf bv 0 32
    let link := fieldOf bv 32 2
    let s ← get
    let core := s.t.coreid
    let now := s.cycleOf d
    let viol := fun cause : Nat => do
      modS fun s => s.modDomain p n fun d => { d with log := d.log ++ [[1, core, link, x, now, cause]] }
      trapNow .slotviol bv
    if d.entry (clusterOf core) link x != slotCode core then viol 0
    else if x < now then viol 1
    else if x = now then
      modS fun s => s.sendOn p n (clusterOf core) link x v
      retire i
    else
      modT fun t => { t with len := i.len, result := bv }
      modS fun s => s.push .slotSend { x := core, y := link, z := x, nums := [p, n], bytes := leBytes 64 v.toNat }
      waitOn .xmit) s

/-- A context that waits for a cycle tries its instruction again: its transfer phase has ended. -/
def State.tryAgain (s : State) (core : Nat) : State := (s.modCtx core fun c => { c with mode := .running }).pushTurn core

/-- The instruction of a context completed by an event, after a change of its registers. -/
def State.completeFor (s : State) (core : Nat) (f : Ctx → Ctx) : State :=
  (s.eventFor core fun s => ({ s with t := f s.t }.complete s.t.len 0 0).afterTaken).pushTurn core

/-- The waiting XMIT of core `x` sends on link `y` in cycle `z` the value it read (11 R233). -/
def execSlotSend (s : State) : Outcome State Fault Refusal :=
  runM (do
    let s ← get
    let core := s.arg.x
    let p := s.arg.nums.headD 0
    let n := s.arg.nums.getD 1 0
    let c := s.ctx core
    if c.mode != .waiting .xmit || c.result != word (s.arg.z + s.arg.y * 2 ^ 32) then pure () else
    match (s.part p).domains[n]? with
    | some d =>
      if !d.transfer then modS fun s => s.tryAgain core
      else if s.time < d.start + s.arg.z then notYet .slotSend
      else modS fun s =>
        (s.sendOn p n (clusterOf core) s.arg.y s.arg.z (BitVec.ofNat 512 (leNat s.arg.bytes))).completeFor core id
    | none => modS fun s => s.tryAgain core) s

/-- What XRECV for cycle `a` does to its context: the latch's value where it is stamped with that cycle (11 R234). -/
def recvInto (latch : Option (Line × Nat)) (a d : Nat) (c : Ctx) : Ctx :=
  match latch with
  | some (v, n) => if n = a then (c.writeV d v).writeK 7 (BitVec.allOnes 64) else c.writeK 7 0
  | none => c.writeK 7 0

/-- XRECV (11 R234). -/
def execXrecv (b : Src) (d : Code) (s : State) : Outcome State Fault Refusal :=
  runM (do
    let i := Instr.xrecv b d
    gate i
    let bv ← readSrc b
    require (fieldOf bv 32 32 == 0) .illop (imageOf i)
    let (p, n, dom) ← inTransfer i
    let s ← get
    let a := bv.toNat
    let core := s.t.coreid
    if a < s.cycleOf dom && !s.stillComing p n a then
      modT (recvInto (s.core core).latch a d.toNat)
      retire i
    else
      modT fun t => { t with len := i.len, result := bv, dest := d }
      modS fun s => s.push .xrecvCyclePassed { x := core, z := a, nums := [p, n] }
      waitOn .xrecv) s

/-- The waiting XRECV of core `x` for cycle `z` reads its latch (11 R234). -/
def execXrecvCyclePassed (s : State) : Outcome State Fault Refusal :=
  runM (do
    let s ← get
    let core := s.arg.x
    let p := s.arg.nums.headD 0
    let n := s.arg.nums.getD 1 0
    let c := s.ctx core
    if c.mode != .waiting .xrecv || c.result != word s.arg.z then pure () else
    match (s.part p).domains[n]? with
    | some d =>
      if !d.transfer then modS fun s => s.tryAgain core
      else if s.cycleOf d ≤ s.arg.z || s.stillComing p n s.arg.z then notYet .xrecvCyclePassed
      else modS fun s => s.completeFor core (recvInto (s.core core).latch s.arg.z c.dest.toNat)
    | none => modS fun s => s.tryAgain core) s

end Sys2Proof.Machine
end

