-- ==== Sys2Proof/Machine/Stage.lean ====
section
/-! DEFINITION. Footprints: staging before the first instruction and after ERET, write-back after EXIT, and what a core's
pinned footprints cover (06 R93, 18 R296 to R298). -/

namespace Sys2Proof.Machine

/-! The four entries of a record (18 R296). -/

def footVa (r : BitVec 2048) (k : Nat) : Nat := recField r (64 + 16 * k) 8
def footLen (r : BitVec 2048) (k : Nat) : Nat := recField r (72 + 16 * k) 4
def footOff (r : BitVec 2048) (k : Nat) : Nat := recField r (76 + 16 * k) 2
def footDir (r : BitVec 2048) (k : Nat) : Nat := recField r (78 + 16 * k) 1

/-- An engine's access on behalf of a slice (19 R326). -/
def Acc.engineLoad : Acc := { r := true, kind := 5, sparse := 0 }
def Acc.engineStore : Acc := { w := true, kind := 5, sparse := 1 }
def Acc.engineAmo : Acc := { r := true, w := true, a := true, kind := 5, sparse := 5 }

/-- An engine's check of `n` bytes at an address (06 R101): the location key. -/
def State.engineFind (s : State) (core part : Nat) (via : Via) (va : Word) (n : Nat) (acc : Acc) : State × Except Cause Nat :=
  match s.tryResolve core part 0 via va n acc with
  | (s1, .ok (.mem k)) => (s1, .ok k)
  | (s1, .ok _) => (s1.logAccess part va.toNat 0 core Cause.accv.code acc.kind, .error .accv)
  | (s1, .error c) => (s1, .error c)

/-- Whether two ranges meet. -/
def rangesMeet (a b : Nat × Nat) : Bool := a.1 < b.1 + b.2 && b.1 < a.1 + a.2

/-- `n` 64-byte blocks copied from a virtual address to a pad's bytes; the first fault ends it. -/
def State.stageBlocks (core part : Nat) : Nat → Nat → Nat → State → State × Option (Cause × Word)
  | 0, _, _, s => (s, none)
  | n + 1, va, key, s =>
    match s.engineFind core part .die (word va) 64 Acc.engineLoad with
    | (s1, .error c) => (s1, some (c, word va))
    | (s1, .ok k) =>
      if s1.poisoned k 64 then (s1, some (.poison, word va)) else
      State.stageBlocks core part n (va + 64) (key + 64) (s1.write key (s1.mem.readBytes k 64))

/-- The entries from `k` on staged in ascending order; the index of the entry it stopped at comes back (18 R297). -/
def State.stageFrom (core part : Nat) (r : BitVec 2048) : Nat → Nat → State → State × Nat × Option (Cause × Word)
  | 0, k, s => (s, k, none)
  | n + 1, k, s =>
    if footDir r k % 2 = 1 then
      match State.stageBlocks core part (footLen r k / 64) (footVa r k) (padOf core + footOff r k) s with
      | (s1, some f) => (s1, k, some f)
      | (s1, none) => State.stageFrom core part r n (k + 1) s1
    else State.stageFrom core part r n (k + 1) s

/-- A trap of the staging, at the slice's next instruction (18 R297): a handler finds the staging marked as incomplete, a
supervisor's trap writes no status (20 R331) and the staging goes on at the resumption. -/
def State.stageTrap (s : State) (c : Cause) (va : Word) : State :=
  let s1 := { s with t := { s.t with access := 0, accessVa := va } }
  let again := s1.modSlice s1.t.sliceid.toNat fun x => { x with restage := true }
  if c = .tilefault then again.leaveFor .tilefault va
  else if s1.toSupervisor c then again.supTrap c va
  else { s1 with t := s1.t.enter c va .before 0 true }

/-- `n` 64-byte blocks copied from a pad's bytes to a virtual address; poison goes with them (18 R298, 22 R351). -/
def State.backBlocks (core part : Nat) : Nat → Nat → Nat → State → State × Option (Cause × Word)
  | 0, _, _, s => (s, none)
  | n + 1, va, key, s =>
    match s.engineFind core part .die (word va) 64 Acc.engineStore with
    | (s1, .error c) => (s1, some (c, word va))
    | (s1, .ok k) =>
      let s2 := s1.write k (s1.mem.readBytes key 64)
      State.backBlocks core part n (va + 64) (key + 64) ((setRange s1.bad key 64).foldl (fun x d => x.poison (k + (d - key)) 8) s2)

/-! The Nose's audit area (22 R361). Its layout is the model's: inputs, outputs of the replays, three signatures (log
entry 21). -/

/-- The bytes of a record's entries whose direction meets a condition. -/
def footBytes (r : BitVec 2048) (p : Nat → Bool) : Nat :=
  (List.range 4).foldl (fun n k => if p (footDir r k) then n + footLen r k else n) 0

def isInput (d : Nat) : Bool := d % 2 == 1
def isOutput (d : Nat) : Bool := d == 2 || d == 3

/-- The room that an audit of a record takes. -/
def auditSize (r : BitVec 2048) : Nat := footBytes r isInput + footBytes r isOutput + 64

/-- Whether a slice is sampled: one in 2^`audfrac` auditable slices, by its id (22 R361). -/
def State.sampled (s : State) (x : Slice) : Bool :=
  bitOf (recField x.record 31 1) 0 && x.replayOf.isNone && (s.part x.part).auditArea.isSome &&
    x.id / 2 ^ 32 * 0x9E3779B9 % 2 ^ 32 / 2 ^ (32 - (s.part x.part).audfrac.toNat) == 0

/-- The lowest place in a partition's audit area with room for `n` bytes beside the audits in progress. -/
def State.auditRoom (s : State) (part n : Nat) : Option Nat :=
  match (s.part part).auditArea with
  | none => none
  | some (a, size) =>
    let live := s.audits.filter (·.part == part)
    ((0 :: live.map fun u => u.base + u.size - a).filter fun o =>
      o + n ≤ size && !live.any fun u => rangesMeet (a + o, n) (u.base, u.size)).min?.map (a + ·)

/-- Entries of some direction copied between a pad and a place in memory, one after another. -/
def State.copyFeet (r : BitVec 2048) (p : Nat → Bool) (toPad : Bool) (core : Nat) : Nat → Nat → Nat → State → State
  | 0, _, _, s => s
  | n + 1, k, a, s =>
    if p (footDir r k) then
      let pad := padOf core + footOff r k
      let s1 := if toPad then s.copyRange a pad (footLen r k) else s.copyRange pad a (footLen r k)
      State.copyFeet r p toPad core n (k + 1) (a + footLen r k) s1
    else State.copyFeet r p toPad core n (k + 1) a s

/-- A slice's staging has ended: the inputs of a sampled slice are kept (22 R361). -/
def State.auditInputs (s : State) (x : Slice) (core : Nat) : State :=
  if !s.sampled x || s.audits.any (·.id == x.id) then s else
  match s.auditRoom x.part (auditSize x.record) with
  | none => s
  | some a =>
    let s1 := State.copyFeet x.record isInput false core 4 0 a s
    { s1 with audits := s1.audits ++ [Audit.mk x.id x.part x.record a (auditSize x.record) [] none] }

/-- The remaining staging of the current context's slice (18 R297, 20 R330): the mark goes when it is complete. -/
def State.stageRest (s : State) : State :=
  match s.slice s.t.sliceid.toNat with
  | none => { s with t := { s.t with tstat := s.t.tstat &&& ~~~(2#64) } }
  | some x =>
    let lead := x.threads.headD s.t.coreid
    match State.stageFrom lead x.part x.record (4 - x.staged) x.staged s with
    | (s1, k, none) =>
      (({ s1 with t := { s1.t with tstat := s1.t.tstat &&& ~~~(2#64) } }).modSlice x.id fun y => { y with staged := k }).auditInputs x lead
    | (s1, k, some (c, va)) => (s1.modSlice x.id fun y => { y with staged := k }).stageTrap c va

/-! Pinned footprints (06 R93, 18 R294, R298, 20 R341). -/

/-- The pad ranges, as offset and length, of a record's entries that a condition admits. -/
def footRanges (r : BitVec 2048) (p : Nat → Bool) : List (Nat × Nat) :=
  ((List.range 4).filter fun k => p (footDir r k)).map fun k => (footOff r k, footLen r k)

/-- Whether a member of a slice that is off its threads, or not back on them yet, is core-bound to a core (20 R341, R342). -/
def Slice.boundTo (x : Slice) (core : Nat) : Bool :=
  (x.bounds.zip x.lastThreads).any fun (b, c) => b && coreKey c == coreKey core

/-- The ranges of a core's pad that a slice pins; `top` is the top of the core's direct portion, the whole of which a core-bound
member pins until it resumes (20 R341). -/
def Slice.pins (x : Slice) (core top : Nat) : List (Nat × Nat) :=
  (if x.boundTo core then [(0, top)] else []) ++
  match x.threads with
  | c :: _ => if x.pinned && coreKey c == coreKey core then footRanges x.record (· % 2 == 1) else []
  | [] => []

/-- Every pinned range of a core. -/
def State.pinsOf (s : State) (core : Nat) : List (Nat × Nat) :=
  s.slices.flatMap fun x => x.pins core (s.directSize core)

/-- The destination ranges in a core's pad of copies that have not ended (06 R93). -/
def State.copyTargets (s : State) (core : Nat) : List (Nat × Nat) :=
  (s.copies.filter fun c => !c.held && !c.ended && classOf c.dest == .pad && fieldOf c.dest 17 14 == coreKey core).map fun c =>
    (c.dest.toNat % 2 ^ 16 - (c.length - c.remaining), c.length)

end Sys2Proof.Machine
end

