-- ==== Sys2Proof/Machine/Csr.lean ====
section
/-! DEFINITION. The control and status registers: what each reads as, which values it takes, and what a write does
(02 R19 to R21, and the rules each register's chapter gives). -/

namespace Sys2Proof.Machine

/-- Bits that a register may hold (02 R19 and the layouts of its governing chapter). -/
def csrMask (n : Nat) : Nat :=
  if n = 0x000 then 0xFF                              -- 07 R119
  else if n = 0x001 then 0x3F03                       -- 03 R30
  else if n = 0x002 then 0x7F                         -- 03 R31
  else if n = 0x004 || n = 0x005 || n = 0x300 || n = 0x309 || n = 0x500 || n = 0x501 then 0xFFFFFFFF
  else if n = 0x006 || n = 0x008 || n = 0x210 || n = 0x502 || n = 0x701 then 0xFF
  else if n = 0x007 then 7
  else if 0x200 ≤ n && n ≤ 0x20F then 0x00EFFFFF      -- 08 R143
  else if n = 0x401 || n = 0x403 then 0xFFFFFFFF
  else if 0x540 ≤ n && n ≤ 0x57F then 0x80000000000F3FFF  -- 13 R253
  else if n = 0x600 then 0x000FFFFFFFFFF000           -- 19 R306
  else if n = 0x704 then 0xFFFF37                     -- 20 R330
  else if n = 0x710 then 1
  else if n = 0x711 then 0xF
  else if 0x724 ≤ n && n ≤ 0x727 then 0x7FFF          -- 23 R367
  else if n = 0x728 then 3                            -- 23 R373
  else 0xFFFFFFFFFFFFFFFF

/-- The values a tile control register takes (08 R144). -/
def tcfgLegal (v : Nat) : Bool :=
  v == 0 ||
    let rows := bitsOf v 0 8
    let len := bitsOf v 8 8
    let ty := bitsOf v 16 4
    rows ≤ 128 && !(len == 0 && rows != 0) && [0, 1, 8, 9, 11, 12, 13].contains ty && !(ty == 13 && len % 2 == 1) &&
      !(ty != 13 && (bitsOf v 21 2 != 0 || bitOf v 23)) && bitsOf v 21 2 != 3 && rows * (len * typeBits ty / 8) ≤ 16384

/-- The values a watchpoint control register takes (23 R367, R369). -/
def wpctlLegal (n v : Nat) : Bool :=
  bitsOf v 12 2 != 3 && bitsOf v 8 4 ≤ 12 && !(bitOf v 5 && n != 0x727) && !(bitOf v 5 && !bitOf v 7 && bitsOf v 12 2 == 0)

/-- The values a loop register takes (05 R76). -/
def Ctx.loopLegal (t : Ctx) (n : Nat) (v : Word) : Bool :=
  let g := (n - 0x10) / 3
  let m := (n - 0x10) % 3
  let lc := if g = 0 then v else t.lc[m]!
  let lb := if g = 1 then v else t.lbeg[m]!
  let le := if g = 2 then v else t.lend[m]!
  let span := (le - lb).toNat
  !(g != 0 && flagOf v 0) && (lc == 0 || (g == 0 && t.lc[m]! != 0) || (2 ≤ span && span ≤ 16382))

/-- Whether the new split of a pad leaves its pinned bytes and copies' destinations in the direct portion (06 R93). -/
def State.padcfgLegal (s : State) (core v : Nat) : Bool :=
  let old := directTop (s.core core).padcfg.toNat
  let new := directTop v
  v ≤ 4 && !(s.pinsOf core ++ s.copyTargets core).any fun r => rangesMeet r (new, old - new)

/-- Check 4 of 02 R20 for the current context. -/
def State.csrLegal (s : State) (n : Nat) (v : Word) : Bool :=
  v.toNat &&& csrMask n == v.toNat &&
    if n = 0x000 then fieldOf v 0 4 < 14 && [0, 11, 12].contains (fieldOf v 4 4)
    else if n = 0x007 then s.padcfgLegal s.t.coreid v.toNat
    else if n = 0x008 then v == 0 || flagOf v (laneOf s.t.coreid)
    else if 0x10 ≤ n && n ≤ 0x18 then s.t.loopLegal n v
    else if 0x200 ≤ n && n ≤ 0x20F then tcfgLegal v.toNat
    else if n = 0x700 || n = 0x703 then !flagOf v 0
    else if n = 0x711 then 4 ≤ v.toNat && v.toNat ≤ 12
    else if 0x724 ≤ n && n ≤ 0x727 then wpctlLegal n v.toNat
    else true

/-- The domain registers (11 R224, 22 R355); `snapen` reads the outermost domain's, and for the supervisor in no domain what it
has written last (log entry 17). -/
def State.domCsr (s : State) (core n : Nat) : Word :=
  let ds := s.domainsOf core
  if n = 0x401 then
    word ((List.range 4).foldl (fun x l =>
      x + (match ds.find? (fun d => d.2.level == l) with | some d => d.2.number | none => 255) * 256 ^ l) 0)
  else if n = 0x402 then word (match ds with | d :: _ => d.2.members.getD (clusterOf core) 0 | [] => 0)
  else if n = 0x403 then word (match ds with | d :: _ => d.2.rank | [] => 0xFFFFFFFF)
  else if n = 0x404 then word (match ds with | d :: _ => if d.2.period = 0 then 0 else d.2.image / 256 * 256 + (d.2.period - 1) | [] => 0)
  else word (match ds.getLast? with
    | some d => if d.2.snapen then 1 else 0
    | none => if s.isSup core && (s.part (s.partNo core)).snapenOwn then 1 else 0)

/-- The value that a register holds for the current context, zero-extended (05 R85). -/
def State.csrNow (s : State) (n : Nat) : Word :=
  let t := s.t
  let core := t.coreid
  let p := s.myPart
  let w := fun {k : Nat} (x : BitVec k) => x.setWidth 64
  if n = 0x000 then w t.vtype else if n = 0x001 then w t.vround else if n = 0x002 then w t.vflags
  else if n = 0x003 then t.vmask else if n = 0x004 then w t.vprog else if n = 0x005 then w t.repcnt
  else if n = 0x006 then w t.qscale
  else if n = 0x007 then w (s.core core).padcfg else if n = 0x008 then w (s.core core).vicgrp
  else if 0x10 ≤ n && n ≤ 0x12 then t.lc[n - 0x10]! else if 0x13 ≤ n && n ≤ 0x15 then t.lbeg[n - 0x13]!
  else if 0x16 ≤ n && n ≤ 0x18 then t.lend[n - 0x16]!
  else if 0x200 ≤ n && n ≤ 0x20F then w (s.cluster (clusterOf core)).tcfg[n - 0x200]!
  else if n = 0x210 then w t.acscale else if n = 0x211 then w t.lastjob
  else if n = 0x300 then w t.rstep else if n = 0x301 then word (s.obmin core) else if n = 0x302 then p.objbase
  else if n = 0x303 then w (s.ctx (s.leaderOf core)).budget
  else if n = 0x304 then t.deadline else if n = 0x305 then w t.prio else if n = 0x306 then t.sliceid
  else if n = 0x307 then word core else if n = 0x308 then t.tagrdy else if n = 0x309 then w t.tagrank
  else if n = 0x400 then w t.gangpos
  else if (0x401 ≤ n && n ≤ 0x404) || n = 0x710 then s.domCsr core n
  else if n = 0x500 then w p.sachage else if n = 0x501 then w p.fetimeout else if n = 0x502 then w p.collretry
  else if 0x540 ≤ n && n ≤ 0x57F then t.peers[n - 0x540]!
  else if n = 0x600 then p.ptbase else if n = 0x601 then word (s.partNo core)
  else if n = 0x700 then t.tvec else if n = 0x701 then w t.tcause else if n = 0x702 then t.tval
  else if n = 0x703 then t.tpc else if n = 0x704 then t.tstat
  else if n = 0x711 then w p.audfrac
  else if 0x720 ≤ n && n ≤ 0x723 then (s.core core).wpaddr[n - 0x720]!
  else if 0x724 ≤ n && n ≤ 0x727 then w (s.core core).wpctl[n - 0x724]!
  else if n = 0x728 then w t.stepctl
  else 0

/-- The value from before all of a cycle's writes, for a shared register that has been written in it (02 R21). -/
def State.csrPast (s : State) (n : Nat) : Option Word :=
  let core := s.t.coreid
  if 0x200 ≤ n && n ≤ 0x20F then
    match (s.cluster (clusterOf core)).past with
    | some (t, v) => if t = s.time then some (v[n - 0x200]!.setWidth 64) else none
    | none => none
  else
    match (s.core core).past with
    | some (t, split, pool, addr, ctl) =>
      if t ≠ s.time then none
      else if n = 0x007 then some (split.setWidth 64) else if n = 0x008 then some (pool.setWidth 64)
      else if 0x720 ≤ n && n ≤ 0x723 then some addr[n - 0x720]!
      else if 0x724 ≤ n && n ≤ 0x727 then some (ctl[n - 0x724]!.setWidth 64)
      else none
    | none => none

/-- What a register reads for the current context (02 R21, 05 R85). -/
def State.csr (s : State) (n : Nat) : Word := (s.csrPast n).getD (s.csrNow n)

/-- The registers that a core's threads share, as they are before the first write of this cycle (02 R21). -/
def CoreSt.keepPast (c : CoreSt) (time : Nat) : CoreSt :=
  if c.past.any (·.1 == time) then c else { c with past := some (time, c.padcfg, c.vicgrp, c.wpaddr, c.wpctl) }

/-- The tile registers as they are before the first write of this cycle. -/
def Cluster.keepPast (c : Cluster) (time : Nat) : Cluster :=
  if c.past.any (·.1 == time) then c else { c with past := some (time, c.tcfg) }

/-- The nearer bound of a range (02 R20 check 5). -/
def clampTo (lo hi x : Nat) : Nat := min hi (max lo x)

/-- A new split of a pad (06 R93): the cache portion goes, and the bytes that change sides read as zero. Dirty lines have
reached their home with their stores. No full/empty bit changes (06 R111). An LDX or STX that is parked is no bank access of step
1, nor is one of another thread that waits for its answer: the rule does not say, and the model does not wait for it (log
entry 88). -/
def State.changePadcfg (s : State) (core v : Nat) : State :=
  let old := directTop (s.core core).padcfg.toNat
  let new := directTop v
  if old = new then s else
  let lo := min old new
  let n := max old new - lo
  let a := padOf core + lo
  let s1 := (s.leavePool core).modCore core fun c => { c.keepPast s.time with padcfg := BitVec.ofNat 3 v, lines := [] }
  { s1 with mem := s1.mem.clear a n, bad := setDropRange s1.bad a n }

/-- A new victim pool of a core (06 R95). -/
def State.changeVicgrp (s : State) (core : Nat) (v : BitVec 8) : State :=
  if (s.core core).vicgrp = v then s else (s.leavePool core).modCore core fun c => { c.keepPast s.time with vicgrp := v }

/-- `snapen` written by the supervisor: that of its outermost domain, else the one it reads in none (05 R85, log entry 17). -/
def State.setSnapen (s : State) (core : Nat) (v : Bool) : State :=
  let p := s.partNo core
  match (s.domainsOf core).getLast? with
  | some (i, _) => s.modDomain p i fun d => { d with snapen := v }
  | none => s.modPart p fun x => { x with snapenOwn := v }

/-- A register of the current context written with a value that check 4 of 02 R20 has passed; check 5 saturates. The
domain registers 0x401 to 0x404 keep what domain setup gave them (11 R223, R224; log entry 17). -/
def State.csrStore (s : State) (n : Nat) (v : Word) : State :=
  let core := s.t.coreid
  let pn := s.partNo core
  let cut := fun (k : Nat) => v.setWidth k
  let t := s.t
  if n = 0x000 then { s with t := { t with vtype := cut 8 } }
  else if n = 0x001 then { s with t := { t with vround := cut 16 } }
  else if n = 0x002 then { s with t := { t with vflags := cut 16 } }
  else if n = 0x003 then { s with t := { t with vmask := v } }
  else if n = 0x004 then { s with t := { t with vprog := cut 32 } }
  else if n = 0x005 then { s with t := { t with repcnt := cut 32 } }
  else if n = 0x006 then { s with t := { t with qscale := cut 8 } }
  else if n = 0x007 then s.changePadcfg core v.toNat
  else if n = 0x008 then s.changeVicgrp core (cut 8)
  else if 0x10 ≤ n && n ≤ 0x12 then { s with t := { t with lc := t.lc.set! (n - 0x10) v } }
  else if 0x13 ≤ n && n ≤ 0x15 then { s with t := { t with lbeg := t.lbeg.set! (n - 0x13) v } }
  else if 0x16 ≤ n && n ≤ 0x18 then { s with t := { t with lend := t.lend.set! (n - 0x16) v } }
  else if 0x200 ≤ n && n ≤ 0x20F then
    s.modCluster (clusterOf core) fun c => { c.keepPast s.time with tcfg := c.tcfg.set! (n - 0x200) (cut 32) }
  else if n = 0x210 then { s with t := { t with acscale := cut 8 } }
  else if n = 0x300 then { s with t := { t with rstep := cut 32 } }
  else if n = 0x302 then s.modPart pn fun x => { x with objbase := v }
  else if n = 0x309 then { s with t := { t with tagrank := cut 32 } }
  else if n = 0x500 then s.modPart pn fun x => { x with sachage := BitVec.ofNat 32 (clampTo 64 64000 v.toNat) }
  else if n = 0x501 then s.modPart pn fun x => { x with fetimeout := BitVec.ofNat 32 (clampTo 1 1000000 v.toNat) }
  else if n = 0x502 then s.modPart pn fun x => { x with collretry := cut 8 }
  else if 0x540 ≤ n && n ≤ 0x57F then
    ({ s with t := { t with peers := t.peers.set! (n - 0x540) v } }).modPart pn fun x => { x with peers := x.peers.set! (n - 0x540) v }
  else if n = 0x600 then s.modPart pn fun x => { x with ptbase := v }
  else if n = 0x700 then { s with t := { t with tvec := v } }
  else if n = 0x701 then { s with t := { t with tcause := cut 8 } }
  else if n = 0x702 then { s with t := { t with tval := v } }
  else if n = 0x703 then { s with t := { t with tpc := v } }
  else if n = 0x704 then { s with t := { t with tstat := v } }
  else if n = 0x710 then s.setSnapen core (flagOf v 0)
  else if n = 0x711 then s.modPart pn fun x => { x with audfrac := cut 4 }
  else if 0x720 ≤ n && n ≤ 0x723 then s.modCore core fun c => { c.keepPast s.time with wpaddr := c.wpaddr.set! (n - 0x720) v }
  else if 0x724 ≤ n && n ≤ 0x727 then s.modCore core fun c => { c.keepPast s.time with wpctl := c.wpctl.set! (n - 0x724) (cut 32) }
  else if n = 0x728 then { s with t := { t with stepctl := cut 32 } }
  else s

/-- A loop register's number (02 R16, 05 R76). -/
def isLoopCsr (n : Nat) : Bool := 0x10 ≤ n && n ≤ 0x18

end Sys2Proof.Machine
end

