-- ==== Sys2Proof/Machine/Kick.lean ====
section
/-! DEFINITION. The block-transfer aperture and the configuration window as a thread's loads and stores reach them
(10 R198 to R202, 19 R327). -/

namespace Sys2Proof.Machine

/-! Kicks (10 R200 to R202). -/

/-- An address of an argument block in the issuing core's coordinate form (20 R337). -/
def ownForm (core : Nat) (a : Word) : Word :=
  if classOf a == .pad && flagOf a 31 && fieldOf a 16 15 = 0 then word (padOf core + a.toNat % 2 ^ 16) else a

/-- A completion reference whose object lies in the issuing core's pad, in coordinate form too (20 R337). -/
def ownCref (core : Nat) (c : Word) : Word := if fieldOf c 62 2 = 0 then c else word (putBits c.toNat 0 33 (locOf core c))

/-- A completion reference's object as a reference with value 0 (10 R201). -/
def crefObject (c : Word) : Word := word (fieldOf c 0 33)

/-- The object target of a completion reference: key, object and the duty it needs (10 R202 checks 4 and 5). -/
def kickTarget (len : Nat) (c : Word) : M (Option (Nat × Nat × Option Duty × BitVec 16)) := do
  if fieldOf c 62 2 = 0 then pure none else
  let ref := crefObject c
  let (key, loc) ← checkObject ref
  let s ← get
  let o := s.obj key
  require (o.kind == Obj.bbar || o.kind == Obj.sig || o.kind == Obj.ctr) .illop ref
  let os := s.table s.t.coreid
  if o.kind = Obj.bbar then
    match findDuty os loc .bytes with
    | some e =>
      require (e.due.toNat == o.phase && len ≤ e.count) .unowed ref
      pure (some (key, loc, some .bytes, e.due))
    | none => trapNow .unowed ref
  else if o.kind = Obj.sig || o.dutyCtr then
    let k := if o.kind = Obj.sig then Duty.signal else Duty.msg
    match findDuty os loc k with
    | some e => pure (some (key, loc, some k, e.due))
    | none => trapNow .unowed ref
  else pure (some (key, loc, none, 0))

/-- The lowest of a thread's eight copy records that is free (10 R202, R208). A copy that a retired slice has left running on the
thread keeps its record until its completion step; one that has gone to a save area takes none. -/
def State.freeRecord (s : State) (core slice : Nat) : Option Nat :=
  (List.range 8).find? fun n => !s.copies.any fun c => c.core == core && c.slot == n && (c.slice.toNat == slice || !c.held)

/-- Whether a channel's 16-entry queue has room. -/
def State.channelRoom (s : State) (cl ch : Nat) : Bool := ((s.channelQueue cl ch).filter (!·.running)).length < 16

/-- A store of a kick to a channel by the current context (10 R202): its checks, then one step that accepts the copy, or a
stall. -/
def kickStore (i : Instr) (va : Word) (ch : Nat) (data : Word) : M Unit := do
  let s ← get
  let core := s.t.coreid
  let cl := clusterOf core
  let slot := fieldOf data 58 6
  require ((s.cluster cl).templates.getD slot 0 != 0 && fieldOf data 16 42 == 0) .illop data
  let off := fieldOf data 0 16
  let block := selfAlias off
  require (off % 32 == 0) .align block
  require (off + 32 ≤ s.directSize core) .accv block
  let a := padOf core + off
  if s.poisoned a 32 then trapNow .poison block
  let rd := fun n k => s.mem.readNat (a + n) k
  let len := rd 16 4
  let cref := word (rd 24 8)
  let tgt := fieldOf cref 62 2
  require (rd 22 2 == 0 && len != 0 && tgt < 2 && (if tgt = 0 then fieldOf cref 6 56 == 0 else fieldOf cref 33 29 == 0)) .illop block
  let target ← kickTarget len cref
  watch 2 va 8
  let s ← get
  if !s.channelRoom cl ch && (s.transferOf core).isSome then trapNow .xphase (imageOf i)
  match s.freeRecord core s.t.sliceid.toNat, s.channelRoom cl ch with
  | some n, true =>
    let part := s.partNo core
    let (key, duty, due) := match target with
      | some (k, _, d, u) => (k, d, u)
      | none => (0, none, 0)
    match target with
    | some (_, loc, some k, _) =>
      modS fun s =>
        match findDuty (s.table core) loc k with
        | some e => s.setTable core (s.takeUnits part (s.table core) e (if k = .bytes then len else 1))
        | none => s
    | _ => pure ()
    if tgt = 0 then modT fun t => { t with tagrdy := t.tagrdy &&& ~~~(word (2 ^ fieldOf cref 0 6)) }
    let c : Copy := {
      cluster := cl, channel := ch, template := slot, ord := false, started := false, running := false, ended := false
      source := ownForm core (word (rd 0 8)), dest := ownForm core (word (rd 8 8)), remaining := len, length := len
      flags := rd 20 2, argOff := off, cref := ownCref core cref, duty := duty, due := due, status := 0, inFlight := 0, slot := n
      core := core, slice := s.t.sliceid, part := part, peers := s.t.peers, key := key, cause := 0, tval := 0, held := false
      stopping := false, retries := 0, round := none, packets := 0, resend := [] }
    -- the block itself is rewritten too
    let block := leBytes 8 c.source.toNat ++ leBytes 8 c.dest.toNat ++ s.mem.readBytes (a + 16) 8 ++ leBytes 8 c.cref.toNat
    modS fun s => if s.mem.readBytes a 32 = block then s else s.writeFor core a block
    modS fun s => ({ s with copies := s.copies ++ [c] }).push .copyStart { x := cl, y := ch }
    release
  | _, _ => waitOn .copyQueue

/-- A template slot written by the supervisor (10 R199): its entry address is even, as bit 0 is ORD. -/
def State.setTemplate (s : State) (cl slot : Nat) (v : Word) : State :=
  s.modCluster cl fun c => { c with templates := c.templates.putD slot 0 v }

/-- A store of 8 bytes to the aperture page (10 R198), `off` its offset. -/
def apertureStore (i : Instr) (va : Word) (off : Nat) (v : Word) : M Unit := do
  let s ← get
  let core := s.t.coreid
  if s.t.kind = .hart then trapNow .accv va
  if off < 0x40 then kickStore i va (off / 8) v
  else if 0x800 ≤ off && off < 0xA00 then
    require (s.isSup core) .perm va
    watch 2 va 8
    modS fun s => s.setTemplate (clusterOf core) ((off - 0x800) / 8) v
  else trapNow .accv va

/-- A load of 8 bytes from the aperture page (10 R198). -/
def apertureLoad (va : Word) (off : Nat) : M Word := do
  let s ← get
  let cl := clusterOf s.t.coreid
  if s.t.kind = .hart then trapNow .accv va
  if off < 0x40 then
    watch 1 va 8
    let q := s.channelQueue cl (off / 8)
    pure (word (q.length + (if q.any (·.running) then 256 else 0)))
  else if 0x800 ≤ off && off < 0xA00 then
    watch 1 va 8
    pure ((s.cluster cl).templates.getD ((off - 0x800) / 8) 0)
  else trapNow .accv va

/-! The configuration window (19 R327). -/

/-- A refused access to the window by another thread (19 R326, R327). -/
def refuseConfig {α : Type} (va : Word) : M α := do
  modS fun s => s.logAccess (s.partNo s.t.coreid) va.toNat s.t.sliceid.toNat s.t.coreid Cause.perm.code 7
  trapNow .perm va

/-- The event that performs a command code (19 R327, 22 R354). -/
def configEvent (code : Nat) : Option Instr :=
  match code with
  | 1 => some .cfgFormatRegion | 2 => some .cfgQueue | 3 => some .cfgDomain | 4 => some .cfgPoolPages | 5 => some .cfgMigrate
  | 6 => some .cfgRemoteFaultLog | 7 => some .cfgAccessLog | 8 => some .cfgSparseFaultQueue | 9 => some .cfgErrorLog
  | 10 => some .cfgUndoLog | 11 => some .cfgAuditArea | 12 => some .cfgReleaseQuarantine | 13 => some .cfgResetCluster
  | 14 => some .cfgStopCluster | _ => none

/-- A store of 8 bytes to the window by the supervisor: the command's words, and the start at offset 56. -/
def configStore (va : Word) (off : Nat) (v : Word) : M Unit := do
  let s ← get
  if !s.isSup s.t.coreid then refuseConfig va
  require (off < 64) .accv va
  watch 2 va 8
  let p := s.partNo s.t.coreid
  let x := s.part p
  if x.cfgStatus = 1 then pure ()
  else if off < 56 then modS fun s => s.setPart p { x with cfg := BitVec.ofNat 448 (putBits x.cfg.toNat (8 * off) 64 v.toNat) }
  else if v = 1 then
    match configEvent (bitsOf x.cfg.toNat 0 16) with
    | some e => modS fun s => (s.setPart p { x with cfgStatus := 1 }).push e { x := p }
    | none => modS fun s => s.setPart p { x with cfgStatus := 2 }
  else pure ()

/-- A load of 8 bytes from the window by the supervisor. -/
def configLoad (va : Word) (off : Nat) : M Word := do
  let s ← get
  if !s.isSup s.t.coreid then refuseConfig va
  require (off < 64) .accv va
  watch 1 va 8
  let x := s.part (s.partNo s.t.coreid)
  pure (if off = 56 then x.cfgStatus else word (bitsOf x.cfg.toNat (8 * off) 64))

end Sys2Proof.Machine
end

