-- ==== Sys2Proof/Machine/Float.lean ====
section
/-! DEFINITION. Numbers: IEEE formats, tapers, rounding, conversions and the special functions (03 R24 to R47). A result is
a pattern of bits with the flags it raises, as `vflags` numbers them. -/

namespace Sys2Proof.Machine

/-! Flags (03 R31). -/

def flNx : Nat := 1
def flUf : Nat := 2
def flOf : Nat := 4
def flDz : Nat := 8
def flNv : Nat := 16
def flSat : Nat := 32
def flZblk : Nat := 64

/-- Flags when a condition holds. -/
def flagIf (p : Bool) (f : Nat) : Nat := if p then f else 0

/-! Values. -/

/-- A number: not a number, an infinity, or plus or minus `m` × 2^`e` exactly. -/
inductive FVal where
  | nan (signalling : Bool)
  | inf (neg : Bool)
  | num (neg : Bool) (m : Nat) (e : Int)
deriving DecidableEq, Repr

/-- An IEEE format (03 R27). -/
structure Fmt where
  ebits : Nat
  fbits : Nat
  bias : Int
deriving DecidableEq, Repr

def fmtF16 : Fmt := ⟨5, 10, 15⟩
def fmtBf16 : Fmt := ⟨8, 7, 127⟩
def fmtF32 : Fmt := ⟨8, 23, 127⟩

/-- The rounding modes of 03 R30. -/
def rne : Nat := 0
def rtz : Nat := 1
def rup : Nat := 2
def rdn : Nat := 3

/-- 2^n for an integer exponent, 1 below 0. -/
def pow2 (n : Int) : Nat := 2 ^ n.toNat

/-- The number of bits of a number. -/
def bitLen (m : Nat) : Nat := if m = 0 then 0 else m.log2 + 1

/-- The value of a pattern (03 R27, R28). -/
def Fmt.decode (f : Fmt) (x : Nat) : FVal :=
  let frac := bitsOf x 0 f.fbits
  let ex := bitsOf x f.fbits f.ebits
  let neg := bitOf x (f.ebits + f.fbits)
  if ex = 2 ^ f.ebits - 1 then (if frac = 0 then .inf neg else .nan (!bitOf frac (f.fbits - 1)))
  else if ex = 0 then .num neg frac (1 - f.bias - f.fbits)
  else .num neg (2 ^ f.fbits + frac) (ex - f.bias - f.fbits)

/-- The sign bit in place. -/
def Fmt.sign (f : Fmt) (neg : Bool) : Nat := if neg then 2 ^ (f.ebits + f.fbits) else 0
/-- Infinity, the largest finite magnitude, the canonical NaN. -/
def Fmt.infinity (f : Fmt) (neg : Bool) : Nat := f.sign neg + (2 ^ f.ebits - 1) * 2 ^ f.fbits
def Fmt.largest (f : Fmt) (neg : Bool) : Nat := f.infinity neg - 1
def Fmt.nan (f : Fmt) : Nat := (2 ^ f.ebits - 1) * 2 ^ f.fbits + 2 ^ (f.fbits - 1)

/-- Whether a magnitude with `rem` of `2^shift` left over, and more below if `sticky`, is rounded away from zero. -/
def roundsUp (mode : Nat) (neg : Bool) (mant rem half : Nat) (sticky : Bool) : Bool :=
  if mode = rne then half < rem || (rem == half && half != 0 && (sticky || mant % 2 == 1))
  else if mode = rup then !neg && (rem != 0 || sticky)
  else if mode = rdn then neg && (rem != 0 || sticky)
  else false

/-- A magnitude `m` × 2^`e`, and more below the last place if `sticky`, rounded to a multiple of 2^`q`; whether it was
exact comes back. -/
def roundAt (mode : Nat) (neg : Bool) (m : Nat) (e q : Int) (sticky : Bool) : Nat × Bool :=
  if q ≤ e then
    let mant := m * pow2 (e - q)
    (mant + (if roundsUp mode neg mant 0 0 sticky then 1 else 0), !sticky)
  else
    let d := pow2 (q - e)
    let mant := m / d
    let rem := m % d
    (mant + (if roundsUp mode neg mant rem (d / 2) sticky then 1 else 0), rem == 0 && !sticky)

/-- An exact magnitude rounded once to a format (03 R29): the pattern and OF, UF, NX. -/
def Fmt.round (f : Fmt) (mode : Nat) (neg : Bool) (m : Nat) (e : Int) (sticky : Bool) : Nat × Nat :=
  if m = 0 && !sticky then (f.sign neg, 0) else
  let q : Int := e + bitLen m - (f.fbits + 1 : Nat)
  let qmin : Int := 1 - f.bias - f.fbits
  let quantum := max q qmin
  let (mant, exact) := roundAt mode neg m e quantum sticky
  let top := 2 ^ (f.fbits + 1)
  let (mant, quantum) := if mant = top then (mant / 2, quantum + 1) else (mant, quantum)
  let biased := quantum + f.fbits + f.bias
  if 2 ^ f.fbits ≤ mant && (2 ^ f.ebits - 1 : Nat) ≤ biased then
    let toInf := mode == rne || (mode == rup && !neg) || (mode == rdn && neg)
    ((if toInf then f.infinity neg else f.largest neg), flOf + flNx)
  else
    let tiny := q < qmin && (roundAt mode neg m e q sticky).1 < pow2 (qmin - q) * 2 ^ f.fbits
    let bits := if mant < 2 ^ f.fbits then mant else biased.toNat * 2 ^ f.fbits + (mant - 2 ^ f.fbits)
    (f.sign neg + bits, flagIf (!exact) flNx + flagIf (tiny && !exact) flUf)

/-- A value rounded to a format; a NaN gives the canonical one, and NV if it signals. -/
def Fmt.encode (f : Fmt) (mode : Nat) : FVal → Nat × Nat
  | .nan s => (f.nan, flagIf s flNv)
  | .inf n => (f.infinity n, 0)
  | .num n m e => f.round mode n m e false

/-! Exact arithmetic. -/

def FVal.neg : FVal → FVal
  | .nan s => .nan s
  | .inf n => .inf (!n)
  | .num n m e => .num (!n) m e

/-- A signed integer multiple of 2^`e` as a value; `zneg` is the sign of a zero. -/
def ofScaled (i : Int) (e : Int) (zneg : Bool) : FVal := if i = 0 then .num zneg 0 e else .num (decide (i < 0)) i.natAbs e

/-- The integer that a magnitude is a multiple of 2^`q` of, for `q` at most its exponent. -/
def scaledTo (n : Bool) (m : Nat) (e q : Int) : Int := let x : Int := m * pow2 (e - q); if n then -x else x

/-- An exact sum and NV (03 R28, R29). -/
def FVal.add (mode : Nat) : FVal → FVal → FVal × Nat
  | .nan s, .nan t => (.nan false, flagIf (s || t) flNv)
  | .nan s, _ => (.nan false, flagIf s flNv)
  | _, .nan s => (.nan false, flagIf s flNv)
  | .inf a, .inf b => if a = b then (.inf a, 0) else (.nan false, flNv)
  | .inf a, _ => (.inf a, 0)
  | _, .inf b => (.inf b, 0)
  | .num a m e, .num b n g =>
    let q := min e g
    (ofScaled (scaledTo a m e q + scaledTo b n g q) q (if a = b then a else mode == rdn), 0)

/-- An exact product and NV. -/
def FVal.mul : FVal → FVal → FVal × Nat
  | .nan s, .nan t => (.nan false, flagIf (s || t) flNv)
  | .nan s, _ => (.nan false, flagIf s flNv)
  | _, .nan s => (.nan false, flagIf s flNv)
  | .inf a, .inf b => (.inf (a != b), 0)
  | .inf a, .num b m _ => if m = 0 then (.nan false, flNv) else (.inf (a != b), 0)
  | .num a m _, .inf b => if m = 0 then (.nan false, flNv) else (.inf (a != b), 0)
  | .num a m e, .num b n g => (.num (a != b) (m * n) (e + g), 0)

/-- A computed value rounded, its flags joined with those of the computation. -/
def Fmt.finish (f : Fmt) (mode : Nat) (r : FVal × Nat) : Nat × Nat :=
  let (x, fl) := f.encode mode r.1
  (x, fl ||| r.2)

def Fmt.add (f : Fmt) (mode a b : Nat) : Nat × Nat := f.finish mode ((f.decode a).add mode (f.decode b))
def Fmt.sub (f : Fmt) (mode a b : Nat) : Nat × Nat := f.finish mode ((f.decode a).add mode (f.decode b).neg)
def Fmt.mul (f : Fmt) (mode a b : Nat) : Nat × Nat := f.finish mode ((f.decode a).mul (f.decode b))

/-- A fused a × b + c, the product or the addend negated as asked, with one rounding. -/
def Fmt.fma (f : Fmt) (mode : Nat) (negP negC : Bool) (a b c : Nat) : Nat × Nat :=
  let (p, fl) := (f.decode a).mul (f.decode b)
  let p1 := if negP then p.neg else p
  let c1 := if negC then (f.decode c).neg else f.decode c
  let (r, fl2) := p1.add mode c1
  f.finish mode (r, fl ||| fl2)

/-- The order of two values that are not NaN: a < b. -/
def FVal.lt : FVal → FVal → Bool
  | .nan _, _ => false
  | _, .nan _ => false
  | .inf a, .inf b => a && !b
  | .inf a, .num _ _ _ => a
  | .num _ _ _, .inf b => !b
  | .num a m e, .num b n g => decide (scaledTo a m e (min e g) < scaledTo b n g (min e g))

def FVal.isNan : FVal → Bool
  | .nan _ => true
  | _ => false
def FVal.signals : FVal → Bool
  | .nan s => s
  | _ => false
def FVal.abs : FVal → FVal
  | .nan s => .nan s
  | .inf _ => .inf false
  | .num _ m e => .num false m e
def FVal.negative : FVal → Bool
  | .nan _ => false
  | .inf n => n
  | .num n _ _ => n
def FVal.isZero : FVal → Bool
  | .num _ m _ => m == 0
  | _ => false

/-! Tapers (03 R33 to R37). -/

/-- The length of the run of bits equal to `b` from bit `i - 1` of a magnitude down. -/
def tapRun (mag : Nat) (b : Bool) : Nat → Nat
  | 0 => 0
  | i + 1 => if bitOf mag i == b then 1 + tapRun mag b i else 0

/-- The magnitude of a nonzero magnitude field of `n` bits: significand and exponent; `wide` is tap8's exponent bit. -/
def tapMag (n : Nat) (wide : Bool) (mag : Nat) : Nat × Int :=
  let b := bitOf mag (n - 1)
  let run := tapRun mag b n
  let k : Int := if b then (run : Int) - 1 else -(run : Int)
  let rest := n - run - 1
  let hasE := wide && 1 ≤ rest
  let fb := if hasE then rest - 1 else rest
  let ex : Int := if hasE && bitOf mag (rest - 1) then 1 else 0
  (2 ^ fb + bitsOf mag 0 fb, (if wide then 2 * k + ex else k) - fb)

/-- Whether a type is a taper, and its width. -/
def tapWidth (t : Nat) : Nat := if t = 11 then 8 else 6

/-- A taper code's value; `none` is NaR. -/
def tapDecode (t code : Nat) : Option FVal :=
  let w := tapWidth t
  let mag := bitsOf code 0 (w - 1)
  let s := bitOf code (w - 1)
  if mag = 0 then (if s then none else some (.num false 0 0))
  else
    let (m, e) := tapMag (w - 1) (w = 8) mag
    some (.num s m e)

/-- A magnitude code's value in units of 2^-13, which makes midpoints whole. -/
def tapUnits (t mag : Nat) : Nat :=
  if mag = 0 then 0 else
  let (m, e) := tapMag (tapWidth t - 1) (tapWidth t = 8) mag
  m * pow2 (e + 13)

/-- Whether m × 2^e is at least, and is exactly, `u` units of 2^-13. -/
def atLeast (m : Nat) (e : Int) (u : Nat) : Bool := decide (u * pow2 (-13 - e) ≤ m * pow2 (e + 13))
def equalsUnits (m : Nat) (e : Int) (u : Nat) : Bool := u * pow2 (-13 - e) == m * pow2 (e + 13)

/-- The largest magnitude code whose value is at most m × 2^e. -/
def tapBelow (t m : Nat) (e : Int) : Nat :=
  (List.range (tapWidth t - 1)).reverse.foldl (fun c i => if atLeast m e (tapUnits t (c + 2 ^ i)) then c + 2 ^ i else c) 0

def tapNar (t : Nat) : Nat := 2 ^ (tapWidth t - 1)

/-- A value as a taper code, with flags (03 R36). -/
def tapEncode (t : Nat) : FVal → Nat × Nat
  | .nan _ => (tapNar t, flNv)
  | .inf _ => (tapNar t, flNv)
  | .num n m e =>
    if m = 0 then (0, 0) else
    let sign := if n then tapNar t else 0
    let top := tapNar t - 1
    let c := tapBelow t m e
    if c = 0 then (sign + 1, flSat + flNx)
    else if equalsUnits m e (tapUnits t c) then (sign + c, 0)
    else if c = top then (sign + top, flSat + flNx)
    else
      let mid := (tapUnits t c + tapUnits t (c + 1)) / 2
      let up := if equalsUnits m e mid then c % 2 == 1 else atLeast m e mid
      (sign + (if up then c + 1 else c), flNx)

/-! Element types (03 R24). -/

def isFloatT (t : Nat) : Bool := 8 ≤ t && t ≤ 10
def isIntT (t : Nat) : Bool := t ≤ 7
def isTapT (t : Nat) : Bool := t == 11 || t == 12
def signedT (t : Nat) : Bool := t % 2 == 0
def fmtOf (t : Nat) : Fmt := if t = 8 then fmtF16 else if t = 9 then fmtBf16 else fmtF32

/-- The range of an integer type. -/
def intLow (t : Nat) : Int := if signedT t then -((2 ^ (typeBits t - 1) : Nat) : Int) else 0
def intHigh (t : Nat) : Int := if signedT t then ((2 ^ (typeBits t - 1) : Nat) : Int) - 1 else ((2 ^ typeBits t : Nat) : Int) - 1

/-- An integer's pattern, and a pattern's integer. -/
def intBits (t : Nat) (i : Int) : Nat := (i % ((2 ^ typeBits t : Nat) : Int)).toNat
def intVal (t x : Nat) : Int := if signedT t then signed (typeBits t) x else ((x % 2 ^ typeBits t : Nat) : Int)

/-- The value of an element of any type; NaR is a quiet NaN here. -/
def elemVal (t x : Nat) : FVal :=
  if isIntT t then ofScaled (intVal t x) 0 false
  else if isFloatT t then (fmtOf t).decode x
  else if isTapT t then (tapDecode t x).getD (.nan false)
  else ofScaled (x % 16 : Nat) 0 false

/-- A magnitude rounded to a signed integer by a mode; exactness comes back. -/
def toInt (mode : Nat) (n : Bool) (m : Nat) (e : Int) : Int × Bool :=
  let (x, exact) := roundAt mode n m e 0 false
  (if n then -(x : Int) else x, exact)

/-- A value as an integer type's pattern, `nv` when a clamp is invalid and not only a saturation (03 R38). A float that rounds
inexactly to -0 sets NX, as the table of 03 R38 has every inexact rounding; its closing sentence may be read otherwise (log
entry 79). -/
def toIntT (t mode : Nat) (nv : Bool) : FVal → Nat × Nat
  | .nan _ => (0, flNv + flSat)
  | .inf n => (intBits t (if n then intLow t else intHigh t), flNv + flSat)
  | .num n m e =>
    let (i, exact) := toInt mode n m e
    if i < intLow t then (intBits t (intLow t), flSat + flagIf nv flNv + flagIf (!exact) flNx)
    else if intHigh t < i then (intBits t (intHigh t), flSat + flagIf nv flNv + flagIf (!exact) flNx)
    else (intBits t i, flagIf (!exact) flNx)

/-- A conversion between element types (03 R38); a tap6 container is written with bits 7:6 zero (03 R25). -/
def convert (mode src dst x : Nat) : Nat × Nat :=
  if src = dst then (if src = 12 then x % 64 else x, 0)
  else if isTapT dst then
    -- NaR into a taper stays NaR; a NaN or an infinity is invalid
    (if isTapT src && (tapDecode src x).isNone then (tapNar dst, 0) else tapEncode dst (elemVal src x))
  else if isIntT dst then toIntT dst mode (isFloatT src) (elemVal src x)
  else (fmtOf dst).encode mode (elemVal src x)

/-! Block scales (03 R39). -/

/-- A value times the factor of an sx8 byte: none is "not a number" by a reserved scale. -/
def scaled (s : Nat) (v : FVal) : FVal :=
  match v with
  | .nan q => .nan q
  | .inf n => if s = 255 || s = 0 then .nan false else .inf n
  | .num n m e => if s = 255 then .nan false else if s = 0 then .num n 0 0 else .num n m (e + s - 127)

/-! Functions (03 R45, R46). Results that are no dyadic number are computed to `sfuBits` bits below the binary point, which
is more than any rounding boundary of the formats needs (log entry 19). -/

def sfuBits : Nat := 256

/-- The integer square root, bit by bit from bit `n - 1`. -/
def isqrt (x : Nat) : Nat → Nat → Nat
  | 0, r => r
  | n + 1, r => if (r + 2 ^ n) * (r + 2 ^ n) ≤ x then isqrt x n (r + 2 ^ n) else isqrt x n r

/-- The square root of a number, rounded down. -/
def sqrtDown (x : Nat) : Nat := isqrt x (bitLen x / 2 + 1) 0

/-- 2^f for a fraction f of `k` bits below 1: at each step the next root of 2, taken when the next bit of f is set. -/
def exp2Frac (f : Nat) : Nat → Nat → Nat → Nat
  | 0, _, acc => acc
  | k + 1, root, acc =>
    let r := sqrtDown (root * 2 ^ sfuBits)
    exp2Frac f k r (if bitOf f k then acc * r / 2 ^ sfuBits else acc)

/-- 2^x for a finite x. -/
def exp2Of (f : Fmt) (mode : Nat) (n : Bool) (m : Nat) (e : Int) : Nat × Nat :=
  if m = 0 then f.round mode false 1 0 false
  else if 12 ≤ e + bitLen m then (if n then f.round mode false 1 (-5000) true else f.round mode false 1 5000 true)
  else if e + bitLen m ≤ -64 then
    (if n then f.round mode false (2 ^ 64 - 1) (-64) true else f.round mode false (2 ^ 64) (-64) true)
  else
    let k := (max 0 (-e)).toNat
    let i : Int := scaledTo n m e (-(k : Int))
    let whole := i / ((2 ^ k : Nat) : Int)
    let frac := (i % ((2 ^ k : Nat) : Int)).toNat
    if frac = 0 then f.round mode false 1 whole false
    else f.round mode false (exp2Frac frac k (2 * 2 ^ sfuBits) (2 ^ sfuBits)) (whole - sfuBits) true

/-- `k` bits of log2 of y, a number from 1 to below 2 with `sfuBits` + 64 bits below the point. -/
def log2Frac : Nat → Nat → Nat → Nat
  | 0, _, acc => acc
  | k + 1, y, acc =>
    let z := y * y / 2 ^ (sfuBits + 64)
    if 2 * 2 ^ (sfuBits + 64) ≤ z then log2Frac k (z / 2) (2 * acc + 1) else log2Frac k z (2 * acc)

/-- log2 of a positive finite number. -/
def log2Of (f : Fmt) (mode m : Nat) (e : Int) : Nat × Nat :=
  let len := bitLen m
  let whole : Int := e + len - 1
  if m = 2 ^ (len - 1) then
    (match ofScaled whole 0 false with
     | .num n a g => f.round mode n a g false
     | _ => (0, 0))
  else
    let y := m * 2 ^ (sfuBits + 64 + 1 - len)
    let v : Int := whole * ((2 ^ 128 : Nat) : Int) + log2Frac 128 y 0
    if 0 ≤ v then f.round mode false v.toNat (-128) true
    else f.round mode true ((-v).toNat - 1) (-128) true

/-- 1/x. -/
def rcpOf (f : Fmt) (mode : Nat) (n : Bool) (m : Nat) (e : Int) : Nat × Nat :=
  f.round mode n (2 ^ sfuBits / m) (-e - sfuBits) (2 ^ sfuBits % m != 0)

/-- A number with an even exponent, as significand and half the exponent, with `sfuBits` more bits. -/
def evened (m : Nat) (e : Int) : Nat × Int :=
  if e % 2 = 0 then (m * 2 ^ (2 * sfuBits), e / 2 - sfuBits) else (2 * m * 2 ^ (2 * sfuBits), (e - 1) / 2 - sfuBits)

/-- The square root of a positive finite number. -/
def sqrtOf (f : Fmt) (mode m : Nat) (e : Int) : Nat × Nat :=
  let (x, h) := evened m e
  let r := sqrtDown x
  f.round mode false r h (r * r != x)

/-- One of the two neighbours of an exact result that no pattern is. On a piece of a function, `key` grows with the
magnitude of the exact result, so that the results are monotonic (03 R45). -/
def neighbour (f : Fmt) (turn : Nat → Int → Int) (piece key : Int) (n : Bool) (m : Nat) (e : Int) : Nat × Nat :=
  let low := f.round rtz n m e true
  if turn low.1 piece ≤ key then f.round (if n then rdn else rup) n m e true else low

/-- 1/sqrt(x) within 1 ulp, exact at even powers of two; `x` is the operand's pattern. -/
def rsqOf (f : Fmt) (turn : Nat → Int → Int) (x m : Nat) (e : Int) : Nat × Nat :=
  let (m1, e1) := if e % 2 = 0 then (m, e) else (2 * m, e - 1)
  -- 1/sqrt(m1) with sfuBits bits: sqrt(2^(2 sfuBits) / m1)
  let r := sqrtDown (2 ^ (2 * sfuBits) / m1)
  if r * r * m1 = 2 ^ (2 * sfuBits) then f.round rne false r (-(e1 / 2) - sfuBits) false
  else neighbour f turn 0 (-(x : Int)) false r (-(e1 / 2) - sfuBits)

/-- pi with `sfuBits` bits below the point, by Machin's formula: 16 arctan(1/5) - 4 arctan(1/239). -/
def atanInv (q : Nat) : Nat → Nat → Nat → Int → Int → Int
  | 0, _, _, _, acc => acc
  | n + 1, k, p, sg, acc => atanInv q n (k + 2) (p / (q * q)) (-sg) (acc + sg * ((p / k : Nat) : Int))

def piBits : Nat :=
  let one := 2 ^ (sfuBits + 32)
  ((16 * atanInv 5 130 1 (one / 5) 1 0 - 4 * atanInv 239 50 1 (one / 239) 1 0) / ((2 ^ 32 : Nat) : Int)).toNat

/-- The terms of a sine or cosine series from x^k / k! on. -/
def trigSeries (x2 : Nat) : Nat → Nat → Nat → Int → Int → Int
  | 0, _, _, _, acc => acc
  | n + 1, k, term, sg, acc =>
    trigSeries x2 n (k + 2) (term * x2 / 2 ^ sfuBits / ((k + 1) * (k + 2))) (-sg) (acc + sg * (term : Int))

/-- sin(pi × f) for a fraction f of `sfuBits` bits, up to a half. -/
def sinPart (f : Nat) : Nat :=
  let x := f * piBits / 2 ^ sfuBits
  (trigSeries (x * x / 2 ^ sfuBits) 60 1 x 1 0).toNat

/-- cos(pi × f) likewise, below 1 for every `f` but 0. -/
def cosPart (f : Nat) : Nat :=
  let x := f * piBits / 2 ^ sfuBits
  min (2 ^ sfuBits - 1) (trigSeries (x * x / 2 ^ sfuBits) 60 0 (2 ^ sfuBits) 1 0).toNat

/-- |x| modulo 2 in `sfuBits` bits. -/
def mod2 (m : Nat) (e : Int) : Nat := m * pow2 (e + sfuBits) / pow2 (-e - sfuBits) % 2 ^ (sfuBits + 1)

/-- The half turn an operand lies on: the functions are monotonic in magnitude there. -/
def quarterOf (n : Bool) (m : Nat) (e : Int) : Int :=
  let q : Int := ((m * pow2 (e + 1) / pow2 (-e - 1) : Nat) : Int)
  if n then -q - 1 else q

/-- A quarter-turn value: |x| mod 2 folded to at most a half, with its sign. -/
def sinpiOf (f : Fmt) (turn : Nat → Int → Int) (n : Bool) (m : Nat) (e : Int) : Nat × Nat :=
  let one := 2 ^ sfuBits
  let y := mod2 m e
  let neg := n != decide (one ≤ y)
  let z := y % one
  if z = 0 then (f.sign n, 0)
  else if z = one / 2 then f.round rne neg 1 0 false
  else
    let w := if one / 2 < z then one - z else z
    neighbour f turn (quarterOf n m e) w neg (sinPart w) (-sfuBits)

def cospiOf (f : Fmt) (turn : Nat → Int → Int) (n : Bool) (m : Nat) (e : Int) : Nat × Nat :=
  let one := 2 ^ sfuBits
  let y := mod2 m e
  if y = 0 then f.round rne false 1 0 false
  else if y = one then f.round rne true 1 0 false
  else if y % one = one / 2 then (0, 0)
  else
    let z := if one < y then 2 * one - y else y
    let neg := decide (one / 2 < z)
    let w := if neg then one - z else z
    neighbour f turn (quarterOf n m e) (-(w : Int)) neg (cosPart w) (-sfuBits)

/-- A member of the special-function unit on a pattern of a float type (03 R45, R46): `k` is the member of major 27. -/
def sfu (k t mode x : Nat) : Nat × Nat :=
  let f := fmtOf t
  let turn := Config.sfuTurn k t
  match f.decode x with
  | .nan s => (f.nan, flagIf s flNv)
  | .inf n =>
    match k with
    | 0 => if n then (0, 0) else (f.infinity false, 0)
    | 1 => if n then (f.nan, flNv) else (f.infinity false, 0)
    | 2 => (f.sign n, 0)
    | 3 => if n then (f.nan, flNv) else (0, 0)
    | 4 => if n then (f.nan, flNv) else (f.infinity false, 0)
    | _ => (f.nan, flNv)
  | .num n m e =>
    match k with
    | 0 => exp2Of f mode n m e
    | 1 => if m = 0 then (f.infinity true, flDz) else if n then (f.nan, flNv) else log2Of f mode m e
    | 2 => if m = 0 then (f.infinity n, flDz) else rcpOf f mode n m e
    | 3 => if m = 0 then (f.infinity n, flDz) else if n then (f.nan, flNv) else rsqOf f turn x m e
    | 4 => if m = 0 then (f.sign n, 0) else if n then (f.nan, flNv) else sqrtOf f mode m e
    | 5 => if m = 0 then (f.sign n, 0) else sinpiOf f turn n m e
    | _ => if m = 0 then f.round rne false 1 0 false else cospiOf f turn n m e

/-! Quantisation (03 R47). -/

/-- The format maximum F. -/
def quantMax (q : Nat) : Nat := if q = 11 then 4096 else if q = 12 then 16 else 127

/-- The smallest e from `e` on, among `n` candidates, with alpha / 2^(e - 127) at most F. -/
def quantScale (q m : Nat) (x : Int) : Nat → Nat → Nat
  | 0, e => e
  | n + 1, e =>
    let g := x - (e : Int) + 127
    if m * pow2 g ≤ quantMax q * pow2 (-g) then e else quantScale q m x n (e + 1)

/-- One element divided by 2^(e - 127) and encoded into QTYPE. -/
def quantElem (q e : Nat) (v : FVal) : Nat × Nat :=
  match v with
  | .num n m x =>
    if q = 0 then
      let (i, exact) := toInt rne n m (x - e + 127)
      if i < -127 then (intBits 0 (-127), flSat + flNx)
      else if 127 < i then (127, flSat + flNx)
      else (intBits 0 i, flagIf (!exact) flNx)
    else tapEncode q (.num n m (x - e + 127))
  | _ => ((if q = 0 then 128 else tapNar q), flNv)

/-- The block scale that an amax operand gives: e, whether every code is zero, or every code is NaR, and the flags. -/
inductive QuantPlan where
  | zero
  | invalid
  | scale (e : Nat)
deriving DecidableEq, Repr

def quantPlan (q : Nat) (a : FVal) : QuantPlan :=
  match a with
  | .num _ m x => if m = 0 then .zero else .scale (quantScale q m x 253 1)
  | _ => .invalid

/-! Exact accumulators (03 R43, R44). -/

/-- An f32 pattern added to a 640-bit accumulator. -/
def exactAdd (x acc : Nat) : Nat × Nat :=
  match fmtF32.decode x with
  | .num n m e =>
    let u : Int := scaledTo n m e (-320)
    (((acc : Int) + u) % ((2 ^ 640 : Nat) : Int) |>.toNat, 0)
  | .nan _ => (acc, flNv)
  | .inf _ => (acc, flNv)

/-- An accumulator read as f32. -/
def exactRead (mode acc : Nat) : Nat × Nat :=
  match ofScaled (signed 640 acc) (-320) false with
  | .num n m e => fmtF32.round mode n m e false
  | _ => (0, 0)

end Sys2Proof.Machine
end

