-- ==== Sys2Proof/Machine/Sachets.lean ====
section
/-! DEFINITION. Remote elements and full/empty requests: peers, sachets, what an element does at its target, statuses, and
the retry lists (06 R107, R111 to R116, 09 R195, 13 R253 to R271). -/

namespace Sys2Proof.Machine

/-! Atomic operations (06 R107). -/

/-- The pattern of a pairwise bf16 sum. -/
def bfAdd2 (old b : Nat) : Nat :=
  (fmtBf16.add rne (bitsOf old 0 16) (bitsOf b 0 16)).1 + 2 ^ 16 * (fmtBf16.add rne (bitsOf old 16 16) (bitsOf b 16 16)).1

/-- The new value of an atomic of `w` bits; `op` is f7[6:3]. -/
def amoNew (op w old b cmp : Nat) : Nat :=
  let x := BitVec.ofNat w old
  let y := BitVec.ofNat w b
  match op with
  | 0 => (x + y).toNat
  | 1 => (x &&& y).toNat
  | 2 => (x ||| y).toNat
  | 3 => (x ^^^ y).toNat
  | 4 => (opMin x y).toNat
  | 5 => (opMax x y).toNat
  | 6 => (opMinn x y).toNat
  | 7 => (opMaxn x y).toNat
  | 8 => y.toNat
  | 9 => if old % 2 ^ w = cmp % 2 ^ w then y.toNat else old
  | 10 => (fmtF32.add rne (old % 2 ^ 32) (b % 2 ^ 32)).1
  | _ => bfAdd2 old b

/-- Whether an atomic writes: a CAS that fails does not. -/
def amoWrites (op w old cmp : Nat) : Bool := op != 9 || old % 2 ^ w == cmp % 2 ^ w

/-! Peers (13 R253, R260). -/

/-- A module, by its fabric address, is named by the job's peer table. -/
def Partition.inJob (x : Partition) (m : Nat) : Bool := x.peers.toList.any fun p => flagOf p 63 && fieldOf p 0 14 == m

/-- Whether a context may send to a peer slot (13 R260 check 5). -/
def State.peerOk (s : State) (core slot : Nat) : Bool :=
  let p := (s.ctx core).peers[slot]!
  flagOf p 63 && (s.part (s.partNo core)).inJob (fieldOf p 0 14)

/-- A refused peer enters the access log and traps with ACCV (13 R260, 19 R326). -/
def refusePeer {α : Type} (addr tval : Word) : M α := do
  modS fun s => s.logAccess (s.partNo s.t.coreid) addr.toNat s.t.sliceid.toNat s.t.coreid Cause.accv.code 6
  trapNow .accv tval

/-! Sachets (13 R255 to R258). -/

/-- The row of 13 R258 that an element's operation stands in, none for one that never combines. -/
def rowOf (e : Element) : Option Nat :=
  if e.multicast then none
  else if e.major = 20 then some 100
  else if e.major = 21 && e.f7 / 8 ≤ 8 then some (e.f7 / 8)
  else none

/-- The payload of two elements combined. -/
def joined (old new : Element) : Element :=
  let pay := if old.major = 20 then new.payload.toNat else amoNew (old.f7 / 8) (8 * old.size) old.payload.toNat new.payload.toNat 0
  { old with payload := word pay, parts := old.parts + new.parts }

/-- Whether an element touches any of `n` bytes at an address. -/
def touchesBytes (e : Element) (a n : Nat) : Bool := e.addr < a + n && a < e.addr + max e.size e.bytes.length

/-- The elements of a sachet with one more combined into the last that touches its bytes, where it can be. -/
def combineInto (es : List Element) (e : Element) : Option (List Element) :=
  match es.reverse.findIdx? (fun x => touchesBytes x e.addr e.size) with
  | none => none
  | some j =>
    let i := es.length - 1 - j
    match es[i]? with
    | some x =>
      if sameActivity x e && x.addr == e.addr && x.size == e.size && (rowOf x).isSome && rowOf x == rowOf e && x.major == e.major then
        some (es.set i (joined x e))
      else none
    | none => none

/-- The sachet of a die that is to depart so that another can open (13 R257). -/
def oldestSachet (xs : List Sachet) : Option Sachet :=
  xs.foldl (fun b x =>
    match b with
    | none => some x
    | some y =>
      let ax := (x.elements.map (·.accepted)).headD 0
      let ay := (y.elements.map (·.accepted)).headD 0
      if ax < ay || (ax == ay && x.index < y.index) then some x else some y) none

/-- An element accepted into the sachet of its destination on a die. -/
def State.accept (s : State) (die dest : Nat) (e : Element) : State :=
  match s.sachets.find? (fun x => x.die == die && x.dest == dest) with
  | some x =>
    let put := fun (y : Sachet) => { s with sachets := s.sachets.map fun z => if z.die = die && z.index = x.index then y else z }
    (match combineInto x.elements e with
     | some es => put { x with elements := es }
     | none =>
       let y := { x with elements := x.elements ++ [e] }
       if 64 ≤ y.elements.length then (put y).depart y else put y)
  | none =>
    let here := s.sachets.filter (·.die == die)
    let s1 := if 256 ≤ here.length then (match oldestSachet here with | some y => s.depart y | none => s) else s
    let used := (s1.sachets.filter (·.die == die)).map (·.index)
    let i := ((List.range 256).find? fun i => !used.contains i).getD 0
    { s1 with sachets := s1.sachets ++ [Sachet.mk die i dest [e]] }.push .sachetAgeDeparture { x := die, y := i, z := e.accepted }

/-- The sachet of a destination on a die departs, if one is in use. -/
def State.flushDest (s : State) (die dest : Nat) : State := s.departIf fun x => x.die == die && x.dest == dest

/-! What an element does at its target (13 R262). -/

/-- The element status that a cause of the target's checks draws (13 R265). -/
def statusOfCause : Cause → Nat
  | .accv => 3
  | .perm => 2
  | .poison => 4
  | .align => 3
  | _ => 1

/-- A remote agent's check at the target of `n` bytes in one page for a partition; a self alias is refused (13 R265). -/
def State.targetFind (s : State) (part core slice : Nat) (a n : Nat) (acc : Acc) : State × Except Nat Nat :=
  let agent := (s.part part).supervisor
  if classOf (word a) == .pad && bitOf a 31 then (s.logAccess part a slice core Cause.accv.code 6, .error 3) else
  match s.tryResolve agent part slice .die (word a) n { acc with kind := 6, agent := some core } with
  | (s1, .ok (.mem k)) => (s1, .ok k)
  | (s1, .ok _) => (s1.logAccess part a slice core Cause.accv.code 6, .error 3)
  | (s1, .error c) => (s1, .error (statusOfCause c))

/-- The check at the target of a write of `n` bytes, each page it reaches translated by itself (13 R254): the keys of the two
parts, of which the first has the bytes up to the end of its page. No element is longer than a page. -/
def State.targetWrite (s : State) (part core slice : Nat) (a n : Nat) : State × Except Nat (Nat × Nat × Nat) :=
  let n0 := min n (4096 - a % 4096)
  match s.targetFind part core slice a n0 Acc.store with
  | (s1, .error c) => (s1, .error c)
  | (s1, .ok k0) =>
    if n0 = n then (s1, .ok (k0, n0, k0 + n0)) else
    match s1.targetFind part core slice (a + n0) (n - n0) Acc.store with
    | (s2, .error c) => (s2, .error c)
    | (s2, .ok k1) => (s2, .ok (k0, n0, k1))

/-- Bytes of an element written where `targetWrite` found them, with the ones that are uncorrectable data (22 R351). -/
def State.targetPut (s : State) (p : Nat × Nat × Nat) (bs : List Byte) (bad : List Nat) : State :=
  let s1 := (s.write p.1 (bs.take p.2.1)).write p.2.2 (bs.drop p.2.1)
  bad.foldl (fun x i => x.poison (if i < p.2.1 then p.1 + i else p.2.2 + (i - p.2.1)) 1) s1

/-- A counter's step by a message: one more, and one MSG unit less when `duty` (09 R195). -/
def State.messageStep (s : State) (agent key : Nat) : State := s.addCount agent key 1 0

/-- The counter of a remote message checked at its target: its key, or the status it draws (09 R195, 13 R265). -/
def State.targetCounter (s : State) (part core slice : Nat) (ref : Word) : State × Except Nat Nat :=
  let r := refOf ref
  let agent := (s.part part).supervisor
  if flagOf r 32 && flagOf r 31 then (s.logAccess part r.toNat slice core Cause.accv.code 6, .error 3) else
  match s.tryObject agent part slice .die r { Acc.object with kind := 6, agent := some core } with
  | (s1, .error c) => (s1, .error (statusOfCause c))
  | (s1, .ok k) =>
    if s1.poisoned k 32 then (s1, .error 4) else
    let o := s1.obj k
    if o.kind != Obj.ctr then (s1, .error 7) else if o.dutyCtr then (s1, .error 2) else (s1, .ok k)

/-- The bytes of an element that stores. -/
def storedBytes (e : Element) : List Byte := if e.major = 20 then leBytes e.size e.payload.toNat else e.bytes

/-- Bytes written with some of them marked as uncorrectable data, which takes their doublewords (22 R351). -/
def State.writeMarked (s : State) (agent key : Nat) (bs : List Byte) (bad : List Nat) : State :=
  bad.foldl (fun x i => x.poison (key + i) 1) (s.writeFor agent key bs)

/-- An element applied for a partition: its status (13 R262, R265). A whole aligned 8-byte RST clears poison. -/
def State.applyElement (s : State) (part : Nat) (e : Element) : State × Nat :=
  if Config.lacksRemote e.major e.f7 then (s, 5)
  else if e.major = 21 then
    match s.targetFind part e.core e.slice e.addr e.size Acc.amo with
    | (s1, .error c) => (s1, c)
    | (s1, .ok k) =>
      if s1.poisoned k e.size then (s1, 4) else
      let old := s1.mem.readNat k e.size
      let op := e.f7 / 8
      let s2 := if amoWrites op (8 * e.size) old e.compare.toNat then
        s1.writeNat k e.size (amoNew op (8 * e.size) old e.payload.toNat e.compare.toNat) else s1
      (s2.bankArrive k e.size, 0)
  else if e.major = 39 then
    -- a message: its bytes, then its counter; a failing element has no effect
    let found := if e.bytes.isEmpty then (s, .ok (0, 0, 0)) else s.targetWrite part e.core e.slice e.addr e.bytes.length
    match found with
    | (s1, .error c) => (s1, c)
    | (s1, .ok k) =>
      match s1.targetCounter part e.core e.slice e.counter with
      | (s2, .error c) => (s2, c)
      | (s2, .ok kc) =>
        let s3 := if e.bytes.isEmpty then s2 else s2.targetPut k e.bytes e.bad
        (s3.messageStep e.core kc, 0)
  else
    match s.targetWrite part e.core e.slice e.addr (max 1 (storedBytes e).length) with
    | (s1, .error c) => (s1, c)
    | (s1, .ok k) =>
      let s2 := s1.targetPut k (storedBytes e) e.bad
      (if e.major = 20 then s2.cleanStore k.1 e.size else s2, 0)

/-- Elements applied in order: their statuses. -/
def State.applyAll (part : Nat) : List Element → State → State × List Nat
  | [], s => (s, [])
  | e :: es, s =>
    let (s1, c) := s.applyElement part e
    let (s2, cs) := State.applyAll part es s1
    (s2, c :: cs)

/-! Full/empty requests (06 R113 to R116). -/

/-- Whether a request's condition holds. -/
def feMet (cond : Nat) (full : Bool) : Bool := cond == 0 || (cond == 1 && full) || (cond == 2 && !full)

/-- The step of a request whose condition holds: the value read and the old bit. A local request's core keeps no copy of the
words, and the supervisor's store, by a peer slot of this module too, may be a disposition (06 R113, R117, 13 R253, 20 R335). -/
def State.feStep (s : State) (remote : Bool) (r : FeReq) (key : Nat) : State × Word × Bool :=
  let agent := if remote then engineAgent else r.core
  let full := s.full.contains (key / 8 * 8)
  let v := word (s.mem.readNat key r.size)
  let s0 := if remote then s else s.atHome r.core key r.size
  let s1 := if r.store then (s0.writeFor agent key (leBytes r.size r.data.toNat)).cleanStore key r.size else s0
  let s2 := if r.store && (!remote || r.src == s.fabric) then s1.noteDisposition r.core key r.size else s1
  let s3 := if r.after = 1 then s2.setFull agent key true else if r.after = 2 then s2.setFull agent key false else s2
  (s3.bankArrive key r.size, v, full)

/-- A thread's LDX or STX completed with its outcome: `k7`, and `d` of an LDX that was performed; the instruction retires. -/
def State.feFinish (s : State) (core : Nat) (load : Bool) (v : Option Word) (k7 : Word) : State :=
  s.eventFor core fun s =>
    match s.t.mode with
    | .waiting .fe => (s.feWrite load v k7).afterTaken
    | _ => s

/-- A thread's LDX whose condition holds meets uncorrectable data: POISON, with nothing done (06 R101 check 5). -/
def State.fePoison (s : State) (r : FeReq) : State :=
  s.eventFor r.core fun s =>
    match s.t.mode with
    | .waiting .fe => { s with t := { s.t with mode := .running } }.takeTrap .poison (word r.addr) .before
    | _ => s

/-- A message to a module, by loopback or by the fabric. -/
def State.answer (s : State) (r : FeReq) (a : FeAnswer) : State :=
  if r.src = s.fabric then s.push .remoteFeResponse { x := r.core, fe := some r, answer := a }
  else { s with outbox := s.outbox ++ [.answer r.src r a] }

/-- A request's outcome delivered: to the thread, or as an answer. -/
def State.feDeliver (s : State) (remote : Bool) (r : FeReq) (v : Word) (full : Bool) : State :=
  if remote then s.answer r (.done v full) else s.feFinish r.core (!r.store) (some v) (feFlag r.cond full)

/-- A request whose condition holds performed and its outcome delivered; an LDX of uncorrectable data has no effect but POISON
(06 R101, R113). -/
def State.fePerform (s : State) (remote : Bool) (r : FeReq) (key : Nat) : State :=
  if !r.store && s.poisoned key r.size then (if remote then s.answer r (.rejected 4) else s.fePoison r) else
  let (s1, v, full) := s.feStep remote r key
  s1.feDeliver remote r v full

/-- Whether a parked request is one of another core to a pad of a member in a transfer phase (11 R231). -/
def State.parkedHeld (s : State) (p : Parked) : Bool := s.padHeld (if p.remote then engineAgent else p.req.core) p.key

/-- The entries parked on a word examined in arrival order, each completed whose condition holds now (06 R114). One that a
transfer phase holds is tried again as a bounced one is (11 R231). -/
def State.feScan (dword : Nat) : List Parked → State → State × Bool
  | [], s => (s, false)
  | p :: ps, s =>
    if p.bounced || p.key / 8 * 8 != dword || !feMet p.req.cond (s.full.contains dword) || !s.parked.contains p then
      State.feScan dword ps s
    else if s.parkedHeld p then
      State.feScan dword ps ({ s with parked := s.parked.map fun q => if q = p then { p with bounced := true } else q }.push .feResend
        { x := s.time, y := p.key, z := p.arrival, fe := some p.req })
    else
    let s1 := { s with parked := s.parked.erase p }.fePerform p.remote p.req p.key
    let changed := s1.full.contains dword != s.full.contains dword
    let (s2, more) := State.feScan dword ps s1
    (s2, changed || more)

/-- The scans that a changed bit starts, until none changes it. -/
def State.feWake (dword : Nat) : Nat → State → State
  | 0, s => s
  | n + 1, s =>
    match State.feScan dword s.parked s with
    | (s1, true) => State.feWake dword n s1
    | (s1, false) => s1

/-- A request performed if its condition holds, with the wake-ups that follow; `none` where it does not. -/
def State.feTry (s : State) (remote : Bool) (r : FeReq) (key : Nat) : Option State :=
  let d := key / 8 * 8
  if !feMet r.cond (s.full.contains d) then none else
  let s1 := s.fePerform remote r key
  some (if s1.full.contains d != s.full.contains d then State.feWake d (s1.parked.length + 1) s1 else s1)

/-- The retry list of an execution point: a pad's bank unit, or the Cobbler of a stack. -/
def retryPoint (key : Nat) : Nat := if isPad key then key / 2 ^ 17 else stackOf key
def retryRoom (key : Nat) : Nat := if isPad key then 16 else 2048

def State.retryFull (s : State) (key : Nat) : Bool :=
  retryRoom key ≤ (s.parked.filter fun p => !p.bounced && isPad p.key == isPad key && retryPoint p.key == retryPoint key).length

/-- A request parked, or bounced by a full list; `first` is the time of its first arrival. A timeout is due at its limit. -/
def State.fePark (s : State) (remote : Bool) (r : FeReq) (key first : Nat) (again : Bool) : State :=
  let full := s.retryFull key
  let s1 := { s with parked := s.parked ++ [Parked.mk r key first remote full] }
  let s2 := if full then s1.push .feResend { x := s.time, y := key, z := first, fe := some r } else s1
  if again then s2 else s2.push .feTimeout { y := key, z := first, fe := some r }

end Sys2Proof.Machine
end

