-- ==== Sys2Proof/Machine/Fabric.lean ====
section
/-! DEFINITION. RST, RAMO and FAB: majors 20 to 22, and the events of sachets, elements and fabric links (13 R253 to R272,
20 R333, 22 R366). -/

namespace Sys2Proof.Machine

open Host (Outcome)

/-- An instruction's elements created, one for each slot, and accepted into their sachets (13 R261). -/
def State.create (s : State) (e : Element) (slots : List Nat) : State :=
  let core := s.t.coreid
  slots.foldl (fun x n =>
    (x.modActivity core e.slice fun c => { c with outstanding := c.outstanding + 1 }).accept (dieOf core) (x.peerDest core n)
      { e with slot := n }) (s.unrepeatable core)

/-- Checks 3 to 6 of 13 R260 on an address, and the elements: `multi` is the mask of a multicast. -/
def remoteIssue (i : Instr) (a : Word) (n : Nat) (multi : Option Word) (bit : Nat) (e : Element) : M Unit := do
  require (fieldOf a 0 57 % n == 0) .align a
  match multi with
  | none => require (classOf a == .remote) .accv a
  | some _ => require (fieldOf a 57 7 == 0) .accv a
  let s ← get
  require (!s.auditable s.t.coreid) .accv a
  let slots := match multi with
    | none => [fieldOf a 58 6]
    | some m => setBits 64 m.toNat
  if !slots.all (s.peerOk s.t.coreid) then refusePeer a (multi.getD a)
  notInTransfer i
  watch bit a n
  modS fun s => s.create e slots
  retire i

/-- The fields of an element that the current context issues. -/
def newElement (s : State) (major f7 : Nat) (a : Word) (n : Nat) (pay cmp : Word) (multi : Bool) : Element :=
  { major := major, f7 := f7, addr := fieldOf a 0 57, size := n, payload := word (pay.toNat % 2 ^ (8 * n))
    compare := word (cmp.toNat % 2 ^ (8 * n)), bytes := [], counter := 0, slice := s.t.sliceid.toNat, core := s.t.coreid, slot := 0
    parts := 1, multicast := multi, accepted := s.time, bad := [] }

/-- RST: remote-store elements, unicast or multicast; an empty mask completes at once (13 R260, R261). -/
def execRst (m : Bool) (sz : BitVec 2) (b a : Src) (d : Code) (s : State) : Outcome State Fault Refusal :=
  runM (do
    let i := Instr.rst m sz b a d
    gate i
    let va ← readSrc a
    let x ← readSrc b
    let mask ← if m then readDest d else pure 0
    let n := 2 ^ sz.toNat
    if m && mask = 0 then retire i
    else
      let s ← get
      remoteIssue i va n (if m then some mask else none) 2
        (newElement s 20 (sz.toNat + if m then 4 else 0) va n x 0 m)) s

/-- A RAMO member; `op` is f7[6:3]. -/
def ramo (i : Instr) (op : Nat) (wide : Bool) (b a : Src) (cmp : M Word) : M Unit := do
  gate i
  let va ← readSrc a
  let x ← readSrc b
  let c ← cmp
  let n := if wide then 8 else 4
  let s ← get
  remoteIssue i va n none 3 (newElement s 21 (8 * op + if wide then 4 else 0) va n x c false)

/-- RAMO ADD (13 R261). -/
def execRamoAdd (w : Bool) (b a : Src) (s : State) : Outcome State Fault Refusal :=
  runM (ramo (.ramoAdd w b a) 0 w b a (pure 0)) s
/-- RAMO AND (13 R261). -/
def execRamoAnd (w : Bool) (b a : Src) (s : State) : Outcome State Fault Refusal :=
  runM (ramo (.ramoAnd w b a) 1 w b a (pure 0)) s
/-- RAMO OR (13 R261). -/
def execRamoOr (w : Bool) (b a : Src) (s : State) : Outcome State Fault Refusal :=
  runM (ramo (.ramoOr w b a) 2 w b a (pure 0)) s
/-- RAMO XOR (13 R261). -/
def execRamoXor (w : Bool) (b a : Src) (s : State) : Outcome State Fault Refusal :=
  runM (ramo (.ramoXor w b a) 3 w b a (pure 0)) s
/-- RAMO MIN (13 R261). -/
def execRamoMin (w : Bool) (b a : Src) (s : State) : Outcome State Fault Refusal :=
  runM (ramo (.ramoMin w b a) 4 w b a (pure 0)) s
/-- RAMO MAX (13 R261). -/
def execRamoMax (w : Bool) (b a : Src) (s : State) : Outcome State Fault Refusal :=
  runM (ramo (.ramoMax w b a) 5 w b a (pure 0)) s
/-- RAMO MINN (13 R261). -/
def execRamoMinn (w : Bool) (b a : Src) (s : State) : Outcome State Fault Refusal :=
  runM (ramo (.ramoMinn w b a) 6 w b a (pure 0)) s
/-- RAMO MAXN (13 R261). -/
def execRamoMaxn (w : Bool) (b a : Src) (s : State) : Outcome State Fault Refusal :=
  runM (ramo (.ramoMaxn w b a) 7 w b a (pure 0)) s
/-- RAMO SWAP (13 R261). -/
def execRamoSwap (w : Bool) (b a : Src) (s : State) : Outcome State Fault Refusal :=
  runM (ramo (.ramoSwap w b a) 8 w b a (pure 0)) s
/-- RAMO CAS (13 R261). -/
def execRamoCas (w : Bool) (b a : Src) (d : Code) (s : State) : Outcome State Fault Refusal :=
  runM (ramo (.ramoCas w b a d) 9 w b a (readDest d)) s
/-- RAMO FADD (13 R261). -/
def execRamoFadd (b a : Src) (s : State) : Outcome State Fault Refusal :=
  runM (ramo (.ramoFadd b a) 10 false b a (pure 0)) s
/-- RAMO BFADD2 (13 R261). -/
def execRamoBfadd2 (b a : Src) (s : State) : Outcome State Fault Refusal :=
  runM (ramo (.ramoBfadd2 b a) 11 false b a (pure 0)) s

/-! FAB (13 R268, R269). -/

/-- SFLUSH (13 R268). -/
def execSflush (a : Src) (s : State) : Outcome State Fault Refusal :=
  runM (do
    let i := Instr.sflush a
    gate i
    let x ← readSrc a
    require (x.toNat < 64) .illop (imageOf i)
    let s ← get
    require (flagOf s.t.peers[x.toNat]! 63) .accv x
    modS fun s => s.flushDest (dieOf s.t.coreid) (s.peerDest s.t.coreid x.toNat)
    retire i) s

/-- SFLUSHA (13 R268). -/
def execSflusha (s : State) : Outcome State Fault Refusal :=
  runM (do
    gate .sflusha
    modS fun s => s.flushFor s.t.coreid s.t.sliceid.toNat
    retire .sflusha) s

/-- The context that keeps the current activity's sticky word and count (13 R266). -/
def State.activity (s : State) : Ctx := s.ctx (s.leaderOf s.t.coreid)

/-- FENCEF: SFLUSHA, the wait for every status, the sticky word; its return is an acquire (13 R269). -/
def execFencef (d : Code) (s : State) : Outcome State Fault Refusal :=
  runM (do
    let i := Instr.fencef d
    gate i
    notInTransfer i
    modS fun s => s.flushFor s.t.coreid s.t.sliceid.toNat
    let s ← get
    if s.activity.outstanding != 0 then waitOn .fencef
    acquire
    writeD d s.activity.sticky
    retire i) s

/-- FERR: the sticky word read and cleared in one step (13 R268). -/
def execFerr (d : Code) (s : State) : Outcome State Fault Refusal :=
  runM (do
    let i := Instr.ferr d
    gate i
    let v ← readS fun s => s.activity.sticky
    modS fun s => s.modCtx (s.leaderOf s.t.coreid) fun c => { c with sticky := 0 }
    writeD d v
    retire i) s

/-! Events of sachets and elements. -/

/-- Sachet `y` of die `x`, whose oldest element was accepted at time `z`, departs when that element reaches `sachage` ns
(13 R256). -/
def execSachetAgeDeparture (s : State) : Outcome State Fault Refusal :=
  runM (do
    let s ← get
    match s.sachets.find? (fun x => x.die == s.arg.x && x.index == s.arg.y) with
    | none => pure ()
    | some x =>
      match x.elements with
      | [] => pure ()
      | e :: _ =>
        if e.accepted != s.arg.z then pure ()
        else if s.time < e.accepted + (s.part (s.partNo e.core)).sachage.toNat then notYet .sachetAgeDeparture
        else modS fun s => s.depart x) s

/-- Whether an element's place at its target is a pad of a member in a transfer phase (11 R231). -/
def State.elementHeld (s : State) (e : Element) : Bool :=
  let a := word e.addr
  (classOf a == .pad && s.padHeld engineAgent (padBase + e.addr % 2 ^ 31 / 2 ^ 17 * 2 ^ 17)) ||
    (e.major == 39 && flagOf (refOf e.counter) 32 &&
      s.padHeld engineAgent (padBase + fieldOf (refOf e.counter) 0 31 / 2 ^ 17 * 2 ^ 17))

/-- The acknowledgement of an element at its source: a status, or for a bulk write the transfer's (13 R265, R272). -/
def State.acknowledge (s : State) (dest : Nat) (pk : Packet) (e : Element) (c : Nat) : State :=
  if e.major = 35 then s.push .burstAck { x := e.core, y := e.slot, nums := [e.slice], v := e.counter, z := c }
  else s.push .elementStatus { x := c, y := dest, packet := some { pk with elements := [e] } }

/-- Whether an agenda entry is a packet or a full/empty request from one module to one partition. -/
def Agenda.isFrom (src part : Nat) : Agenda → Bool
  | .event .elementApply a => match a.packet with | some pk => pk.src == src && pk.part == part | none => false
  | .event .remoteFeRequest a => match a.fe with | some r => r.src == src && r.part == part | none => false
  | _ => false

/-- An arrival that has to wait goes to the end of the agenda, with the later arrivals of its source behind it in their order
(12 R252, 13 R264), after a turn of the current context. -/
def holdSource {α : Type} (i : Instr) (src part : Nat) : M α := fun s =>
  let s1 := s.pushTurn s.t.coreid
  .error (.stay { s1 with agenda := s1.agenda.filter (!·.isFrom src part) ++ .event i s.arg :: s1.agenda.filter (·.isFrom src part) })

/-- A store or an atomic that the supervisor has sent to its own report ring is noted (20 R335). -/
def State.noteElement (s : State) (e : Element) (status : Nat) : State :=
  if status = 0 && classOf (word e.addr) == .pad then
    s.noteDisposition e.core (padBase + e.addr % 2 ^ 31) (max e.size e.bytes.length)
  else s

/-- `packet` arrives and its elements are applied in order; their statuses return (13 R262, R265). -/
def execElementApply (s : State) : Outcome State Fault Refusal :=
  runM (do
    let s ← get
    match s.arg.packet with
    | none => pure ()
    | some pk =>
      if pk.elements.any s.elementHeld then holdSource .elementApply pk.src pk.part
      modS fun s =>
        let (s1, cs) := State.applyAll pk.part pk.elements s
        if pk.src = s.fabric then
          (pk.elements.zip cs).foldl (fun x (e, c) => (x.noteElement e c).acknowledge (pk.dest + pk.part * 2 ^ 16) pk e c) s1
        else { s1 with outbox := s1.outbox ++ [.status pk.src pk cs] }) s

/-- An element in flight to a destination leaves the list. -/
def State.landed (s : State) (e : Element) : State :=
  { s with flying := match s.flying.findIdx? (fun f => f.element == e) with
      | some i => s.flying.eraseIdx i
      | none => s.flying }

/-- A packet without some elements, none where nothing is left of it. -/
def withoutElements (es : List Element) (pk : Packet) : Option Packet :=
  let rest := pk.elements.filter (!es.contains ·)
  if rest.isEmpty then none else some { pk with elements := rest }

/-- Elements that have not been applied are not applied any more: they leave this module's packets. -/
def State.unsend (s : State) (es : List Element) : State :=
  { s with
    outbox := s.outbox.filterMap fun m => match m with | .packet pk => (withoutElements es pk).map Message.packet | x => some x
    agenda := s.agenda.filterMap fun x => match x with
      | .event .elementApply a =>
        match a.packet with
        | some pk => if pk.src = s.fabric then (withoutElements es pk).map fun q => .event .elementApply { a with packet := some q } else some x
        | none => some x
      | _ => some x }

/-- Elements of `packet` that departed at time `x` and have no status 100 µs later draw RESET, and have no effect any more
(13 R265). -/
def execElementAckTimeout (s : State) : Outcome State Fault Refusal :=
  runM (do
    let s ← get
    match s.arg.packet with
    | none => pure ()
    | some pk =>
      let late := s.flying.filter fun f => f.departed == s.arg.x && pk.elements.contains f.element
      if late.isEmpty then pure ()
      else if s.time < s.arg.x + 100000 then notYet .elementAckTimeout
      else modS fun s => late.foldl (fun x f => (x.landed f.element).statusOf f.element f.dest 6) (s.unsend (late.map (·.element)))) s

/-- The status `x` of `packet`'s elements, sent to destination `y`, returns (13 R266). -/
def execElementStatus (s : State) : Outcome State Fault Refusal :=
  runM (event fun s =>
    match s.arg.packet with
    | none => s
    | some pk => pk.elements.foldl (fun x e =>
        if x.flying.any (·.element == e) then (x.landed e).statusOf e s.arg.y s.arg.x else x) s) s

/-- A failing status has reached the current activity and its notices are enabled: REMOTE at the next boundary, with the
sticky word (20 R333). A wait is withdrawn. -/
def execRemoteNotice (s : State) : Outcome State Fault Refusal :=
  runM (do
    let s ← get
    let t := s.t
    if t.remoteDue && flagOf t.tstat 2 && !flagOf t.tstat 0 && (s.transferOf t.coreid).isNone then
      modS fun s => s.withdraw s.t.coreid
      modT fun t => { t with remoteDue := false }
      trapAs .remote s.activity.sticky .between) s

/-! Links and interface resets (13 R271, 22 R366, 24 R379). -/

/-- The partitions that hold a cluster of a die. -/
def State.partsOn (s : State) (die : Nat) : List Nat :=
  (s.parts.filter fun p => p.2.clusters.any fun c => c / 256 == die).map (·.1)

/-- Whether a port's link has a neighbour: the mesh of the short dimensions ends at the chassis's edges (00 R6, 24 R379). -/
def hasNeighbour (fabric port : Nat) : Bool :=
  let a := fabric / 2 ^ 10 % 4
  let b := fabric / 2 ^ 12 % 4
  match port with
  | 0 => a < 3
  | 1 => 0 < a
  | 2 => b < 3
  | 3 => 0 < b
  | _ => port < 8

/-- The payload in force of a record type: that of the highest version (24 R383). -/
def Board.inForce (b : Board) (t : Nat) : Option (List Byte) :=
  ((b.records.filter (·.1 == t)).foldl (fun (best : Option (Nat × List Byte)) (r : Nat × Nat × List Byte) =>
    match best with
    | some (v, p) => if v < r.2.1 then some r.2 else some (v, p)
    | none => some r.2) none).map (·.2)

/-- The port along one dimension of a torus of some extent, the shorter way round, the positive one where both are equal. -/
def wayPort (extent own dest plus minus : Nat) : Nat := if 2 * ((dest + extent - own) % extent) ≤ extent then plus else minus

/-- The module's neighbour behind a port of its plane. -/
def neighbourAt (ex ey own port : Nat) : Nat :=
  let x := own % 32
  let y := own / 32 % 32
  let nx := if port = 4 then (x + 1) % ex else if port = 5 then (x + ex - 1) % ex else x
  let ny := if port = 6 then (y + 1) % ey else if port = 7 then (y + ey - 1) % ey else y
  own / 1024 * 1024 + ny * 32 + nx

/-- The port that a packet to another module leaves on: first along X, then along Y, past a failed module through the
neighbouring plane (24 R379, R380); a spare of the own chassis is reached through A, then B. Without a fabric map the torus has
its greatest extents (log entry 73). -/
def State.portTo (s : State) (dest : Nat) : Nat :=
  let map := (s.board.inForce 2).getD []
  let num := fun o n => leNat ((map.drop o).take n)
  let ex := if map.isEmpty then 32 else num 8 1
  let ey := if map.isEmpty then 32 else num 9 1
  let failed := (List.range (num 4 2)).map fun i => num (16 + 4 * i) 4
  let own := s.fabric
  let a := own / 1024 % 4
  let plane := if dest % 32 != own % 32 then some (wayPort ex (own % 32) (dest % 32) 4 5)
    else if dest / 32 % 32 != own / 32 % 32 then some (wayPort ey (own / 32 % 32) (dest / 32 % 32) 6 7) else none
  match plane with
  | some k => if failed.contains (neighbourAt ex ey own k) then (if a < 3 then 0 else 1) else k
  | none =>
    if dest / 1024 % 4 != a then (if a < dest / 1024 % 4 then 0 else 1)
    else if own / 4096 % 4 < dest / 4096 % 4 then 2 else 3

/-- A link's state set; one without a neighbour stays idle. -/
def State.setLink (s : State) (port : Nat) (v : BitVec 8) : State :=
  if hasNeighbour s.fabric port then { s with links := s.links.set! port v } else s

/-- The packets of this module that have left and are not applied yet, as far as it knows. -/
def State.packets (s : State) : List Packet :=
  s.outbox.filterMap (fun m => match m with | .packet pk => some pk | _ => none) ++
    s.agenda.filterMap fun x => match x with | .event .elementApply a => a.packet.filter (·.src == s.fabric) | _ => none

/-- Whether a die's interface injects what a core of die `source` sends to a destination: the die that hosts the port it leaves on;
a packet of loopback leaves on none, and its own die's interface has it (13 R253, R255, 24 R379). -/
def State.injects (s : State) (die source dest : Nat) : Bool :=
  if dest % 2 ^ 14 = s.fabric then source == die else s.portTo (dest % 2 ^ 14) / 2 == die

/-- A die's fabric interface reset: the elements in its sachets, and those of the packets that it is injecting, draw RESET and have
no effect; its links train again, and each partition on the die logs it (13 R271). A packet is being injected in the nanosecond
of its departure (log entry 73); one of loopback that has been applied is not. -/
def State.resetInterface (s : State) (die mask : Nat) : State :=
  let waiting := s.packets.flatMap (·.elements)
  let partly := s.flying.filter fun f => f.departed == s.time && s.injects die f.die f.dest &&
    (f.dest % 2 ^ 14 != s.fabric || waiting.contains f.element)
  let es := partly.map (·.element)
  let bulks := s.packets.flatMap fun pk => pk.elements.filter fun e =>
    e.major == 35 && e.accepted == s.time && s.injects die (dieOf e.core) pk.dest
  let gone := s.sachets.filter (·.die == die)
  let lost := (partly.map fun f => (f.element, f.dest)) ++ gone.flatMap fun x => x.elements.map fun e => (e, x.dest)
  let s1 := { s with
    sachets := s.sachets.filter (·.die != die), flying := s.flying.filter fun f => !partly.contains f }.unsend (es ++ bulks)
  let s2 := lost.foldl (fun x (e, d) => x.statusOf e d 6) s1
  let s3 := bulks.foldl (fun x e => x.push .burstAck { x := e.core, y := e.slot, nums := [e.slice], v := e.counter, z := 6 }) s2
  (s.partsOn die).foldl (fun x p =>
    x.logError p { location := die * 2 ^ 29, kind := 16, detailA := mask, count := lost.length + bulks.length })
    ((s3.setLink (2 * die) 1).setLink (2 * die + 1) 1)

/-- The fabric interface of die `x` is reset; `y` is the mask of the links concerned (13 R271). -/
def execFabricInterfaceReset (s : State) : Outcome State Fault Refusal :=
  runM (event fun s => if s.arg.x < 4 then s.resetInterface s.arg.x s.arg.y else s) s

/-- Link `x`, which has a neighbour, fails and begins to train (22 R366). -/
def execLinkFailure (s : State) : Outcome State Fault Refusal :=
  runM (event fun s =>
    if !hasNeighbour s.fabric s.arg.x then s else
    (s.setLink s.arg.x 1).push .linkFailureReset { x := s.arg.x, z := s.time }) s

/-- Link `x`, which failed at time `z`, has not come back within 1 ms: its die's interface is reset (22 R366). -/
def execLinkFailureReset (s : State) : Outcome State Fault Refusal :=
  runM (do
    let s ← get
    if !hasNeighbour s.fabric s.arg.x || s.links[s.arg.x]! = 2 then pure ()
    else if s.time < s.arg.z + 1000000 then notYet .linkFailureReset
    else modS fun s => s.resetInterface (s.arg.x / 2) (2 ^ s.arg.x)) s

/-- Link `x` has trained: it is up, and its partner's send allowance is whole (13 R271). -/
def execLinkRetrainComplete (s : State) : Outcome State Fault Refusal :=
  runM (event fun s => s.setLink s.arg.x 2) s

end Sys2Proof.Machine
end

