-- ==== Sys2Proof/Machine/Tiles.lean ====
section
/-! DEFINITION. Tiles, sidecars, format regions, accumulator windows, and what each job of the matrix engine computes
(03 R39 to R42, 08 R143 to R149, R155 to R159, R163, R164). -/

namespace Sys2Proof.Machine

/-! Tile control (08 R143). -/

def cfgRows (c : BitVec 32) : Nat := bitsOf c.toNat 0 8
def cfgLen (c : BitVec 32) : Nat := bitsOf c.toNat 8 8
def cfgType (c : BitVec 32) : Nat := bitsOf c.toNat 16 4
/-- Elements in a group of an n4 tile. -/
def cfgGroup (c : BitVec 32) : Nat := 32 * 2 ^ bitsOf c.toNat 21 2
def cfgZp (c : BitVec 32) : Bool := bitOf c.toNat 23
/-- Bytes in a tile's row. -/
def cfgRowSize (c : BitVec 32) : Nat := cfgLen c * typeBits (cfgType c) / 8

/-- The classes of 08 R155. -/
def narrowT (t : Nat) : Bool := [0, 1, 11, 12].contains t
def wideT (t : Nat) : Bool := t == 8 || t == 9

/-! Tile bytes. -/

def tileKey (t o : Nat) : Nat := t * 32768 + o
def sideKey (t row : Nat) : Nat := t * 32768 + 16384 + 8 * row

/-- A sidecar row in its neutral state (08 R145). -/
def neutralRow (ty : Nat) : List Byte := if ty = 13 then leBytes 8 0x883F803F80 else List.replicate 8 127

/-- The pattern of a tile's element. -/
def Cluster.element (c : Cluster) (t : Nat) (cfg : BitVec 32) (row k : Nat) : Nat :=
  let base := row * cfgRowSize cfg
  if cfgType cfg = 13 then bitsOf (c.tiles.read (tileKey t (base + k / 2))).toNat (4 * (k % 2)) 4
  else
    let w := typeBits (cfgType cfg) / 8
    c.tiles.readNat (tileKey t (base + k * w)) w

/-- A sidecar byte. -/
def Cluster.side (c : Cluster) (t row g : Nat) : Nat := (c.tiles.read (sideKey t row + g)).toNat

/-- The value of an n4 weight (03 R40). -/
def weightVal (w z sigma : Nat) : FVal :=
  let (p, _) := (ofScaled ((w : Int) - z) 0 false).mul (fmtBf16.decode sigma)
  fmtBf16.decode (fmtBf16.encode rne p).1

/-- The value of an element of a plain operand, under the block scale of MMAS where a block size is given (08 R156). -/
def Cluster.operand (c : Cluster) (t : Nat) (cfg : BitVec 32) (block : Option Nat) (row k : Nat) : FVal :=
  let v := elemVal (cfgType cfg) (c.element t cfg row k)
  match block with
  | some b => scaled (c.side t row (k / b * b / 16)) v
  | none => v

/-- The value of an n4 element of MMAQ's B (08 R156). -/
def Cluster.weight (c : Cluster) (t : Nat) (cfg : BitVec 32) (row k : Nat) : FVal :=
  let h := k / cfgGroup cfg
  let sigma := c.side t row (2 * h) + 256 * c.side t row (2 * h + 1)
  let z := if cfgZp cfg then bitsOf (c.side t row 4) (4 * h) 4 else 8
  weightVal (c.element t cfg row k) z sigma

/-! Windows (08 R147, R148). -/

def windowFits (row0 col0 m n : Nat) : Bool := row0 + m ≤ 1024 && col0 + n ≤ 128

def descRows (v : Word) : Nat := fieldOf v 32 11
def descCols (v : Word) : Nat := fieldOf v 48 8
def descType (v : Word) : Nat := fieldOf v 60 4
def descRow0 (v : Word) : Nat := fieldOf v 0 10
def descCol0 (v : Word) : Nat := fieldOf v 16 7

/-- Whether a descriptor meets 08 R148. -/
def descLawful (v : Word) (plain : Bool) : Bool :=
  fieldOf v 10 6 == 0 && fieldOf v 23 9 == 0 && fieldOf v 43 5 == 0 && fieldOf v 56 4 == 0 && (!plain || descType v == 0) &&
    1 ≤ descRows v && descRows v ≤ 1024 && 1 ≤ descCols v && descCols v ≤ 128 &&
    windowFits (descRow0 v) (descCol0 v) (descRows v) (descCols v)

/-! Cells. -/

def cellKey (row col : Nat) : Nat := row * 128 + col

def Cluster.cell (c : Cluster) (row col : Nat) : BitVec 32 := c.acc.getD (cellKey row col) 0

/-- A cell written, with its poison mark set or cleared. -/
def Cluster.setCell (c : Cluster) (row col : Nat) (x : BitVec 32) (bad : Bool) : Cluster :=
  let k := cellKey row col
  { c with acc := c.acc.putD k 0 x, badCells := if bad then setAdd c.badCells k else setDrop c.badCells k }

/-- A cell's mark set. -/
def Cluster.markCell (c : Cluster) (row col : Nat) : Cluster := { c with badCells := setAdd c.badCells (cellKey row col) }

/-- Places of a window, row by row. -/
def windowCells (m n : Nat) : List (Nat × Nat) := (List.range m).flatMap fun i => (List.range n).map fun j => (i, j)

/-! The multiply (03 R41, R42, 08 R155, R156, R163). -/

/-- Status bits (08 R162). -/
def stCorr : Nat := 1
def stUncorr : Nat := 2
def stMfault : Nat := 4
def stFmt : Nat := 8
def stPsn : Nat := 16
def stSat : Nat := 32
def stMnv : Nat := 64
def stMof : Nat := 128

/-- A multiply job's shape and operands. -/
structure Mul where
  m : Nat
  n : Nat
  k : Nat
  /-- G of 03 R41 -/
  g : Nat
  z : Bool
  check : Bool
  row0 : Nat
  col0 : Nat
  ta : Nat
  tb : Nat
  fa : Nat → Nat → FVal
  fb : Nat → Nat → FVal

def FVal.finite : FVal → Bool
  | .num _ _ _ => true
  | _ => false

/-- The places of a group along K. -/
def Mul.span (u : Mul) (g : Nat) : List Nat := (List.range (min u.k ((g + 1) * u.g) - g * u.g)).map (g * u.g + ·)

def Mul.groups (u : Mul) : Nat := (u.k + u.g - 1) / u.g

/-- The exact sum of a group in a cell. -/
def Mul.sum (u : Mul) (g i j : Nat) : FVal :=
  (u.span g).foldl (fun s k => (s.add rne ((u.fa i k).mul (u.fb j k)).1).1) (.num false 0 0)

/-- Whether a group has finite operands only: then its residues are checked (08 R163). -/
def Mul.checked (u : Mul) (g : Nat) : Bool :=
  u.check && (u.span g).all fun k => (List.range u.m).all (fun i => (u.fa i k).finite) && (List.range u.n).all fun j => (u.fb j k).finite

/-- The exponent of a value's last place. -/
def FVal.unit : FVal → Int
  | .num _ _ e => e
  | _ => 0

/-- The exponent of the power of two in which a group's sums are integers. -/
def Mul.unit (u : Mul) (g : Nat) : Int :=
  let es := (u.span g).flatMap fun k =>
    ((List.range u.m).map fun i => (u.fa i k).unit) ++ (List.range u.n).map fun j => (u.fb j k).unit
  2 * es.foldl min 0

/-- The modulus of the residue check. -/
def residueP : Int := 2 ^ 61 - 1

/-- What the check of a group finds among the array's errors in it: the cell whose sum is corrected, whether the errors are
uncorrectable. The one cell where a row and a column mismatch is recomputed; it is corrected if its residues then agree. -/
def Mul.verdict (u : Mul) (g : Nat) (errs : List CellError) : Option (Nat × Nat) × Bool :=
  if !u.checked g then (none, false) else
  let here := errs.filter fun e => e.group == g && e.row < u.m && e.col < u.n
  let offIn := fun (es : List CellError) (p : CellError → Bool) => ((es.filter p).foldl (fun s e => s + e.delta) 0) % residueP != 0
  let off := offIn here
  let rows := (List.range u.m).filter fun i => off (·.row == i)
  let cols := (List.range u.n).filter fun j => off (·.col == j)
  match rows, cols with
  | [], [] => (none, false)
  | [i], [j] =>
    let rest := here.filter fun e => !(e.row == i && e.col == j)
    let spare := here.all fun e => !(e.row == i && e.col == j) || e.spareAgrees
    if spare && !offIn rest (·.row == i) && !offIn rest (·.col == j) then (some (i, j), false) else (none, true)
  | _, _ => (none, true)

/-- A group sum as the array delivers it: with its error, unless it is corrected. -/
def Mul.delivered (u : Mul) (errs : List CellError) (g i j : Nat) : FVal :=
  let s := u.sum g i j
  if (u.verdict g errs).1 = some (i, j) then s else
  let d := (errs.filter fun e => e.group == g && e.row == i && e.col == j).foldl (fun x e => x + e.delta) 0
  if d = 0 then s else (s.add rne (ofScaled d (u.unit g) false)).1

/-- A cell after the job (03 R41): its pattern, and its contribution to the status. -/
def Mul.cellResult (u : Mul) (errs : List CellError) (old : Nat) (i j : Nat) : Nat × Nat :=
  let start := if u.z then 0 else old
  let x := (List.range u.groups).foldl (fun acc g =>
    (fmtF32.encode rne ((fmtF32.decode acc).add rne (u.delivered errs g i j)).1).1) start
  let finiteIn := (fmtF32.decode start).finite && (List.range u.k).all fun k => (u.fa i k).finite && (u.fb j k).finite
  let st := match fmtF32.decode x with
    | .nan _ => stMnv
    | .inf _ => if finiteIn then stMof else 0
    | _ => 0
  (x, st)

/-- The whole multiply: the cluster after it and its status. -/
def Mul.run (u : Mul) (errs : List CellError) (c : Cluster) : Cluster × Nat :=
  let verdicts := (List.range u.groups).map fun g => u.verdict g errs
  let uncorr := verdicts.any (·.2)
  let corr := verdicts.findSome? (·.1)
  let psn := (List.range u.m).any (fun i => c.badRows.contains (u.ta * 256 + i)) ||
    (List.range u.n).any (fun j => c.badRows.contains (u.tb * 256 + j)) ||
    (!u.z && (windowCells u.m u.n).any fun (i, j) => c.badCells.contains (cellKey (u.row0 + i) (u.col0 + j)))
  let (c1, st) := (windowCells u.m u.n).foldl (fun (x : Cluster × Nat) (i, j) =>
    let (v, f) := u.cellResult errs (c.cell (u.row0 + i) (u.col0 + j)).toNat i j
    let keep := !u.z && c.badCells.contains (cellKey (u.row0 + i) (u.col0 + j))
    (x.1.setCell (u.row0 + i) (u.col0 + j) (BitVec.ofNat 32 v) (psn || uncorr || keep), x.2 ||| f)) (c, 0)
  let corrSt := match corr with
    | some (i, j) => stCorr + (u.row0 + i) * 2 ^ 32 + (u.col0 + j) * 2 ^ 48
    | none => 0
  (c1, st ||| corrSt ||| (if uncorr then stUncorr else 0) ||| (if psn then stPsn else 0))

/-- The multiply of an operation of 08 R155, none for another one. -/
def Cluster.mulOf (c : Cluster) (op : JobOp) (cfgA cfgB : BitVec 32) : Option Mul :=
  let wide := wideT (cfgType cfgA)
  match op with
  | .mma z n ta tb r0 c0 => some ⟨cfgRows cfgA, cfgRows cfgB, cfgLen cfgA, if wide then 16 else 32, z, !n, r0, c0, ta, tb,
      c.operand ta cfgA none, c.operand tb cfgB none⟩
  | .mmas ba bb ta tb r0 c0 => some ⟨cfgRows cfgA, cfgRows cfgB, cfgLen cfgA, 32, false, true, r0, c0, ta, tb,
      c.operand ta cfgA (some ba), c.operand tb cfgB (some bb)⟩
  | .mmaq z n ta tb r0 c0 => some ⟨cfgRows cfgA, cfgRows cfgB, cfgLen cfgA, 16, z, !n, r0, c0, ta, tb,
      c.operand ta cfgA none, c.weight tb cfgB⟩
  | _ => none

/-! Conversions of the data members (08 R158). -/

/-- What ACRD writes for a cell, and whether SAT is set. -/
def convertOut (ty : Nat) (acscale : Nat) (x : Nat) : Nat × Bool :=
  let v := scaled acscale (fmtF32.decode x)
  if isFloatT ty then
    let (y, f) := (fmtOf ty).encode rne v
    (y, bitOf f 2)
  else if isTapT ty then
    let (y, f) := tapEncode ty v
    (y, bitOf f 5)
  else
    match v with
    | .nan _ => (0, false)
    | _ => let (y, f) := toIntT 0 rne false v; (y, bitOf f 5)

/-- What ACWR writes into a cell for an element. -/
def convertIn (ty x : Nat) : Nat :=
  match (fmtOf ty).decode x with
  | .nan s => if ty = 10 && !s then x else fmtF32.nan
  | v => (fmtF32.encode rne v).1

/-! Format regions (08 R146). -/

def regionBase (r : BitVec 256) : Nat := bitsOf r.toNat 0 64
def regionLen (r : BitVec 256) : Nat := bitsOf r.toNat 64 64
def regionType (r : BitVec 256) : Nat := bitsOf r.toNat 128 8
def regionCode (r : BitVec 256) : Nat := bitsOf r.toNat 136 8
def regionScales (r : BitVec 256) : Nat := bitsOf r.toNat 192 64
def regionBlock (r : BitVec 256) : Nat := 16 * 2 ^ regionCode r

/-- Whether a register has no reserved value. -/
def regionLawful (r : BitVec 256) : Bool :=
  regionBase r % 4096 == 0 && regionLen r % 4096 == 0 && [0, 1, 11, 12, 13].contains (regionType r) && regionCode r ≤ 3 &&
    !(regionType r == 13 && regionCode r == 0) && bitsOf r.toNat 144 48 == 0

/-- The format tag of a physical address, with its region: none stands for tag 0. -/
def Partition.tagOf (x : Partition) (pa : Nat) : Option (Nat × BitVec 256) :=
  let on := x.regions.filter fun r => regionLen r.2 != 0
  let overlaps := fun (n : Nat) (r : BitVec 256) => on.any fun q => q.1 != n &&
    rangesMeet (regionBase q.2, regionLen q.2) (regionBase r, regionLen r)
  on.find? fun (n, r) => regionLawful r && regionBase r ≤ pa && pa < regionBase r + regionLen r && !overlaps n r

/-- The element of a region at a byte's physical address. -/
def regionElement (r : BitVec 256) (pa : Nat) : Nat := if regionType r = 13 then 2 * (pa - regionBase r) else pa - regionBase r

/-- The scale entry of an element: one byte, for n4 four (08 R146). -/
def State.scaleEntry (s : State) (r : BitVec 256) (element : Nat) : Nat :=
  let b := element / regionBlock r
  if regionType r = 13 then s.mem.readNat (regionScales r + 4 * b) 4 else s.mem.readNat (regionScales r + b) 1

/-! Memory traffic of a job, for its issuer's partition (08 R154, R164). -/

/-- The bytes of a range in pieces that no 64-byte line splits: the offset and length of each. -/
def linesOf (a n : Nat) : List (Nat × Nat) :=
  (List.range ((a + n + 63) / 64 - a / 64)).map fun i =>
    let lo := max a (a / 64 * 64 + 64 * i)
    (lo - a, min (a + n) (a / 64 * 64 + 64 * i + 64) - lo)

/-- The keys of a range's pieces, until the first one that fails: its cause and address. -/
def State.jobKeys (core part : Nat) (acc : Acc) (a : Word) : List (Nat × Nat) → State → State × List (Nat × Nat × Nat) × Option (Cause × Word)
  | [], s => (s, [], none)
  | (o, n) :: rest, s =>
    match s.engineFind core part .cluster (a + word o) n acc with
    | (s1, .error c) => (s1, [], some (c, a + word o))
    | (s1, .ok k) =>
      let (s2, ks, f) := State.jobKeys core part acc a rest s1
      (s2, (o, n, k) :: ks, f)

/-- The location key of a byte of a range. -/
def keyAt (ks : List (Nat × Nat × Nat)) (o : Nat) : Nat :=
  match ks.find? fun (p, n, _) => p ≤ o && o < p + n with
  | some (p, _, k) => k + (o - p)
  | none => 0

/-! TLD and TZERO (08 R158, R159). -/

/-- A tile's bytes all zero, its sidecar neutral, its rows marked or not. -/
def Cluster.zeroTile (c : Cluster) (t ty rows : Nat) (bad : Bool) : Cluster :=
  let m := c.tiles.clear (tileKey t 0) 32768
  let m1 := (List.range 128).foldl (fun x i => x.writeBytes (sideKey t i) (neutralRow ty)) m
  { c with
    tiles := m1
    badRows := if bad then (List.range rows).foldl (fun l i => setAdd l (t * 256 + i)) c.badRows
      else setDropRange c.badRows (t * 256) 256 }

/-- Whether a row's first element is where 08 R159 allows. For n4 the group size is the tile's, of which its sidecar speaks, also
where the region's blocks differ (log entry 60). -/
def rowPlaced (cfg : BitVec 32) (r : BitVec 256) (pa : Nat) : Bool :=
  regionElement r pa % (if cfgType cfg = 13 then cfgGroup cfg else 16) == 0

/-- The scale entries that a row's sidecar takes from its region: the elements of the row that they are found by. Granules and
groups past LEN have no entry: they are set neutral (log entry 60). -/
def sideElements (cfg : BitVec 32) : List Nat :=
  let g := if cfgType cfg = 13 then cfgGroup cfg else 16
  ((List.range (if cfgType cfg = 13 then 2 else 8)).map (· * g)).filter (· < cfgLen cfg)

/-- Whether a scale entry of a row's sidecar is uncorrectable data. -/
def State.sideBad (s : State) (cfg : BitVec 32) (r : BitVec 256) (pa : Nat → Nat) : Bool :=
  (sideElements cfg).any fun k =>
    let b := regionElement r (pa (if cfgType cfg = 13 then k / 2 else k)) / regionBlock r
    if regionType r = 13 then s.poisoned (regionScales r + 4 * b) 4 else s.poisoned (regionScales r + b) 1

/-- A row's sidecar from its region's scale area. -/
def State.regionSide (s : State) (cfg : BitVec 32) (r : BitVec 256) (pa : Nat → Nat) : List Byte :=
  let len := cfgLen cfg
  if cfgType cfg = 13 then
    let g := cfgGroup cfg
    let entry := fun h : Nat => if h * g < len then s.scaleEntry r (regionElement r (pa (h * g / 2))) else 0x083F80
    let e0 := entry 0
    let e1 := entry 1
    leBytes 2 e0 ++ leBytes 2 e1 ++ leBytes 1 (bitsOf e0 16 4 + 16 * bitsOf e1 16 4) ++ leBytes 3 0
  else (List.range 8).flatMap fun g =>
    leBytes 1 (if 16 * g < len then s.scaleEntry r (regionElement r (pa (16 * g))) else 127)

/-- The format tags that a tile's rows carry: none where they break 08 R159, else the region, none for plain bytes. -/
def Partition.tileTag (x : Partition) (cfg : BitVec 32) (ks : List (Nat × Nat × Nat)) (plain : Bool) : Option (Option (BitVec 256)) :=
  let tags := ks.map fun (_, _, k) => if isPad k then none else x.tagOf k
  match tags with
  | [] => some none
  | t :: rest =>
    if !rest.all (fun u => u.map (·.1) == t.map (·.1)) then none else
    match t with
    | none => some none
    | some (_, r) =>
      let placed := (List.range (cfgRows cfg)).all fun i => rowPlaced cfg r (keyAt ks (i * cfgRowSize cfg))
      if plain && regionType r == cfgType cfg && placed then some (some r) else none

/-- TLD's transfer: the state after it, the status, and the cause of a failure. Sidecar rows from ROWS on keep their bytes
(log entry 60). -/
def State.runTld (s : State) (cl core part : Nat) (t : Nat) (a x : Word) (cfg : BitVec 32) : State × Nat × Option (Cause × Word) :=
  let ty := cfgType cfg
  let rows := cfgRows cfg
  let rs := cfgRowSize cfg
  let failed := fun (s : State) (st : Nat) (f : Option (Cause × Word)) => (s.modCluster cl fun c => c.zeroTile t ty rows true, st, f)
  let (s1, ks, f1) := State.jobKeys core part Acc.engineLoad a (linesOf a.toNat (rows * rs)) s
  match f1 with
  | some e => failed s1 stMfault (some e)
  | none =>
    match (s1.part part).tileTag cfg ks (x == 0) with
    | none => failed s1 stFmt none
    | some tag =>
      let (s2, xs, f2) := if x = 0 then (s1, [], none)
        else State.jobKeys core part Acc.engineLoad x (linesOf x.toNat (8 * rows)) s1
      match f2 with
      | some e => failed s2 stMfault (some e)
      | none =>
        let dirty := fun (i : Nat) =>
          (List.range rs).any (fun o => s2.poisoned (keyAt ks (i * rs + o)) 1) || (x != 0 && s2.poisoned (keyAt xs (8 * i)) 8) ||
            (match tag with | some r => s2.sideBad cfg r fun o => keyAt ks (i * rs + o) | none => false)
        let bytes := fun (ks : List (Nat × Nat × Nat)) (o n : Nat) => (List.range n).map fun j => s2.mem.read (keyAt ks (o + j))
        let side := fun (i : Nat) =>
          match tag with
          | some r => s2.regionSide cfg r fun o => keyAt ks (i * rs + o)
          | none => if x = 0 then neutralRow ty else bytes xs (8 * i) 8
        let bad := (List.range rows).filter dirty
        let s3 := s2.modCluster cl fun c =>
          let m := (List.range rows).foldl (fun m i =>
            (m.writeBytes (tileKey t (i * rs)) (bytes ks (i * rs) rs)).writeBytes (sideKey t i) (side i)) c.tiles
          { c with
            tiles := m
            badRows := if bad.isEmpty then setDropRange c.badRows (t * 256) 256
              else bad.foldl (fun l i => setAdd l (t * 256 + i)) c.badRows }
        (s3, if bad.isEmpty then 0 else stPsn, none)

/-! ACRD and ACWR (08 R158). -/

/-- The rows and columns of a window's elements in memory order. -/
def descCell (v : Word) (n : Nat) : Nat × Nat := (descRow0 v + n / descCols v, descCol0 v + n % descCols v)

def descCount (v : Word) : Nat := descRows v * descCols v

/-- ACRD's transfer, line by line: a failure leaves what came before it. -/
def State.runAcrd (core part cl : Nat) (a v : Word) (acscale : Nat) : List (Nat × Nat) → State → Nat → State × Nat × Option (Cause × Word)
  | [], s, st => (s, st, none)
  | (o, n) :: rest, s, st =>
    let z := typeBits (descType v) / 8
    match s.engineFind core part .cluster (a + word o) n Acc.engineStore with
    | (s1, .error e) => (s1, st ||| stMfault, some (e, a + word o))
    | (s1, .ok k) =>
      let c := s1.cluster cl
      let cells := (List.range (n / z)).map fun i => descCell v (o / z + i)
      let outs := cells.map fun (r, q) => convertOut (descType v) acscale (c.cell r q).toNat
      let bad := (List.range cells.length).filter fun i =>
        let (r, q) := cells.getD i (0, 0)
        c.badCells.contains (cellKey r q)
      let s2 := s1.writeFor core k (outs.flatMap fun x => leBytes z x.1)
      let s3 := bad.foldl (fun x i => x.poison (k + i * z) z) s2
      State.runAcrd core part cl a v acscale rest s3
        (st ||| (if outs.any (·.2) then stSat else 0) ||| (if bad.isEmpty then 0 else stPsn))

/-- ACWR's transfer, line by line: after a failure the cells that are not written are marked. -/
def State.runAcwr (core part cl : Nat) (a v : Word) : List (Nat × Nat) → State → Nat → State × Nat × Option (Cause × Word)
  | [], s, st => (s, st, none)
  | (o, n) :: rest, s, st =>
    let z := typeBits (descType v) / 8
    match s.engineFind core part .cluster (a + word o) n Acc.engineLoad with
    | (s1, .error e) =>
      let left := (List.range (descCount v - o / z)).map fun i => descCell v (o / z + i)
      (s1.modCluster cl fun c => left.foldl (fun c (r, q) => c.markCell r q) c, st ||| stMfault, some (e, a + word o))
    | (s1, .ok k) =>
      let cells := (List.range (n / z)).map fun i => (i, descCell v (o / z + i))
      let dirty := cells.any fun (i, _) => s1.poisoned (k + i * z) z
      let s2 := s1.modCluster cl fun c => cells.foldl (fun c (i, r, q) =>
        c.setCell r q (BitVec.ofNat 32 (convertIn (descType v) (s1.mem.readNat (k + i * z) z))) (s1.poisoned (k + i * z) z)) c
      State.runAcwr core part cl a v rest s2 (st ||| if dirty then stPsn else 0)

end Sys2Proof.Machine
end

