-- ==== Sys2Proof/Machine/Matrix.lean ====
section
/-! DEFINITION. The matrix engine: majors 31 to 34, and the events of jobs (08 R150 to R165). -/

namespace Sys2Proof.Machine

open Host (Outcome)

/-! What a job touches (08 R161). -/

def JobOp.tiles : JobOp → List Nat
  | .mma _ _ ta tb _ _ => [ta, tb]
  | .mmas _ _ ta tb _ _ => [ta, tb]
  | .mmaq _ _ ta tb _ _ => [ta, tb]
  | .tld t _ _ => [t]
  | .tzero t => [t]
  | _ => []

/-- The accumulator rows, as first row and number. -/
def JobOp.rows (op : JobOp) (cfgA : BitVec 32) : Nat × Nat :=
  match op with
  | .mma _ _ _ _ r _ => (r, cfgRows cfgA)
  | .mmas _ _ _ _ r _ => (r, cfgRows cfgA)
  | .mmaq _ _ _ _ r _ => (r, cfgRows cfgA)
  | .acz v => (descRow0 v, descRows v)
  | .acrd _ v => (descRow0 v, descRows v)
  | .acwr _ v => (descRow0 v, descRows v)
  | _ => (0, 0)

def JobOp.multiply : JobOp → Bool
  | .mma _ _ _ _ _ _ => true
  | .mmas _ _ _ _ _ _ => true
  | .mmaq _ _ _ _ _ _ => true
  | _ => false

/-- Whether two jobs conflict. -/
def Job.conflicts (a b : Job) : Bool :=
  a.op.tiles.any b.op.tiles.contains || rangesMeet (a.op.rows a.cfgA) (b.op.rows b.cfgA)

/-- The jobs ahead of one in its queue. -/
def Cluster.ahead (c : Cluster) (id : Nat) : List Job := c.jobs.takeWhile (·.id != id)

/-- The larger of two ranks, where none stands below every rank (08 R152). -/
def maxRank (a b : Option Nat) : Option Nat :=
  match a, b with
  | some x, some y => some (max x y)
  | some x, none => some x
  | none, y => y

/-- The smaller of two ranks. -/
def minRank (a b : Option Nat) : Option Nat :=
  match a, b with
  | some x, some y => some (min x y)
  | _, _ => none

/-- A job's completion rank as it would enter the queue now (08 R152). -/
def State.jobRank (s : State) (cl : Nat) (j : Job) : Option Nat :=
  let w := j.wait.map fun x => (s.obj x.1).rank
  ((s.cluster cl).jobs.filter j.conflicts).foldl (fun r x => maxRank r x.rank) w

/-- The smallest completion rank in a queue. -/
def Cluster.lowRank (c : Cluster) : Option Nat :=
  match c.jobs with
  | [] => none
  | j :: js => js.foldl (fun r x => minRank r x.rank) j.rank

/-! Issue (08 R150, R151, R153). -/

/-- A condition of 08 R151. -/
def mcfg (ok : Bool) (code : Nat) : M Unit := require ok .mcfg (word code)

/-- The duty that a done object needs. -/
def doneDuty (o : Obj) : Duty := if o.kind = Obj.bar then .arrive else if o.kind = Obj.sig then .signal else .msg

/-- A wait-ref or done-ref checked at code 6 of 08 R151: the register's value as a reference, its key and location; none where
the field is `s0`. -/
def jobRef (r : Nat) (v : Word) : M (Option (Word × Nat × Nat)) := do
  if r = 0 then pure none else
  let ref := refOf v
  mcfg (fieldOf ref 33 15 == 0) 6
  let (key, loc) ← checkObject ref
  let o := (← get).obj key
  mcfg (o.kind == Obj.bar || o.kind == Obj.sig || (o.kind == Obj.ctr && o.dutyCtr)) 6
  pure (some (ref, key, loc))

/-- A memory operand: address, bytes, what it needs, its alignment. -/
structure JobRange where
  a : Word
  n : Nat
  acc : Acc
  al : Nat

/-- Step 3 of 08 R150 on one range. -/
def checkRange (r : JobRange) : M Unit := do
  require (r.a.toNat % r.al == 0) .align r.a
  (linesOf r.a.toNat r.n).forM fun (o, n) => do
    let _ ← resolveMemAt (r.a + word o) 1 n r.acc

/-- Step 3 of 08 R150: the ranges in ascending order. -/
def checkRanges (rs : List JobRange) : M Unit := (rs.mergeSort fun x y => x.a.toNat ≤ y.a.toNat).forM checkRange

/-- How long a core's turn is off in the round robin from the last one admitted (08 R153). -/
def Cluster.turnDist (c : Cluster) (lane : Nat) : Nat := (lane + 9 - c.lastCore - 1) % 9

/-- Whether admission serves a core next among the stalled ones (08 R153). -/
def Cluster.turnIs (c : Cluster) (lane : Nat) : Bool := c.offers.all fun j => c.turnDist lane ≤ c.turnDist (laneOf j.core)

/-- Whether a new issue of a core has its turn before every stalled one: a core's own earlier issue goes first. -/
def Cluster.turnNow (c : Cluster) (lane : Nat) : Bool := c.offers.all fun j => c.turnDist lane < c.turnDist (laneOf j.core)

/-- A tile's configuration as an instruction reads it: the one from before all writes of its cycle (02 R21). -/
def State.tileCfg (s : State) (cl t : Nat) : BitVec 32 :=
  let c := s.cluster cl
  let now := match c.past with | some (u, v) => if u = s.time then v else c.tcfg | none => c.tcfg
  now.toList.getD t 0

/-- Admission, one step (08 R150): the configurations, one unit of the done duty, the id, and the completion rank that these
configurations give (08 R152). The current context issues it. Steps 2, 3 and 6 of R150 are not made again for an issue that
stalled, though a tile register or the queue may have changed: the rule does not say (log entry 89). -/
def State.admitJob (s : State) (j : Job) : State :=
  let core := s.t.coreid
  let cl := clusterOf core
  let c := s.cluster cl
  let cfg := s.tileCfg cl
  let j0 := { j with
    id := c.nextJob
    cfgA := match j.op.tiles with | t :: _ => cfg t | [] => 0
    cfgB := match j.op.tiles with | _ :: t :: _ => cfg t | _ => 0
    acscale := s.t.acscale, core := core, slice := s.t.sliceid }
  let j1 := { j0 with rank := s.jobRank cl j0 }
  let (due, os) := match j.done, j.duty with
    | some (_, loc), some k =>
      match findDuty (s.table core) loc k with
      | some e => (e.due, s.takeUnits (s.partNo core) (s.table core) e 1)
      | none => (0, s.table core)
    | _, _ => (0, s.table core)
  let next := if c.nextJob + 1 = 2 ^ 32 then 1 else c.nextJob + 1
  let s1 := (s.setTable core os).modCluster cl fun c => { c with
    jobs := c.jobs ++ [{ j1 with due := due }], nextJob := next, lastCore := laneOf core
    offers := c.offers.filter (·.core != core) }
  ({ s1 with t := { s1.t with lastjob := BitVec.ofNat 32 c.nextJob } }).push .matrixJobStart { x := cl, y := c.nextJob }

/-- The duty of a job's done object. -/
def State.jobDuty (s : State) (done : Option (Word × Nat × Nat)) : Option Duty := done.map fun d => doneDuty (s.obj d.2.1)

/-- The job that the current context issues: the first tile's configuration, the scale and the references as they are now. -/
def State.newJob (s : State) (op : JobOp) (wait done : Option (Word × Nat × Nat)) : Job :=
  let cfg := s.tileCfg (clusterOf s.t.coreid)
  { id := 0, op := op, wait := wait.map fun w => (w.2.1, BitVec.ofNat 16 (fieldOf w.1 48 16)), done := done.map (·.2)
    cfgA := match op.tiles with | t :: _ => cfg t | [] => 0
    cfgB := 0, acscale := s.t.acscale, rank := none, duty := s.jobDuty done, due := 0, brk := false, running := false
    core := s.t.coreid, slice := s.t.sliceid }

/-- Whether the activity holds the duty of a job's done object (08 R150). -/
def State.jobOwed (s : State) (done : Option (Word × Nat × Nat)) : Bool :=
  match done, s.jobDuty done with
  | some (_, _, loc), some k => (findDuty (s.table s.t.coreid) loc k).isSome
  | _, _ => true

/-- Whether a job's completion rank is below its done object's (08 R152). -/
def State.jobRankOk (s : State) (j : Job) (done : Option (Word × Nat × Nat)) : Bool :=
  match done, s.jobRank (clusterOf s.t.coreid) j with
  | some (_, key, _), some r => r < (s.obj key).rank
  | _, _ => true

/-- Whether an issue of the current context finds no free entry available to it: none is free, or stalled issues have their
turn first (08 R153). -/
def State.queueFull (s : State) : Bool :=
  let c := s.cluster (clusterOf s.t.coreid)
  16 ≤ c.jobs.length || !c.turnNow (laneOf s.t.coreid)

/-- Steps 3 to 7 of 08 R150 for a job whose configuration and references have passed. Only a full queue is a wait under the rank
rule (08 R153); where an entry is free, the stalled issues are admitted first. -/
def issueJob (i : Instr) (op : JobOp) (rs : List JobRange) (wait done : Option (Word × Nat × Nat)) : M Unit := do
  checkRanges rs
  let s ← get
  let core := s.t.coreid
  let c := s.cluster (clusterOf core)
  let full := s.queueFull
  if full && (s.transferOf core).isSome then trapNow .xphase (imageOf i)
  require (s.jobOwed done) .unowed (match done with | some (ref, _, _) => ref | none => 0)
  let j := s.newJob op wait done
  if !s.jobRankOk j done then
    match wait with
    | some w => trapNow .rankv w.1
    | none => trapOpen .rankv
  release
  if full then
    let low := if 16 ≤ c.jobs.length then c.lowRank else none
    match low with
    | some r => if !s.mayWait core (s.table core) r (fun _ => false) none then trapOpen .rankv
    | none => pure ()
    modT fun t => { t with len := i.len }
    modS fun s => s.modCluster (clusterOf core) fun c => { c with offers := c.offers ++ [j] }
    waitOn (.jobQueue low)
  else
    modS fun s => s.admitJob j
    retire i

/-- The configuration of a tile. -/
def readTcfg (t : Nat) : M (BitVec 32) := readS fun s => s.tileCfg (clusterOf s.t.coreid) t

/-- A multiply member: the legal types, whose limit on K comes back, and its operation for a window. -/
def multiply (i : Instr) (ta tb w x y : Nat) (types : Nat → Nat → Option Nat) (op : Nat → Nat → JobOp) : M Unit := do
  gate i
  let wv ← readSrc (.code (BitVec.ofNat 6 w))
  let xv ← readSrc (.code (BitVec.ofNat 6 x))
  let yv ← readSrc (.code (BitVec.ofNat 6 y))
  let ca ← readTcfg ta
  let cb ← readTcfg tb
  mcfg (cfgRows ca != 0 && cfgRows cb != 0) 1
  match types (cfgType ca) (cfgType cb) with
  | none => mcfg false 2
  | some limit =>
    mcfg (cfgLen ca == cfgLen cb) 3
    mcfg (cfgLen ca ≤ limit) 4
  let r0 := fieldOf wv 0 10
  let c0 := fieldOf wv 16 7
  mcfg (fieldOf wv 10 6 == 0 && fieldOf wv 23 41 == 0 && windowFits r0 c0 (cfgRows ca) (cfgRows cb)) 5
  let wait ← jobRef x xv
  let done ← jobRef y yv
  issueJob i (op r0 c0) [] wait done

/-- The types of MMA and of MMAS, with the limit on K (08 R155). -/
def mmaTypes (a b : Nat) : Option Nat :=
  if narrowT a && narrowT b then some 128 else if wideT a && wideT b then some 64 else none
def mmasTypes (a b : Nat) : Option Nat := if narrowT a && narrowT b then some 128 else none
def mmaqTypes (a b : Nat) : Option Nat := if a = 9 && b = 13 then some 64 else none

/-- MMA (08 R155). -/
def execMma (z n : Bool) (ta tb : BitVec 4) (w x y : BitVec 5) (s : State) : Outcome State Fault Refusal :=
  runM (multiply (.mma z n ta tb w x y) ta.toNat tb.toNat w.toNat x.toNat y.toNat mmaTypes
    fun r c => .mma z n ta.toNat tb.toNat r c) s

/-- MMAS (08 R155). -/
def execMmas (p : BitVec 2) (ta tb : BitVec 4) (q : BitVec 2) (w : BitVec 5) (x y : BitVec 4) (s : State) :
    Outcome State Fault Refusal :=
  runM (multiply (.mmas p ta tb q w x y) ta.toNat tb.toNat w.toNat x.toNat y.toNat mmasTypes
    fun r c => .mmas (16 * 2 ^ p.toNat) (16 * 2 ^ q.toNat) ta.toNat tb.toNat r c) s

/-- MMAQ (08 R155). -/
def execMmaq (z n : Bool) (ta tb : BitVec 4) (w x y : BitVec 5) (s : State) : Outcome State Fault Refusal :=
  runM (multiply (.mmaq z n ta tb w x y) ta.toNat tb.toNat w.toNat x.toNat y.toNat mmaqTypes
    fun r c => .mmaq z n ta.toNat tb.toNat r c) s

/-- The done-ref of a MAT member. -/
def matDone (y : BitVec 5) : M (Option (Word × Nat × Nat)) := do
  let v ← readSrc (.code (y.setWidth 6))
  jobRef y.toNat v

/-- TLD (08 R157, R158). -/
def execTld (t : BitVec 4) (a : Src) (y : BitVec 5) (x : Src) (s : State) : Outcome State Fault Refusal :=
  runM (do
    let i := Instr.tld t a y x
    gate i
    let av ← readSrc a
    let xv ← readSrc x
    let cfg ← readTcfg t.toNat
    mcfg (cfgRows cfg != 0) 1
    let done ← matDone y
    mcfg (!(xv != 0 && wideT (cfgType cfg))) 7
    let rows := cfgRows cfg
    let data : JobRange := ⟨av, rows * cfgRowSize cfg, Acc.engineLoad, 64⟩
    issueJob i (.tld t.toNat av xv) (if xv = 0 then [data] else [data, ⟨xv, 8 * rows, Acc.engineLoad, 8⟩]) none done) s

/-- TZERO (08 R158). -/
def execTzero (t : BitVec 4) (y : BitVec 5) (s : State) : Outcome State Fault Refusal :=
  runM (do
    let i := Instr.tzero t y
    gate i
    let cfg ← readTcfg t.toNat
    mcfg (cfgRows cfg != 0) 1
    let done ← matDone y
    issueJob i (.tzero t.toNat) [] none done) s

/-- ACZ (08 R158). -/
def execAcz (a : Src) (y : BitVec 5) (s : State) : Outcome State Fault Refusal :=
  runM (do
    let i := Instr.acz a y
    gate i
    let v ← readSrc a
    mcfg (descLawful v true) 5
    let done ← matDone y
    issueJob i (.acz v) [] none done) s

/-- The bytes of a window in memory. -/
def descBytes (v : Word) : Nat := descCount v * (typeBits (descType v) / 8)

/-- ACRD (08 R158). -/
def execAcrd (a : Src) (y : BitVec 5) (x : Src) (s : State) : Outcome State Fault Refusal :=
  runM (do
    let i := Instr.acrd a y x
    gate i
    let av ← readSrc a
    let v ← readSrc x
    mcfg ([10, 9, 8, 11, 12, 0].contains (descType v)) 2
    mcfg (descLawful v false) 5
    let done ← matDone y
    let t ← readT id
    mcfg (t.acscale != 255) 8
    issueJob i (.acrd av v) [⟨av, descBytes v, Acc.engineStore, 64⟩] none done) s

/-- ACWR (08 R158). -/
def execAcwr (a : Src) (y : BitVec 5) (x : Src) (s : State) : Outcome State Fault Refusal :=
  runM (do
    let i := Instr.acwr a y x
    gate i
    let av ← readSrc a
    let v ← readSrc x
    mcfg ([10, 9, 8].contains (descType v)) 2
    mcfg (descLawful v false) 5
    let done ← matDone y
    issueJob i (.acwr av v) [⟨av, descBytes v, Acc.engineLoad, 64⟩] none done) s

/-! JPOLL and JWAIT (08 R160). -/

/-- Whether a number is a job id that has been issued, and not too long ago; its low 32 bits are the id. -/
def Cluster.validJob (c : Cluster) (d : Word) : Bool :=
  let back := (c.nextJob + 2 ^ 32 - fieldOf d 0 32) % 2 ^ 32
  1 ≤ back && back ≤ 2 ^ 31 - 1

/-- Whether a job's wait object satisfies its wait (08 R161, 09 R181). -/
def State.jobWaitOver (s : State) (j : Job) : Bool :=
  match j.wait with
  | some (k, v) => (s.obj k).broken || (s.obj k).satisfies v
  | none => true

/-- A job's state as JPOLL reports it. -/
def State.jobState (s : State) (cl : Nat) (d : Word) : Nat :=
  let c := s.cluster cl
  if !c.validJob d then 4 else
  match c.jobs.find? (·.id == fieldOf d 0 32) with
  | none => 0
  | some j => if j.running then 3 else if s.jobWaitOver j then 2 else 1

/-- JPOLL (08 R160). -/
def execJpoll (a : Src) (x : Code) (s : State) : Outcome State Fault Refusal :=
  runM (do
    let i := Instr.jpoll a x
    gate i
    let d ← readSrc a
    let v ← readS fun s => word (s.jobState (clusterOf s.t.coreid) d)
    writeD x v
    retire i) s

/-- JWAIT (08 R160). In a transfer phase an invalid id traps with XPHASE as a valid one does: the spec gives no order of the
two (log entry 89). A wait that has passed the wait rule holds until the job completes (09 R176). -/
def execJwait (a : Src) (s : State) : Outcome State Fault Refusal :=
  runM (do
    let i := Instr.jwait a
    gate i
    let d ← readSrc a
    notInTransfer i
    let s ← get
    let c := s.cluster (clusterOf s.t.coreid)
    require (c.validJob d) .illop (word (fieldOf d 0 32))
    match c.jobs.find? (·.id == fieldOf d 0 32) with
    | none =>
      acquire
      retire i
    | some j =>
      let again := match s.t.mode with | .waiting (.job _) => true | _ => false
      match j.rank with
      | some r => if !again && !s.mayWait s.t.coreid (s.table s.t.coreid) r (fun _ => false) none then trapOpen .rankv
      | none => pure ()
      waitOn (.job j.rank)) s

/-! Events of jobs. -/

/-- More stalled issues may be admitted. -/
def State.moreOffers (s : State) (cl : Nat) : State :=
  let c := s.cluster cl
  if c.jobs.length < 16 && !c.offers.isEmpty then s.push .matrixJobAdmission { x := cl } else s

/-- An issue of cluster `x` that stalled on the full queue is admitted, round robin, now that an entry is free
(08 R153). -/
def execMatrixJobAdmission (s : State) : Outcome State Fault Refusal :=
  runM (event fun s =>
    let c := s.cluster s.arg.x
    if 16 ≤ c.jobs.length then s else
    match c.offers.find? fun j => c.turnIs (laneOf j.core) with
    | some j =>
      let s1 := if (match (s.ctx j.core).mode with | .waiting (.jobQueue _) => true | _ => false) then
          (s.eventFor j.core fun s => let s1 := s.admitJob j; (s1.complete s1.t.len 0 0).afterTaken).pushTurn j.core
        else s.modCluster s.arg.x fun c => { c with offers := c.offers.filter (·.core != j.core) }
      s1.moreOffers s.arg.x
    | none => s) s

/-- Whether a queued job may start but for the array (08 R161). -/
def State.jobReady (s : State) (c : Cluster) (j : Job) : Bool := s.jobWaitOver j && !(c.ahead j.id).any j.conflicts

/-- Job `y` of cluster `x` starts once its wait object, earlier conflicting jobs and the array allow (08 R161). -/
def execMatrixJobStart (s : State) : Outcome State Fault Refusal :=
  runM (do
    let s ← get
    let c := s.cluster s.arg.x
    match c.jobs.find? (·.id == s.arg.y) with
    | none => pure ()
    | some j =>
      let array := c.jobs.any (fun q => q.running && q.op.multiply) ||
        (c.ahead j.id).any fun q => q.op.multiply && !q.running && s.jobReady c q
      if j.running then pure ()
      else if !s.jobReady c j || (j.op.multiply && array) then notYet .matrixJobStart
      else
        let brk := match j.wait with | some (k, _) => (s.obj k).broken | none => j.brk
        modS fun s => (s.modCluster s.arg.x fun c => { c with
          jobs := c.jobs.map fun q => if q.id = j.id then { q with running := true, brk := brk } else q }).push
            .matrixJobCompletion { x := s.arg.x, y := j.id }) s

/-! Undo entries of tiles and accumulator rows (22 R356, log entry 20). -/

def State.undoRow (s : State) (core cl row : Nat) : State :=
  let c := s.cluster cl
  let old := (List.range 128).flatMap fun j => leBytes 4 (c.cell row j).toNat
  s.undoEntry core 3 (coreAt cl 0 + row * 2 ^ 36) old [] ((List.range 128).filter fun j => c.badCells.contains (cellKey row j)) 0

/-- A tile's row: its `n` bytes from byte `start`, its sidecar's eight where it has one. -/
def State.undoTile (s : State) (core cl t row start n : Nat) : State :=
  let c := s.cluster cl
  let m := if row < 128 then 1 else 0
  let old := c.tiles.readBytes (tileKey t start) n ++ c.tiles.readBytes (sideKey t row) (8 * m)
  s.undoEntry core 2 (coreAt cl 0 + t * 2 ^ 32 + row * 2 ^ 36) old [start, n, m] (setRange c.badRows (t * 256 + row) m) 0

/-- Every row of a tile, the rows above ROWS among them. Row numbers of an entry have ten bits: the last takes what is left of a
tile with more rows (log entry 20). -/
def State.undoTileRows (s : State) (core cl t : Nat) (cfg : BitVec 32) : State :=
  let rs := cfgRowSize cfg
  (List.range (max 128 (min 1024 ((16384 + rs - 1) / rs)))).foldl
    (fun x i => x.undoTile core cl t i (i * rs) (if i = 1023 then 16384 - i * rs else min rs (16384 - i * rs))) s

/-- What a job is about to overwrite, logged for its issuer's superstep. -/
def State.undoJob (s : State) (cl : Nat) (j : Job) : State :=
  let rows := fun (s : State) => let (r, n) := j.op.rows j.cfgA; (List.range n).foldl (fun x i => x.undoRow j.core cl (r + i)) s
  match j.op with
  | .tld t _ _ => s.undoTileRows j.core cl t j.cfgA
  | .tzero t => s.undoTileRows j.core cl t j.cfgA
  | .acrd _ _ => s
  | _ => rows s

/-- A job's work: the state after it, its status, the cause and address of a failed access (08 R156, R158, R164). -/
def State.runJob (s : State) (cl part : Nat) (j : Job) (errs : List CellError) : State × Nat × Option (Cause × Word) :=
  let c := s.cluster cl
  match j.op with
  | .tld t a x => s.runTld cl j.core part t a x j.cfgA
  | .tzero t => (s.modCluster cl fun c => c.zeroTile t (cfgType j.cfgA) 0 false, 0, none)
  | .acz v =>
    (s.modCluster cl fun c => (windowCells (descRows v) (descCols v)).foldl
      (fun c (i, q) => c.setCell (descRow0 v + i) (descCol0 v + q) 0 false) c, 0, none)
  | .acrd a v => State.runAcrd j.core part cl a v j.acscale.toNat (linesOf a.toNat (descBytes v)) s 0
  | .acwr a v => State.runAcwr j.core part cl a v (linesOf a.toNat (descBytes v)) s 0
  | op =>
    match c.mulOf op j.cfgA j.cfgB with
    | some u => let (c1, st) := u.run errs c; (s.setCluster cl c1, st, none)
    | none => (s, 0, none)

/-- The entries of the error log for a job's status (08 R162, R164, 22 R353). -/
def State.logJob (s : State) (cl part : Nat) (j : Job) (st : Nat) (f : Option (Cause × Word)) : State :=
  let entry : ErrorEntry := { kind := 5, slice := j.slice.toNat, location := coreAt cl 0, job := j.id, detailB := st }
  let s1 := if bitOf st 0 then s.logError part { entry with kind := 3 } else s
  let s2 := if bitOf st 1 then s1.logError part { entry with kind := 4 } else s1
  match f with
  | some (c, a) => s2.logError part { entry with addr := a.toNat, cause := c.code, detailC := c.code }
  | none => if j.done.isNone && st % 2 ^ 32 / 4 != 0 then s2.logError part entry else s2

/-- The addresses whose pads a job would touch. -/
def JobOp.addrs : JobOp → List Word
  | .tld _ a x => if x = 0 then [a] else [a, x]
  | .acrd a _ => [a]
  | .acwr a _ => [a]
  | _ => []

/-- A pad-window address's core. -/
def padCoreOf (core : Nat) (a : Word) : Nat := if flagOf a 31 then core / 2 ^ 17 * 2 ^ 17 else fieldOf a 17 14 * 2 ^ 17

/-- Job `y` of cluster `x` has run, with the errors `errs` of the array: its work, then its step at the done object
(08 R162, R163). -/
def execMatrixJobCompletion (s : State) : Outcome State Fault Refusal :=
  runM (do
    let s ← get
    let cl := s.arg.x
    match (s.cluster cl).jobs.find? (·.id == s.arg.y) with
    | none => pure ()
    | some j =>
      let held := j.op.addrs.any fun a => classOf a == .pad && s.padHeld engineAgent (padBase + padCoreOf j.core a)
      let doneHeld := match j.done with | some (k, _) => s.padHeld engineAgent k | none => false
      if !j.running then pure ()
      else if held || doneHeld then notYet .matrixJobCompletion
      else modS fun s =>
        let part := (s.partOf cl).getD 0
        let (s1, st, f) := (s.undoJob cl j).runJob cl part j s.arg.errs
        let s2 := s1.modCluster cl fun c => { c with jobs := c.jobs.filter (·.id != j.id) }
        let full := if j.brk then st + 2 ^ 63 else st
        let s3 := match j.done with
          | some (k, _) => s2.engineStep j.core k j.due 1 full
          | none => s2
        let s4 := s3.logJob cl part j st f
        s4.moreOffers cl) s

end Sys2Proof.Machine
end

