-- ==== Sys2Proof/Machine/Sched.lean ====
section
/-! DEFINITION. The scheduler's events: ready pools, dispatch, staging, pre-emption, suspension, resumption, write-back and
budgets (18 R292 to R303, 20 R336 to R342). -/

namespace Sys2Proof.Machine

open Host (Outcome)

/-! The ready pool (18 R293). -/

/-- Deadlines in order: 0 means none and comes last. -/
def deadlineKey (d : Nat) : Nat := if d = 0 then 2 ^ 64 else d

def Slice.deadline (x : Slice) : Nat := recField x.record 16 8
def Slice.kind (x : Slice) : Nat := recField x.record 29 1
def Slice.flag (x : Slice) (i : Nat) : Bool := bitOf (recField x.record 31 1) i

/-- The order of a pool. -/
def Slice.before (a b : Slice) : Bool :=
  b.prio < a.prio || (a.prio == b.prio &&
    (deadlineKey a.deadline < deadlineKey b.deadline ||
      (deadlineKey a.deadline == deadlineKey b.deadline && a.arrival < b.arrival)))

/-- A slice entered into an ordered list. -/
def insertSlice (x : Slice) : List Slice → List Slice
  | [] => [x]
  | y :: l => if x.before y then x :: y :: l else y :: insertSlice x l

/-- A partition's pool on a die, first slice first. -/
def State.pool (s : State) (p die : Nat) : List Slice :=
  (s.slices.filter fun x => x.part == p && x.state == .ready && x.die == die).foldr insertSlice []

/-- Slice `x` has met its dependence condition: it enters its die's pool with a new arrival number, as an arrival from the
Cobblers (18 R292, R293, log entry 76). -/
def execSliceReady (s : State) : Outcome State Fault Refusal :=
  runM (event fun s =>
    match s.slice s.arg.x with
    | none => s
    | some x =>
      if x.state != .pending then s else
      ({ s with arrivals := s.arrivals + 1 }.modSlice x.id fun y => { y with
        state := .ready, arrival := s.arrivalOf engineAgent, die := ((s.part x.part).queue (recQueue x.record)).die }).push
        .dispatchMatch { x := x.part }) s

/-! Threads (18 R294, 20 R341, R342, 22 R363). -/

/-- The lane-core threads, and the control cores, of a partition on a die, lowest `coreid` first. -/
def Partition.laneThreads (x : Partition) (die : Nat) : List Nat :=
  (x.clusters.filter fun c => c / 256 == die).flatMap fun c => (List.range 16).map fun n => coreAt c (n / 2) + n % 2
def Partition.controlCores (x : Partition) (die : Nat) : List Nat :=
  ((x.clusters.filter fun c => c / 256 == die).map (coreAt · 8)).filter (· != x.supervisor)

/-- The slice that holds a thread. -/
def State.holder (s : State) (core : Nat) : Option Slice := s.slices.find? fun x => x.threads.contains core

/-- Whether a cluster takes on slices: it is neither quarantined nor stopped. -/
def State.admits (s : State) (cl : Nat) : Bool := !(s.cluster cl).quarantined && !s.clusterFrozen cl

/-- A thread reserved for another gang against a slice that stands after it in the order of the pool, at its priority or below
(18 R295, R299). -/
def State.heldFrom (s : State) (x : Slice) (core : Nat) : Bool :=
  s.slices.any fun y => y.id != x.id && y.state == .ready && y.reserved.contains core && y.before x && x.prio ≤ y.prio

/-- The clusters that have run an audited slice: a replay matches none of them (22 R361, R362). -/
def State.runClusters (s : State) (x : Slice) : List Nat :=
  match x.replayOf with
  | some id => (s.audits.filter (·.id == id)).flatMap fun u => u.runs.map (·.1)
  | none => []

/-- The core's other thread, the same for a control core. -/
def otherThread (core : Nat) : Nat := if laneOf core < 8 then core / 2 * 2 + (1 - core % 2) else core

/-- Whether a thread is one that position `pos` of a slice matches, whoever holds it now (18 R294, 20 R341). A gang with a
core-bound member goes back to its old segment, and its other members' pad images need what any other slice's do (20 R342). -/
def State.fits (s : State) (x : Slice) (pos core : Nat) : Bool :=
  let top := s.directSize core
  let feet := footRanges x.record (· != 0)
  let pins := (s.slices.filter fun y => y.id != x.id && !y.threads.contains core).flatMap fun y => y.pins core top
  let room := pos != 0 || (feet.all (fun f => f.1 + f.2 ≤ top) && !feet.any fun f => pins.any (rangesMeet f))
  let image := (s.core core).padcfg.toNat == x.padcfgs.getD pos 0 &&
    (otherThread core == core || ((s.holder (otherThread core)).isNone &&
      !s.slices.any fun y => y.id != x.id && y.state == .ready && y.reserved.contains (otherThread core)))
  let back := x.saved.isEmpty ||
    ((!x.coreBound || coreKey core == coreKey (x.lastThreads.getD pos 0)) && (x.bounds.getD pos false || image))
  room && back && s.admits (clusterOf core) && !(s.runClusters x).contains (clusterOf core)

/-- Whether a slice may take a thread now. -/
def State.free (s : State) (x : Slice) (pos core : Nat) : Bool :=
  (s.holder core).isNone && !s.heldFrom x core && s.fits x pos core

/-! Segments of a gang (11 R213, 18 R294, R295). -/

/-- The lane core at a grid row and column of a die, its thread 0. -/
def gridCore (die row col : Nat) : Nat := coreAt (die * 256 + row / 2 * 16 + col / 4) (row % 2 * 4 + col % 4)

/-- The two threads of each core of a segment of `n` cores. -/
def segment (die row col n : Nat) : List Nat := (List.range n).map fun i => gridCore die row (col + i)

/-- The segments of `n` cores that lie in a partition on a die, westernmost leader first, then lowest row. -/
def Partition.segments (x : Partition) (die n : Nat) : List (List Nat) :=
  (List.range (65 - n)).flatMap fun col => (List.range 32).filterMap fun row =>
    let g := segment die row col n
    if g.all (fun c => x.clusters.contains (clusterOf c)) then some g else none

/-- For every core of a segment a thread that a condition admits, thread 0 before thread 1. -/
def pickThreads (p : Nat → Nat → Bool) : Nat → List Nat → Option (List Nat)
  | _, [] => some []
  | pos, c :: cs =>
    match (if p pos c then some c else if p pos (c + 1) then some (c + 1) else none), pickThreads p (pos + 1) cs with
    | some t, some ts => some (t :: ts)
    | _, _ => none

/-- The threads a slice is matched with now, if some are free. -/
def State.matchFor (s : State) (x : Slice) : Option (List Nat) :=
  let p := s.part x.part
  match x.kind with
  | 0 => ((p.laneThreads x.die).find? (s.free x 0)).map ([·])
  | 1 => ((p.controlCores x.die).find? (s.free x 0)).map ([·])
  | _ => (p.segments x.die (recField x.record 30 1)).findSome? (pickThreads (s.free x) 0)

/-! Dispatch (18 R295, R298, R302, 02 R10, R22). -/

/-- The lowest save slots that are free, one for each thread (20 R338). -/
def Partition.freeSlots (x : Partition) (n : Nat) : Option (List Nat) :=
  let free := ((List.range (x.slots.length + n + 1)).drop 1).filter fun k => !x.slots.contains k && k < 32768
  if n ≤ free.length then some (free.take n) else none

/-- A context with its values at dispatch for a position of a slice. -/
def State.dispatchCtx (s : State) (x : Slice) (core pos len : Nat) : Ctx :=
  let f := recField x.record
  let t := Ctx.reset (kindAt core) core
  { t with
    mode := .staging
    pc := word (f 0 8)
    s := (t.s.set! 1 (word (f 8 8))).set! 30 (selfAlias (s.directSize core))
    budget := BitVec.ofNat 32 (f 24 4)
    deadline := word (f 16 8)
    prio := BitVec.ofNat 8 x.prio
    sliceid := word x.id
    gangpos := BitVec.ofNat 16 (if len < 2 then 0 else len * 256 + pos)
    peers := (s.part x.part).peers
    tvec := word (f 32 8)
    obls := if pos = 0 then x.obls else [] }

/-- A gang of some threads, not formed. -/
def Gang.fresh (threads : List Nat) : Gang :=
  { members := threads, formed := false, stopped := false, counts := threads.map fun _ => 0, base := 0, queue := [], ended := []
    rowmax := none, rowdest := 0, closing := [], trapped := [], runner := none, code := [], front := 0, exiting := false
    notice := false }

/-- The snapshot in force of a domain whose member takes on a slice that is no snapshot member ends (22 R357). -/
def State.takeOn (s : State) (x : Slice) (core : Nat) : State :=
  let s1 := s.joinDomains core
  if x.flag 1 then s1 else s1.unrepeatable core

/-- A save slot that a slice receives: every byte of it zero (20 R338). -/
def State.zeroSlot (s : State) (a : Nat) : State :=
  { s with
    mem := s.mem.clear a 0x20000
    bad := s.bad.filter fun d => d + 8 ≤ a || a + 0x20000 ≤ d
    cores := s.cores.map fun x => (x.1, { x.2 with lines := x.2.lines.map (·.unown a 0x20000) }) }

/-- A slice matched with threads: it is STAGING on them (18 R295, R303). -/
def State.place (s : State) (x : Slice) (threads slots : List Nat) : State :=
  let len := threads.length
  let first := x.dispatches = 0
  let s1 := if x.counted then s.occupy x.part (recQueue x.record) false else s
  let s2 := if x.slots.isEmpty then
      let y := slots.foldl (fun y k => y.zeroSlot ((y.part x.part).slotAddr k))
        (s1.modPart x.part fun p => { p with slots := p.slots ++ slots })
      if x.obls.any (·.spilled) then y.laySpill ((y.part x.part).slotAddr (slots.headD 0)) x.obls else y
    else s1
  let ctxs := ((List.range len).zip threads).map fun (pos, c) =>
    if x.saved.isEmpty then s2.dispatchCtx x c pos len
    else { Ctx.reset (kindAt c) c with mode := .staging, sliceid := word x.id }
  let s3 := ctxs.foldl State.setCtx s2
  let s4 := if len < 2 || !first then s3 else { s3 with gangs := s3.gangs.put x.id (Gang.fresh threads) }
  let s5 := s4.modSlice x.id fun y => { y with
    state := .staging, counted := false, threads := threads, slots := if x.slots.isEmpty then slots else y.slots
    obls := if x.saved.isEmpty then [] else y.obls, refill := y.refill && !x.saved.isEmpty
    dispatches := y.dispatches + 1, reserved := [], pinned := x.flag 2, matchedAt := s.time, staged := if first then 0 else y.staged }
  -- a gang whose reserved thread goes to a slice of higher priority reserves anew
  let s6 := { s5 with slices := s5.slices.map fun y : Slice => if y.reserved.any threads.contains then { y with reserved := [] } else y }
  let s7 := threads.foldl (fun y c => y.takeOn x c) s6
  s7.push (if x.saved.isEmpty then .footprintStaging else .resumption) { x := x.id }

/-- One round: the first slice of a pool that free threads match takes them. -/
def State.round (s : State) (pool : List Slice) : Option State :=
  pool.findSome? fun x =>
    match s.matchFor x with
    | none => none
    | some ts =>
      if !x.slots.isEmpty then some (s.place x ts []) else
      match (s.part x.part).freeSlots ts.length with
      | some slots => some (s.place x ts slots)
      | none => none

/-- The priority of a thread's occupant; an idle thread is below every one. -/
def State.occupantPrio (s : State) (core : Nat) : Nat := match s.holder core with | some y => y.prio + 1 | none => 0

/-- For every core of a segment the thread that fits with the lowest occupant, thread 0 among equals. -/
def State.lowThreads (s : State) (x : Slice) : Nat → List Nat → Option (List Nat)
  | _, [] => some []
  | pos, c :: cs =>
    let ok := [c, c + 1].filter fun t => s.fits x pos t && !s.heldFrom x t
    match ok, State.lowThreads s x (pos + 1) cs with
    | [], _ => none
    | t :: us, some ts => some ((us.foldl (fun b u => if s.occupantPrio u < s.occupantPrio b then u else b) t) :: ts)
    | _, none => none

/-- The threads of the segment that a gang reserves, or displaces the occupants of: the one whose highest occupant is lowest
(18 R295, R299). -/
def State.targetSegment (s : State) (x : Slice) : Option (List Nat) :=
  let top := fun (ts : List Nat) => (ts.map s.occupantPrio).foldl max 0
  (((s.part x.part).segments x.die (recField x.record 30 1)).filterMap (s.lowThreads x 0)).foldl (fun b ts =>
    match b with
    | none => some ts
    | some us => if top ts < top us then some ts else some us) none

/-- The gang that heads the gangs of a pool reserves a segment where it finds none free. -/
def State.reserve (s : State) (p die : Nat) : State :=
  match (s.pool p die).find? fun x => x.kind = 2 with
  | some x =>
    if !x.reserved.isEmpty || (s.matchFor x).isSome then s else
    match s.targetSegment x with
    | some ts => s.modSlice x.id fun y => { y with reserved := ts }
    | none => s
  | none => s

/-- Rounds until no pair matches; before each one the gang that heads its kind has its reservation, so that no later slice of
its priority or below takes its threads. -/
def State.rounds (p die : Nat) : Nat → State → State
  | 0, s => s.reserve p die
  | n + 1, s =>
    let s1 := s.reserve p die
    match s1.round (s1.pool p die) with
    | some s2 => State.rounds p die n s2
    | none => s1

/-- Dispatch in partition `x`: rounds on every die until no pair matches, then pre-emption where slices are left (18 R295,
R299). -/
def execDispatchMatch (s : State) : Outcome State Fault Refusal :=
  runM (event fun s =>
    let p := s.arg.x
    let s1 := (List.range 4).foldl (fun x die => State.rounds p die (x.slices.length + 1) x) s
    if s1.slices.any fun x => x.part == p && x.state == .ready then s1.push .preemption { x := p } else s1) s

/-! Staging (18 R296, R297, 22 R361). -/

/-- The threads of a slice start: the leader, or the one thread, runs. -/
def State.start (s : State) (x : Slice) : State :=
  match x.threads with
  | [] => s
  | c :: cs =>
    let s1 := cs.foldl (fun y m => y.modCtx m fun t => { t with mode := .idle }) (s.modCtx c fun t => { t with mode := .running })
    (s1.modSlice x.id fun y => { y with state := .running }).pushTurn c

/-- Whether a stop has met a slice while it is STAGING (23 R370): it starts frozen. -/
def State.stoppedEarly (s : State) (x : Slice) : Bool := (s.ctx (x.threads.headD 0)).mode == .frozen

/-- A slice that has started freezes at its first boundary, if a stop has met it before. -/
def State.frozenIf (s : State) (stop : Bool) (x : Slice) : State :=
  if stop then x.threads.foldl (fun y c => y.modCtx c fun t => if t.mode == .running then { t.between with mode := .frozen } else t) s else s

/-- The loaders' work for a slice that is STAGING. -/
def State.stageSlice (s : State) : State :=
  match s.slice s.arg.x with
  | none => s
  | some x =>
    if x.state != .staging || !x.saved.isEmpty then s else
    let lead := x.threads.headD 0
    let stop := s.stoppedEarly x
    let s0 := x.threads.foldl State.acquire s
    match x.replayOf.bind fun id => s.audits.find? (·.id == id) with
    | some u => ((State.copyFeet x.record isInput true lead 4 0 u.base s0).start x).frozenIf stop x
    | none =>
      match State.stageFrom lead x.part x.record 4 0 s0 with
      | (s1, k, none) => (((s1.modSlice x.id fun y => { y with staged := k }).auditInputs x lead).start x).frozenIf stop x
      | (s1, k, some (c, va)) =>
        (((s1.modSlice x.id fun y => { y with staged := k }).start x).asCtx lead fun y => y.stageTrap c va).frozenIf stop x

/-- The Cobbler loaders stage the footprint of slice `x`, after the acquire of its dispatch; the slice is RUNNING when all is
staged, or at its first instruction with the staging's fault (18 R297, R303). A replay's inputs come from the audit area
(22 R361). While the core's other thread is in a transfer phase its pad takes no loader's request (11 R231). -/
def execFootprintStaging (s : State) : Outcome State Fault Refusal :=
  runM (do
    let lead ← readS fun s => ((s.slice s.arg.x).bind (·.threads.head?)).getD 0
    if (← get).padHeld engineAgent (padOf lead) then notYet .footprintStaging
    modS State.stageSlice) s

/-! Pre-emption (18 R299, R300). -/

/-- The latest deadline, with none counted latest. -/
def Slice.laterDeadline (a b : Slice) : Bool := deadlineKey b.deadline < deadlineKey a.deadline

/-- Whether `a` is the better victim of the two: lower priority, later deadline, fewer threads, later dispatch. -/
def Slice.betterVictim (a b : Slice) : Bool :=
  a.prio < b.prio || (a.prio == b.prio &&
    (a.laterDeadline b || (deadlineKey a.deadline == deadlineKey b.deadline &&
      (a.threads.length < b.threads.length || (a.threads.length == b.threads.length && b.matchedAt < a.matchedAt)))))

/-- The running slices that a READY slice may displace, one that is no victim yet, or a segment's occupants; none where some
occupant stands in the way. -/
def State.victims (s : State) (x : Slice) : List Slice :=
  let running := s.slices.filter fun y =>
    y.part == x.part && y.state == .running && y.prio < x.prio && y.threads.any fun c => dieOf c == x.die
  let best := fun (l : List Slice) => (l.foldl (fun b y => match b with
    | none => some y
    | some z => if y.betterVictim z then some y else some z) none).toList
  match x.kind with
  | 0 => best (running.filter fun y => y.kind != 1 && y.victimOf.isNone && y.threads.any (s.fits x 0))
  | 1 => best (running.filter fun y => y.kind == 1 && y.victimOf.isNone && y.threads.any (s.fits x 0))
  | _ =>
    match s.targetSegment x with
    | none => []
    | some ts =>
      let os := s.slices.filter fun y => y.threads.any ts.contains
      if os.all (fun y => y.state == .running && y.prio < x.prio) then os else []

/-- A READY slice's pre-emption: its victims are chosen, unless one is in flight already. -/
def State.preemptFor (s : State) (x : Slice) : State :=
  if s.slices.any fun y => y.victimOf == some x.id then s else
  (s.victims x).foldl (fun y v =>
    if v.victimOf.isSome then y else
    (y.modSlice v.id fun z => { z with victimOf := some x.id }).push .suspension { x := v.id }) s

/-- The first READY slice of each kind on each die of a partition chooses whom it displaces. -/
def State.preempt (s : State) (p : Nat) : State :=
  (List.range 12).foldl (fun x n =>
    match (x.pool p (n / 3)).find? fun y => y.kind == n % 3 with
    | some y => x.preemptFor y
    | none => x) s

/-- Pre-emption in partition `x` (18 R299). -/
def execPreemption (s : State) : Outcome State Fault Refusal :=
  runM (event fun s => s.preempt s.arg.x) s

/-- Slice `x` is to leave its threads: as a victim, whose transfer phase puts it off and which a stop keeps frozen on them (log
entry 94), by YIELD, or for a trap of cause `y` of its thread `z` (18 R299, R300, 20 R336). It does so once every thread stands at
a boundary, its transfers are acknowledged and its requests to other modules are resolved. A kill waits for the same boundaries,
and for no transfer phase (11 R231, 20 R343). -/
def execSuspension (s : State) : Outcome State Fault Refusal :=
  runM (do
    let s ← get
    match s.slice s.arg.x with
    | none => pure ()
    | some x =>
      let trapped := s.agenda.any fun e => match e with | .event .suspension a => a.x == x.id && a.y != 0 | _ => false
      let victim := s.arg.y == 0
      if s.arg.y < killCode && (x.state != .running || (victim && (x.victimOf.isNone || trapped))) then
        modS fun s => s.modSlice x.id fun y => { y with victimOf := none }
      else
        if victim && x.threads.any (fun c => (s.transferOf c).isSome || (s.ctx c).mode == .frozen) then notYet .suspension
        if !s.readyToLeave x then
          modS fun s => s.towardLeaving x
          notYet .suspension
        modS fun s => s.leaveAt x s.arg) s

/-! Resumption (20 R341, R342). -/

/-- A register's image where the save area's value is one that the register holds, else its saved value. -/
def loadCsr {k : Nat} (n v : Nat) (old : BitVec k) : BitVec k :=
  let ok := n != 0 || (bitsOf v 0 4 < 14 && [0, 11, 12].contains (bitsOf v 4 4))
  if ok then BitVec.ofNat k (v &&& csrMask n) else old

/-- A context of a save area: the items that the supervisor may edit come from the memory, the others are Sorim's own
(20 R341). -/
def State.loadCtx (s : State) (x : Slice) (c : Ctx) (slotAddr core : Nat) : Ctx :=
  let f := fun o n => s.mem.readNat (slotAddr + o) n
  let len := fun l => word (2 * f (0x2B0 + 2 * l) 2)
  let lbeg := Vector.ofFn fun l : Fin 3 => word (f (0x288 + 16 * l.val) 8)
  { c with
    kind := kindAt core
    coreid := core
    mode := .staging
    pc := word (f 8 8)
    s := Vector.ofFn fun n : Fin 32 => if n.val = 0 then 0 else word (f (0x40 + 8 * n.val) 8)
    k := Vector.ofFn fun n : Fin 8 => if n.val = 0 then BitVec.allOnes 64 else word (f (0x140 + 8 * n.val) 8)
    v := Vector.ofFn fun n : Fin 32 => BitVec.ofNat 512 (f (0x500 + 64 * n.val) 64)
    q := Vector.ofFn fun n : Fin 7 => BitVec.ofNat 256 (f (0x3C0 + 32 * n.val) 32)
    lc := Vector.ofFn fun l : Fin 3 => word (f (0x280 + 16 * l.val) 8)
    lbeg := lbeg
    lend := Vector.ofFn fun l : Fin 3 => lbeg[l] + len l.val
    eo := if c.eoMark then c.eo else word (f 0x4A0 8)
    wo := if c.woMark then c.wo else word (f 0x4A8 8)
    eoPrev := if c.eoMark then word (f 0x4A0 8) else word (f 0x4B0 8)
    woPrev := if c.woMark then word (f 0x4A8 8) else word (f 0x4B8 8)
    eoMark := c.eoMark
    woMark := c.woMark
    eoOld := word (f 0x4B0 8)
    woOld := word (f 0x4B8 8)
    vtype := loadCsr 0x000 (f 0x180 8) c.vtype
    vround := loadCsr 0x001 (f 0x188 8) c.vround
    vflags := loadCsr 0x002 (f 0x190 8) c.vflags
    vmask := word (f 0x198 8)
    vprog := loadCsr 0x004 (f 0x1A0 8) c.vprog
    repcnt := loadCsr 0x005 (f 0x1A8 8) c.repcnt
    qscale := loadCsr 0x006 (f 0x1B0 8) c.qscale
    acscale := loadCsr 0x210 (f 0x1B8 8) c.acscale
    rstep := loadCsr 0x300 (f 0x1C8 8) c.rstep
    tagrank := loadCsr 0x309 (f 0x1F8 8) c.tagrank
    tvec := word (f 0x208 8)
    tcause := loadCsr 0x701 (f 0x210 8) c.tcause
    tval := word (f 0x218 8)
    tpc := word (f 0x220 8)
    tstat := loadCsr 0x704 (f 0x228 8) c.tstat
    stepctl := loadCsr 0x728 (f 0x230 8) c.stepctl
    peers := (s.part x.part).peers
    budget := if x.refill then BitVec.ofNat 32 (recField x.record 24 4) else c.budget
    grace := c.grace && !x.refill
    obls := (tablePlaces slotAddr c.obls 0 0).map fun (o, a) => { o with bad := s.poisoned a 16 }
    badRegs := badPlaces.filterMap fun (n, o, k) => if s.poisoned (slotAddr + o) k then some n else none }

/-- The saved copies of a thread queued on their channels of its new cluster, in record order (20 R341 step 3). -/
def State.requeue (s : State) (x : Slice) (old core : Nat) : State :=
  let mine := (List.range 8).filterMap fun n => s.copies.find? fun c => c.isAt old x.id n && c.held
  let own := fun a : Word => a.toNat / 2 ^ 17 == padOf old / 2 ^ 17
  let move := fun a : Word => if own a then word (padOf core + a.toNat % 2 ^ 16) else a
  let again := mine.map fun c => { c with
    core := core, cluster := clusterOf core, held := false, stopping := false, source := move c.source, dest := move c.dest
    peers := (s.part x.part).peers }
  let s1 := { s with copies := s.copies.filter (fun c => !mine.contains c) ++ again }
  again.foldl (fun y c => y.push .copyStart { x := c.cluster, y := c.channel }) s1

/-- A slice's contexts, pads and copies come back on the threads it has been matched with, and it runs (20 R341). -/
def State.resume (s : State) (x : Slice) : State :=
  let p := s.part x.part
  let places := (List.range x.threads.length).map fun i =>
    (p.slotAddr (x.slots.getD i 0), x.lastThreads.getD i 0, x.threads.getD i 0)
  let s1 := (places.zip x.saved).foldl (fun y ((a, _, new), c) => y.setCtx (s.loadCtx x c a new)) s
  let s2 := (places.zip x.bounds).foldl (fun y ((a, _, new), bound) =>
    if bound then y else y.copyRange (a + 0x1000) (padOf new) (y.directSize new)) s1
  let s3 := places.foldl (fun y (_, old, new) => y.requeue x old new) s2
  let s4 := x.threads.foldl State.acquire s3
  let s5 := match s4.gangs.find x.id with
    | some g => { s4 with gangs := s4.gangs.put x.id { g with members := x.threads } }.again x.id
    | none => s4
  let s6 := (s5.start x).modSlice x.id fun y => { y with saved := [], refill := false, bounds := [], reason := 0 }
  let formed := match s6.gangs.find x.id with | some g => g.formed | none => false
  let s7 := if formed then x.threads.foldl (fun y c => y.modCtx c fun t => { t with mode := .running }) s6 else s6
  -- a staging that a fault had stopped goes on
  let lead := x.threads.headD 0
  let s8 := if x.restage then (s7.modSlice x.id fun y => { y with restage := false }).asCtx lead State.stageRest else s7
  s8.frozenIf (s.stoppedEarly x) x

/-- The die of a slice changes while some of its elements have no status yet (13 R270). -/
def Slice.held (x : Slice) : Bool :=
  dieOf (x.threads.headD 0) != dieOf (x.lastThreads.headD 0) &&
    match x.saved with | c :: _ => c.outstanding != 0 | [] => false

/-- Slice `x` resumes, once its elements have their statuses where its die has changed (13 R270, 20 R341). -/
def execResumption (s : State) : Outcome State Fault Refusal :=
  runM (do
    let s ← get
    match s.slice s.arg.x with
    | none => pure ()
    | some x =>
      if x.state != .staging || x.saved.isEmpty then pure () else
      if x.held then notYet .resumption
      modS fun s => s.resume x) s

/-! Write-back and retirement (18 R298, R303, 22 R361). -/

/-- The entries from `k` on written back; each fault is logged and reported. -/
def State.writeBack (x : Slice) (lead : Nat) : Nat → Nat → State → State
  | 0, _, s => s
  | n + 1, k, s =>
    if isOutput (footDir x.record k) then
      match State.backBlocks lead x.part (footLen x.record k / 64) (footVa x.record k) (padOf lead + footOff x.record k) s with
      | (s1, none) => State.writeBack x lead n (k + 1) s1
      | (s1, some (c, va)) =>
        let s2 := s1.logError x.part
          { kind := 8, addr := va.toNat, slice := x.id, location := lead, cause := c.code, detailA := k, detailC := va.toNat }
        State.writeBack x lead n (k + 1) (s2.report x.part
          { kind := 4, cause := c.code, slice := x.id, position := 0, resume := (s.ctx lead).pc, tval := va, core := lead
            slot := x.slots.headD 0 })
    else State.writeBack x lead n (k + 1) s

/-- One bit of the CRC-64 of ECMA-182 (00 R7). -/
def crcBits : Nat → Nat → Nat
  | 0, c => c
  | n + 1, c => crcBits n (if bitOf c 63 then (c * 2 % 2 ^ 64) ^^^ 0x42F0E1EBA9EA3693 else c * 2)

/-- The CRC-64 of bytes. -/
def crc64 (bs : List Byte) : Nat := bs.foldl (fun c b => crcBits 8 (c ^^^ (b.toNat * 2 ^ 56))) 0

/-- The signature of a run: its output entries in the leader's pad, in ascending entry index (22 R361). -/
def State.signature (s : State) (r : BitVec 2048) (lead : Nat) : Nat :=
  crc64 (((List.range 4).filter fun k => isOutput (footDir r k)).flatMap fun k =>
    s.mem.readBytes (padOf lead + footOff r k) (footLen r k))

/-- A run of an audited slice has ended: its signature is stored in the audit area. -/
def State.endRun (s : State) (u : Audit) (cl sig : Nat) (since : Option Nat) : State :=
  let a := u.base + u.size - 64 + 8 * u.runs.length
  let u1 := { u with runs := u.runs ++ [(cl, sig)], since := since }
  let audits := s.audits.map fun v : Audit => if v.id = u.id then u1 else v
  { s with audits := audits }.writeNat a 8 sig

/-- The storers' work for a slice that is RETIRING. -/
def State.retireNow (s : State) : State :=
  match s.slice s.arg.x with
  | none => s
  | some x =>
    if x.state != .retiring then s else
    let lead := x.threads.headD 0
    match x.replayOf with
    | some id =>
      match s.audits.find? (·.id == id) with
      | some u =>
        let s1 := State.copyFeet x.record isOutput false lead 4 0 (u.base + footBytes x.record isInput) s
        ((s1.endRun u (clusterOf lead) (s.signature x.record lead) u.since).push .noseVerdict { x := id }).retireSlice x.id
      | none => s.retireSlice x.id
    | none =>
      let s1 := State.writeBack x lead 4 0 s
      match s1.audits.find? (·.id == x.id) with
      | some u =>
        let s2 := s1.endRun u (clusterOf lead) (s.signature x.record lead) (some s.time)
        ((s2.push .noseAuditPush { x := x.id }).push .auditAbandon { x := x.id }).retireSlice x.id
      | none => s1.retireSlice x.id

/-- Slice `x`, past its EXIT, has its outputs written back and retires (18 R298); a replay's go to the audit area only
(22 R361). While the core's other thread is in a transfer phase its pad takes no storer's request (11 R231). -/
def execRetireWriteback (s : State) : Outcome State Fault Refusal :=
  runM (do
    let lead ← readS fun s => ((s.slice s.arg.x).bind (·.threads.head?)).getD 0
    if (← get).padHeld engineAgent (padOf lead) then notYet .retireWriteback
    modS State.retireNow) s

/-! Budgets (18 R302). -/

/-- The context that counts the budget of the current context's slice: the leader of its gang. -/
def State.counter (s : State) : Ctx := s.ctx (s.leaderOf s.t.coreid)

/-- The current context's budget has reached 0: its next instruction traps with BUDGET, and the trap's entry gives it the
grace. -/
def execBudgetExhausted (s : State) : Outcome State Fault Refusal :=
  runM (do
    let c ← readS State.counter
    if c.grace || c.budget != 0 then pure () else
    trapNow .budget 0) s

/-- The grace has reached 0 as well: the slice is suspended and reported. -/
def execBudgetGraceExhausted (s : State) : Outcome State Fault Refusal :=
  runM (do
    let c ← readS State.counter
    if !c.grace || c.budget != 0 then pure () else
    trapNow .budget 0) s

end Sys2Proof.Machine
end

