-- ==== Sys2Proof/Machine/Reliability.lean ====
section
/-! DEFINITION. Dispositions, stops, resets, rollback, soft errors and the Nose (20 R335, R343 to R345, 22 R350 to R366, 23 R370
to R372). -/

namespace Sys2Proof.Machine

open Host (Outcome)

/-! Slices that are to be killed stand at boundaries first (06 R116, 11 R219, 20 R337, R343). -/

/-- Whether a gang among some slices is in a slot. -/
def State.midSlot (s : State) (xs : List Slice) : Bool := xs.any fun x => s.slotBusy x.threads

/-- The event comes again until some slices can all leave their threads: the gangs among them have ended their slots, their
requests to other modules are resolved, their copies' transfers acknowledged. -/
def endSlots (i : Instr) (xs : State → List Slice) : M Unit := do
  if !(← readS fun s => (xs s).all s.readyToLeave) then
    modS fun s => (xs s).foldl State.towardLeaving s
    notYet i

/-! Kills beyond a slice's own (18 R303, 20 R345). -/

/-- An ARMED entry of a cluster's waiting-task table killed: its units are orphaned, a kind 3 report follows (18 R303). -/
def State.killArmed (s : State) (cl n : Nat) : State :=
  match (s.cluster cl).armed.find n with
  | none => s
  | some e =>
    let s1 := s.modCluster cl fun c => { c with armed := c.armed.erase n }
    let s2 := e.obls.foldl (fun y o => y.orphan e.part e.core o) s1
    let s3 := if e.obls.isEmpty then s2 else s2.writeOrphans e.part
    s3.report e.part
      { kind := 3, cause := 0, slice := 0, position := 0, resume := word (recField e.record 0 8), tval := 0, core := e.core, slot := 0 }

/-- Every ARMED entry of a cluster killed. -/
def State.killTable (s : State) (cl : Nat) : State := (s.cluster cl).armed.foldl (fun x e => x.killArmed cl e.1) s

/-- Slices off their threads that can come back only to a core of a cluster (20 R341). -/
def State.boundTo (s : State) (cl : Nat) : List Slice :=
  s.slices.filter fun x => x.threads.isEmpty && x.coreBound && x.lastThreads.any fun c => clusterOf c == cl

/-! Stops (23 R370 to R372). -/

/-- The slices that run on a cluster. -/
def State.runningOn (s : State) (cl : Nat) : List Slice :=
  s.slices.filter fun x => x.state == .running && x.threads.any fun c => clusterOf c == cl

/-- The slices that a stop freezes: those with a thread of the cluster `a.x`, or only those with one of the threads `a.nums`
(23 R370, R373). One that is STAGING freezes before its first instruction. -/
def State.stopSet (s : State) (a : EventArg) : List Slice :=
  s.slices.filter fun x => (x.state == .running || x.state == .staging) &&
    x.threads.any fun c => if a.nums.isEmpty then clusterOf c == a.x else a.nums.contains c

/-- A thread frozen at its boundary, where it goes on from `tpc` (05 R87); an idle follower stays idle. -/
def State.freeze (s : State) (core : Nat) : State :=
  let s1 := s.stopThread core
  if (s1.ctx core).mode == .idle then s1 else s1.modCtx core fun c => { c.between with mode := .frozen }

/-- A thread on its way to its boundary: it stops, and waits for the answer of another module if it has a request there
(06 R116). -/
def State.halted (s : State) (core : Nat) : State :=
  (s.stopThread core).modCtx core fun c => if c.mode == .running then { c with mode := .stopping } else c

/-- The kind 5 reports of a frozen slice, one for each member: with its count as skid in a formed gang, else with what the thread
has completed since the stop began (23 R371). -/
def State.reportStop (s : State) (x : Slice) (cause : Nat) : State :=
  ((List.range x.threads.length).zip x.threads).foldl (fun y (i, c) =>
    let own := word (s.ctx c).skid
    let skid := match s.gangs.find x.id with
      | some g => if g.formed then word (g.count i) else own
      | none => own
    let resume := match x.saved[i]? with | some t => t.pc | none => (y.ctx c).pc
    y.report x.part
      { kind := 5, cause := cause, slice := x.id, position := i, resume := resume, tval := skid, core := c
        slot := x.slots.getD i 0 }) s

/-- The threads of some slices, and the other busy threads that a stop freezes. -/
def State.stopThreads (s : State) (a : EventArg) (xs : List Slice) : List Nat :=
  xs.flatMap (·.threads) ++ ((s.t.coreid, s.t) :: s.others).filterMap fun (c, t) =>
    if (if a.nums.isEmpty then clusterOf c == a.x else a.nums.contains c) && t.kind != .hart && t.mode != .idle &&
      (s.holder c).isNone then some c else none

/-- Slices frozen: their members are reported, a gang leaves its skid record (11 R222). -/
def State.frozenSlices (s : State) (cause : Nat) (xs : List Slice) : State :=
  xs.foldl (fun y x => (y.laySkid x.id).reportStop x cause) s

/-- The threads of a stop freeze, and its slices are reported. -/
def State.stopAll (s : State) (a : EventArg) (xs : List Slice) : State :=
  ((s.stopThreads a xs).foldl State.freeze s).frozenSlices a.y xs

/-- Cluster `x` is stopped, with cause `y`: every thread of it and every member of every gang with a member there freezes, at
once but for a gang, at the end of its slot (23 R370, 11 R219), and a request to another module resolved (06 R116). A cluster
whose threads are frozen stays as it is. With `nums` the stop is that of a HALT in such a cluster: the issuing thread freezes,
with its gang (05 R81, 23 R373). -/
def execClusterStop (s : State) : Outcome State Fault Refusal :=
  runM (do
    let s ← get
    if s.arg.nums.isEmpty && s.clusterFrozen s.arg.x then pure () else
    let xs := s.stopSet s.arg
    modS fun s => xs.foldl (fun y x => y.halt x.id) s
    if s.midSlot xs then
      modS fun s => (s.stopThreads s.arg (xs.filter fun x => !s.slotBusy x.threads)).foldl State.halted s
      notYet .clusterStop
    if (s.stopThreads s.arg xs).any s.awaitsModule then
      modS fun s => (s.stopThreads s.arg xs).foldl State.halted s
      notYet .clusterStop
    modS fun s => s.stopAll s.arg xs) s

/-! Dispositions (20 R335, 23 R372). -/

/-- The undisposed entry at a ring position whose disposition word holds a value. -/
def State.disposed (s : State) (p e v : Nat) : Option (Nat × Report) :=
  match (s.part p).undisposed.find? fun u => u.1 % 63 == e with
  | some u => if s.mem.readNat (s.supPad p + 0xF040 + 64 * e + 56) 8 = v then some u else none
  | none => none

/-- The kind 5 entry is the one that acts for its slice: the thread's, or the gang leader's (23 R372). -/
def Report.acts (r : Report) : Bool := r.kind != 5 || r.position == 0

/-- An entry is disposed of, for a stop every entry of its slice; reports that waited for it are written. -/
def State.dispose (s : State) (p : Nat) (u : Nat × Report) : State :=
  let s1 := s.modPart p fun x => { x with undisposed := x.undisposed.filter fun w =>
    !(w.1 == u.1 || (u.2.kind == 5 && w.2.kind == 5 && w.2.slice == u.2.slice)) }
  s1.drainReports p ((s1.part p).waiting.length)

/-- The threads of a frozen slice run again from their boundaries; a stopped gang re-forms; one that is STAGING goes on with
that (23 R372). -/
def State.unfreeze (s : State) (x : Slice) : State :=
  let back : Mode := if x.state == .staging then .staging else .running
  let s1 := x.threads.foldl (fun y c => y.modCtx c fun t => if t.mode == .frozen then { t with mode := back } else t) s
  match x.state, x.threads with
  | .running, c :: _ => (s1.again x.id).pushTurn c
  | _, _ => s1

/-- Whether a slice stands frozen. -/
def State.isFrozen (s : State) (x : Slice) : Bool := (s.ctx (x.threads.headD 0)).mode == .frozen

/-- Entry `y` of partition `x`'s report ring holds disposition 1 (20 R335, 23 R372). -/
def execDispositionRelease (s : State) : Outcome State Fault Refusal :=
  runM (event fun s =>
    let p := s.arg.x
    match s.disposed p s.arg.y 1 with
    | none => s
    | some u =>
      let r := u.2
      if !r.acts then s else
      let s1 := s.dispose p u
      match s1.slice r.slice with
      | none => s1
      | some x =>
        if r.kind = 5 then s1.unfreeze x
        else if x.state != .suspended then s1
        else ((s1.modSlice x.id fun y => { y with refill := y.refill || r.kind == 1 }).makeReady x.id false)) s

/-- Entry `y` of partition `x`'s report ring holds disposition 2: the slice is killed (20 R335, R343). -/
def execDispositionKill (s : State) : Outcome State Fault Refusal :=
  runM (event fun s =>
    let p := s.arg.x
    match s.disposed p s.arg.y 2 with
    | none => s
    | some u => if u.2.acts then (s.dispose p u).kill u.2.slice 0 else s) s

/-- The thread whose turn makes a slice's step: the one that runs a handler in a stopped gang, else the first. -/
def State.stepper (s : State) (x : Slice) : Nat :=
  match (s.gangs.find x.id).bind (·.runner) with
  | some r => x.threads.getD r 0
  | none => x.threads.headD 0

/-- A slice's step goes on, or begins: its turn stands first in the agenda, the end of the step behind it. -/
def State.nextTurn (s : State) (x : Slice) : State :=
  let c := s.stepper x
  let rest := s.agenda.filter (· != .turn c)
  { s with agenda := .turn c :: .event .dispositionStep { x := x.part, y := 1, z := x.id } :: rest }

/-- The instruction of a slice's step has not completed: a REP has repetitions to come, or a shaped instruction steps (07 R137). -/
def State.midInstr (s : State) (x : Slice) : Bool :=
  let c := s.ctx (s.stepper x)
  c.mode == .running && (c.rep.isSome || c.issued)

/-- The turn of a slice's step has been made. The step ends when the instruction has completed, or waits, which withdraws it: the
slice freezes again, a gang at the end of its slot, a request to another module resolved (23 R372, 06 R116). -/
def State.endStep (s : State) (x : Slice) : M Unit := do
  let waits := x.threads.any fun c => match (s.ctx c).mode with | .waiting _ => true | _ => false
  let leaves := s.agenda.any fun e => match e with | .event .suspension a => a.x == x.id | _ => false
  if s.isFrozen x || leaves then pure ()
  else if s.slotBusy x.threads then
    if waits then modS fun s => s.halt x.id
    modS fun s => { s with agenda := s.agenda.filter (· != .turn (x.threads.headD 0)) }
    notYet .dispositionStep
  else if s.midInstr x then modS fun s => s.nextTurn x
  else if x.threads.any s.awaitsModule then
    modS fun s => x.threads.foldl State.halted s
    notYet .dispositionStep
  else modS fun s => (x.threads.foldl State.freeze (s.halt x.id)).frozenSlices Cause.step.code [x]

/-- Entry `y` of partition `x`'s report ring, of a stop, holds disposition 3: one instruction, or one slot of the gang, then
a stop again with cause STEP (23 R372). With `z` slice `z` is to make its step, once it has been staged and its core issues from
its thread (11 R231); with `y` as well it has had a turn of it. -/
def execDispositionStep (s : State) : Outcome State Fault Refusal :=
  runM (do
    let s ← get
    if s.arg.z = 0 then
      match s.disposed s.arg.x s.arg.y 3 with
      | none => pure ()
      | some u =>
        if u.2.kind == 5 && u.2.acts then
          modS fun s => (s.dispose s.arg.x u).push .dispositionStep { x := s.arg.x, z := u.2.slice }
    else
      match s.slice s.arg.z with
      | none => pure ()
      | some x =>
        if s.arg.y ≠ 0 then
          if x.state == .running then s.endStep x
        else if !s.isFrozen x then pure ()
        else if x.state == .staging || (s.swapIn (s.stepper x)).yieldsCore then notYet .dispositionStep
        else modS fun s => (s.unfreeze x).nextTurn x) s

/-! Resets (20 R345, 22 R366, 13 R271). -/

/-- A cluster's jobs discarded: their duties are orphaned, their done objects become BROKEN (08 R165). -/
def State.discardJobs (s : State) (cl : Nat) : State :=
  let c := s.cluster cl
  let p := (s.partOf cl).getD 0
  let s1 := s.modCluster cl fun c => { c with jobs := [], offers := [] }
  c.jobs.foldl (fun y j =>
    match j.done with
    | none => y
    | some (key, loc) =>
      match j.duty with
      | some d => (y.orphan p j.core ⟨loc, d, 1, 0, j.due, false, false, false⟩).writeOrphans p
      | none => if (y.obj key).broken then y else y.breakObj j.core key) s1

/-- Parked requests at a cluster's bank units complete as timeouts (06 R114). -/
def State.timeoutPads (s : State) (cl : Nat) : State :=
  let here := fun key : Nat => isPad key && clusterOf (key - padBase) == cl
  (s.parked.filter fun q => here q.key).foldl (fun y q =>
    let y1 := { y with parked := y.parked.erase q }
    if q.remote then y1.answer q.req .timeout else y1.feFinish q.req.core (!q.req.store) none 0) s

/-- A thread in a handle wait on a ring that is gone is released as the wait on a BROKEN one is: its instruction traps with
POISON (07 R140). The handle that names the location gives `tval`. -/
def State.wakeHandle (s : State) (core loc : Nat) : State :=
  (s.modCtx core fun c =>
    let ref := ((c.h.toList.find? fun h => h.role != .unbound && locOf core h.ref == loc).map (·.ref)).getD 0
    { c with mode := .running, watchDue := none, watchMet := false, late := some (.poison, ref), ringTrap := true }).pushTurn core

/-- The waiters on objects in a cluster's pads released with BRK (20 R345): threads in WAIT or LOCK, threads in a handle wait, and
other clusters' matrix jobs, whose status then has BRK (09 R181). -/
def State.wakePads (s : State) (cl : Nat) : State :=
  let here := fun key : Nat => isPad key && clusterOf (key - padBase) == cl
  let s1 := (s.waiters.filter fun w => here w.key).foldl (fun y w =>
    { y with waiters := y.waiters.erase w }.wake w.core ((s.obj w.key).status ||| 2 ^ 63) true) s
  let s2 := ((s1.t.coreid, s1.t) :: s1.others).foldl (fun y (c, t) =>
    match t.mode with
    | .waiting (.handle k loc _ _ _) => if here k then y.wakeHandle c loc else y
    | _ => y) s1
  let free := fun j : Job => match j.wait with
    | some (k, _) => if here k && !j.running then { j with wait := none, brk := true } else j
    | none => j
  { s2 with clusters := s2.clusters.map fun (x : Nat × Cluster) =>
      (x.1, { x.2 with jobs := x.2.jobs.map free, offers := x.2.offers.map free }) }

/-- The slices with a thread on a cluster. -/
def State.slicesOn (s : State) (cl : Nat) : List Slice := s.slices.filter fun x => x.threads.any fun c => clusterOf c == cl

/-- A cluster reset, with its reason: 0 a command, 1 uncorrectable control state. The slices on it can leave their threads. -/
def State.resetCluster (s : State) (cl reason : Nat) : State :=
  match s.partOf cl with
  | none => s
  | some p =>
    let gone := s.slicesOn cl
    let bound := s.boundTo cl
    let armed := (s.cluster cl).armed.length
    let s1 := (gone ++ bound).foldl (fun y x => y.killNow x.id 0) s
    let s2 := ((s1.killTable cl).discardJobs cl).timeoutPads cl |>.wakePads cl
    let pads := (List.range 9).map fun l => padOf (coreAt cl l)
    let s3 := { s2 with
      mem := pads.foldl (fun m a => m.clear a 0x10000) s2.mem
      bad := pads.foldl (fun l a => setDropRange l a 0x10000) s2.bad
      full := pads.foldl (fun l a => setDropRange l a 0x10000) s2.full
      subs := s2.subs.filter fun u => !(bitOf u.loc 32 && clusterOf (u.loc % 2 ^ 32) == cl)
      pendings := s2.pendings.filter fun q => !(isPad q.key && clusterOf (q.key - padBase) == cl) }
    let s4 := s3.modCluster cl fun c => { c with tiles := [], acc := [], badRows := [], badCells := [] }
    let s5 := (List.range 8).foldl (fun y l => if (y.core (coreAt cl l)).lines == [] then y
      else y.modCore (coreAt cl l) fun k => { k with lines := [] }) s4
    s5.logError p { kind := 15, location := coreAt cl 0, detailB := reason, count := gone.length + bound.length + armed }

/-- An uncorrectable error in the router or object-home state of cluster `x` resets it (20 R345, 22 R366); `y` is the
reason. -/
def execClusterReset (s : State) : Outcome State Fault Refusal :=
  runM (do
    endSlots .clusterReset fun s => s.slicesOn s.arg.x
    modS fun s => s.resetCluster s.arg.x s.arg.y) s

/-- The clusters of a die that are in a partition. -/
def State.clustersOn (s : State) (die : Nat) : List Nat := s.parts.flatMap fun p => p.2.clusters.filter fun c => c / 256 == die

/-- Every cluster of a die, and its fabric interface, reset (22 R366); a cluster's gangs end their slots first. -/
def State.resetDie (s : State) (die : Nat) : State :=
  ((s.clustersOn die).foldl (fun y c => y.push .clusterReset { x := c }) s).resetInterface die (3 * 4 ^ die)

/-! Rollback (22 R355 to R359). -/

/-- A slice's members are in their save areas: it is suspended, or staging for resumption. -/
def Slice.off (x : Slice) : Bool := x.threads.isEmpty || !x.saved.isEmpty

/-- The members' positions in their slices, as the snapshot lists them. -/
def memberPositions : List Ctx → List (Ctx × Nat) → List (Ctx × Nat)
  | [], acc => acc
  | c :: cs, acc => memberPositions cs (acc ++ [(c, (acc.filter fun a => a.1.sliceid == c.sliceid).length)])

/-- Where the contents of a pad's location are now: a member that has left its core since the snapshot has taken its pad along,
to its save area or to another core (20 R341). -/
def State.undoPlace (s : State) (d : Domain) (key : Nat) : Nat :=
  let k := coreKey (key - padBase)
  let off := (key - padBase) % 2 ^ 17
  let place := (memberPositions d.undoCtx []).findSome? fun (c, pos) =>
    match s.slice c.sliceid.toNat with
    | none => none
    | some x =>
      if !(coreKey c.coreid == k || (x.lastThreads[pos]?).any fun t => coreKey t == k) then none
      else if x.off then
        if x.bounds.getD pos true then none else some ((s.part x.part).slotAddr (x.slots.getD pos 0) + 0x1000 + off)
      else (x.threads[pos]?).map fun t => padOf t + off
  if isPad key then place.getD key else key

/-- One entry of a domain's undo log applied: the block's old contents, its marks, its full/empty bits. -/
def State.applyUndo (d : Domain) (s : State) (u : Undo) : State :=
  if u.space ≤ 1 then
    let old := if u.space = 0 then padBase + u.block else u.block
    let key := s.undoPlace d old
    let s1 := s.write key u.old
    { s1 with
      bad := (u.bad.map fun a => key + (a - old)).foldl setAdd (setDropRange s1.bad key 64)
      full := (u.full.map fun a => key + (a - old)).foldl setAdd (setDropRange s1.full key 64) }
  else
    let cl := clusterOf (u.block % 2 ^ 32)
    let t := bitsOf u.block 32 4
    let row := bitsOf u.block 36 10
    if u.space = 2 then
      let n := u.full.getD 1 0
      let m := u.full.getD 2 0
      s.modCluster cl fun c => { c with
        tiles := (c.tiles.writeBytes (tileKey t (u.full.getD 0 0)) (u.old.take n)).writeBytes (sideKey t row) (u.old.drop n)
        badRows := u.bad.foldl setAdd (setDropRange c.badRows (t * 256 + row) m) }
    else
      s.modCluster cl fun c => (List.range 128).foldl (fun c j =>
        c.setCell row j (BitVec.ofNat 32 (leNat ((u.old.drop (4 * j)).take 4))) (u.bad.contains j)) c

/-- The copies and jobs of some slices discarded, without their duties, which the snapshot restores. -/
def State.discardEngines (s : State) (ids : List Nat) : State :=
  let mine := s.copies.filter fun c => ids.contains c.slice.toNat
  let running := mine.filter fun c => c.running
  let s1 := running.foldl (fun y c => y.stopChannel c.cluster c.channel) s
  let drop := fun c : Cluster => { c with
    jobs := c.jobs.filter fun j => !ids.contains j.slice.toNat
    offers := c.offers.filter fun j => !ids.contains j.slice.toNat }
  let s2 := { s1 with
    copies := s1.copies.filter fun c => !ids.contains c.slice.toNat
    clusters := s1.clusters.map fun (x : Nat × Cluster) => (x.1, drop x.2) }
  let s3 := running.foldl (fun y c => y.push .copyStart { x := c.cluster, y := c.channel }) s2
  -- other slices' issues may take the entries that are free now (08 R153)
  (s1.clusters.filter fun (x : Nat × Cluster) => x.2.jobs.any fun j => ids.contains j.slice.toNat).foldl (fun y x => y.moreOffers x.1) s3

/-- A member's snapshot written back: into its thread, or into the save area of a suspended slice (22 R358). -/
def State.restoreMember (s : State) (c : Ctx) (pos : Nat) : State :=
  match s.slice c.sliceid.toNat with
  | none => s
  | some x =>
    if x.off then
      let p := s.part x.part
      let a := p.slotAddr (x.slots.getD pos 0)
      let gang := (s.gangs.find x.id).isSome
      let lead := p.slotAddr (x.slots.headD 0)
      let s1 := ((s.lay a (s.saveImage c
        { bound := x.bounds.getD pos false, gang := gang, padcfg := x.padcfgs.getD pos 0, reason := x.reason, slotAddr := a
          gangBlock := if gang then lead + 0x15000 else 0, gangpos := c.gangpos.toNat })).saveTable a c.obls).saveMarks c a
      s1.modSlice x.id fun y => { y with saved := y.saved.set pos c }
    else
      let core := x.threads.getD pos c.coreid
      let s1 := (((s.withdraw core).setCtx { c with coreid := core, kind := kindAt core }).joinDomains core).modSlice x.id
        fun y => { y with state := .running }
      if c.mode == .idle then s1 else s1.pushTurn core

/-- Domain `i` of a partition rolled back to its snapshot (22 R358). The return of SYNC, at which the members go on, is an acquire
(12 R237, R242). -/
def State.rollBack (s : State) (p i : Nat) (d : Domain) : State :=
  let ids := (d.undoCtx.map (·.sliceid.toNat)).eraseDups
  let cores := (s.slices.filter fun x => ids.contains x.id).flatMap (·.threads)
  let s1 := ((cores.foldl State.withdraw s).dropMembers cores).discardEngines ids
  let s2 := { s1 with pendings := s1.pendings.filter fun q => !cores.contains q.agent }
  let s3 := d.undo.reverse.foldl (State.applyUndo d) s2
  let s4 := (memberPositions d.undoCtx []).foldl (fun y (c, pos) => y.restoreMember c pos) s3
  let gangs := d.undoGangs.foldl (fun t (id, g) =>
    match s4.slice id with
    | some x => t.put id { g with members := x.threads, stopped := x.off }
    | none => t) s4.gangs
  let s5 := { cores.foldl State.acquire s4 with gangs := gangs }.modDomain p i fun d => { d with rolledBack := true, undo := [] }
  s5.logError p { kind := 9, location := s.t.coreid, cause := Cause.poison.code, detailA := d.level * 256 + d.number
                  detailB := d.phase.toNat, detailC := d.undoEntries }

/-- The slices of a domain's members. -/
def State.memberSlices (s : State) (d : Domain) : List Slice :=
  s.slices.filter fun x => (if x.threads.isEmpty then x.lastThreads else x.threads).any d.hasMember

/-- A superstep that cannot be repeated: every member slice is killed (22 R359). -/
def State.killMembers (s : State) (p : Nat) (d : Domain) : State :=
  let slices := s.memberSlices d
  let s1 := slices.foldl (fun y x => y.killNow x.id Cause.poison.code) s
  s1.logError p { kind := 10, location := s.t.coreid, cause := Cause.poison.code, detailA := d.level * 256 + d.number
                  detailB := d.phase.toNat, count := slices.length }

/-- POISON in the snapshotted superstep of domain `y` of partition `x`: the domain is rolled back (22 R358); with `z` the
supervisor has the trap of a superstep that cannot be repeated, and every member slice is killed (R359). -/
def execRollback (s : State) : Outcome State Fault Refusal :=
  runM (do
    let s ← get
    let p := s.arg.x
    match (s.part p).domains[s.arg.y]? with
    | none => pure ()
    | some d =>
      if s.arg.z = 0 then
        if d.snapshot && d.repeatable && !d.rolledBack then modS fun s => s.rollBack p s.arg.y d
      else
        endSlots .rollback fun s => s.memberSlices d
        modS fun s => s.killMembers p d) s

/-! Soft errors (22 R350 to R353). -/

/-- The partition that holds a location key. -/
def State.partAt (s : State) (key : Nat) : Option Nat :=
  if isPad key then s.partOf (clusterOf (key - padBase)) else (s.parts.find? fun x => x.2.inWindows key 1).map (·.1)

/-- The latest of the `n` entries of an error log that a correction merges into: one of kind 1 for the same row, address and
location, not a second old (22 R353). -/
def State.mergesInto (s : State) (place : Nat → Nat) (n row addr location : Nat) : Option Nat :=
  ((List.range (min n 4096)).map fun i => n - 1 - i).find? fun k =>
    s.mem.readNat (place k) 8 == addr && s.mem.readNat (place k + 16) 4 == location && s.mem.readNat (place k + 20) 1 == 1 &&
      s.mem.readNat (place k + 22) 2 == row && s.time < s.mem.readNat (place k + 48) 8 + 1000000000

/-- A kind 1 or kind 2 entry; corrections at one location within one second merge into one entry. -/
def State.logSoft (s : State) (p : Option Nat) (row addr location : Nat) (corrected : Bool) : State :=
  match p with
  | none => s
  | some p =>
    let syndrome := (Config.syndrome s.fresh).toNat
    let s1 := { s with fresh := s.fresh + 1 }
    match (s.part p).errorLog with
    | none => s1
    | some a =>
      let place := fun k => a + 64 + k % 4096 * 64
      match if corrected then s.mergesInto place (s.mem.readNat a 8) row addr location else none with
      | some k => s1.writeNat (place k + 28) 4 (s.mem.readNat (place k + 28) 4 + 1)
      | none => s1.logError p { addr := addr, location := location, kind := if corrected then 1 else 2, detailA := row, detailB := syndrome }

/-- The location that an error in memory is reported at: a pad's core, the cluster beside the home slice of an error in L2, else a
stack's Cobbler (22 R352, 19 R322). -/
def State.errorPlace (s : State) (row addr : Nat) : Nat :=
  if isPad addr then (addr - padBase) / 2 ^ 17 * 2 ^ 17
  else if row = 1 then coreAt ((s.part ((s.partAt addr).getD 0)).homeSlice addr) 0
  else cobblerLocation (stackOf addr)

/-- What a soft error does: a corrected one leaves the array as it was, another poisons its granule: every doubleword that the
failing symbols touch, a register, an entry (22 R350). A slot of a loop buffer holds a capture, which the model leaves out (log
entry 5). -/
def State.strike (s : State) (e : StorageError) : State :=
  match e with
  | .memory row addr bytes corrected =>
    let s1 := if corrected then s else s.poison addr (max 1 bytes)
    s1.logSoft (s.partAt addr) row addr (s.errorPlace row addr) corrected
  | .tile cl t row corrected =>
    let s1 := if corrected then s else s.modCluster cl fun c => { c with badRows := setAdd c.badRows (t * 256 + row) }
    s1.logSoft (s.partOf cl) 3 0 (coreAt cl 0) corrected
  | .cell cl row col corrected =>
    let s1 := if corrected then s else s.modCluster cl fun c => { c with badCells := setAdd c.badCells (cellKey row col) }
    s1.logSoft (s.partOf cl) 4 0 (coreAt cl 0) corrected
  | .register core n corrected =>
    let s1 := if corrected then s else s.modCtx core fun c => { c with badRegs := setAdd c.badRegs n }
    s1.logSoft (s.partOf (clusterOf core)) 5 0 core corrected
  | .entry core n corrected =>
    let s1 := if corrected then s else s.modCtx (s.leaderOf core) fun c => { c with obls := c.obls.modify n fun o => { o with bad := true } }
    s1.logSoft (s.partOf (clusterOf core)) 5 0 core corrected
  | .loopSlot core _ corrected => s.logSoft (s.partOf (clusterOf core)) 5 0 core corrected

/-- A soft error (22 R350). -/
def execSoftError (s : State) : Outcome State Fault Refusal :=
  runM (event fun s => match s.arg.error with | some e => s.strike e | none => s) s

/-- The patrol scrub of stack `x`, every 8 hours from time `z`: an error it finds is dealt with there and then (22 R350). -/
def execPatrolScrub (s : State) : Outcome State Fault Refusal :=
  runM (do
    let s ← get
    if s.time < s.arg.z + 8 * 3600 * 1000000000 then notYet .patrolScrub
    modS fun s =>
      let s1 := match s.arg.error with | some e => s.strike e | none => s
      s1.push .patrolScrub { x := s.arg.x, z := s.time }) s

/-! The Nose (22 R360 to R363). -/

/-- A cluster that takes on no further slice (22 R363). -/
def State.suspected (s : State) (cl : Nat) : State := s.modCluster cl fun c => { c with quarantined := true }

/-- A slice can be suspended now: it is in no transfer phase and its threads stand at boundaries (11 R231, 20 R336). -/
def State.suspendable (s : State) (x : Slice) : Bool := x.threads.all (fun c => (s.transferOf c).isNone) && s.readyToLeave x

/-- A cluster quarantined, once every slice that runs there can be suspended (22 R363). -/
def State.quarantine (s : State) (cl : Nat) : State :=
  match s.partOf cl with
  | none => s
  | some p =>
    let s0 := s.suspected cl
    let here := s0.runningOn cl
    let s1 := here.foldl (fun y x => y.suspend x.id 0 true) s0
    let moved := here.filter fun x => match s1.slice x.id with | some y => !y.coreBound | none => false
    let s2 := moved.foldl (fun y x => y.makeReady x.id false) s1
    let s3 := (s2.boundTo cl).foldl (fun y x => y.killNow x.id 0) s2
    let s4 := s3.killTable cl
    (s4.logError p { kind := 12, location := coreAt cl 0, detailA := 1, count := moved.length }).notice p 3 cl

/-- A cluster released from quarantine by configuration command 12. -/
def State.unquarantine (s : State) (p cl : Nat) : State :=
  if !(s.cluster cl).quarantined then s else
  ((s.modCluster cl fun c => { c with quarantined := false }).logError p { kind := 12, location := coreAt cl 0, count := 0 }).push
    .dispatchMatch { x := p }

/-- A replay of audited slice `x` is pushed: the same record at priority 0, on no cluster that has run it (22 R361, R362). -/
def execNoseAuditPush (s : State) : Outcome State Fault Refusal :=
  runM (event fun s =>
    match s.audits.find? (·.id == s.arg.x) with
    | none => s
    | some u =>
      if u.since.isNone || 3 ≤ u.runs.length || s.slices.any (fun x => x.replayOf == some u.id) then s else
      let (s1, id) := s.pushSlice engineAgent u.part u.record [] none
      (s1.occupy u.part (recQueue u.record) false).modSlice id fun y => { y with
        prio := 0, counted := false, replayOf := some u.id }) s

/-- An audit's entry of kind 11. -/
def State.logVerdict (s : State) (u : Audit) (mask runs : Nat) : State :=
  let sig := fun i => (u.runs.getD i (0, 0)).2
  s.logError u.part { kind := 11, slice := u.id, location := coreAt (u.runs.headD (0, 0)).1 0, detailA := mask, detailB := sig 0
                      detailC := sig 1, count := runs }

/-- The cluster that the signatures of three runs make suspect: the one whose run differs from two that agree (22 R362). -/
def Audit.suspect (u : Audit) : Option Nat :=
  match u.runs with
  | [(c0, a), (c1, b), (c2, c)] =>
    if b = c && a != b then some c0 else if a = c && a != b then some c1 else if a = b && a != c then some c2 else none
  | _ => none

/-- What the end of a replay brings. -/
def State.verdict (s : State) : State :=
    match s.audits.find? (·.id == s.arg.x) with
    | none => s
    | some u =>
      let done := { s with audits := s.audits.filter (·.id != u.id) }
      match u.runs with
      | [(_, a), (_, b)] => if a = b then done else s.push .noseAuditPush { x := u.id }
      | [(c0, a), (_, b), (_, c)] =>
        let mask := (if a = b then 1 else 0) + (if a = c then 2 else 0) + (if b = c then 4 else 0)
        let s1 := done.logVerdict u mask 3
        match u.suspect with
        | some cl => s1.quarantine cl
        | none => s1.report u.part
          { kind := 0, cause := Cause.poison.code, slice := u.id, position := 0, resume := 0, tval := 0, core := coreAt c0 0, slot := 0 }
      | _ => s

/-- A replay of audited slice `x` has ended: signatures that agree end the audit, ones that differ ask for a third run, and
three runs give a verdict (22 R362). A cluster that it makes suspect takes on no further slice from now on, and is quarantined
when every slice there can be suspended (R363). -/
def execNoseVerdict (s : State) : Outcome State Fault Refusal :=
  runM (do
    let s ← get
    match (s.audits.find? (·.id == s.arg.x)).bind Audit.suspect with
    | none => modS State.verdict
    | some cl =>
      let here := s.runningOn cl
      if here.all s.suspendable then modS State.verdict
      else
        modS fun s => (here.filter fun x => x.threads.all fun c => (s.transferOf c).isNone).foldl State.towardLeaving (s.suspected cl)
        notYet .noseVerdict) s

/-- The audit of slice `x` that has not ended 10 s after its retirement is abandoned (22 R362). -/
def execAuditAbandon (s : State) : Outcome State Fault Refusal :=
  runM (do
    let s ← get
    match s.audits.find? (·.id == s.arg.x) with
    | none => pure ()
    | some u =>
      match u.since with
      | none => pure ()
      | some t =>
        if s.time < t + 10000000000 then notYet .auditAbandon
        modS fun s =>
          let replays := s.slices.filter fun x => x.replayOf == some u.id
          let s1 := replays.foldl (fun y x => (x.threads.foldl State.stopThread y).retireSlice x.id) s
          { s1 with audits := s1.audits.filter (·.id != u.id) }.logVerdict u 0 0) s

end Sys2Proof.Machine
end

