-- ==== Sys2Proof/Machine/Vm.lean ====
section
/-! DEFINITION. VM: major 42 (19 R313 to R319). -/

namespace Sys2Proof.Machine

open Host (Outcome)

/-- Where the walk of levels 1 to 4 ends without a fault: a leaf, or the address of the level-5 entry. -/
inductive PageWalk where
  | leaf (pte level : Nat)
  | entry (addr : Nat)
deriving DecidableEq, Repr

/-- A refusal of 19 R305 during a walk: logged, then ACCV. -/
def refuseWalk {α : Type} (va : Word) : M α := do
  modS fun s => s.logAccess (s.partNo s.t.coreid) va.toNat s.t.sliceid.toNat s.t.coreid Cause.accv.code 4
  trapNow .accv va

/-- The walk of levels 1 to 4 for a page operation of the current context; its faults trap as 19 R306 states. The address
must be global (R314). -/
def walkToPage (va : Word) : M PageWalk := do
  require (classOf va == .global) .accv va
  let s ← get
  let p := s.partNo s.t.coreid
  match s.walkFrom [] p va.toNat 4 1 (s.part p).root with
  | .leaf pte lvl _ =>
    if (s.part p).reaches (leafPa pte lvl va.toNat) 1 then pure (.leaf pte lvl) else refuseWalk va
  | .outside _ _ => refuseWalk va
  | .fault c lvl t =>
    if lvl < 5 then trapNow c va else
    -- the table of level 5 is reached
    let addr := t + 8 * fieldOf va 12 9
    if (s.part p).inWindows addr 8 then pure (.entry addr) else refuseWalk va

/-- The pools in the order of 19 R313 for a die: its own three stacks, then the others. -/
def poolOrder (die : Nat) : List Nat :=
  let own := [3 * die, 3 * die + 1, 3 * die + 2]
  own ++ (List.range 12).filter fun k => !own.contains k

/-- The stack whose pool gives the next page, with its pages. -/
def Partition.nextPage (x : Partition) (die : Nat) : Option (Nat × Nat × List Nat) :=
  (poolOrder die).findSome? fun k =>
    match x.pools.getD k [] with
    | q :: rest => some (k, q, rest)
    | [] => none

/-- The supervisors parked on a PTE go on where they stopped (19 R312). -/
def State.unparkSup (s : State) (addr : Nat) : State :=
  (s.parts.filter fun x => x.2.supParked == some addr).foldl (fun y x =>
    ((y.modPart x.1 fun z => { z with supParked := none }).modCtx x.2.supervisor fun c =>
      if c.mode == .stopping then { c with mode := .running } else c).pushTurn x.2.supervisor) s

/-- Every activity parked on a PTE goes back to its pool with its old arrival number (19 R312, R315). -/
def State.unpark (s : State) (addr : Nat) : State :=
  ((s.slices.filter fun x => x.parked == some addr && x.state == .suspended).foldl (fun y x => y.makeReady x.id false) s).unparkSup addr

/-- A reserved entry committed to a page (19 R315): rights, G and software bits stay. -/
def commitEntry (e q : Nat) : Nat := putBits (putBits (putBits e 12 40 (q / 4096)) 7 1 0) 0 1 1

/-- The step of PGCOMMIT at its entry's home: the page is taken, its full/empty bits become empty, activities parked on the
entry are released. -/
def State.commitPage (s : State) (part addr stack q : Nat) (rest : List Nat) : State :=
  let s1 := s.modPart part fun x => { x with pools := x.pools.put stack rest }
  let s2 := { s1 with full := setDropRange s1.full q 4096 }
  (s2.writeNat addr 8 (commitEntry (s2.mem.readNat addr 8) q)).unpark addr

/-- PGCOMMIT (19 R315). -/
def execPgcommit (a : Src) (d : Code) (s : State) : Outcome State Fault Refusal :=
  runM (do
    let i := Instr.pgcommit a d
    gate i
    notInTransfer i
    let va ← readSrc a
    release
    let v ← match ← walkToPage va with
      | .leaf pte lvl => pure (1 + leafPa pte lvl va.toNat / 4096 * 4096)
      | .entry addr => do
        let s ← get
        let e := s.mem.readNat addr 8
        if bitOf e 0 then pure (1 + bitsOf e 12 40 * 4096) else
        require (bitOf e 7) .page va
        require (bitsOf e 8 2 == 0 && bitsOf e 52 7 == 0 && !bitOf e 1 && !bitOf e 6) .ptersv va
        let p := s.partNo s.t.coreid
        match (s.part p).nextPage (dieOf s.t.coreid) with
        | none => pure 2
        | some (k, q, rest) =>
          modS fun s => s.commitPage p addr k q rest
          pure (q / 4096 * 4096)
    writeD d (word v)
    retire i) s

/-- The cached leaves that a condition does not drop. -/
def State.dropLeaves (s : State) (drops : TlbEntry → Bool) : State :=
  { s with
    clusters := s.clusters.map fun (x : Nat × Cluster) => (x.1, { x.2 with tlb := x.2.tlb.filter fun e => !drops e })
    cores := s.cores.map fun (x : Nat × CoreSt) => (x.1, { x.2 with micro := x.2.micro.filter fun e => !drops e }) }

/-- The parked LDX and STX of a partition translated anew (19 R317, R318; log entry 77): one whose address no longer leads to
its place leaves its list, and its instruction, or the request at its target, is executed again. -/
def State.retranslate (s : State) (part : Nat) : State :=
  let stays := fun p : Parked =>
    isPad p.key || p.req.part != part ||
      match s.walk part p.req.addr with | .leaf pte lvl _ => leafPa pte lvl p.req.addr == p.key | _ => false
  let gone := s.parked.filter fun p => !stays p
  gone.foldl (fun y p => if p.remote then y.push .remoteFeRequest { fe := some p.req } else
    y.modCtx p.req.core fun c => if c.mode == .waiting .fe then { c with mode := .running } else c)
    { s with parked := s.parked.filter stays }

/-- The shootdown of a physical page: no cached translation of the partition maps it, no cache line holds it (19 R316). -/
def State.shootdown (s : State) (part page : Nat) : State :=
  let maps := fun e : TlbEntry =>
    e.part == part &&
      let pa := bitsOf e.pte.toNat 12 40 * 4096
      pa < page + 4096 && page < pa + e.size
  let s1 := s.dropLeaves maps
  { s1 with cores := s1.cores.map fun (x : Nat × CoreSt) =>
      (x.1, { x.2 with lines := x.2.lines.filter fun l => !(page ≤ l.sector && l.sector < page + 4096) }) }

/-- A page appended to the pool of its stack. -/
def State.poolPage (s : State) (part page : Nat) : State :=
  s.modPart part fun x => { x with pools := x.pools.put (stackOf page) (x.pools.getD (stackOf page) [] ++ [page]) }

/-- The step of PGFREE at its entry's home, the shootdown, and the page's return to its pool. -/
def State.freePage (s : State) (part addr page : Nat) : State :=
  let e := s.mem.readNat addr 8
  (((s.writeNat addr 8 (putBits (putBits (putBits e 12 40 0) 7 1 1) 0 1 0)).shootdown part page).retranslate part).poolPage part page

/-- PGFREE (19 R316). -/
def execPgfree (a : Src) (d : Code) (s : State) : Outcome State Fault Refusal :=
  runM (do
    let i := Instr.pgfree a d
    gate i
    notInTransfer i
    let va ← readSrc a
    release
    let v ← match ← walkToPage va with
      | .leaf _ _ => trapNow .illop (imageOf i)
      | .entry addr => do
        let s ← get
        let e := s.mem.readNat addr 8
        if !bitOf e 0 then
          require (bitOf e 7) .page va
          pure 1
        else
          require (bitsOf e 8 2 == 0 && bitsOf e 52 7 == 0 && !bitOf e 7 && !bitOf e 1) .ptersv va
          require (!bitOf e 6) .illop (imageOf i)
          let p := s.partNo s.t.coreid
          let page := bitsOf e 12 40 * 4096
          if !(s.part p).inWindows page 4096 then refuseWalk va
          modS fun s => s.freePage p addr page
          pure 0
    writeD d (word v)
    retire i) s

/-- Whether TLBINV in a mode drops a cached translation (19 R318). -/
def tlbDrops (mode : Nat) (va : Nat) (e : TlbEntry) : Bool :=
  match mode with
  | 0 => e.base ≤ va && va < e.base + e.size
  | 1 => !flagOf e.pte 63
  | _ => true

/-- Whether it drops a cached table entry. -/
def walkDrops (mode : Nat) (va : Nat) (e : WalkEntry) : Bool := mode != 0 || va / 2 ^ levelShift e.level == e.tag

/-- The translations of a partition that TLBINV drops, on every die; what was translated through them is settled. -/
def State.invalidate (s : State) (part mode va : Nat) : State :=
  let s1 := s.dropLeaves fun e => e.part == part && tlbDrops mode va e
  { s1 with walks := s1.walks.map fun (x : Nat × List WalkEntry) =>
      (x.1, x.2.filter fun e => !(e.part == part && walkDrops mode va e)) }.retranslate part

/-- TLBINV (19 R318). -/
def execTlbinv (b a : Src) (s : State) : Outcome State Fault Refusal :=
  runM (do
    let i := Instr.tlbinv b a
    gate i
    notInTransfer i
    let va ← readSrc a
    let mode ← readSrc b
    require (mode.toNat ≤ 2) .illop (imageOf i)
    let s ← get
    require (mode == 0 || s.isSup s.t.coreid) .perm va
    require (classOf va == .global) .accv va
    release
    modS fun s => s.invalidate (s.partNo s.t.coreid) mode.toNat va.toNat
    acquire
    retire i) s

/-- The result of ADDRQ for a leaf (19 R319). -/
def addrqLeaf (pte level va : Nat) (grouped : Bool) : Nat :=
  leafPa pte level va / 4096 * 4096 + level * 256 + (if grouped then 64 else 0) + bitsOf pte 63 1 * 32 + bitsOf pte 5 1 * 16 +
    bitsOf pte 4 1 * 8 + bitsOf pte 3 1 * 4 + bitsOf pte 2 1 * 2 + 1

/-- The result of ADDRQ for a fault. -/
def addrqFault (c : Cause) (level : Nat) : Nat := level * 256 + c.code * 2

/-- What ADDRQ reports for the current context: the translation of a load, or the fault it would meet. -/
def State.addrq (s : State) (va : Word) : Nat :=
  if classOf va != .global then addrqFault .accv 0 else
  let p := s.partNo s.t.coreid
  let report := fun (pte lvl : Nat) (grouped : Bool) =>
    if (s.part p).reaches (leafPa pte lvl va.toNat) 1 then addrqLeaf pte lvl va.toNat grouped else addrqFault .accv lvl
  match s.cachedLeaf .core s.t.coreid p va.toNat with
  | some e => report (leafAt e va.toNat) e.level (decide (2 ^ levelShift e.level < e.size))
  | none =>
    match s.walkOn (dieOf s.t.coreid) p va.toNat with
    | .leaf pte lvl addr => report pte lvl (s.honoured p pte lvl addr)
    | .fault c lvl _ => addrqFault c lvl
    | .outside _ lvl => addrqFault .accv lvl

/-- ADDRQ (19 R319). -/
def execAddrq (a : Src) (d : Code) (s : State) : Outcome State Fault Refusal :=
  runM (do
    let i := Instr.addrq a d
    gate i
    notInTransfer i
    let va ← readSrc a
    let v ← readS fun s => s.addrq va
    writeD d (word v)
    retire i) s

end Sys2Proof.Machine
end

