-- ==== Sys2Proof/Machine/ConfigWin.lean ====
section
/-! DEFINITION. The commands of the configuration window (19 R320, R327, 22 R354). -/

namespace Sys2Proof.Machine

open Host (Outcome)

/-! The command in progress. -/

/-- The index, and `n` bytes of the value at an offset. -/
def Partition.cfgIndex (x : Partition) : Nat := bitsOf x.cfg.toNat 16 16
def Partition.cfgVal (x : Partition) (off n : Nat) : Nat := bitsOf x.cfg.toNat (64 + 8 * off) (8 * n)

/-- A command of a code carried out by `f`: its final status, and the state after it where that is 0 (19 R327). -/
def State.commanded (s : State) (code : Nat) (f : Nat → Partition → State → State × Nat) : State :=
  let p := s.arg.x
  let x := s.part p
  if x.cfgStatus != 1 || bitsOf x.cfg.toNat 0 16 != code then s else
  let (s1, st) := if bitsOf x.cfg.toNat 32 32 != 0 then (s, 2) else f p x s
  (if st = 0 then s1 else s).modPart p fun y => { y with cfgStatus := word st }

/-- The meaning of a command's event. -/
def command (code : Nat) (f : Nat → Partition → State → State × Nat) (s : State) : Outcome State Fault Refusal :=
  runM (event fun s => s.commanded code f) s

/-- The partition's save region (20 R338). -/
def Partition.inSaveRegion (x : Partition) (pa n : Nat) : Bool := rangesMeet (pa, n) (x.slotAddr 0, 4 * 2 ^ 30)

/-- Whether a command may name `n` bytes at a physical address. -/
def Partition.mayName (x : Partition) (pa n : Nat) : Bool := x.inWindows pa n && !x.inSaveRegion pa n

/-! Codes 1 and 2 (08 R146, 18 R288). -/

/-- The scale area's bytes of a region: one byte, or four, for each block. -/
def regionScaleBytes (r : BitVec 256) : Nat :=
  let block := 16 * 2 ^ regionCode r
  let elems := regionLen r * 8 / max 1 (typeBits (regionType r))
  (elems + block - 1) / block * (if regionType r = 13 then 4 else 1)

/-- Command 1 writes format region 1 to 31 (08 R146). -/
def execCfgFormatRegion (s : State) : Outcome State Fault Refusal :=
  command 1 (fun p x s =>
    let n := x.cfgIndex
    let r := BitVec.ofNat 256 (x.cfgVal 0 32)
    if n = 0 || 31 < n || (regionLen r != 0 && !regionLawful r) then (s, 2)
    else if regionLen r != 0 && !(x.mayName (regionBase r) (regionLen r) && x.mayName (regionScales r) (regionScaleBytes r)) then (s, 3)
    else if regionLen r != 0 && x.regions.any (fun (k, q) => k != n && regionLen q != 0 &&
        rangesMeet (regionBase q, regionLen q) (regionBase r, regionLen r)) then (s, 4)
    else (s.modPart p fun y => { y with regions := y.regions.put n r }, 0)) s

/-- A queue descriptor's bytes hold no reserved value (18 R288). -/
def queueLawful (x : Partition) : Bool :=
  x.cfgVal 0 1 ≤ 1 && x.cfgVal 1 1 ≤ 3 && x.cfgVal 2 2 == 0 && x.cfgVal 12 4 == 0 && 1 ≤ x.cfgVal 4 4 && x.cfgVal 4 4 ≤ 65536

/-- Command 2 writes queue 0 to 1,023; its occupancy stays. A reserved value leaves the queue invalid (18 R288; log entry
22). -/
def execCfgQueue (s : State) : Outcome State Fault Refusal :=
  runM (event fun s =>
    let p := s.arg.x
    let x := s.part p
    let n := x.cfgIndex
    let t := s.commanded 2 fun p x s =>
      if 1023 < n || !queueLawful x then (s, 2) else
      let q : Queue := ⟨x.cfgVal 0 1 == 1, x.cfgVal 1 1, x.cfgVal 4 4, (x.queue n).occupancy⟩
      (s.modPart p fun y => { y with queues := y.queues.put n q }, 0)
    if x.cfgStatus == 1 && bitsOf x.cfg.toNat 0 16 == 2 && n ≤ 1023 && !queueLawful x && (x.queue n).valid then
      t.modPart p fun y => { y with queues := y.queues.put n { y.queue n with valid := false } }
    else t) s

/-! Code 3: domains (11 R223, R224, R230, 22 R355). -/

/-- The membership list's entries: cluster and register; none for one with a reserved value. -/
def readMembers (m : Memory) (a n : Nat) : Option (Tab Nat) :=
  (List.range n).foldl (fun t i =>
    match t with
    | none => none
    | some t =>
      let e := m.readNat (a + 8 * i) 8
      let cl := bitsOf e 0 32 / 2 ^ 21
      if bitsOf e 0 21 != 0 || bitOf e 31 || bitsOf e 49 15 != 0 || (t.find cl).isSome then none
      else some (t.put cl (bitsOf e 32 17))) (some [])

/-- Whether a domain's clusters lie in one unit of its level. -/
def spanOk (level : Nat) (ms : Tab Nat) : Bool :=
  match ms with
  | [] => true
  | (c, _) :: _ => match level with
    | 0 => ms.all (·.1 == c)
    | 1 => ms.all (·.1 / 256 == c / 256)
    | _ => true

/-- Whether two domains of a level stand in one enclosing unit, so that their numbers name one domain. -/
def sameUnit (level : Nat) (a b : Tab Nat) : Bool :=
  match level, a, b with
  | 0, (c, _) :: _, (d, _) :: _ => c == d
  | 1, (c, _) :: _, (d, _) :: _ => c / 256 == d / 256
  | _, _, _ => true

/-- The slot tables of an image, one after another, hold only what 11 R230 admits. -/
def tablesOk (period : Nat) (bytes : List Nat) : Bool :=
  ((List.range bytes.length).zip bytes).all fun (i, b) => b ≤ 10 && !(i / period % 5 == 4 && b == 10)

/-- The domain that command 3 names, once its checks pass; otherwise the command's status (11 R223). A parent number of
0xFF stands for none. -/
def State.domainNamed (s : State) (x : Partition) : Except Nat Domain :=
  let level := x.cfgIndex / 256
  let number := x.cfgIndex % 256
  let f := x.cfgVal
  let rank := f 0 4
  let hasTables := f 6 1 == 1
  let hasParent := f 8 1 != 255
  let listAddr := f 16 8
  let count := f 24 4
  let image := f 32 8
  let period := f 5 1 + 1
  if 3 < level || 254 < number || 1 < f 4 1 || 1 < f 6 1 || f 9 7 != 0 || f 28 4 != 0 || 1024 < count then .error 2
  else if hasParent && (3 < f 7 1 || f 7 1 ≤ level || 254 < f 8 1) then .error 2
  else if hasTables && (level = 3 || image % 256 != 0) then .error 2
  else if !x.mayName listAddr (8 * count) || (hasTables && !x.mayName image (5 * period * count)) then .error 3
  else match readMembers s.mem listAddr count with
  | none => .error 2
  | some ms =>
    let bytes := if hasTables then (s.mem.readBytes image (5 * period * count)).map (·.toNat) else []
    let d : Domain := {
      level := level, number := number, parent := if hasParent then some (f 7 1, f 8 1) else none, rank := rank
      snapen := f 4 1 == 1, period := if hasTables then period else 0, image := image, tables := bytes, members := ms
      phase := 0, left := [], broken := false, transfer := false, start := 0, log := [], undoLog := none, snapshot := false
      repeatable := false, rolledBack := false, undo := [], undoCtx := [], undoGangs := [] }
    let others := x.domains.filter fun e => !(e.level == level && e.number == number && sameUnit level e.members ms)
    let parentOk := match d.parent with
      | none => true
      | some (l, n) => others.any fun e =>
        e.level == l && e.number == n && rank < e.rank && d.cores.all e.hasMember
    if ms.any (fun (c, _) => !x.clusters.contains c) then .error 3
    else if !spanOk level ms || !parentOk || others.any (fun e => e.level == level && d.cores.any e.hasMember) then .error 2
    else if (d.snapen && d.hasMember x.supervisor) || (hasTables && !tablesOk period bytes) then .error 2
    else .ok d

/-- A domain set up: it replaces the one of its level, number and unit. -/
def Partition.putDomain (x : Partition) (d : Domain) : Partition :=
  let same := fun e : Domain => e.level == d.level && e.number == d.number && sameUnit d.level e.members d.members
  { x with domains := match x.domains.findIdx? same with
    | some i => x.domains.set i d
    | none => x.domains ++ [d] }

/-- Command 3 sets up domain `level` × 256 + `number` (11 R223). -/
def execCfgDomain (s : State) : Outcome State Fault Refusal :=
  command 3 (fun p x s =>
    match s.domainNamed x with
    | .error st => (s, st)
    | .ok d => (s.modPart p fun y => y.putDomain d, 0)) s

/-! Codes 4 and 5: pages (19 R313, R320). -/

/-- Command 4 appends pages to the pool of a stack (19 R313). -/
def execCfgPoolPages (s : State) : Outcome State Fault Refusal :=
  command 4 (fun p x s =>
    let k := x.cfgIndex
    let a := x.cfgVal 0 8
    let n := x.cfgVal 8 4
    let pool := x.pools.getD k []
    if 11 < k || a % 4096 != 0 || (n != 0 && (stackOf a != k || stackOf (a + 4096 * (n - 1)) != k)) then (s, 2)
    else if !x.mayName a (4096 * n) then (s, 3)
    else if pool.any fun q => a ≤ q && q < a + 4096 * n then (s, 4)
    else if 2 ^ 20 < pool.length + n then (s, 5)
    else (s.modPart p fun y => { y with pools := y.pools.put k (pool ++ (List.range n).map fun i => a + 4096 * i) }, 0)) s

/-- A location key of page `a` as one of page `b`. -/
def movedKey (a b k : Nat) : Nat := if a ≤ k && k < a + 4096 then b + (k - a) else k

/-- Whatever waits at a location of a moved page waits at its new place (19 R320 step 5). -/
def State.rekey (s : State) (a b : Nat) : State :=
  let mv := movedKey a b
  let wait := fun w : Wait => match w with
    | .object k l v => Wait.object (mv k) l v
    | .lock k l => .lock (mv k) l
    | .handle k l q n t => .handle (mv k) l q n t
    | w => w
  let ctx := fun c : Ctx => match c.mode with | .waiting w => { c with mode := .waiting (wait w) } | _ => c
  let job := fun j : Job => { j with
    wait := j.wait.map fun (k, v) => (mv k, v), done := j.done.map fun (k, l) => (mv k, l) }
  let cluster := fun c : Cluster => { c with
    jobs := c.jobs.map job, offers := c.offers.map job
    armed := c.armed.map fun (x : Nat × Armed) => (x.1, { x.2 with counter := mv x.2.counter }) }
  let item := fun g : Agenda => match g with
    | .event .feTimeout e => Agenda.event .feTimeout { e with y := mv e.y }
    | .event .feResend e => .event .feResend { e with y := mv e.y }
    | g => g
  { s with
    t := ctx s.t
    others := s.others.map fun (x : Nat × Ctx) => (x.1, ctx x.2)
    waiters := s.waiters.map fun w : Waiter => { w with key := mv w.key }
    pendings := s.pendings.map fun w : PendingStep => { w with key := mv w.key }
    parked := s.parked.map fun w : Parked => { w with key := mv w.key }
    copies := s.copies.map fun c : Copy => { c with key := mv c.key }
    parts := s.parts.map fun (x : Nat × Partition) => (x.1, { x.2 with supParked := x.2.supParked.map mv })
    slices := s.slices.map fun x : Slice => { x with counter := x.counter.map mv, parked := x.parked.map mv }
    clusters := s.clusters.map fun (x : Nat × Cluster) => (x.1, cluster x.2)
    agenda := s.agenda.map item }

/-- Page `a` moved to page `b`: its data, marks and full/empty bits, its PTE, the shootdown, what waits on it, and its pool
(19 R320). -/
def State.migrate (s : State) (p pte a b : Nat) : State :=
  let s1 := s.copyRange a b 4096
  let bits := (setRange s1.full a 4096).map fun k => b + (k - a)
  let s2 := { s1 with full := bits.foldl setAdd (setDropRange s1.full b 4096) }
  let s3 := s2.writeNat pte 8 (putBits (s2.mem.readNat pte 8) 12 40 (b / 4096))
  ((s3.shootdown p a).rekey a b).poolPage p a

/-- Command 5 migrates the page of a level-5 PTE (19 R320). -/
def execCfgMigrate (s : State) : Outcome State Fault Refusal :=
  command 5 (fun p x s =>
    let pte := x.cfgVal 0 8
    let q := x.cfgVal 8 8
    if x.cfgIndex != 0 || pte % 8 != 0 || q % 4096 != 0 then (s, 2)
    else if !x.mayName pte 8 || !x.mayName q 4096 then (s, 3)
    else
      let e := s.mem.readNat pte 8
      let a := bitsOf e 12 40 * 4096
      if !bitOf e 0 || bitOf e 1 || bitOf e 6 || bitOf e 7 || bitsOf e 8 2 != 0 || bitsOf e 52 7 != 0 then (s, 2)
      else if !x.mayName a 4096 then (s, 3)
      else if x.pools.any (fun k => k.2.contains q) then (s, 4)
      else (s.migrate p pte a q, 0)) s

/-! Codes 6 to 11: logs and areas. -/

/-- A command that names the place of a log of `size` bytes. -/
def logCommand (code size : Nat) (put : Partition → Nat → Partition) (s : State) : Outcome State Fault Refusal :=
  command code (fun p x s =>
    let a := x.cfgVal 0 8
    if x.cfgIndex != 0 then (s, 2)
    else if !x.mayName a size then (s, 3)
    else (s.modPart p fun y => put y a, 0)) s

/-- Command 6 (13 R267). -/
def execCfgRemoteFaultLog (s : State) : Outcome State Fault Refusal :=
  logCommand 6 (64 + 4096 * 64) (fun y a => { y with remoteLog := some a }) s
/-- Command 7 (19 R326). -/
def execCfgAccessLog (s : State) : Outcome State Fault Refusal :=
  logCommand 7 (64 + 1024 * 32) (fun y a => { y with accessLog := some a }) s
/-- Command 8 (19 R312). -/
def execCfgSparseFaultQueue (s : State) : Outcome State Fault Refusal :=
  logCommand 8 (64 + 1024 * 32) (fun y a => { y with sparseLog := some a }) s
/-- Command 9 (22 R352). -/
def execCfgErrorLog (s : State) : Outcome State Fault Refusal :=
  logCommand 9 (64 + 4096 * 64) (fun y a => { y with errorLog := some a }) s

/-- Command 10 gives a domain its undo log (22 R354). -/
def execCfgUndoLog (s : State) : Outcome State Fault Refusal :=
  command 10 (fun p x s =>
    let a := x.cfgVal 0 8
    let n := x.cfgVal 8 8
    let is := (List.range x.domains.length).zip x.domains |>.filter fun d => d.2.level * 256 + d.2.number == x.cfgIndex
    if n % 128 != 0 || n < 2 ^ 20 then (s, 2)
    else if !x.mayName a n then (s, 3)
    else match is.getLast? with
    | none => (s, 2)
    | some (i, _) => (s.modDomain p i fun d => { d with undoLog := some (a, n) }, 0)) s

/-- Command 11 gives the audit area (22 R354). -/
def execCfgAuditArea (s : State) : Outcome State Fault Refusal :=
  command 11 (fun p x s =>
    let a := x.cfgVal 0 8
    let n := x.cfgVal 8 8
    if x.cfgIndex != 0 || n % 4096 != 0 then (s, 2)
    else if !x.mayName a n then (s, 3)
    else (s.modPart p fun y => { y with auditArea := if n = 0 then none else some (a, n) }, 0)) s

/-! Codes 12 to 14: clusters. -/

/-- The status of a command on a cluster: its value is 0, the cluster is in the partition and not the supervisor's own (22
R354). -/
def Partition.clusterStatus (x : Partition) : Nat :=
  if 1023 < x.cfgIndex || x.cfgVal 0 48 != 0 then 2
  else if !x.clusters.contains x.cfgIndex then 3
  else if x.cfgIndex = clusterOf x.supervisor then 2
  else 0

/-- What a command on a cluster does. -/
def State.clusterCommanded (s : State) (code : Nat) (f : Nat → Nat → State → State) : State :=
  s.commanded code fun p x s => if x.clusterStatus = 0 then (f p x.cfgIndex s, 0) else (s, x.clusterStatus)

/-- A command on a cluster. -/
def clusterCommand (code : Nat) (f : Nat → Nat → State → State) (s : State) : Outcome State Fault Refusal :=
  runM (event fun s => s.clusterCommanded code f) s

/-- Command 12 releases a cluster from quarantine (22 R363). -/
def execCfgReleaseQuarantine (s : State) : Outcome State Fault Refusal := clusterCommand 12 (fun p cl s => s.unquarantine p cl) s
/-- The slices that the reset in progress is to kill: none where the command is refused. -/
def State.toReset (s : State) : List Slice :=
  let x := s.part s.arg.x
  if x.cfgStatus = 1 && bitsOf x.cfg.toNat 0 16 == 13 && bitsOf x.cfg.toNat 32 32 == 0 && x.clusterStatus == 0 then
    s.slicesOn x.cfgIndex
  else []

/-- Command 13 resets a cluster (20 R345), once the slices on it can leave their threads. -/
def execCfgResetCluster (s : State) : Outcome State Fault Refusal :=
  runM (do
    endSlots .cfgResetCluster State.toReset
    modS fun s => s.clusterCommanded 13 fun _ cl s => s.resetCluster cl 0) s
/-- Command 14 stops a cluster (23 R370). -/
def execCfgStopCluster (s : State) : Outcome State Fault Refusal := clusterCommand 14 (fun _ cl s => s.triggerStop cl 0 0) s

end Sys2Proof.Machine
end

