-- ==== Sys2Proof/Machine/Fetch.lean ====
section
/-! DEFINITION. Fetching instructions, REP's checks and repetitions, and the bookkeeping of a step (04 R48, R49, R56,
18 R302). -/

namespace Sys2Proof.Machine

/-- The halfword at an address of the instruction that the leader of the current context's gang executed (11 R216). -/
def State.followed (s : State) (va : Word) : Option Nat := s.leaderEntry.bind fun e => e.code.find (va - e.here).toNat

/-- A halfword of a leader's instruction kept for its followers. -/
def State.noteCode (s : State) (va : Word) (h : Nat) : State :=
  match s.gangOf s.t.coreid with
  | some (id, g, 0) =>
    if g.stopped && !g.closing.contains 0 then s
    else { s with gangs := s.gangs.put id { g with code := g.code.put (va - s.t.pc).toNat h } }
  | _ => s

/-- The current context begins to fetch an instruction. -/
def State.newCode (s : State) : State :=
  match s.gangOf s.t.coreid with
  | some (id, g, 0) => if g.stopped && !g.closing.contains 0 then s else { s with gangs := s.gangs.put id { g with code := [] } }
  | _ => s

/-- One halfword at an address (04 R48, R49); a follower has the one that its leader fetched (11 R216). -/
def fetchHalf (va : Word) : M Nat := do
  match ← readS fun s => s.followed va with
  | some h => pure h
  | none =>
    let k ← resolveMem va 2 Acc.fetch
    let h ← readS fun s => s.mem.readNat k 2
    modS fun s => s.noteCode va h
    pure h

/-- An instruction's first halfword, with the second when bit 0 is 1 (04 R49). -/
def fetchHead (pc : Word) : M Nat := do
  let h ← fetchHalf pc
  if h % 2 = 0 then pure h else
  let g ← fetchHalf (pc + 2)
  pure (h + 65536 * g)

/-- A literal of `n` halfwords. -/
def fetchLit : Nat → Word → M Nat
  | 0, _ => pure 0
  | n + 1, va => do
    let h ← fetchHalf va
    let r ← fetchLit n (va + 2)
    pure (h + 65536 * r)

/-- The field of a stride as the P form writes it, -4 to 3 (04 R51). -/
def stride (x : BitVec 3) : Int := x.toInt

/-- The operand codes of a partner that a d, a and b stride act on: none where the partner lacks or does not use the field
(04 R56 check 4). -/
def strideFields (i : Instr) (w : Nat) : Option Nat × Option Nat × Option Nat :=
  if i.isC then
    let vs := match i with | .cVzero _ => none | _ => some (bitsOf w 10 5)
    (some (bitsOf w 5 5), vs, none)
  else
    let b := some (bitsOf w 19 6)
    let a := some (bitsOf w 13 6)
    let d := some (bitsOf w 7 6)
    match i with
    | .clz _ _ _ | .ctz _ _ _ | .popc _ _ _ | .brev _ _ _ | .bswap _ _ _ | .addi _ _ _ => (d, a, none)
    | .knot _ _ | .kmov _ _ => (d, a, none)
    | .csrr _ _ => (d, none, none)
    | .csrw _ _ _ | .csrs _ _ _ | .csrc _ _ _ => (d, a, none)
    | .ld _ _ _ _ | .lda _ _ _ _ | .st _ _ _ _ | .stl _ _ _ _ | .ldx _ _ _ _ _ | .stx _ _ _ _ _ => (d, a, none)
    | .rst m _ _ _ _ => (if m then d else none, a, b)
    | .ramoCas _ _ _ _ => (d, a, b)
    | .vabs _ _ _ | .vneg _ _ _ | .vmov _ _ _ | .vbcast _ _ | .vclz _ _ _ | .vpopc _ _ _ => (d, a, none)
    | .vrndi _ _ _ | .vgetexp _ _ _ => (d, a, none)
    | .vexp2 _ _ _ | .vlog2 _ _ _ | .vrcp _ _ _ | .vrsq _ _ _ | .vsqrt _ _ _ | .vsinpi _ _ _ | .vcospi _ _ _ => (d, a, none)
    | .vredsum _ _ | .vredmax _ _ | .vredmin _ _ | .vredamax _ _ | .vrowmax _ _ | .vxrd _ _ => (d, a, none)
    | .vxadd _ _ => (none, a, b)
    | .vxclr _ => (none, a, none)
    | _ => if i.major = 21 then (none, a, b) else (d, a, b)

/-- The partners that REP allows (04 R56 check 3). -/
def repPartner (i : Instr) : Bool :=
  let q0 := match i with
    | .vadd q _ _ _ | .vsub q _ _ _ | .vmul q _ _ _ | .vfma q _ _ _ | .vfms q _ _ _ | .vnfma q _ _ _ | .vmin q _ _ _
    | .vmax q _ _ _ | .vand q _ _ _ | .vor q _ _ _ | .vxor q _ _ _ | .vshl q _ _ _ | .vshr q _ _ _ | .vsra q _ _ _
    | .vmulh q _ _ _ | .vadds q _ _ _ | .vsubs q _ _ _ | .vqnt q _ _ _ | .vdq q _ _ _ | .vscale q _ _ _
    | .vcmp q _ _ _ | .vsel q _ _ _ => q == 0
    | .vabs q _ _ | .vneg q _ _ | .vmov q _ _ | .vclz q _ _ | .vpopc q _ _ | .vrndi q _ _ | .vgetexp q _ _ | .vexp2 q _ _
    | .vlog2 q _ _ | .vrcp q _ _ | .vrsq q _ _ | .vsqrt q _ _ | .vsinpi q _ _ | .vcospi q _ _ => q == 0
    | .vcvt q _ _ _ => q == 0
    | _ => true
  i.isC || (1 ≤ i.major && i.major ≤ 5) || (13 ≤ i.major && i.major ≤ 21) || (24 ≤ i.major && i.major ≤ 29 && q0)

/-- A partner's word with its strided fields moved on to repetition `j` (04 R56). -/
def stridden (i : Instr) (w : Nat) (sd sa sb : Int) (j : Nat) : Nat :=
  let move := fun (lo n : Nat) (st : Int) (x : Nat) => putBits x lo n (((bitsOf w lo n : Nat) : Int) + j * st).toNat
  if i.isC then move 5 5 sd (move 10 5 sa w) else move 7 6 sd (move 13 6 sa (move 19 6 sb w))

/-- Whether a strided field stays within 0 to 31 for every repetition below `n` (04 R56 check 6). -/
def strideOk (f : Option Nat) (st : Int) (n : Nat) : Bool :=
  match f with
  | some c => st == 0 || (c < 32 && (0 ≤ (c : Int) + (n - 1 : Nat) * st) && ((c : Int) + (n - 1 : Nat) * st < 32))
  | none => true

/-- Checks 1 to 4 of 04 R56 and the loop-end check of 05 R78; the partner's instruction and word come back. `image` is the
REP word, `len` its length. A stride of a field that the partner lacks, check 4, is reported with the partner's word as the
checks before it are (log entry 79). -/
def repChecks (sd sa sb : Int) (image : Word) (len : Nat) : M (Instr × Nat) := do
  let pc ← readT fun t => t.pc
  let at1 := pc + BitVec.ofNat 64 len
  let w ← fetchHead at1
  match decodeWord w 0 with
  | .error _ => decodeTrap .illop (word w)
  | .ok p =>
    gateContext p (word w)
    if !repPartner p then decodeTrap .illop (word w)
    let (fd, fa, fb) := strideFields p w
    if (sd != 0 && fd.isNone) || (sa != 0 && fa.isNone) || (sb != 0 && fb.isNone) then decodeTrap .illop (word w)
    let t ← readT id
    if (List.range 3).any fun m => t.lc[m]! != 0 && t.lend[m]! == at1 then decodeTrap .illop image
    pure (p, w)

/-- The next instruction of the current context, after the checks that precede its literal's fetch (04 R49, R57). -/
def fetchInstr : M Instr := do
  modS State.newCode
  let pc ← readT fun t => t.pc
  let w ← fetchHead pc
  watch 4 pc 2
  match decodeWord w 0 with
  | .error _ => decodeTrap .illop (word w)
  | .ok i =>
    gate i
    let n := litBytes w
    if n = 0 then pure i else
    match i with
    | .rep sb sa sd _ => let _ ← repChecks (stride sd) (stride sa) (stride sb) (word w) (4 + n)
    | _ => pure ()
    let l ← fetchLit (n / 2) (pc + 4)
    match decodeWord w (word l) with
    | .ok j => pure j
    | .error _ => decodeTrap .illop (word w)

/-- The partner's literal, which is fetched when the partner first executes (04 R49). -/
def repLiteral (r : Rep) : M Word := do
  match r.lit with
  | some l => pure l
  | none =>
    let n := litBytes r.word
    let l ← if n = 0 then pure 0 else fetchLit (n / 2) (r.partner + 4)
    modT fun t => { t with rep := some { r with lit := some (word l) } }
    pure (word l)

/-- The instruction of the repetition that is due. -/
def fetchRepetition (r : Rep) : M Instr := do
  watch 4 r.partner 2
  let l ← repLiteral r
  match decodeWord r.word 0 with
  | .ok p =>
    match decodeWord (stridden p r.word r.sd r.sa r.sb r.j) l with
    | .ok i => pure i
    | .error _ => trapNow .illop (word r.word)
  | .error _ => trapNow .illop (word r.word)

/-- The instruction to execute next. -/
def nextInstr : M Instr := do
  match ← readT fun t => t.rep with
  | some r => fetchRepetition r
  | none => fetchInstr

/-- Whether a context's budget counts: a slice's thread that leads (18 R302). -/
def State.counted (s : State) (core : Nat) : Bool :=
  (s.ctx core).kind != .hart && s.leaderOf core == core && (s.slice (s.ctx core).sliceid.toNat).isSome

/-- A context that has something to do. -/
def Ctx.busy (c : Ctx) : Bool :=
  match c.mode with
  | .idle | .staging | .frozen | .stopping => false
  | _ => true

/-- One cycle of budget used by a thread that holds its slice: not in a wait under the rank rule, nor frozen or stopped for its
suspension (18 R302). -/
def State.charge (s : State) (core : Nat) (id : Word) : State :=
  let c := s.ctx core
  let waits := match c.mode with
    | .waiting (.object _ _ _) | .waiting (.lock _ _) | .waiting (.handle _ _ _ _ _) | .waiting .tag | .waiting (.job _)
    | .waiting (.jobQueue _) | .waiting (.sync _) => true
    | _ => !c.busy
  if s.counted core && c.sliceid == id && !waits then s.setCtx { c with budget := c.budget - (if c.budget = 0 then 0 else 1) } else s

/-- Device time moves on (log entry 6). -/
def State.tick (s : State) : State := { s with time := s.time + Config.stepTime }

end Sys2Proof.Machine
end

