-- ==== Sys2Proof/Machine/Control.lean ====
section
/-! DEFINITION. CMP, KOP and the transfers of control: majors 4 to 11 (04 R56, 05 R66 to R79). -/

namespace Sys2Proof.Machine

open Host (Outcome)

/-- A condition of CMP (05 R66). -/
def cmpHolds (c : Nat) (a b : Word) : Bool :=
  match c with
  | 0 => a == b
  | 1 => a != b
  | 2 => decide (a.toInt < b.toInt)
  | 3 => decide (b.toInt ≤ a.toInt)
  | 4 => decide (a.toNat < b.toNat)
  | _ => decide (b.toNat ≤ a.toNat)

/-- CMP writes a predicate all ones or all zeros (05 R66). -/
def execCmp (c : BitVec 7) (b a : Src) (k : BitVec 3) (s : State) : Outcome State Fault Refusal :=
  runM (do
    gate (.cmp c b a k)
    let x ← readSrc a
    let y ← readSrc b
    writeK k.toNat (if cmpHolds c.toNat x y then BitVec.allOnes 64 else 0)
    retire (.cmp c b a k)) s

/-- A KOP member of two predicates. -/
def kop2 (i : Instr) (b a d : BitVec 3) (f : Word → Word → Word) : M Unit := do
  gate i
  let x ← readK a.toNat
  let y ← readK b.toNat
  writeK d.toNat (f x y)
  retire i

/-- A KOP member of one predicate. -/
def kop1 (i : Instr) (a d : BitVec 3) (f : Word → Word) : M Unit := do
  gate i
  let x ← readK a.toNat
  writeK d.toNat (f x)
  retire i

/-- KAND (05 R67). -/
def execKand (b a d : BitVec 3) (s : State) : Outcome State Fault Refusal := runM (kop2 (.kand b a d) b a d (· &&& ·)) s
/-- KOR (05 R67). -/
def execKor (b a d : BitVec 3) (s : State) : Outcome State Fault Refusal := runM (kop2 (.kor b a d) b a d (· ||| ·)) s
/-- KXOR (05 R67). -/
def execKxor (b a d : BitVec 3) (s : State) : Outcome State Fault Refusal := runM (kop2 (.kxor b a d) b a d (· ^^^ ·)) s
/-- KNOT (05 R67). -/
def execKnot (a d : BitVec 3) (s : State) : Outcome State Fault Refusal := runM (kop1 (.knot a d) a d (~~~ ·)) s
/-- KMOV (05 R67). -/
def execKmov (a d : BitVec 3) (s : State) : Outcome State Fault Refusal := runM (kop1 (.kmov a d) a d id) s

/-- The target of a signed halfword offset. -/
def branchTarget (pc : Word) {n : Nat} (off : BitVec n) : Word := pc + off.signExtend 64 * 2

/-- A branch that is taken when the predicate's condition has a value; a follower goes where the leader went (05 R71). -/
def branch (i : Instr) (off : BitVec 21) (k : BitVec 3) (sense : Bool) : M Unit := do
  gate i
  match ← readS State.leaderEntry with
  | some _ => retire i
  | none =>
    let x ← readK k.toNat
    let pc ← readT fun t => t.pc
    if (x != 0) == sense then jumpTo (branchTarget pc off) id else retire i

/-- BT branches when any bit of the predicate is set (05 R68). -/
def execBt (off : BitVec 21) (k : BitVec 3) (s : State) : Outcome State Fault Refusal := runM (branch (.bt off k) off k true) s
/-- BF branches when the predicate is all zero (05 R68). -/
def execBf (off : BitVec 21) (k : BitVec 3) (s : State) : Outcome State Fault Refusal := runM (branch (.bf off k) off k false) s

/-- J (05 R69). -/
def execJ (off : BitVec 25) (s : State) : Outcome State Fault Refusal :=
  runM (do
    gate (.j off)
    let pc ← readT fun t => t.pc
    jumpTo (branchTarget pc off) id) s

/-- JAL writes pc + 4 to s31, then jumps (05 R69). -/
def execJal (off : BitVec 25) (s : State) : Outcome State Fault Refusal :=
  runM (do
    gate (.jal off)
    let pc ← readT fun t => t.pc
    jumpTo (branchTarget pc off) fun t => t.writeDest 31 (pc + 4)) s

/-- A jump to an address, which must be even (04 R49); a follower goes where the leader went. `f` writes the link. -/
def jumpReg (target : M Word) (f : Ctx → Ctx) : M Unit := do
  match ← readS State.leaderEntry with
  | some e => jumpTo e.next f
  | none =>
    let x ← target
    require (!flagOf x 0) .align x
    jumpTo x f

/-- JR (05 R70). -/
def execJr (a : Src) (s : State) : Outcome State Fault Refusal :=
  runM (do
    gate (.jr a)
    jumpReg (readSrc a) id) s

/-- JALR reads A before it writes the link (05 R70). -/
def execJalr (a : Src) (d : Code) (s : State) : Outcome State Fault Refusal :=
  runM (do
    gate (.jalr a d)
    let pc ← readT fun t => t.pc
    jumpReg (readSrc a) fun t => t.writeDest d.toNat (pc + BitVec.ofNat 64 (Instr.jalr a d).len)) s

/-- RET jumps to s31 (05 R70). -/
def execRet (s : State) : Outcome State Fault Refusal :=
  runM (do
    gate .ret
    jumpReg (readSrc (.code 31)) id) s

/-- A context with the levels above `l` abandoned (05 R73, R75). -/
def Ctx.dropDeeper (t : Ctx) (l : Nat) : Ctx :=
  { t with lc := (List.range 3).foldl (fun v m => if l < m then v.set! m 0 else v) t.lc }

/-- LOOP arms a level (05 R73); a follower's loop state is the leader's (02 R16). -/
def execLoop (imm : BitVec 13) (a : Src) (l : BitVec 2) (s : State) : Outcome State Fault Refusal :=
  runM (do
    let i := Instr.loop imm a l
    gate i
    match ← readS State.leaderEntry with
    | some e => jumpTo e.next id
    | none =>
      let n ← readSrc a
      let t ← readT id
      let b := t.pc + BitVec.ofNat 64 i.len
      let e := b + 2 * imm.setWidth 64
      require (!(List.range 3).any fun m => m < l.toNat && t.lc[m]! != 0 && t.lend[m]!.toNat < e.toNat) .illop (imageOf i)
      jumpTo (if n = 0 then e else b) fun t =>
        let t1 := t.dropDeeper l.toNat
        { t1 with lbeg := t1.lbeg.set! l.toNat b, lend := t1.lend.set! l.toNat e, lc := t1.lc.set! l.toNat n }) s

/-- LBRK and LNEXT: the iteration ends at the level's end, with end processing (05 R75). -/
def endIteration (i : Instr) (l : BitVec 2) (last : Bool) : M Unit := do
  gate i
  match ← readS State.leaderEntry with
  | some e => jumpTo e.next id
  | none =>
    let t ← readT id
    require (t.lc[l.toNat]! != 0) .illop (imageOf i)
    let t1 := t.dropDeeper l.toNat
    let t2 := if last then { t1 with lc := t1.lc.set! l.toNat 1 } else t1
    let t3 := t2.advance (t2.lend[l.toNat]!)
    jumpTo t3.pc fun t => { t with lc := t3.lc }

/-- LBRK (05 R75). -/
def execLbrk (l : BitVec 2) (s : State) : Outcome State Fault Refusal := runM (endIteration (.lbrk l) l true) s
/-- LNEXT (05 R75). -/
def execLnext (l : BitVec 2) (s : State) : Outcome State Fault Refusal := runM (endIteration (.lnext l) l false) s

/-- The checks of 04 R56 that need the count: range, then strided codes that a class refuses. -/
def repRange (p : Instr) (w : Nat) (sd sa sb : Int) (n : Nat) : M Unit := do
  let (fd, fa, fb) := strideFields p w
  require (n ≤ 0xFFFFFFFF && strideOk fd sd n && strideOk fa sa n && strideOk fb sb n) .reprange (word n)
  let refused := (List.range (min n 32)).any fun j =>
    match decodeWord (stridden p w sd sa sb j) 0 with
    | .ok _ => false
    | .error _ => true
  if refused then decodeTrap .illop (word w)

/-- REP: its checks; then each later step executes one repetition, and the last one completes the pair (04 R56, 05 R78).
With a count of 0 the pair completes at once. A follower takes the leader's count (05 R71). -/
def execRep (sb sa sd : BitVec 3) (c : Src) (s : State) : Outcome State Fault Refusal :=
  runM (do
    let i := Instr.rep sb sa sd c
    gate i
    let (p, w) ← repChecks (stride sd) (stride sa) (stride sb) (imageOf i) i.len
    let n ← match ← readS State.leaderEntry with
      | some e => pure e.decision
      | none => readSrc c
    let t ← readT id
    let at1 := t.pc + BitVec.ofNat 64 i.len
    let plen := headBytes w + litBytes w
    if n = 0 then
      modS fun s => s.finish ({ s.t with repcnt := 0 }.advance (at1 + BitVec.ofNat 64 plen)) 0 0
      afterInstr
    else
      repRange p w (stride sd) (stride sa) (stride sb) n.toNat
      gatePorts p
      require (t.repcnt.toNat ≤ n.toNat) .reprange (t.repcnt.setWidth 64)
      modT fun t => { t with
        mode := .running
        rep := some { j := if t.repcnt = 0 then 0 else n.toNat - t.repcnt.toNat, n := n.toNat, addr := t.pc, word := w
                      lit := none, partner := at1, partnerLen := plen, sd := stride sd, sa := stride sa, sb := stride sb } }) s

end Sys2Proof.Machine
end

