-- ==== Sys2Proof/Machine/Flags.lean ====
section
/-! DEFINITION. Raising flags: `vflags`, and the trap of an enabled one (03 R30 to R32). -/

namespace Sys2Proof.Machine

/-- The rounding mode in force. -/
def Ctx.rounding (t : Ctx) : Nat := bitsOf t.vround.toNat 0 2

/-- The flags whose enable bit is set: EN_NX to EN_SAT stand eight bits above their flags. -/
def enabledFlags (vround : BitVec 16) (fl : Nat) : Nat := fl &&& bitsOf vround.toNat 8 6

/-- Flags raised by one 512-bit step: every one is set in `vflags`; an enabled one traps with FPE (03 R32). -/
def raiseFlags (fl : Nat) : M Unit := do
  modT fun t => { t with vflags := t.vflags ||| BitVec.ofNat 16 fl }
  let t ← readT id
  let on := enabledFlags t.vround fl
  if on != 0 then trapNow .fpe (word on)

end Sys2Proof.Machine
end

