-- ==== Sys2Proof/Machine/Lanes.lean ====
section
/-! DEFINITION. Vector operands and the two ways a vector instruction runs: unshaped over registers and ring slots, and
shaped over a tensor in steps (07 R119 to R123, R134 to R138). -/

namespace Sys2Proof.Machine

/-! Elements (07 R120). -/

/-- Element `i` of width `w`. -/
def elemOf (w x i : Nat) : Nat := bitsOf x (w * i) w

/-- The elements of a register, lowest first. -/
def elems (w : Nat) (x : Line) : List Nat := (List.range (512 / w)).map (elemOf w x.toNat)

/-- Elements packed, the first one lowest. -/
def packElems (w : Nat) : List Nat → Nat
  | [] => 0
  | e :: es => e % 2 ^ w + 2 ^ w * packElems w es

/-- Elements as bytes. -/
def elemBytes (w : Nat) (es : List Nat) : List Byte := es.flatMap (leBytes (w / 8))

/-- Bytes as elements. -/
def bytesElems (w : Nat) (bs : List Byte) : List Nat :=
  (List.range (bs.length / (w / 8))).map fun i => leNat ((bs.drop (i * (w / 8))).take (w / 8))

/-- Whether element `i` is active (07 R121). -/
def Ctx.active (t : Ctx) (w i : Nat) : Bool := bitOf t.vmask.toNat (i * (w / 8))

/-- The active elements' marks for a width. -/
def Ctx.actives (t : Ctx) (w : Nat) : List Bool := (List.range (512 / w)).map (t.active w)

/-! Types (07 R119, R120). -/

def Ctx.elemType (t : Ctx) : Nat := bitsOf t.vtype.toNat 0 4
def Ctx.quantType (t : Ctx) : Nat := bitsOf t.vtype.toNat 4 4

/-- The classes of types that members accept: I; F; I and F; X; X and n4. -/
inductive Accepts where
  | ints | floats | arith | bits | bytes
deriving DecidableEq, Repr

def Accepts.ok (c : Accepts) (t : Nat) : Bool :=
  match c with
  | .ints => isIntT t
  | .floats => isFloatT t
  | .arith => isIntT t || isFloatT t
  | .bits => t ≤ 12
  | .bytes => t ≤ 13

/-- The type a member works on: n4 acts as n8. -/
def workType (t : Nat) : Nat := if t = 13 then 1 else t

/-- A type that the member must accept (07 R120). -/
def typeFor (i : Instr) (c : Accepts) (t : Nat) : M Nat := do
  require (c.ok t) .illop (imageOf i)
  pure (workType t)

/-! Vector fields (07 R123). -/

/-- The handle a code names. -/
def handleOf (c : Code) : Option Nat := if 32 ≤ c.toNat && c.toNat < 48 then some (c.toNat - 32) else none

def srcHandle : Src → Option Nat
  | .code c => handleOf c
  | _ => none

/-- The runs of the first `n` bytes, and the rest. -/
def splitRuns : Nat → List (Nat × Nat) → List (Nat × Nat) × List (Nat × Nat)
  | _, [] => ([], [])
  | n, (k, m) :: rs =>
    if n = 0 then ([], (k, m) :: rs)
    else if n < m then ([(k, n)], (k + n, m - n) :: rs)
    else let (x, y) := splitRuns (n - m) rs; ((k, m) :: x, y)

/-- The handles of an instruction have the roles that their fields need (07 R123). -/
def roleOk (i : Instr) (producer : Bool) (h : Option Nat) : M Unit := do
  match h with
  | none => pure ()
  | some n =>
    let t ← readT id
    require (t.h[n]!.role == (if producer then .producer else .consumer)) .illop (imageOf i)

/-- A handle field's runs, none for another field. -/
def touchField (i : Instr) (producer : Bool) (n : Nat) (h : Option Nat) : M (List (Nat × Nat)) :=
  match h with
  | none => pure []
  | some k => touchHandle i k producer n

/-- The runs of two sources and a destination, which may name handles, for so many bytes each. One consumer named twice
gives its bytes to the first source, then to the second. -/
def touchFields (i : Instr) (a b d : Option Nat) (na nb nd : Nat) :
    M (List (Nat × Nat) × List (Nat × Nat) × List (Nat × Nat)) := do
  if a.isSome || b.isSome || d.isSome then notInTransfer i
  roleOk i false a
  roleOk i false b
  roleOk i true d
  let (ra, rb) ←
    if a.isSome && a == b then do
      let r ← touchField i false (na + nb) a
      pure (splitRuns na r)
    else do
      let ra ← touchField i false na a
      let rb ← touchField i false nb b
      pure (ra, rb)
  let rd ← touchField i true nd d
  pure (ra, rb, rd)

/-- A handle's cursor moved on by the bytes it gave or took. -/
def moveField (producer : Bool) (n : Nat) (h : Option Nat) : M Unit :=
  match h with
  | none => pure ()
  | some k => moveHandle k producer n

def moveFields (a b d : Option Nat) (na nb nd : Nat) : M Unit := do
  moveField false na a
  moveField false nb b
  moveField true nd d

/-- The elements of a slot that are marked; the others are not read (07 R121). -/
def readMarked (w : Nat) : List Bool → List (Nat × Nat) → M (List Nat)
  | [], _ => pure []
  | m :: ms, runs => do
    let (r, rest) := splitRuns (w / 8) runs
    let bs ← if m then readRuns r else pure []
    let xs ← readMarked w ms rest
    pure (leNat bs :: xs)

/-- The elements of an unshaped source: a register's, those of a slot that are marked, or a scalar in every element. -/
def readElems (w : Nat) (on : List Bool) (runs : List (Nat × Nat)) (x : Src) : M (List Nat) := do
  match x with
  | .code c =>
    if c.toNat < 32 then do
      let v ← readV c.toNat
      pure (elems w v)
    else if c.toNat < 48 then do
      if on.all id && on.length * w = 512 then do
        let bs ← readRuns runs
        pure (bytesElems w bs)
      else readMarked w on runs
    else do
      let v ← readSrc x
      pure (List.replicate (512 / w) (v.toNat % 2 ^ w))
  | _ =>
    let v ← readSrc x
    pure (List.replicate (512 / w) (v.toNat % 2 ^ w))

/-- The elements of `new` where marked, of `old` elsewhere. -/
def mergeElems : List Bool → List Nat → List Nat → List Nat
  | m :: ms, x :: xs, y :: ys => (if m then x else y) :: mergeElems ms xs ys
  | _, _, ys => ys

/-- Bytes of a slot written where marked, one element at a time. -/
def writeElems (w : Nat) : List Bool → List Nat → List (Nat × Nat) → M Unit
  | m :: ms, x :: xs, runs => do
    let (r, rest) := splitRuns (w / 8) runs
    if m then writeRuns r (leBytes (w / 8) x)
    writeElems w ms xs rest
  | _, _, _ => pure ()

/-- An unshaped destination written where marked: a register, a slot, or a port, which takes the low 64 bits
(07 R121, R123, 02 R17). -/
def writeVec (d : Code) (w : Nat) (runs : List (Nat × Nat)) (on : List Bool) (xs : List Nat) : M Unit := do
  if d.toNat < 32 then
    modT fun t =>
      let ys := mergeElems on xs (elems w t.v[d.toNat]!)
      if on.all id then t.writeV d.toNat (BitVec.ofNat 512 (packElems w ys))
      else { t with v := t.v.set! d.toNat (BitVec.ofNat 512 (packElems w ys)) }
  else if d.toNat < 48 then
    if on.all id then writeRuns runs (elemBytes w xs) else writeElems w on xs runs
  else
    modT fun t =>
      let old := if d.toNat = 49 then t.eo else t.wo
      t.writeDest d.toNat (word (packElems w (mergeElems on xs (elems w (old.setWidth 512)))))

/-! Element-wise members. -/

/-- What an element-wise member computes from the elements of a, b and d: a pattern and flags. The first two numbers are
the element type and the rounding mode. -/
abbrev ElemFn := Nat → Nat → Nat → Nat → Nat → Nat × Nat

/-- A function on each element of three lists. -/
def map3 (f : Nat → Nat → Nat → Nat × Nat) : List Nat → List Nat → List Nat → List (Nat × Nat)
  | x :: xs, y :: ys, z :: zs => f x y z :: map3 f xs ys zs
  | _, _, _ => []

/-- The flags of the marked elements. -/
def flagsOf : List Bool → List (Nat × Nat) → Nat
  | m :: ms, x :: xs => (if m then x.2 else 0) ||| flagsOf ms xs
  | _, _ => 0

/-- What an unshaped member reads: the destination's runs, the elements of a, b and d. `b` is none where the member has no
such operand; `useD` adds the old destination, a register, as a source; `on` marks the active elements. -/
def laneSources (i : Instr) (w : Nat) (on : List Bool) (a : Src) (b : Option Src) (d : Code) (useD : Bool) :
    M (List (Nat × Nat) × List Nat × List Nat × List Nat) := do
  let (ra, rb, rd) ← touchFields i (srcHandle a) (b.bind srcHandle) (handleOf d) 64 64 64
  let xs ← readElems w on ra a
  let ys ← match b with
    | some y => readElems w on rb y
    | none => pure xs
  let zs ← if useD then readElems w on [] (.code d) else pure xs
  pure (rd, xs, ys, zs)

/-- An unshaped element-wise member (07 R121, R123, R124). -/
def lanes (i : Instr) (acc : Accepts) (a : Src) (b : Option Src) (d : Code) (useD : Bool) (f : ElemFn) : M Unit := do
  let t ← readT id
  let ty ← typeFor i acc t.elemType
  let w := typeBits ty
  let on := t.actives w
  let (rd, xs, ys, zs) ← laneSources i w on a b d useD
  let rs := map3 (f ty t.rounding) xs ys zs
  raiseFlags (flagsOf on rs)
  writeVec d w rd on (rs.map (·.1))
  moveFields (srcHandle a) (b.bind srcHandle) (handleOf d) 64 64 64

/-! Shapes (07 R135 to R138). -/

/-- A shape slot's record. -/
def Ctx.shape (t : Ctx) (q : Nat) : Nat := (t.q[q - 1]!).toNat

def shapeBase (r : Nat) : Word := word (bitsOf r 0 64)
def shapeExt (r k : Nat) : Nat := bitsOf r (64 + 16 * k) 16
def shapeStride (r k : Nat) : Int := signed 32 (bitsOf r (128 + 32 * (k - 1)) 32)
def shapeType (r : Nat) : Nat := bitsOf r 224 8

/-- A place in a shape: i0, i1, i2, i3. -/
def shapeOffset (r z zz i0 i1 i2 i3 : Nat) : Int :=
  i0 * z + (i1 * shapeStride r 1 + i2 * shapeStride r 2 + i3 * shapeStride r 3) * z / zz

/-- Steps in a row of a shape for `p` elements a step, and in all (07 R137). -/
def rowSteps (r p : Nat) : Nat := (shapeExt r 0 + p - 1) / p
def shapeSteps (r p : Nat) : Nat := shapeExt r 1 * shapeExt r 2 * shapeExt r 3 * rowSteps r p

/-- Step `j`: its first i0, its elements, and the indexes of its row. -/
def stepAt (r p j : Nat) : Nat × Nat × Nat × Nat × Nat :=
  let row := j / rowSteps r p
  let lo := j % rowSteps r p * p
  (lo, min p (shapeExt r 0 - lo), row % shapeExt r 1, row / shapeExt r 1 % shapeExt r 2, row / (shapeExt r 1 * shapeExt r 2))

/-- A tensor field of a shaped instruction: its operand and the type it is read or written as. -/
structure Tensor where
  src : Src
  type : Nat

/-- A field's element size in bytes. -/
def Tensor.size (x : Tensor) : Nat := typeBits x.type / 8

/-- Whether a field addresses memory. -/
def Tensor.inMemory (x : Tensor) : Bool := match x.src with | .code c => c.toNat < 32 | _ => false

/-- The addresses of a step's elements for a field in memory (07 R136). -/
def stepAddrs (base : Word) (r z zz : Nat) (s : Nat × Nat × Nat × Nat × Nat) : List Word :=
  let (lo, n, i1, i2, i3) := s
  (List.range n).map fun i => base + ofInt (shapeOffset r z zz (lo + i) i1 i2 i3)

/-- Elements found for loads or stores, in order, with the data check of loads (06 R101, 07 R134). -/
def locate (acc : Acc) (z : Nat) : List Word → M (List (Word × Nat))
  | [] => pure []
  | va :: vas => do
    let k ← resolveMem va z acc
    if acc.r then dataOk va k z
    let ks ← locate acc z vas
    pure ((va, k) :: ks)

/-- Found elements read. -/
def readFound (z : Nat) : List (Word × Nat) → M (List Nat)
  | [] => pure []
  | (va, k) :: ks => do
    let x ← readPlain 1 va k z
    let xs ← readFound z ks
    pure (x :: xs)

/-- Watchpoints on found elements that are to be written. -/
def watchFound (z : Nat) : List (Word × Nat) → M Unit
  | [] => pure ()
  | (va, _) :: ks => do
    watch 2 va z
    watchFound z ks

/-- Found elements written. -/
def writeFound (z : Nat) : List (Word × Nat) → List Nat → M Unit
  | (_, k) :: ks, x :: xs => do
    modS fun s => (s.storeVia s.t.coreid k (leBytes z x)).noteDisposition s.t.coreid k z
    writeFound z ks xs
  | _, _ => pure ()

/-- A source field's found elements in memory, none for another field. -/
def locateTensor (acc : Acc) (r zz : Nat) (st : Nat × Nat × Nat × Nat × Nat) (x : Tensor) : M (List (Word × Nat)) := do
  if x.inMemory then
    let base ← readSrc x.src
    locate acc x.size (stepAddrs base r x.size zz st)
  else pure []

/-- A source field's `n` elements. -/
def readTensor (n : Nat) (runs : List (Nat × Nat)) (ks : List (Word × Nat)) (x : Tensor) : M (List Nat) := do
  if x.inMemory then readFound x.size ks
  else if (srcHandle x.src).isSome then do
    let bs ← readRuns runs
    pure (bytesElems (typeBits x.type) bs)
  else do
    let v ← readSrc x.src
    pure (List.replicate n (v.toNat % 2 ^ typeBits x.type))

/-- Whether the current context is a member inside its VROWMAX exchange (07 R132): it has executed the VROWMAX, in an
instruction before this one or in an earlier repetition of this one. The window stays open while the gang is stopped. -/
def State.inExchange (s : State) : Bool :=
  match s.gangOf s.t.coreid with
  | some (_, g, p) =>
    match g.rowmax with
    | some m => decide (m < g.count p) || (m == g.count p && (s.formedGang s.t.coreid).isSome && (s.t.rep.map (·.j)).getD 0 != 0)
    | none => false
  | none => false

/-- What one step of a shaped instruction reads: the destination's runs and found elements, the elements of a, b and d. -/
def shapedRead (i : Instr) (r zz : Nat) (st : Nat × Nat × Nat × Nat × Nat) (a : Tensor) (b : Option Tensor) (d : Tensor)
    (useD : Bool) : M (List (Nat × Nat) × List (Word × Nat) × List Nat × List Nat × List Nat) := do
  let n := st.2.1
  let (ra, rb, rd) ← touchFields i (srcHandle a.src) (b.bind fun x => srcHandle x.src) (srcHandle d.src)
    (n * a.size) (n * (b.map Tensor.size).getD 0) (n * d.size)
  let ka ← locateTensor Acc.load r zz st a
  let kb ← match b with
    | some x => locateTensor Acc.load r zz st x
    | none => pure []
  let kc ← if useD then locateTensor Acc.load r zz st d else pure []
  let kd ← locateTensor Acc.store r zz st d
  let xs ← readTensor n ra ka a
  let ys ← match b with
    | some x => readTensor n rb kb x
    | none => pure xs
  let zs ← if useD then readTensor n [] kc d else pure xs
  pure (rd, kd, xs, ys, zs)

/-- What one step of a shaped instruction writes, and its handles' cursors moved on. -/
def shapedWrite (n : Nat) (rd : List (Nat × Nat)) (kd : List (Word × Nat)) (a : Tensor) (b : Option Tensor) (d : Tensor)
    (rs : List Nat) : M Unit := do
  if d.inMemory then
    watchFound d.size kd
    writeFound d.size kd rs
  else writeRuns rd (elemBytes (typeBits d.type) rs)
  moveFields (srcHandle a.src) (b.bind fun x => srcHandle x.src) (srcHandle d.src)
    (n * a.size) (n * (b.map Tensor.size).getD 0) (n * d.size)

/-- The elements of a step: what the widest field's elements leave room for in 64 bytes (07 R137). -/
def stepElems (a : Tensor) (b : Option Tensor) (d : Tensor) : Nat :=
  64 / (([some a, b, some d].filterMap id).map Tensor.size).foldl max 1

/-- Whether every field's strides are whole elements of the record (07 R136). -/
def stridesFit (r zz : Nat) (a : Tensor) (b : Option Tensor) (d : Tensor) : Bool :=
  ([some a, b, some d].filterMap id).all fun x => [1, 2, 3].all fun k => shapeStride r k * x.size % zz == 0

/-- One step of a shaped instruction, or its completion (07 R136 to R138). Strides that are no whole elements trap before an extent
of 0 completes the instruction: the spec gives no order of the two (log entry 90). `a`, `b` and `d` are its tensor fields, `z` the
record's type; `useD` reads d as the addend. `f` works on the elements of a, b and d; `fin` is what completion adds. A step
that is not the last leaves the instruction to be executed again. -/
def shapedStep (i : Instr) (q : BitVec 3) (z : Nat) (a : Tensor) (b : Option Tensor) (d : Tensor) (useD : Bool)
    (f : Nat → Nat → Nat → Nat → Nat × Nat) (fin : Ctx → Ctx) : M Unit := do
  let t ← readT id
  if ← readS State.inExchange then trapOpen .gang
  let r := t.shape q.toNat
  let zz := typeBits z / 8
  require (stridesFit r zz a b d) .illop (imageOf i)
  let p := stepElems a b d
  let total := shapeSteps r p
  let j := t.vprog.toNat
  require (total ≤ 0xFFFFFFFF && j ≤ total) .illop (imageOf i)
  if j = total then
    modT fun t => { (if total = 0 then t else fin t) with vprog := 0 }
    retire i
  else
    let st := stepAt r p j
    let n := st.2.1
    let (rd, kd, xs, ys, zs) ← shapedRead i r zz st a b d useD
    let rs := map3 (f t.rounding) xs ys zs
    raiseFlags (flagsOf (List.replicate n true) rs)
    shapedWrite n rd kd a b d (rs.map (·.1))
    if j + 1 = total then
      modT fun t => { fin t with vprog := 0 }
      retire i
    else modT fun t => { t with vprog := BitVec.ofNat 32 (j + 1), mode := .running, issued := true }

/-- An element-wise member, unshaped or over a shape. -/
def vecOp (i : Instr) (q : BitVec 3) (acc : Accepts) (a : Src) (b : Option Src) (d : Code) (useD : Bool) (f : ElemFn) : M Unit := do
  gate i
  whole do
    if q = 0 then
      lanes i acc a b d useD f
      retire i
    else
      let t ← readT id
      let z ← typeFor i acc (shapeType (t.shape q.toNat))
      shapedStep i q z ⟨a, z⟩ (b.map fun x => ⟨x, z⟩) ⟨.code d, z⟩ useD (f z) id

end Sys2Proof.Machine
end

