-- ==== Sys2Proof/Machine/Convert.lean ====
section
/-! DEFINITION. VCNV and VSFU: majors 26 and 27 (03 R36 to R47, 07 R127 to R130). -/

namespace Sys2Proof.Machine

open Host (Outcome)

/-! Conversions (07 R127). -/

/-- VCVT: from the type `t` to TYPE, or over a shape to the record's type (07 R127). -/
def execVcvt (q : BitVec 3) (t : BitVec 4) (a : Src) (d : Code) (s : State) : Outcome State Fault Refusal :=
  runM (do
    let i := Instr.vcvt q t a d
    gate i
    whole do
      let c ← readT id
      let src := t.toNat
      require (src ≤ 12) .illop (imageOf i)
      if q = 0 then
        let ty ← typeFor i .bits c.elemType
        let w := typeBits ty
        let (ra, _, rd) ← touchFields i (srcHandle a) none (handleOf d) 64 0 64
        let n := min (512 / typeBits src) (512 / w)
        let on := c.actives w
        let xs ← readElems (typeBits src) (on.take n) ra a
        let rs := (List.range (512 / w)).map fun k =>
          if k < n then convert c.rounding src ty (xs.getD k 0) else (0, 0)
        raiseFlags (flagsOf on rs)
        writeVec d w rd on (rs.map (·.1))
        moveFields (srcHandle a) none (handleOf d) 64 0 64
        retire i
      else
        let z ← typeFor i .bits (shapeType (c.shape q.toNat))
        shapedStep i q z ⟨a, src⟩ none ⟨.code d, z⟩ false (fun m x _ _ => convert m src z x) id) s

/-! Quantisation (03 R47, 07 R128). -/

/-- A block's scale as `qscale` holds it. -/
def QuantPlan.byte : QuantPlan → Nat
  | .zero => 0
  | .invalid => 255
  | .scale e => e

/-- One element's code under a block's scale. Where the amax is zero every code is 0 whatever the element is: the first case of
03 R47 is taken before its last one, for an element that is NaN or infinite (log entry 79). -/
def QuantPlan.code (p : QuantPlan) (q ty x : Nat) : Nat × Nat :=
  match p with
  | .zero => (0, flZblk)
  | .invalid => ((if q = 0 then 128 else tapNar q), flNv)
  | .scale e => quantElem q e (elemVal ty x)

/-- The flags of a block's scale itself. -/
def QuantPlan.flags : QuantPlan → Nat
  | .zero => flZblk
  | .invalid => flNv
  | .scale _ => 0

/-- VQNT: the active elements, or a shape, as one block under a scale that the amax B gives (07 R128, R137). -/
def execVqnt (q : BitVec 3) (b a : Src) (d : Code) (s : State) : Outcome State Fault Refusal :=
  runM (do
    let i := Instr.vqnt q b a d
    gate i
    whole do
      let c ← readT id
      let qt := c.quantType
      let ty ← typeFor i .floats c.elemType
      let w := typeBits ty
      let x ← readSrc b
      let plan := quantPlan qt (elemVal ty (x.toNat % 2 ^ w)).abs
      if q = 0 then
        let (ra, _, rd) ← touchFields i (srcHandle a) none (handleOf d) 64 0 64
        let xs ← readElems w (c.actives w) ra a
        let codes := (List.range 64).map fun k => if k < 512 / w && c.active w k then plan.code qt ty (xs.getD k 0) else (0, 0)
        raiseFlags (plan.flags ||| flagsOf (List.replicate 64 true) codes)
        writeVec d 8 rd (List.replicate 64 true) (codes.map (·.1))
        modT fun t => { t with qscale := BitVec.ofNat 8 plan.byte }
        moveFields (srcHandle a) none (handleOf d) 64 0 64
        retire i
      else
        let z := shapeType (c.shape q.toNat)
        require (z == qt) .illop (imageOf i)
        shapedStep i q z ⟨a, ty⟩ none ⟨.code d, z⟩ false (fun _ x _ _ => plan.code qt ty x)
          fun t => { t with qscale := BitVec.ofNat 8 plan.byte }) s

/-- One code under an sx8 scale, as a float (07 R128). -/
def dequant (m qt e ty code : Nat) : Nat × Nat := (fmtOf ty).encode m (scaled e (elemVal qt code))

/-- VDQ: codes under the scale B[7:0] (07 R128). -/
def execVdq (q : BitVec 3) (b a : Src) (d : Code) (s : State) : Outcome State Fault Refusal :=
  runM (do
    let i := Instr.vdq q b a d
    gate i
    whole do
      let c ← readT id
      let qt := c.quantType
      let e ← readSrc b
      if q = 0 then
        let ty ← typeFor i .floats c.elemType
        let w := typeBits ty
        let (ra, _, rd) ← touchFields i (srcHandle a) none (handleOf d) 64 0 64
        let on := c.actives w
        let xs ← readElems 8 on ra a
        let rs := (List.range (512 / w)).map fun k => dequant c.rounding qt (e.toNat % 256) ty (xs.getD k 0)
        raiseFlags (flagsOf on rs)
        writeVec d w rd on (rs.map (·.1))
        moveFields (srcHandle a) none (handleOf d) 64 0 64
        retire i
      else
        let z ← typeFor i .floats (shapeType (c.shape q.toNat))
        shapedStep i q z ⟨a, qt⟩ none ⟨.code d, z⟩ false (fun m x _ _ => dequant m qt (e.toNat % 256) z x) id) s

/-! Rounding, scaling, exponents (07 R129). -/

/-- A float rounded to an integral value. -/
def rndiElem : ElemFn := fun t m a _ _ =>
  let f := fmtOf t
  match f.decode a with
  | .nan s => (f.nan, flagIf s flNv)
  | .inf n => (f.infinity n, 0)
  | .num n x e =>
    let (r, exact) := roundAt m n x e 0 false
    ((f.round m n r 0 false).1, flagIf (!exact) flNx)

/-- A float times a power of two; an exponent beyond ±2,000 gives what ±2,000 gives. -/
def scaleElem : ElemFn := fun t m a b _ =>
  let f := fmtOf t
  let n := max (-2000) (min 2000 (signed (typeBits t) b))
  f.encode m (match f.decode a with
    | .num s x e => .num s x (e + n)
    | v => v)

/-- The exponent of a float, as a float. -/
def getexpElem : ElemFn := fun t m a _ _ =>
  let f := fmtOf t
  match f.decode a with
  | .nan s => (f.nan, flagIf s flNv)
  | .inf _ => (f.infinity false, 0)
  | .num _ x e =>
    if x = 0 then (f.infinity true, flDz) else
    let k : Int := e + x.log2
    f.round m (decide (k < 0)) k.natAbs 0 false

/-- VRNDI (07 R129). -/
def execVrndi (q : BitVec 3) (a : Src) (d : Code) (s : State) : Outcome State Fault Refusal :=
  runM (vecOp (.vrndi q a d) q .floats a none d false rndiElem) s

/-- VSCALE (07 R129). -/
def execVscale (q : BitVec 3) (b a : Src) (d : Code) (s : State) : Outcome State Fault Refusal :=
  runM (vecOp (.vscale q b a d) q .floats a (some b) d false scaleElem) s

/-- VGETEXP (07 R129). -/
def execVgetexp (q : BitVec 3) (a : Src) (d : Code) (s : State) : Outcome State Fault Refusal :=
  runM (vecOp (.vgetexp q a d) q .floats a none d false getexpElem) s

/-! VSFU, major 27 (03 R45, R46, 07 R130). -/

/-- A member of the special-function unit on one element. -/
def sfuElem (k : Nat) : ElemFn := fun t m a _ _ => sfu k t m a

/-- VEXP2: 2^x (03 R45, R46). -/
def execVexp2 (q : BitVec 3) (a : Src) (d : Code) (s : State) : Outcome State Fault Refusal :=
  runM (vecOp (.vexp2 q a d) q .floats a none d false (sfuElem 0)) s

/-- VLOG2: log2 x (03 R45, R46). -/
def execVlog2 (q : BitVec 3) (a : Src) (d : Code) (s : State) : Outcome State Fault Refusal :=
  runM (vecOp (.vlog2 q a d) q .floats a none d false (sfuElem 1)) s

/-- VRCP: 1/x (03 R45, R46). -/
def execVrcp (q : BitVec 3) (a : Src) (d : Code) (s : State) : Outcome State Fault Refusal :=
  runM (vecOp (.vrcp q a d) q .floats a none d false (sfuElem 2)) s

/-- VRSQ: 1/√x, within 1 ulp (03 R45, R46). -/
def execVrsq (q : BitVec 3) (a : Src) (d : Code) (s : State) : Outcome State Fault Refusal :=
  runM (vecOp (.vrsq q a d) q .floats a none d false (sfuElem 3)) s

/-- VSQRT: √x (03 R45, R46). -/
def execVsqrt (q : BitVec 3) (a : Src) (d : Code) (s : State) : Outcome State Fault Refusal :=
  runM (vecOp (.vsqrt q a d) q .floats a none d false (sfuElem 4)) s

/-- VSINPI: sin πx, within 1 ulp (03 R45, R46). -/
def execVsinpi (q : BitVec 3) (a : Src) (d : Code) (s : State) : Outcome State Fault Refusal :=
  runM (vecOp (.vsinpi q a d) q .floats a none d false (sfuElem 5)) s

/-- VCOSPI: cos πx, within 1 ulp (03 R45, R46). -/
def execVcospi (q : BitVec 3) (a : Src) (d : Code) (s : State) : Outcome State Fault Refusal :=
  runM (vecOp (.vcospi q a d) q .floats a none d false (sfuElem 6)) s

end Sys2Proof.Machine
end

