-- ==== Sys2Proof/Machine/Copies.lean ====
section
/-! DEFINITION. The copy unit: CX, major 35, and the events of copies (10 R198 to R208, 22 R364, R365). -/

namespace Sys2Proof.Machine

open Host (Outcome)

/-! Records. -/

/-- The copy that a channel's context runs: the first of its queue (10 R203). -/
def State.runningCopy (s : State) : Option Copy :=
  (s.channelQueue (clusterOf s.t.coreid) (s.t.coreid / 2 % 8)).find? (·.running)

/-- The current copy ends with status bits (10 R204, R205). -/
def endWith {α : Type} (status : Nat) : M α := fun s => .error (.stay (s.endCopy s.t.coreid status 0 0))

/-- The record as CXRD reads it (10 R204). -/
def Copy.field (c : Copy) (k : Nat) : Option Word :=
  match k with
  | 0 => some c.source
  | 1 => some c.dest
  | 2 => some (word c.remaining)
  | 3 => some (word (c.template + 256 * c.channel + 65536 * c.flags))
  | 4 => some c.cref
  | 5 => some (word c.core)
  | 6 => some (word c.length)
  | 7 => some (word (padOf c.core + c.argOff))
  | _ => none

/-- CXRD (10 R204). -/
def execCxrd (a : Src) (d : Code) (s : State) : Outcome State Fault Refusal :=
  runM (do
    let i := Instr.cxrd a d
    gate i
    let k ← readSrc a
    match (← get).runningCopy with
    | none => trapNow .illop (imageOf i)
    | some c =>
      match c.field k.toNat with
      | some v =>
        writeD d v
        retire i
      | none => trapNow .illop (imageOf i)) s

/-! BURST (10 R204, 22 R351, R364). -/

/-- `n` bytes from an address checked byte by byte as an access; the keys come back. -/
def burstKeys (acc : Acc) : Nat → Word → M (List Nat)
  | 0, _ => pure []
  | n + 1, va => do
    let k ← resolveMem va 1 acc
    let ks ← burstKeys acc n (va + 1)
    pure (k :: ks)

/-- Bytes at keys, with the positions of those that are uncorrectable data. -/
def State.gatherBytes (s : State) (ks : List Nat) : List Byte × List Nat :=
  (ks.map s.mem.read, (List.range ks.length).filter fun i => s.bad.contains (ks.getD i 0 / 8 * 8))

/-- Bytes written one by one for an agent, marking what is uncorrectable. -/
def State.scatterBytes (s : State) (agent : Nat) (ks : List Nat) (bs : List Byte) (bad : List Nat) : State :=
  match ks with
  | [] => s
  | k0 :: _ =>
    if ks = (List.range ks.length).map (k0 + ·) then s.writeMarked agent k0 bs bad
    else
      let s1 := (ks.zip bs).foldl (fun x (k, b) => x.writeFor agent k [b]) s
      bad.foldl (fun x i => x.poison (ks.getD i 0) 1) s1

/-- Where a copy's remote address goes: bits 19:0 of its activity's peer value (10 R203, R204). -/
def Copy.node (c : Copy) (dest : Word) : Nat := fieldOf c.peers[fieldOf dest 58 6]! 0 20

/-- The packet of a bulk remote write (13 R272); `num` is its number among the copy's packets, by which its acknowledgement finds its
record (22 R364). -/
def bulkPacket (s : State) (c : Copy) (num : Nat) (dest : Word) (bs : List Byte) (bad : List Nat) : Packet :=
  let node := c.node dest
  let e : Element := {
    major := 35, f7 := 1, addr := fieldOf dest 0 57, size := bs.length, payload := 0, compare := 0, bytes := bs, counter := word num
    slice := c.slice.toNat, core := c.core, slot := c.slot, parts := 0, multicast := false, accepted := s.time, bad := bad }
  ⟨node % 2 ^ 14, s.fabric, node / 2 ^ 16 % 16, [e]⟩

/-- A collective step: a remote destination, an object target (22 R364). -/
def Copy.collective (c : Copy) : Bool := classOf c.dest == .remote && fieldOf c.cref 62 2 != 0

/-- What acknowledges a transfer within the module. -/
def Copy.localAck (c : Copy) : EventArg := { c.arg with nums := [c.slice.toNat, 1] }

/-- BURST: its limits, its checks, the transfer, the cursors (10 R204). A copy of a suspended slice stops before it (20 R337). -/
def execBurst (b a d : Src) (s : State) : Outcome State Fault Refusal :=
  runM (do
    let i := Instr.burst b a d
    gate i
    let len ← readSrc b
    let src ← readSrc a
    let dst ← readSrc d
    match (← get).runningCopy with
    | none => trapNow .illop (imageOf i)
    | some c =>
      if c.stopping then
        modS fun s => s.holdRunning c
        stayNow
      let n := len.toNat
      if n = 0 || 512 < n || c.remaining < n then endWith ctpl
      let from' ← burstKeys Acc.engineLoad n src
      let remote := classOf dst == .remote
      let dests ← if remote then pure [] else burstKeys Acc.engineStore n dst
      let s1 ← get
      if remote && !s1.peerOk s1.t.coreid (fieldOf dst 58 6) then
        modS fun s => s.logAccess (s.partNo s.t.coreid) dst.toNat 0 c.core Cause.accv.code 6
        trapNow .accv dst
      let (bs, bad) := s1.gatherBytes from'
      let pk := bulkPacket s1 c c.packets dst bs bad
      modS fun s => if remote then (s.unrepeatable c.core).send pk else s.scatterBytes c.core dests bs bad
      modS fun s => (s.modCopy c fun x => { x with
        source := x.source + len, dest := x.dest + len, remaining := x.remaining - n, inFlight := x.inFlight + 1
        status := if bad.isEmpty then x.status else x.status ||| word cpsn
        packets := x.packets + 1
        resend := if remote then x.resend ++ [⟨c.packets, src, dst, n, s.time, 0⟩] else x.resend })
      modS fun s =>
        if !remote then s.push .burstAck c.localAck
        else if c.collective then s.push .collectiveResend { c.arg with v := word c.packets, z := s.time }
        else s
      retire i) s

/-- CXDONE (10 R204). -/
def execCxdone (a : Src) (s : State) : Outcome State Fault Refusal :=
  runM (do
    let i := Instr.cxdone a
    gate i
    let x ← readSrc a
    match (← get).runningCopy with
    | none => trapNow .illop (imageOf i)
    | some c =>
      if fieldOf x 4 60 != 0 then endWith ctpl
      endWith (fieldOf x 0 4 * 2 ^ 12 + (if c.remaining = 0 then 0 else ctpl))) s

/-! Events of copies. -/

/-- An 8-byte store of `v` to the kick offset of channel `y` by context `x` (10 R202): accepted or trapped; one that would stall
changes nothing. -/
def execKick (s : State) : Outcome State Fault Refusal :=
  runM (event fun s =>
    let ch := s.arg.y
    let v := s.arg.v
    if 8 ≤ ch || (s.ctx s.arg.x).mode != .running then s else
    s.asCtx s.arg.x fun s =>
      match kickStore .kick 0 ch v s with
      | .ok (_, s1) => s1
      | .error (.trap c tval cls s1) => s1.takeTrap c tval cls
      | .error _ => s) s

/-- The stalled kick of context `x` has room now: its store executes again, and is accepted (10 R202). -/
def execCopyAccept (s : State) : Outcome State Fault Refusal :=
  runM (event fun s =>
    let c := s.ctx s.arg.x
    if c.mode = .waiting .copyQueue && (s.freeRecord s.arg.x c.sliceid.toNat).isSome then (s.setCtx { c with mode := .running }).pushTurn s.arg.x
    else s) s

/-- The supervisor `x` writes `v` to template slot `y` of its cluster (10 R199). -/
def execTemplateSlotWrite (s : State) : Outcome State Fault Refusal :=
  runM (event fun s =>
    if s.isSup s.arg.x && s.arg.y < 64 then s.setTemplate (clusterOf s.arg.x) s.arg.y s.arg.v else s) s

/-- The channel's context as a copy starts or resumes (10 R203). -/
def startCtx (c : Copy) (entry : Word) : Ctx :=
  let t := Ctx.reset .hart (channelCore c.cluster c.channel)
  { t with
    mode := .running
    pc := entry
    s := (((t.s.set! 1 c.source).set! 2 c.dest).set! 3 (word c.remaining)).set! 4 (word c.flags)
    peers := c.peers }

/-- Channel `y` of cluster `x` starts the copy at the head of its queue when it runs none (10 R203). A copy that has started
before keeps its ORD (10 R199, 20 R337). -/
def execCopyStart (s : State) : Outcome State Fault Refusal :=
  runM (event fun s =>
    match s.channelQueue s.arg.x s.arg.y with
    | c :: _ =>
      if c.running then s else
      let v := (s.cluster s.arg.x).templates.getD c.template 0
      let s1 := s.modCopy c fun x => { x with started := true, running := true, ord := if x.started then x.ord else flagOf v 0 }
      let s2 := (s1.setCtx (startCtx c (v &&& ~~~(1#64)))).acquire (channelCore s.arg.x s.arg.y)
      let stalled := ((s2.t.coreid, s2.t) :: s2.others).filter fun x => x.2.mode == .waiting .copyQueue
      stalled.foldl (fun x w => x.push .copyAccept { x := w.1 }) (s2.pushTurn (channelCore s.arg.x s.arg.y))
    | [] => s) s

/-- A packet of a copy has had its end: its record goes, with bits for the status. -/
def State.packetEnds (s : State) (c : Copy) (r : Sent) (bits : Nat) : State :=
  s.modCopy c fun x => { x with inFlight := x.inFlight - 1, status := x.status ||| word bits, resend := x.resend.erase r }

/-- A transfer of the copy in place `y` of thread `x` for the slice in `nums` is acknowledged (10 R206): one within the module, or
packet `v`, whose acknowledgement may report a fault in `z`, an element status: RESET is sent again (22 R365), any other sets
CFAULT. A packet that has had its end, as one that was sent twice may, has no record any more. -/
def execBurstAck (s : State) : Outcome State Fault Refusal :=
  runM (event fun s =>
    match s.copyOf s.arg with
    | none => s
    | some c =>
      if s.arg.nums.getD 1 0 = 1 then s.modCopy c fun x => { x with inFlight := x.inFlight - 1 } else
      match c.resend.find? fun r => r.num == s.arg.v.toNat with
      | none => s
      | some r =>
        if s.arg.z = 6 && c.collective then s.push .collectiveResend { s.arg with z := 0 }
        else s.packetEnds c r (if s.arg.z = 0 then 0 else cfault)) s

/-- The copy in place `y` of thread `x` for the slice in `nums` performs its completion step once it has ended and every
transfer is acknowledged (10 R205); with ORD, after every earlier ORD copy of its channel (10 R208). -/
def execCopyCompletion (s : State) : Outcome State Fault Refusal :=
  runM (do
    let s ← get
    match s.copyOf s.arg with
    | none => pure ()
    | some c =>
      if !c.ended || c.held then pure () else
      if c.inFlight != 0 || s.copyBlocked c then notYet .copyCompletion
      if s.padHeld engineAgent c.key then notYet .copyCompletion
      modS fun s =>
        let s1 := s.copyDone c
        let s2 := if (s1.ctx c.core).mode = .waiting .copyQueue then s1.push .copyAccept { x := c.core } else s1
        if (s2.channelQueue c.cluster c.channel).isEmpty then s2 else s2.push .copyStart { x := c.cluster, y := c.channel }) s

/-- A copy's source read again by the copy unit, in the issuer's translation (22 R365): the keys, none where it faults now. -/
def State.rereadKeys (s : State) (c : Copy) (src : Word) (n : Nat) : State × Option (List Nat) :=
  (List.range n).foldl (fun (x : State × Option (List Nat)) j =>
    match x.2 with
    | none => x
    | some ks =>
      match x.1.engineFind (channelCore c.cluster c.channel) c.part .cluster (src + word j) 1 Acc.engineLoad with
      | (y, .ok k) => (y, some (ks ++ [k]))
      | (y, .error _) => (y, none)) (s, some [])

/-- The number that the next entry of a partition's error log has. -/
def State.nextError (s : State) (p : Nat) : Option Nat := (s.part p).errorLog.map fun a => s.mem.readNat a 8

/-- One more packet in the count of an error log's entry, where the entry stands there still (22 R353). -/
def State.countError (s : State) (p : Nat) (entry : Option Nat) : State :=
  match (s.part p).errorLog, entry with
  | some a, some n =>
    let k := a + 64 + 64 * (n % 4096)
    if s.mem.readNat (k + 56) 8 = n then s.writeNat (k + 28) 4 (s.mem.readNat (k + 28) 4 + 1) else s
  | _, _ => s

/-- The round in which a packet is sent again: the step's last one, where it has not been sent again in that, else a new one, with
its entry of kind 13 (22 R365). -/
def State.inRound (s : State) (c : Copy) (r : Sent) : State :=
  if r.tries < c.retries then s.countError c.part c.round else
  (s.modCopy c fun x => { x with
    retries := x.retries + 1, round := s.nextError c.part
    status := word (putBits x.status.toNat 24 8 (min 255 (c.retries + 1))) }).logError c.part
      { slice := c.slice.toNat, location := c.core, kind := 13, detailA := c.retries + 1, detailB := c.node r.dst % 2 ^ 14 }

/-- A packet of a collective step sent again (22 R365). Where its source can no longer be read the packet ends with CFAULT (log
entry 93). -/
def State.resent (s : State) (c : Copy) (r : Sent) : State :=
  match s.rereadKeys c r.src r.len with
  | (s1, none) => s1.packetEnds c r cfault
  | (s1, some ks) =>
    let s2 := (s1.inRound c r).modCopy c fun x => { x with
      resend := x.resend.map fun q => if q.num = r.num then { q with time := s.time, tries := x.retries } else q }
    let (bs, bad) := s2.gatherBytes ks
    (s2.send (bulkPacket s2 c r.num r.dst bs bad)).push .collectiveResend { c.arg with v := word r.num, z := s.time }

/-- Packet `v` of the collective step in place `y` of thread `x`, sent at time `z`, has failed, with `z` 0, or has had no
acknowledgement for 100 µs (22 R365): it is re-read from its source and sent again, in up to `collretry` rounds of the step; then it
fails with COLLFAIL. -/
def execCollectiveResend (s : State) : Outcome State Fault Refusal :=
  runM (do
    let s ← get
    match s.copyOf s.arg with
    | none => pure ()
    | some c =>
      match c.resend.find? fun r => r.num == s.arg.v.toNat with
      | none => pure ()
      | some r =>
        if s.arg.z != 0 && s.arg.z != r.time then pure () else
        if s.arg.z != 0 && s.time < r.time + 100000 then notYet .collectiveResend
        let rounds := (s.part c.part).collretry.toNat
        if rounds ≤ c.retries && c.retries ≤ r.tries then
          modS fun s => (s.packetEnds c r (2 ^ 16)).logError c.part
            { slice := c.slice.toNat, location := c.core, kind := 14, detailA := c.retries, detailB := c.node r.dst % 2 ^ 14 }
        else
          modS fun s => s.resent c r) s

end Sys2Proof.Machine
end

