-- ==== Sys2Proof/Machine/Crypto.lean ====
section
/-! DEFINITION. SHAKE256 (FIPS 202) and ML-DSA-65, its key generation, signing and verification (FIPS 204), which 00 R7 and 24
R381 to R385 name and do not define: the standards are the model's source (PRESUMED, log entry 11). -/

namespace Sys2Proof.Machine

/-! Keccak-f[1600]: 25 lanes of 64 bits, lane x + 5 y. -/

abbrev Lanes := List (BitVec 64)

def Lanes.at (a : Lanes) (i : Nat) : BitVec 64 := List.getD a i 0

def keccakOffsets : List Nat :=
  [0, 1, 62, 28, 27, 36, 44, 6, 55, 20, 3, 10, 43, 25, 39, 41, 45, 15, 21, 8, 18, 2, 61, 56, 14]

def keccakConstants : List Nat :=
  [0x0000000000000001, 0x0000000000008082, 0x800000000000808A, 0x8000000080008000, 0x000000000000808B, 0x0000000080000001,
    0x8000000080008081, 0x8000000000008009, 0x000000000000008A, 0x0000000000000088, 0x0000000080008009, 0x000000008000000A] ++
  [0x000000008000808B, 0x800000000000008B, 0x8000000000008089, 0x8000000000008003, 0x8000000000008002, 0x8000000000000080,
    0x000000000000800A, 0x800000008000000A, 0x8000000080008081, 0x8000000000008080, 0x0000000080000001, 0x8000000080008008]

/-- One round: theta, rho and pi, chi, iota. -/
def keccakRound (a : Lanes) (rc : Nat) : Lanes :=
  let c := (List.range 5).map fun x => a.at x ^^^ a.at (x + 5) ^^^ a.at (x + 10) ^^^ a.at (x + 15) ^^^ a.at (x + 20)
  let d := (List.range 5).map fun x => Lanes.at c ((x + 4) % 5) ^^^ (Lanes.at c ((x + 1) % 5)).rotateLeft 1
  let t := (List.range 25).map fun i => (a.at i ^^^ Lanes.at d (i % 5)).rotateLeft (keccakOffsets.getD i 0)
  -- lane (x, y) of the permuted state comes from lane (x + 3 y, x)
  let b := (List.range 25).map fun i => Lanes.at t ((i % 5 + 3 * (i / 5)) % 5 + 5 * (i % 5))
  let e := (List.range 25).map fun i =>
    let row := 5 * (i / 5)
    Lanes.at b i ^^^ (~~~ Lanes.at b (row + (i + 1) % 5) &&& Lanes.at b (row + (i + 2) % 5))
  e.set 0 (Lanes.at e 0 ^^^ BitVec.ofNat 64 rc)

def keccak (a : Lanes) : Lanes := keccakConstants.foldl keccakRound a

/-- A message of bytes as lanes. -/
def toLanes : Nat → List Byte → Lanes
  | 0, _ => []
  | n + 1, bs => BitVec.ofNat 64 (leNat (bs.take 8)) :: toLanes n (bs.drop 8)

/-- `n` blocks of `rate` bytes absorbed. -/
def absorb (rate : Nat) : Nat → List Byte → Lanes → Lanes
  | 0, _, a => a
  | n + 1, bs, a =>
    let b := toLanes (rate / 8) (bs.take rate)
    absorb rate n (bs.drop rate) (keccak ((List.range 25).map fun i => a.at i ^^^ Lanes.at b i))

/-- `n` blocks of `rate` bytes squeezed. -/
def squeeze (rate : Nat) : Nat → Lanes → List Byte
  | 0, _ => []
  | n + 1, a => (a.take (rate / 8)).flatMap (fun x => leBytes 8 x.toNat) ++ squeeze rate n (keccak a)

/-- The SHAKE padding of a message: 1111, then 10*1. -/
def shakePad (rate : Nat) (m : List Byte) : List Byte :=
  let k := rate - m.length % rate
  if k = 1 then m ++ [0x9F] else m ++ [0x1F] ++ List.replicate (k - 2) 0 ++ [0x80]

/-- SHAKE of a rate: `n` bytes of output. -/
def shake (rate n : Nat) (m : List Byte) : List Byte :=
  (squeeze rate ((n + rate - 1) / rate) (absorb rate (m.length / rate + 1) (shakePad rate m) (List.replicate 25 0))).take n

/-- SHAKE256 with 64 bytes of output, as every digest of chapter 24 has. -/
def shake256 (m : List Byte) : List Byte := shake 136 64 m

/-! Polynomials modulo x^256 + 1 and q. -/

def dsaQ : Nat := 8380417

abbrev Poly := List Nat

def Poly.add (a b : Poly) : Poly := (a.zip b).map fun (x, y) => (x + y) % dsaQ
def Poly.sub (a b : Poly) : Poly := (a.zip b).map fun (x, y) => (x + dsaQ - y) % dsaQ
def Poly.times (a b : Poly) : Poly := (a.zip b).map fun (x, y) => x * y % dsaQ
def Poly.scale (z : Nat) (a : Poly) : Poly := a.map fun x => x * z % dsaQ

/-- The low 8 bits of a number in reverse. -/
def bitRev8 (m : Nat) : Nat := (List.range 8).foldl (fun r i => r + m / 2 ^ i % 2 * 2 ^ (7 - i)) 0

/-- The root of unity of a node of the transform's tree, and its inverse. -/
def zetaOf (m : Nat) : Nat := 1753 ^ bitRev8 m % dsaQ
def zetaInv (m : Nat) : Nat := 1753 ^ (512 - bitRev8 m) % dsaQ

/-- The number-theoretic transform from node `m` down. -/
def ntt : Nat → Nat → Poly → Poly
  | 0, _, a => a
  | n + 1, m, a =>
    let lo := a.take (2 ^ n)
    let t := Poly.scale (zetaOf m) (a.drop (2 ^ n))
    ntt n (2 * m) (Poly.add lo t) ++ ntt n (2 * m + 1) (Poly.sub lo t)

/-- Its inverse, without the factor 2^-n. -/
def nttInv : Nat → Nat → Poly → Poly
  | 0, _, a => a
  | n + 1, m, a =>
    let lo := nttInv n (2 * m) (a.take (2 ^ n))
    let hi := nttInv n (2 * m + 1) (a.drop (2 ^ n))
    Poly.add lo hi ++ Poly.scale (zetaInv m) (Poly.sub lo hi)

def toNtt (a : Poly) : Poly := ntt 8 1 a
def fromNtt (a : Poly) : Poly := Poly.scale 8347681 (nttInv 8 1 a)

/-! Sampling and packing. -/

/-- `n` fields of `w` bits from a string of bytes. -/
def unpackBits (w n : Nat) (bs : List Byte) : List Nat :=
  let x := leNat bs
  (List.range n).map fun i => bitsOf x (w * i) w

/-- Coefficients below q from three bytes each, in order. -/
def rejectQ : Nat → List Byte → List Nat
  | 0, _ => []
  | n + 1, bs =>
    let z := leNat (bs.take 3) % 2 ^ 23
    if z < dsaQ then z :: rejectQ n (bs.drop 3) else rejectQ n (bs.drop 3)

/-- An entry of the matrix A, in the transform's domain: the first 256 samples accepted, among as many as six blocks hold. -/
def matrixEntry (rho : List Byte) (r c : Nat) : Poly :=
  (rejectQ 336 (shake 168 1008 (rho ++ [BitVec.ofNat 8 c, BitVec.ofNat 8 r]))).take 256

/-- The next byte of a stream that is at most `i`, with what follows it. -/
def byteAtMost (i : Nat) : List Byte → Nat × List Byte
  | [] => (0, [])
  | b :: bs => if b.toNat ≤ i then (b.toNat, bs) else byteAtMost i bs

/-- The challenge's coefficients placed, from index 256 - `n` on. -/
def placeBall (signs : Nat) : Nat → List Byte → Poly → Poly
  | 0, _, c => c
  | n + 1, bs, c =>
    let i := 255 - n
    let (j, rest) := byteAtMost i bs
    placeBall signs n rest ((c.set i (c.getD j 0)).set j (if bitOf signs (48 - n) then dsaQ - 1 else 1))

/-- The challenge polynomial: 49 coefficients 1 or -1. -/
def sampleInBall (seed : List Byte) : Poly :=
  let bs := shake 136 1088 seed
  placeBall (leNat (bs.take 8)) 49 (bs.drop 8) (List.replicate 256 0)

/-- The hint of `k` rows from its 55 places and the ends of its rows: none where the places of a row do not rise. -/
def hintRows (places : List Nat) : Nat → Nat → List Nat → Option (List (List Nat))
  | 0, done, _ => if (places.drop done).all (· == 0) then some [] else none
  | _, _, [] => none
  | k + 1, done, e :: ends =>
    let row := (places.take e).drop done
    if e < done || 55 < e || !(row.zip (row.drop 1)).all (fun p => p.1 < p.2) then none else
    match hintRows places k e ends with
    | some rows => some (row :: rows)
    | none => none

/-- The high part of a coefficient, and its low part modulo q. At the top the high part is 0 and the low part one less. -/
def decompose (r : Nat) : Nat × Nat :=
  let g := 523776
  let low := r % g
  let up := g / 2 < low
  let high := (r - low) / g + (if up then 1 else 0)
  let l := if up then dsaQ + low - g else low
  if high = 16 then (0, (l + dsaQ - 1) % dsaQ) else (high, l)

/-- The high part of a coefficient, corrected by a hint. -/
def useHint (h : Bool) (r : Nat) : Nat :=
  let (high, low) := decompose r
  if h then (if low = 0 || dsaQ / 2 < low then (high + 15) % 16 else (high + 1) % 16) else high

/-- The distance of a coefficient from zero. -/
def centred (x : Nat) : Nat := min x (dsaQ - x)

/-- Row `r` of the matrix A times a vector, in the transform's domain. -/
def matrixRow (rho : List Byte) (zs : List Poly) (r : Nat) : Poly :=
  (List.range 5).foldl (fun s k => Poly.add s (Poly.times (matrixEntry rho r k) (zs.getD k []))) (List.replicate 256 0)

/-- The digest of a message of the pure variant, with no context string, under the digest of its public key. -/
def messageDigest (tr msg : List Byte) : List Byte := shake 136 64 (tr ++ [0, 0] ++ msg)

/-- High parts, 4 bits each. -/
def packHigh (w : List Poly) : List Byte :=
  w.flatMap fun p => (List.range 128).map fun i => BitVec.ofNat 8 (p.getD (2 * i) 0 + 16 * p.getD (2 * i + 1) 0)

/-- Whether a signature of the pure variant, with no context string, verifies: key, message, signature. -/
def mldsaVerify (key msg sig : List Byte) : Bool :=
  if key.length != 1952 || sig.length != 3309 then false else
  let rho := key.take 32
  let t1 := (List.range 6).map fun i => unpackBits 10 256 ((key.drop (32 + 320 * i)).take 320)
  let seed := sig.take 48
  let z := (List.range 5).map fun i =>
    (unpackBits 20 256 ((sig.drop (48 + 640 * i)).take 640)).map fun v => (2 ^ 19 + dsaQ - v) % dsaQ
  let hint := (sig.drop 3248).map (·.toNat)
  match hintRows (hint.take 55) 6 0 (hint.drop 55) with
  | none => false
  | some rows =>
    let mu := messageDigest (shake 136 64 key) msg
    let c := toNtt (sampleInBall seed)
    let zs := z.map toNtt
    let w := (List.range 6).map fun r =>
      let az := matrixRow rho zs r
      let ct := Poly.times c (toNtt (Poly.scale (2 ^ 13) (t1.getD r [])))
      let x := fromNtt (Poly.sub az ct)
      (List.range 256).map fun i => useHint ((rows.getD r []).contains i) (x.getD i 0)
    z.all (fun p => p.all fun x => centred x < 2 ^ 19 - 196) && shake 136 48 (mu ++ packHigh w) == seed

/-! Keys and signing. -/

/-- Fields of `w` bits packed into bytes. -/
def packBits (w : Nat) (xs : List Nat) : List Byte :=
  leBytes (w * xs.length / 8) ((xs.foldr (fun x n => x + 2 ^ w * n)) 0)

/-- Coefficients -4 to 4 from half bytes, the low one of a byte first. -/
def rejectHalf : List Byte → List Nat
  | [] => []
  | b :: bs =>
    let put := fun (n : Nat) (l : List Nat) => if n < 9 then (dsaQ + 4 - n) % dsaQ :: l else l
    put (b.toNat % 16) (put (b.toNat / 16) (rejectHalf bs))

/-- A secret polynomial: the first 256 samples accepted, among as many as eight blocks hold. -/
def secretPoly (seed : List Byte) (n : Nat) : Poly := (rejectHalf (shake 136 1088 (seed ++ leBytes 2 n))).take 256

/-- A key pair: the seed of A, the secret vectors, the signing seed, the low parts of t, the public key. -/
structure DsaKey where
  rho : List Byte
  s1 : List Poly
  s2 : List Poly
  seed : List Byte
  t0 : List Poly
  pub : List Byte

/-- Key generation from a seed of 32 bytes. -/
def mldsaKey (xi : List Byte) : DsaKey :=
  let h := shake 136 128 (xi ++ [6, 5])
  let rho := h.take 32
  let s := (List.range 11).map (secretPoly ((h.drop 32).take 64))
  let s1 := s.take 5
  let s2 := s.drop 5
  let zs := s1.map toNtt
  let t := (List.range 6).map fun r => Poly.add (fromNtt (matrixRow rho zs r)) (s2.getD r [])
  let high := fun x : Nat => (x + 4095) / 8192
  { rho := rho, s1 := s1, s2 := s2, seed := h.drop 96
    t0 := t.map fun p => p.map fun x => (dsaQ + x - 8192 * high x) % dsaQ
    pub := rho ++ t.flatMap fun p => packBits 10 (p.map high) }

/-- The mask of an attempt: 20-bit fields of 640 bytes for each polynomial. -/
def maskVector (seed : List Byte) (kappa : Nat) : List Poly :=
  (List.range 5).map fun r =>
    (unpackBits 20 256 (shake 136 640 (seed ++ leBytes 2 (kappa + r)))).map fun v => (2 ^ 19 + dsaQ - v) % dsaQ

/-- Whether every coefficient lies closer to zero than a bound. -/
def within (n : Nat) (ps : List Poly) : Bool := ps.all fun p => p.all fun x => centred x < n

/-- One attempt to sign a message digest with a mask; none where it is rejected. -/
def signOnce (k : DsaKey) (mu : List Byte) (y : List Poly) : Option (List Byte) :=
  let ys := y.map toNtt
  let w := (List.range 6).map fun r => fromNtt (matrixRow k.rho ys r)
  let seed := shake 136 48 (mu ++ packHigh (w.map fun p => p.map fun x => (decompose x).1))
  let c := toNtt (sampleInBall seed)
  let times := fun p : Poly => fromNtt (Poly.times c (toNtt p))
  let z := (y.zip k.s1).map fun (a, b) => Poly.add a (times b)
  let r := (w.zip k.s2).map fun (a, b) => Poly.sub a (times b)
  let ct := k.t0.map times
  let hint := (r.zip ct).map fun (a, b) =>
    (List.range 256).filter fun i => (decompose (a.getD i 0)).1 != (decompose ((a.getD i 0 + b.getD i 0) % dsaQ)).1
  let ends := (List.range 6).map fun i => ((hint.take (i + 1)).map List.length).sum
  if within (2 ^ 19 - 196) z && within (261888 - 196) (r.map fun p => p.map fun x => (decompose x).2) && within 261888 ct &&
      (hint.map List.length).sum ≤ 55 then
    some (seed ++ (z.flatMap fun p => packBits 20 (p.map fun x => (2 ^ 19 + dsaQ - x) % dsaQ)) ++
      (hint.flatten.map (BitVec.ofNat 8) ++ List.replicate 55 0).take 55 ++ ends.map (BitVec.ofNat 8))
  else none

/-- The attempts, in at most as many as the standard bounds them by. -/
def signLoop (k : DsaKey) (mu seed : List Byte) : Nat → Nat → List Byte
  | 0, _ => []
  | fuel + 1, kappa =>
    match signOnce k mu (maskVector seed kappa) with
    | some sig => sig
    | none => signLoop k mu seed fuel (kappa + 5)

/-- A signature of the pure variant, with no context string; `rnd` is its 32 random bytes. -/
def mldsaSign (k : DsaKey) (msg rnd : List Byte) : List Byte :=
  let mu := messageDigest (shake 136 64 k.pub) msg
  signLoop k mu (shake 136 64 (k.seed ++ rnd ++ mu)) 814 0

end Sys2Proof.Machine
end

