-- ==== Sys2Proof/Machine/Welt.lean ====
section
/-! DEFINITION. WELT: major 40, and the slots of a gang (11 R213 to R222). -/

namespace Sys2Proof.Machine

open Host (Outcome)

/-- A context whose four port values read 0. -/
def Ctx.clearPorts (c : Ctx) : Ctx :=
  { c with eo := 0, wo := 0, eoPrev := 0, woPrev := 0, eoMark := false, woMark := false, eoOld := 0, woOld := 0 }

/-- A gang formed at WSTART: every port is 0, the followers execute it as their own index 0, the word that the leader fetched
(11 R215, R216). -/
def State.formGang (s : State) (id : Nat) (g : Gang) : State :=
  let here := s.t.pc
  let s1 := { s with gangs := s.gangs.put id { g with
    formed := true, stopped := false, counts := g.members.map fun _ => 0, base := 0, queue := [], ended := [], rowmax := none
    closing := [], trapped := [], runner := none, front := here, exiting := false, notice := false } }
  g.members.foldl (fun x m => x.modCtx m fun c =>
    let c1 := c.clearPorts
    if m = s.t.coreid then c1 else { c1 with mode := .running, pc := here }) s1

/-- WSTART (11 R215). A follower's execution has no effect. -/
def execWstart (a : Src) (s : State) : Outcome State Fault Refusal :=
  runM (do
    let i := Instr.wstart a
    gate i
    if (← readS State.leaderEntry).isSome then retire i
    else
      let x ← readSrc a
      match (← get).gangOf (← get).t.coreid with
      | none => trapNow .illop (imageOf i)
      | some (id, g, _) =>
        require (!g.formed && x.toNat == g.members.length) .gang x
        modS fun s => s.formGang id g
        retire i) s

/-- A member of a formed gang past its WEND or its EXIT. -/
def State.endMember (s : State) (id p : Nat) (exiting : Bool) : State :=
  match s.gangs.find id with
  | some g => { s with gangs := s.gangs.put id { g with ended := setAdd g.ended p, exiting := g.exiting || exiting } }
  | none => s

/-- A gang dissolved: the ports read 0, the followers are idle, the leader goes on alone (11 R215). -/
def State.dissolve (s : State) (id : Nat) : State :=
  match s.gangs.find id with
  | none => s
  | some g =>
    let s1 := { s with gangs := s.gangs.put id { g with
      formed := false, stopped := false, counts := g.members.map fun _ => 0, base := 0, queue := [], ended := [], rowmax := none
      closing := [], trapped := [], runner := none, code := [], exiting := false, notice := false } }
    let lead := g.members.headD 0
    g.members.foldl (fun x m => x.modCtx m fun c =>
      let c1 := c.clearPorts
      if m = lead then c1 else { c1 with mode := .idle }) s1

/-- WEND (11 R215): each member stops advancing; the east end's completion dissolves the gang. -/
def execWend (s : State) : Outcome State Fault Refusal :=
  runM (do
    gate .wend
    match (← get).formedGang (← get).t.coreid with
    | none => trapOpen .gang
    | some (id, g, p) =>
      modS fun s =>
        let s1 := (s.complete 4 0 0).endMember id p false
        if p + 1 = g.members.length then s1.dissolve id else s1
      afterInstr) s

/-- WPOS: the member's position (11 R215). -/
def execWpos (d : Code) (s : State) : Outcome State Fault Refusal :=
  runM (do
    let i := Instr.wpos d
    gate i
    let v ← readT fun t => word (t.gangpos.toNat % 256)
    writeD d v
    retire i) s

/-- The advance rule for a member (11 R216). -/
def Gang.advances (g : Gang) (q : Nat) : Bool :=
  let j := g.count q
  !g.ended.contains q && (q == 0 || j + 1 ≤ g.count (q - 1)) && (q + 1 == g.members.length || j ≤ g.count (q + 1) + 1)

/-- A slot of gang `x` begins, when the last one has ended: the members that the advance rule admits execute their next
instructions (11 R216), before whatever else the agenda holds (log entry 6). -/
def execGangSlot (s : State) : Outcome State Fault Refusal :=
  runM (event fun s =>
    match s.gangs.find s.arg.x with
    | none => s
    | some g =>
      if !g.formed || g.stopped || s.slotBusy g.members then s else
      let go := (List.range g.members.length).filter g.advances
      { s with agenda := (go.map fun q => .member (g.members.getD q 0) (g.count q)) ++ s.agenda }) s

end Sys2Proof.Machine
end

