-- ==== Sys2Proof/Machine/Task.lean ====
section
/-! DEFINITION. TASK: major 39, with the checks of a slice record (09 R191 to R197, 18 R286 to R291, 13 R254 to R266). -/

namespace Sys2Proof.Machine

open Host (Outcome)

/-! Slice records (18 R286, R287, R296). -/

def recPrio (r : BitVec 2048) : Nat := recField r 28 1
def recKind (r : BitVec 2048) : Nat := recField r 29 1
def recLength (r : BitVec 2048) : Nat := recField r 30 1
def recFlags (r : BitVec 2048) : Nat := recField r 31 1
def recCounter (r : BitVec 2048) : Nat := recField r 40 8

/-- The zero fields and limits of a record, those of used obligation-transfer entries among them (09 R192 check 1, 18 R286, R287). -/
def recLawful (r : BitVec 2048) : Bool :=
  let k := recKind r
  let g := recLength r
  recField r 54 2 == 0 && recField r 192 64 == 0 && recFlags r / 16 == 0 && k ≤ 2 && recPrio r ≤ 23 && recField r 24 4 != 0 &&
    (if k = 2 then 2 ≤ g && g ≤ 64 else g == 0) &&
    (List.range 4).all fun n => recField r (140 + 16 * n) 1 == 0 || recField r (141 + 16 * n) 3 == 0

/-- A footprint entry's limits (18 R296). -/
def footLawful (r : BitVec 2048) (n : Nat) : Bool :=
  let va := word (footVa r n)
  let len := footLen r n
  let off := footOff r n
  let top := if recKind r = 1 then 0x10000 else 0xC000
  match footDir r n with
  | 0 => recField r (64 + 16 * n) 16 == 0
  | _ => footDir r n ≤ 3 && recField r (79 + 16 * n) 1 == 0 && classOf va == .global && va.toNat % 64 == 0 && len % 64 == 0 &&
      64 ≤ len && off % 64 == 0 && off + len ≤ top

/-- Every footprint entry is lawful and no two used ones overlap in the pad. -/
def footsLawful (r : BitVec 2048) : Bool :=
  (List.range 4).all fun n => footLawful r n && (List.range n).all fun m =>
    footDir r n == 0 || footDir r m == 0 || !rangesMeet (footOff r n, footLen r n) (footOff r m, footLen r m)

/-- The units that a record moves, from entry `n` on, out of a table: their giver keeps `held` (09 R192 check 2). -/
def recUnits (core : Nat) (r : BitVec 2048) (held : List Oblig) (img : Word) : Nat → Nat → Except (Cause × Word) (List Oblig)
  | 0, _ => .ok []
  | m + 1, n =>
    let f := fun o k => recField r (128 + 16 * n + o) k
    let kind := f 12 1
    if kind = 0 then (if f 0 16 = 0 then recUnits core r held img m (n + 1) else .error (.illop, img)) else
    let count := f 8 4
    let ref := word (f 0 8 % 2 ^ 48)
    match Duty.ofCode kind with
    | none => .error (.illop, img)
    | some k =>
      if count = 0 || k = .fill || k = .drain || (k = .unlock && count != 1) then .error (.illop, img) else
      let loc := locOf core ref
      match findDuty held loc k with
      | none => .error (.unowed, ref)
      | some e =>
        -- no object has a reference with bits 47:33 nonzero (09 R171)
        if e.count < count || fieldOf ref 33 15 != 0 then .error (.unowed, ref) else
        let rest := held.map fun o => if o.loc == loc && o.kind == k then { o with count := o.count - count } else o
        match recUnits core r rest img m (n + 1) with
        | .error x => .error x
        | .ok us => .ok (⟨loc, k, count, 0, e.due, false, false, false⟩ :: us)

/-- Grid columns of a partition's lane cores in a grid row of a die (11 R213). -/
def Partition.columns (x : Partition) (die row : Nat) : List Nat :=
  (List.range 64).filter fun col => x.clusters.contains (die * 256 + row / 2 * 16 + col / 4)

/-- The longest run of consecutive numbers in a rising list. -/
def longestRun (l : List Nat) : Nat :=
  (l.foldl (fun (best, run, last) c =>
    let run1 := if last + 1 = c && run != 0 then run + 1 else 1
    (max best run1, run1, c)) (0, 0, 0)).1

/-- Whether a partition has the threads that a record's kind needs on a die (18 R289 check 4). -/
def Partition.kindFits (x : Partition) (die : Nat) (r : BitVec 2048) : Bool :=
  let here := x.clusters.filter fun c => c / 256 == die
  match recKind r with
  | 0 => !here.isEmpty
  | 1 => here.any fun c => coreAt c 8 != x.supervisor
  | _ => (List.range 32).any fun row => recLength r ≤ longestRun (x.columns die row)

/-- The dependence counter of a record that lists obligations (09 R192 check 3). -/
def State.dependenceCheck (s : State) (part : Nat) (key : Nat) (units : List Oblig) (img ref : Word) : Option (Cause × Word) :=
  let o := s.obj key
  if units.isEmpty then none
  else if o.kind != Obj.ctr || !o.dutyCtr then some (.illop, img)
  else if units.any (fun u => s.obligRank part u ≤ o.rank) then some (.rankv, ref) else none

/-- The checks of 09 R192 and 18 R289, of 09 R196 for an armed entry, up to check 4 of R289, for an agent with a table: the
units to move and the counter's key. `a` is the record's address, `img` what ILLOP reports. -/
def State.recordChecks (s : State) (core part slice : Nat) (table : List Oblig) (a img : Word) (r : BitVec 2048) (arm : Bool) :
    State × Except (Cause × Word) (List Oblig × Option Nat) :=
  let x := s.part part
  if !recLawful r then (s, .error (.illop, a)) else
  match recUnits core r table img 4 0 with
  | .error e => (s, .error e)
  | .ok units =>
    let dep := recCounter r
    let ref := refOf (word dep)
    let q := recQueue r
    let room := !arm || ((s.cluster (clusterOf core)).armed.length < 64)
    let early : Option (Cause × Word) :=
      if arm && dep = 0 then some (.illop, img)
      else if !room then some (.obfull, ref)
      else if bitOf (recFlags r) 0 && recField r 128 64 != 0 then some (.illop, img)
      else if 1023 < q || !(x.queue q).valid then some (.illop, word q)
      else if !footsLawful r then some (.illop, a) else none
    let late : Option (Cause × Word) := if x.kindFits (x.queue q).die r then none else some (.illop, img)
    let first := fun (es : List (Option (Cause × Word))) (v : List Oblig × Option Nat) =>
      match es.findSome? id with
      | some e => Except.error e
      | none => Except.ok v
    if dep = 0 then (s, first [early, late] (units, none)) else
    let (s1, found) := s.tryObject core part slice .core ref
    match found with
    | .error c =>
      -- a bad reference is found by check 3 of R192 where obligations are listed, else by check 3 of R289
      (if units.isEmpty && early.isSome then s else s1,
        first [if units.isEmpty then early else none, some (c, ref)] (units, none))
    | .ok k =>
      let s1 := s1.atHome core k 32
      let bad := if s1.poisoned k 32 then some (Cause.poison, ref) else none
      let kind := if (s1.obj k).kind = Obj.ctr then none else some (Cause.illop, ref)
      (s1, first (if units.isEmpty then [early, bad, kind, late] else [bad, s1.dependenceCheck part k units img ref, early, kind, late])
        (units, some k))

/-- Units moved out of a table (09 R175). -/
def State.giveUnits (s : State) (part : Nat) (os : List Oblig) (units : List Oblig) : List Oblig :=
  units.foldl (fun t u => match findDuty t u.loc u.kind with | some e => s.takeUnits part t e u.count | none => t) os

/-- Units collected into a table. -/
def State.gather (s : State) (part : Nat) (units : List Oblig) : List Oblig := units.foldl (fun t u => s.addDuty part t u) []

/-- The 256 bytes of a record at an address, read at home in four accesses of 64 bytes (09 R192, 06 R94). -/
def readRecord (a : Word) : M (BitVec 2048) := do
  require (a.toNat % 64 == 0) .align a
  let part := fun (n : Nat) => do
    let va := a + word (64 * n)
    let k ← resolveMem va 64 Acc.load
    dataOk va k 64
    modS fun s => s.atHome s.t.coreid k 64
    readS fun s => s.mem.readBytes k 64
  let b0 ← part 0
  let b1 ← part 1
  let b2 ← part 2
  let b3 ← part 3
  pure (BitVec.ofNat 2048 (leNat (b0 ++ b1 ++ b2 ++ b3)))

/-- A record's checks for the current context. -/
def checkRecord (i : Instr) (a : Word) (r : BitVec 2048) (arm : Bool) : M (List Oblig × Option Nat) := do
  let s ← get
  let core := s.t.coreid
  let (s1, res) := s.recordChecks core (s.partNo core) s.t.sliceid.toNat (s.table core) a (imageOf i) r arm
  set { s1 with t := { s1.t with access := 5, accessVa := word (s.myPart.objbase.toNat + fieldOf (refOf (word (recCounter r))) 0 32) } }
  match res with
  | .error (c, v) => trapNow c v
  | .ok x => pure x

/-- Check 5 of 18 R289. -/
def Partition.hasRoom (x : Partition) (q : Nat) : Bool := (x.queue q).occupancy < (x.queue q).capacity

/-- SPAWN (09 R192): the units move, the slice is pushed, its id goes to the record and to d. -/
def execSpawn (a : Src) (d : Code) (s : State) : Outcome State Fault Refusal :=
  runM (do
    let i := Instr.spawn a d
    shared i (some d) do
      let av ← readSrc a
      let r ← readRecord av
      let (units, counter) ← checkRecord i av r false
      let s ← get
      let core := s.t.coreid
      let p := s.partNo core
      require ((s.part p).hasRoom (recQueue r)) .obfull (word (recQueue r))
      release
      let (s1, id) := ((s.unrepeatable core).setTable core (s.giveUnits p (s.table core) units)).pushSlice core p r (s.gather p units) counter
      set s1
      match s1.tryResolve core p 0 .core (av + 56) 8 Acc.load with
      | (s2, .ok (.mem k)) => set (s2.writeHome core k (leBytes 8 id))
      | _ => pure ()
      pure (word id)) s

/-- An armed entry of a cluster fires (09 R196). -/
def State.fireEntry (s : State) (cl n : Nat) : State :=
  (s.modCluster cl fun c => { c with armed := c.armed.map fun e => if e.1 = n then (n, { e.2 with fired := true }) else e }).push
    .armedEntryPush { x := cl, y := n }

/-- TTARM (09 R196): the lowest free entry holds the record and the units; it fires at once where its counter allows. An UNLOCK
unit that moves to the entry leaves the giver's token in the lock until the entry fires: it has no slice id before (log
entry 92). -/
def execTtarm (a : Src) (d : Code) (s : State) : Outcome State Fault Refusal :=
  runM (do
    let i := Instr.ttarm a d
    shared i (some d) do
      let av ← readSrc a
      let r ← readRecord av
      let (units, counter) ← checkRecord i av r true
      release
      let s ← get
      let core := s.t.coreid
      let p := s.partNo core
      let cl := clusterOf core
      let n := ((List.range 64).find? fun k => ((s.cluster cl).armed.find k).isNone).getD 0
      let key := counter.getD 0
      let e : Armed := ⟨r, s.gather p units, p, core, key, false⟩
      modS fun s => ((s.unrepeatable core).setTable core (s.giveUnits p (s.table core) units)).modCluster cl fun c =>
        { c with armed := c.armed.put n e }
      if counterHolds (s.obj key).arrived (recField r 48 4) then modS fun s => s.fireEntry cl n
      pure (word n)) s

/-- Fired entry `y` of cluster `x` is pushed as soon as its queue is valid and has room, after the fired entries of lower
index for the same queue, of one index the one of the lower cluster (09 R196, 18 R289, log entry 76). -/
def execArmedEntryPush (s : State) : Outcome State Fault Refusal :=
  runM (do
    let s ← get
    let cl := s.arg.x
    match (s.cluster cl).armed.find s.arg.y with
    | none => pure ()
    | some e =>
      if !e.fired then pure () else
      let q := recQueue e.record
      let x := s.part e.part
      let earlier := s.clusters.any fun (k, c) => c.armed.any fun (n, f) =>
        (n < s.arg.y || (n = s.arg.y && k < cl)) && f.fired && f.part == e.part && recQueue f.record == q
      if !(x.queue q).valid || !x.hasRoom q || earlier then notYet .armedEntryPush
      modS fun s => ((s.modCluster cl fun c => { c with armed := c.armed.erase s.arg.y }).pushSlice engineAgent e.part e.record e.obls none).1) s

/-! EXIT and YIELD (09 R193, R194, 11 R220, R229, 18 R303). -/

/-- A slice whose EXIT has passed is RETIRING: its threads have stopped, its domains go on without them. -/
def State.exitSlice (s : State) (id : Nat) : State :=
  match s.slice id with
  | none => { s with t := { s.t with mode := .idle } }
  | some x =>
    let s1 := x.threads.foldl State.leaveDomains s
    let s2 := x.threads.foldl (fun y c => y.modCtx c fun t => { t with mode := .idle, rep := none }) s1
    (({ s2 with gangs := s2.gangs.erase id }).modSlice id fun y => { y with state := .retiring }).push .retireWriteback { x := id }

/-- The entry of lowest rank. -/
def State.lowestDuty (s : State) (core : Nat) : Option Oblig :=
  (s.table core).foldl (fun b o =>
    match b with
    | none => some o
    | some m => if s.obligRank (s.partNo core) o < s.obligRank (s.partNo core) m then some o else some m) none

/-- EXIT (09 R193). In a formed gang the leader makes the test, every member stops at it, and the east end's retires the
slice (09 R167). -/
def execExit (s : State) : Outcome State Fault Refusal :=
  runM (do
    gate .exit
    let s ← get
    let core := s.t.coreid
    match s.formedGang core with
    | some (id, g, p) =>
      if p = 0 then
        notInTransfer .exit
        match s.lowestDuty core with
        | some o => trapNow .exitowe (word o.loc)
        | none => pure ()
      release
      modS fun s =>
        let s1 := (s.complete 4 0 0).endMember id p true
        if p + 1 = g.members.length then s1.exitSlice id else s1
    | none =>
      notInTransfer .exit
      match s.lowestDuty core with
      | some o => trapNow .exitowe (word o.loc)
      | none => pure ()
      release
      modS fun s => s.exitSlice s.t.sliceid.toNat) s

/-- YIELD (09 R194): it completes, and the slice leaves its threads for its pool, to be dispatched with a fresh budget; a gang
does so at the end of its slot (11 R219). -/
def execYield (s : State) : Outcome State Fault Refusal :=
  runM (do
    gate .yield
    match ← readS State.leaderEntry with
    | some _ => retire .yield
    | none =>
      notInTransfer .yield
      release
      modS fun s =>
        let core := s.t.coreid
        let id := s.t.sliceid.toNat
        let s1 := (s.complete 4 0 0).afterTaken
        match s1.slice id with
        | some x => if x.state == .running then s1.leave { x := id, y := yieldCode, z := core } else s1
        | none => s1) s

/-- NOW (09 R197). -/
def execNow (d : Code) (s : State) : Outcome State Fault Refusal :=
  runM (do
    let i := Instr.now d
    shared i (some d) do
      readS fun s => word s.time) s

/-! MSGSEND (09 R195). -/

/-- Whether `n` bytes cross a multiple of 64. -/
def crosses64 (a n : Nat) : Bool := 64 < a % 64 + n

/-- The message of a descriptor: destination, counter, and its bytes, with the places of those that are uncorrectable data
(22 R351). -/
def readMessage (i : Instr) (a : Word) : M (Word × Word × List Byte × List Nat) := do
  require (a.toNat % 32 == 0) .align a
  require (classOf a == .pad && flagOf a 31) .accv a
  let k ← resolveMem a 32 Acc.load
  dataOk a k 32
  let f ← readS fun s => fun o n => s.mem.readNat (k + o) n
  let len := f 24 2
  require (len ≤ 64 && f 26 6 == 0) .illop (imageOf i)
  let dst := word (f 0 8)
  let src := word (f 8 8)
  if len = 0 then pure (dst, word (f 16 8), [], [])
  else
    require (classOf src == .pad) .accv src
    let ks ← resolveMemAt src 1 len Acc.load
    require (!crosses64 src.toNat len) .align src
    require (!crosses64 dst.toNat len) .align dst
    readS fun s => (dst, word (f 16 8), s.mem.readBytes ks len, (List.range len).filter fun i => s.poisoned (ks + i) 1)

/-- A message to another module's partition, or by loopback: its own packet, behind the sachet of its destination. -/
def sendMessage (dst cref : Word) (bs : List Byte) (bad : List Nat) : M Unit := do
  let s ← get
  let core := s.t.coreid
  let slot := fieldOf dst 58 6
  if !s.peerOk core slot then refusePeer dst dst
  let e : Element := {
    newElement s 39 3 dst 1 0 0 false with size := bs.length, bytes := bs, counter := cref, slot := slot, payload := 0, bad := bad }
  modS fun s =>
    let node := s.peerDest core slot
    (((s.unrepeatable core).flushDest (dieOf core) node).modActivity core e.slice fun c =>
      { c with outstanding := c.outstanding + 1 }).launch (dieOf core) node [e]

/-- A message within the module: the bytes, then the counter's step, which discharges a MSG unit where it is due. A location whose
counter has been retired holds no CTR: ILLOP, and no MSG duty ends (log entry 91). -/
def localMessage (dst cref : Word) (bs : List Byte) (bad : List Nat) : M Unit := do
  let dk ← if bs.isEmpty then pure 0 else resolveMemAt dst 1 bs.length Acc.store
  let ref := refOf cref
  let (key, loc, o) ← findKind [Obj.ctr] ref
  let s ← get
  let core := s.t.coreid
  let s1 ← if o.dutyCtr then
      match s.discharge core loc .msg 1 with
      | none => trapNow .unowed ref
      | some s1 => pure s1
    else pure s
  set (s1.unrepeatable core)
  release
  modS fun s =>
    let put := fun s : State => bad.foldl (fun x i => x.poison (dk + i) 1) (s.writeHome core dk bs)
    let s2 := if bs.isEmpty then s else (put s).noteDisposition core dk bs.length
    s2.addCount core key 1 0

/-- MSGSEND (09 R195). -/
def execMsgsend (a : Src) (s : State) : Outcome State Fault Refusal :=
  runM (do
    let i := Instr.msgsend a
    shared i none do
      let av ← readSrc a
      let (dst, cref, bs, bad) ← readMessage i av
      if classOf dst == .remote then sendMessage dst cref bs bad else localMessage dst cref bs bad
      pure 0) s

end Sys2Proof.Machine
end

