-- ==== Sys2Proof/Machine/HostLink.lean ====
section
/-! DEFINITION. The host link: requests in sessions, notices, telemetry, attestation, and the signed commands (24 R374 to R385,
18 R291, 19 R321 to R328). -/

namespace Sys2Proof.Machine

open Host (Outcome)

/-! Messages (24 R374 to R376). -/

/-- The datagram of a message to the host: the 32-byte header, then the payload (24 R374). -/
def Response.datagram (r : Response) : List Byte :=
  leBytes 2 0x5C4D ++ leBytes 1 1 ++ leBytes 1 r.opcode ++ leBytes 4 r.session ++ leBytes 8 r.sequence ++ leBytes 1 r.partition ++
  leBytes 1 0 ++ leBytes 2 r.payload.length ++ leBytes 4 r.status ++ leBytes 8 r.tag ++ r.payload

/-- An answer to the host, at its sender's address, with the next sequence of its session's direction from the module (24 R374);
outside any session the sequence is 0 (log entry 67). -/
def State.respond (s : State) (h : HostHeader) (opcode status : Nat) (payload : List Byte) : State :=
  let n := match s.sessions.find h.session with | some x => x.sent + 1 | none => 0
  let s1 := match s.sessions.find h.session with
    | some x => { s with sessions := s.sessions.put h.session { x with sent := n } }
    | none => s
  { s1 with responses := s1.responses ++ [⟨opcode, h.session, n, h.partition, status, h.tag, payload, h.sender⟩] }

/-- The IPv6 addresses that the network record in force gives the two Ethernet ports (24 R384). -/
def Board.addresses (b : Board) : Option (List (List Byte)) := (b.inForce 4).map fun p => [p.take 16, (p.drop 16).take 16]

/-- A datagram that is no message to this module, by the length of its payload: it is discarded without answer (24 R374). Where no
network record is in force every address is the module's (log entry 67). -/
def Board.discards (b : Board) (h : HostHeader) (payload : Nat) : Bool :=
  h.magic != 0x5C4D || h.version != 1 || h.zero != 0 || h.length != payload || 8192 < payload || h.port != 49440 ||
    match b.addresses with
    | some as => !as.contains h.address
    | none => false

/-- The payload of a signed command: its envelope, arguments and signature (24 R385). -/
def signedLength (c : SignedCommand) : Nat := 16 + c.args.length + c.signature.length

/-- What a request answers: the state after it, the opcode of the response, its status, its payload. -/
abbrev Reply := State × Nat × Nat × List Byte

/-- A request that its session has let through: it executes, and the next one held follows (24 R376). -/
def State.carryOut (s : State) (h : HostHeader) (x : Session) (f : State → Reply) : State :=
  let (s1, op, st, bs) := f s
  let put := fun y : Session => { y with
    next := x.next + 1, answers := y.answers.put x.next (op, st, bs), held := y.held.filter fun q => q.1 != x.next + 1 }
  let s2 := match s1.sessions.find h.session with
    | some y => if y.next = x.next then { s1 with sessions := s1.sessions.put h.session (put y) } else s1
    | none => s1
  let s3 := s2.respond h op st bs
  match x.held.find? fun q => q.1 == x.next + 1 with
  | some (_, i, a) => s3.push i a
  | none => s3

/-- A request by its sequence: executed, held, dropped, or answered again (24 R376). -/
def State.inOrder (s : State) (i : Instr) (h : HostHeader) (x : Session) (f : State → Reply) : State :=
  let n := h.sequence
  if n = x.next then s.carryOut h x f
  else if n < x.next then
    match x.answers.find n with
    | some (op, st, bs) => s.respond h op st bs
    | none => s
  else if n ≤ x.next + 64 then
    if x.held.any (·.1 == n) then s
    else { s with sessions := s.sessions.put h.session { x with held := x.held ++ [(n, i, s.arg)] } }
  else s

/-- A request that needs no session; in one of its partition it keeps the session's order. -/
def State.anywhere (s : State) (i : Instr) (f : State → Reply) : State :=
  let h := s.arg.host
  match s.sessions.find h.session with
  | some x =>
    if s.board.imageOk && x.partition = h.partition && h.sequence != 0 then s.inOrder i h x f
    else let (s1, op, st, bs) := f s; s1.respond h op st bs
  | none => let (s1, op, st, bs) := f s; s1.respond h op st bs

/-- The opcodes that a host sends (24 R375). -/
def hostOpcodes : List Nat := [1, 2, 3, 5, 6, 7, 8]

/-- A message with a payload of `n` bytes, where its opcode is `own`: without a valid firmware image only opcodes 7 and 8 are
answered (24 R381), and an opcode that no host's message has gets status 1 (R375). -/
def State.received (s : State) (i : Instr) (own n : Nat) (f : State → State) : State :=
  let op := s.arg.host.opcode
  if !s.board.booted || s.board.discards s.arg.host n || (!s.board.imageOk && op != 7 && op != 8) then s
  else if op = own then f s
  else if hostOpcodes.contains op then s
  else s.anywhere i fun s => (s, op, 1, [])

/-- A request of opcode `own` that needs a session of its partition; its answer's opcode is `opcode` (24 R375). -/
def State.request (s : State) (i : Instr) (own opcode n : Nat) (f : State → Reply) : State :=
  s.received i own n fun s =>
    let h := s.arg.host
    match s.sessions.find h.session with
    | some x => if x.partition = h.partition then s.inOrder i h x f else s.respond h opcode 6 []
    | none => s.respond h opcode 6 []

/-- A request of the management cores that needs no session. -/
def State.query (s : State) (i : Instr) (own : Nat) (f : State → Reply) : State :=
  s.received i own s.arg.bytes.length fun s => s.anywhere i f

/-- A number in a payload. -/
def at_ (bs : List Byte) (off n : Nat) : Nat := leNat ((bs.drop off).take n)

/-- An address outside the partition's windows: status 3, and an entry of the access log (24 R375). -/
def State.outside (s : State) (p addr kind opcode : Nat) : Reply :=
  (s.logAccess p addr 0 (s.part p).supervisor Cause.accv.code kind, opcode, 3, [])

/-- Opcode 1: bytes written to physical memory, then the acknowledgement (24 R375). -/
def execHostWrite (s : State) : Outcome State Fault Refusal :=
  runM (event fun s => s.request .hostWrite 1 5 s.arg.bytes.length fun s =>
    let bs := s.arg.bytes
    let p := s.arg.host.partition
    let pa := at_ bs 0 8
    if bs.length < 8 then (s, 5, 2, [])
    else if !(s.part p).inWindows pa (bs.length - 8) then s.outside p pa 1 5
    else (s.write pa (bs.drop 8), 5, 0, [])) s

/-- Opcode 2: bytes read at home (24 R375). -/
def execHostRead (s : State) : Outcome State Fault Refusal :=
  runM (event fun s => s.request .hostRead 2 2 s.arg.bytes.length fun s =>
    let bs := s.arg.bytes
    let p := s.arg.host.partition
    let pa := at_ bs 0 8
    let n := at_ bs 8 4
    if bs.length != 12 || n = 0 || 8192 < n then (s, 2, 2, [])
    else if !(s.part p).inWindows pa n then s.outside p pa 0 2
    else (s, 2, 0, s.mem.readBytes pa n)) s

/-- A check that refuses a launch: the rule that lists it, its number there, and the offset of the record's field
(18 R291). -/
structure LaunchCheck where
  rule : Nat
  check : Nat
  field : Nat
deriving DecidableEq, Repr

/-- A rejected launch's payload: the refusing cause and its value, then the failing check and the field (18 R291; the layout is
the model's, log entry 67). -/
def rejection (s : State) (k : LaunchCheck) (c : Cause) (v : Word) : Reply :=
  (s, 3, 4, leBytes 8 c.code ++ leBytes 8 v.toNat ++ leBytes 4 k.rule ++ leBytes 4 k.check ++ leBytes 8 k.field)

/-- The first record field that breaks its limits (18 R286). -/
def firstBadField (r : BitVec 2048) : Nat :=
  if recField r 24 4 = 0 then 24 else if 23 < recPrio r then 28 else if 2 < recKind r then 29
  else if !(if recKind r = 2 then 2 ≤ recLength r && recLength r ≤ 64 else recLength r == 0) then 30
  else if recFlags r / 16 != 0 then 31 else if recField r 54 2 != 0 then 54 else 192

/-- Which check of 09 R192 or 18 R289 has refused a launch with a value. -/
def State.launchCheck (s : State) (p : Nat) (r : BitVec 2048) (v : Word) : LaunchCheck :=
  let x := s.part p
  let q := recQueue r
  if !recLawful r then ⟨192, 1, firstBadField r⟩
  else if 1023 < q || !(x.queue q).valid then ⟨289, 1, 52⟩
  else if !footsLawful r then ⟨289, 2, 64 + 16 * ((List.range 4).find? fun n => !footLawful r n).getD 0⟩
  else if recCounter r != 0 && (v == refOf (word (recCounter r)) || x.kindFits (x.queue q).die r) then ⟨289, 3, 40⟩
  else ⟨289, 4, 29⟩

/-- Whether a check comes before check 3 of 18 R289. -/
def LaunchCheck.early (k : LaunchCheck) : Bool := k.rule == 192 || (k.rule == 289 && k.check < 3)

/-- Opcode 3: a slice record is checked and pushed (18 R291). A self-alias counter names no object for the launch agent, which
has no pad (check 3 of 18 R289). -/
def execHostLaunch (s : State) : Outcome State Fault Refusal :=
  runM (event fun s => s.request .hostLaunch 3 3 s.arg.bytes.length fun s =>
    let bs := s.arg.bytes
    let p := s.arg.host.partition
    if bs.length != 264 || at_ bs 2 6 != 0 then (s, 3, 2, []) else
    let q := at_ bs 0 2
    let r := BitVec.ofNat 2048 (leNat (bs.drop 8))
    let dep := refOf (word (recCounter r))
    if recField r 128 64 != 0 then rejection s ⟨291, 1, 128⟩ .illop 128
    else if q != recQueue r then rejection s ⟨291, 2, 52⟩ .illop (word q)
    else
      let own := flagOf dep 32 && flagOf dep 31
      match s.recordChecks (s.part p).supervisor p 0 [] 0 0 r false with
      | (s1, .error (c, v)) =>
        let k := s.launchCheck p r v
        if own && !k.early then rejection s ⟨289, 3, 40⟩ .accv dep else rejection s1 k c v
      | (s1, .ok (_, counter)) =>
        if own then rejection s ⟨289, 3, 40⟩ .accv dep else
        if !(s1.part p).hasRoom q then rejection s1 ⟨289, 5, 52⟩ .obfull (word q) else
        let (s2, id) := s1.pushSlice engineAgent p r [] counter
        (s2, 3, 0, leBytes 8 id)) s

/-! Notices (24 R377, R378). -/

/-- A notice's payload. -/
def Notice.bytes (n : Notice) (p : Nat) : List Byte :=
  leBytes 1 n.kind ++ leBytes 1 p ++ leBytes 2 0 ++ leBytes 4 n.missed ++ leBytes 8 n.detail ++ leBytes 8 n.time

/-- A notice sent to its partition's route, now, with its own sequence, which is its tag as well; it is due again 1 ms later
(19 R325, 24 R377). -/
def State.sendNotice (s : State) (p : Nat) (n : Notice) : State :=
  let s1 := s.modPart p fun x => { x with notices := x.notices.map fun m => if m.seq = n.seq then { m with sent := some s.time } else m }
  let r : Response := ⟨4, 0, n.seq, p, 0, n.seq, n.bytes p, (s.part p).route⟩
  { s1 with responses := s1.responses ++ [r] }.push .noticeResend { x := p, y := n.seq }

/-- The oldest notice of partition `x` that has not been sent goes to its host destination (24 R377). -/
def execHostNotice (s : State) : Outcome State Fault Refusal :=
  runM (event fun s =>
    match (s.part s.arg.x).notices.find? (·.sent.isNone) with
    | some n => s.sendNotice s.arg.x n
    | none => s) s

/-- Notice `y` of partition `x`, not acknowledged 1 ms after it was sent, is sent again (24 R377). -/
def execNoticeResend (s : State) : Outcome State Fault Refusal :=
  runM (do
    let s ← get
    match (s.part s.arg.x).notices.find? (·.seq == s.arg.y) with
    | none => pure ()
    | some n =>
      match n.sent with
      | none => pure ()
      | some t =>
        if s.time < t + 1000000 then notYet .noticeResend
        modS fun s => s.sendNotice s.arg.x n) s

/-- Opcode 5: the host acknowledges the notice whose tag it echoes (24 R375, R377). -/
def execHostAck (s : State) : Outcome State Fault Refusal :=
  runM (event fun s =>
    s.received .hostAck 5 s.arg.bytes.length fun s =>
      s.modPart s.arg.host.partition fun x => { x with notices := x.notices.filter fun n => !(n.seq == s.arg.host.tag && n.sent.isSome) }) s

/-! Telemetry and attestation (24 R382, R388). -/

/-- The floor that some junction temperatures set, in 0.1 °C (24 R387). -/
def floorOf (ts : List Nat) : Nat :=
  let top := ts.foldl max 0
  if 1100 ≤ top then 7 else if 1000 ≤ top then 4 else 0

/-- The throttle level set; a change sends a kind 5 notice to each partition (24 R388). -/
def State.setLevel (s : State) (l : Nat) : State :=
  if l = s.board.level then s else
  s.parts.foldl (fun x p => x.notice p.1 5 l) { s with board := { s.board with level := l } }

/-- The readings of the sensors that come with an event: the module's power, the junction temperatures of the four compute dies,
the temperatures of the twelve stacks, the coolant's at inlet and outlet, in 0.1 °C (24 R386 to R388). The dies set the floor. -/
def State.measured (s : State) : State :=
  let ns := s.arg.nums
  if ns.length != 19 then s else
  let dies := (ns.drop 1).take 4
  let b := { s.board with
    power := ns.headD 0, dieTemp := dies, stackTemp := (ns.drop 5).take 12, inlet := ns.getD 17 0, outlet := ns.getD 18 0
    floor := floorOf dies }
  { s with board := b }.setLevel (max b.level b.floor)

/-- The 128 bytes of telemetry. -/
def State.telemetry (s : State) : List Byte :=
  let b := s.board
  padTo 128 (leBytes 4 b.power ++ leBytes 4 b.powerLimit ++ leBytes 1 b.level ++ leBytes 7 0 ++ b.dieTemp.flatMap (leBytes 2) ++
    b.stackTemp.flatMap (leBytes 2) ++ leBytes 2 b.inlet ++ leBytes 2 b.outlet ++ s.links.toList)

/-- Opcode 7 (24 R388). -/
def execTelemetry (s : State) : Outcome State Fault Refusal :=
  runM (event fun s => s.query .telemetry 7 fun s => (s.measured, 7, 0, s.measured.telemetry)) s

/-- The text that the identity key is derived with: "CRX-S960 ID". -/
def identityText : List Byte := [0x43, 0x52, 0x58, 0x2D, 0x53, 0x39, 0x36, 0x30, 0x20, 0x49, 0x44]

/-- The identity key, from the seed that the PUF has yielded at this boot (24 R382). -/
def Board.identity (b : Board) : DsaKey := mldsaKey ((shake256 (b.seed ++ identityText)).take 32)

/-- The certificate of the identity key, which stands in the flash (24 R382). -/
def Board.certificate (b : Board) : List Byte := b.nor.readBytes Config.certificatePlace.1 Config.certificatePlace.2

/-- What an attestation holds, in the order of 24 R382, signed with the identity key; the widths of the items are the model's (log
entry 23). -/
def State.attestation (s : State) (nonce : List Byte) : List Byte :=
  let b := s.board
  let body := nonce ++ b.m0 ++ b.m1 ++ leBytes 4 b.version ++ (b.records.flatMap fun (t, v, _) => leBytes 2 t ++ leBytes 4 v) ++
    shake256 (s.parts.flatMap fun p => p.2.table) ++ leBytes 1 b.level ++ leBytes 4 b.bootCount ++ b.certificate
  body ++ mldsaSign b.identity body (padTo 32 ((Config.signRnd s.fresh).take 32))

/-- Opcode 8 (24 R382). -/
def execAttest (s : State) : Outcome State Fault Refusal :=
  runM (event fun s => s.query .attest 8 fun s =>
    if s.arg.bytes.length = 32 then ({ s with fresh := s.fresh + 1 }, 8, 0, s.attestation s.arg.bytes) else (s, 8, 2, [])) s

/-! Signed commands (24 R383, R385). -/

/-- The host keys of the network record in force. -/
def Board.hostKey (b : Board) (i : Nat) : Option (List Byte) :=
  match b.inForce 4 with
  | some p => if i < at_ p 32 4 then some ((p.drop (40 + 1952 * i)).take 1952) else none
  | none => none

/-- The bytes that a signed command's signature covers. -/
def signedBytes (h : HostHeader) (c : SignedCommand) : List Byte :=
  leBytes 2 h.magic ++ leBytes 1 h.version ++ leBytes 1 6 ++ leBytes 4 h.session ++ leBytes 8 h.sequence ++ leBytes 1 h.partition ++
  leBytes 1 h.zero ++ leBytes 2 h.length ++ leBytes 4 0 ++ leBytes 8 h.tag ++
  leBytes 2 c.command ++ leBytes 1 c.keyIndex ++ leBytes 1 c.zeroByte ++ leBytes 4 c.bootCount ++ leBytes 4 c.length ++
  leBytes 4 c.zeroWord ++ c.args

/-- A signed command, in session 0, where its code is `command`: refused with status 5 where its key, boot count or signature is
wrong, with 2 where its code is no command's or its fields or arguments are; `f` gives the state where they are lawful. -/
def State.signedCommand (s : State) (i : Instr) (command : Nat) (f : SignedCommand → State → State × Nat) : State :=
  let c := s.arg.signed
  if c.command != command && 1 ≤ c.command && c.command ≤ 5 then s
  else if s.arg.host.session != 0 || s.arg.host.partition != 255 then
    s.received i 6 (signedLength c) fun s => s.respond s.arg.host 6 6 []
  else
  s.request i 6 6 (signedLength c) fun s =>
    match s.board.hostKey c.keyIndex with
    | none => (s, 6, 5, [])
    | some key =>
      if c.bootCount != s.board.bootCount ||
          !mldsaVerify key (shake256 (signedBytes s.arg.host c)) c.signature then (s, 6, 5, [])
      else if c.command != command || c.length != c.args.length || c.zeroByte != 0 || c.zeroWord != 0 || 4867 < c.args.length then
        (s, 6, 2, [])
      else
        let (s1, st) := f c s
        (if st = 0 then s1 else s, 6, st, [])

/-- Command 1: a session number bound to a partition and the signing key (24 R385). -/
def execOpenSession (s : State) : Outcome State Fault Refusal :=
  runM (event fun s => s.signedCommand .openSession 1 fun c s =>
    let a := c.args
    let n := at_ a 0 4
    let p := at_ a 4 1
    if a.length != 8 || n = 0 || 15 < p || at_ a 5 3 != 0 then (s, 2)
    else ({ s with sessions := s.sessions.put n ⟨p, c.keyIndex, 1, [], [], 0⟩ }, 0)) s

/-- Command 2: a session is closed (24 R385). -/
def execCloseSession (s : State) : Outcome State Fault Refusal :=
  runM (event fun s => s.signedCommand .closeSession 2 fun c s =>
    let a := c.args
    let n := at_ a 0 4
    if a.length != 8 || n = 0 || at_ a 4 4 != 0 then (s, 2)
    else if (s.sessions.find n).isNone then (s, 6)
    else ({ s with sessions := s.sessions.erase n }, 0)) s

/-! Partition tables (19 R321 to R323, R328, 02 R22, 20 R338). -/

/-- The clusters of a mask. -/
def maskClusters (bs : List Byte) : List Nat :=
  (List.range 1024).filter fun c => bitOf (bs.getD (c / 8) 0).toNat (c % 8)

/-- The windows in use: base and length. -/
def tableWindows (a : List Byte) : List (Nat × Nat) :=
  ((List.range 8).map fun i => (at_ a (136 + 16 * i) 8, at_ a (144 + 16 * i) 8)).filter (·.2 != 0)

/-- Every window is lawful, apart from the others, and they hold at least 8 GiB and a whole save region. -/
def windowsOk (ws : List (Nat × Nat)) : Bool :=
  let gib := 2 ^ 30
  let top := (ws.map fun w => w.1 + w.2).foldl max 0
  ws.all (fun w => w.1 % gib == 0 && w.2 % gib == 0 && w.1 + w.2 ≤ 960 * gib) &&
  ws.Pairwise (fun a b => ¬ rangesMeet a b) &&
  8 * gib ≤ (ws.map (·.2)).sum && ws.any (fun w => w.1 + w.2 == top && 4 * gib ≤ w.2)

/-- A table's arguments hold no value outside what 19 R321 and 24 R385 allow, beside the other partitions' tables. -/
def State.tableOk (s : State) (a : List Byte) : Bool :=
  let p := at_ a 0 1
  let cls := maskClusters ((a.drop 8).take 128)
  let ws := tableWindows a
  let sup := at_ a 264 2
  let others := s.parts.filter (·.1 != p)
  a.length == 2432 && p ≤ 15 && at_ a 1 7 == 0 && at_ a 266 6 == 0 && at_ a 2403 5 == 0 && at_ a 2426 6 == 0 &&
  cls.contains sup && windowsOk ws &&
  !others.any (fun x => x.2.clusters.any cls.contains || x.2.windows.any fun w => ws.any (rangesMeet w)) &&
  (List.range 10).all (fun i => at_ a (272 + 8 * i) 8 < 2 ^ 43) &&
  (List.range 1024).all (fun i => cls.contains (at_ a (352 + 2 * i) 2)) &&
  1 ≤ at_ a 2400 1 && 1 ≤ at_ a 2401 1 && at_ a 2402 1 ≤ 23

/-- A partition as its table gives it. -/
def tablePartition (a : List Byte) (key : Nat) : Partition :=
  { Partition.reset with
    clusters := maskClusters ((a.drop 8).take 128)
    windows := tableWindows a
    supervisor := coreAt (at_ a 264 2) 8
    masks := (List.range 10).map fun i => word (at_ a (272 + 8 * i) 8)
    sliceMap := (List.range 1024).map fun i => at_ a (352 + 2 * i) 2
    memWeight := at_ a 2400 1
    fabWeight := at_ a 2401 1
    cap := at_ a 2402 1
    route := (a.drop 2408).take 18
    table := a
    key := key
    slots := [0] }

/-- The memory after an assignment: every location of the windows holds the zero value written then (12 R243), under the fresh
key (19 R323). -/
def assignMemory (ws : List (Nat × Nat)) (m : Memory) : Memory :=
  m.filter fun c => !ws.any fun w => w.1 ≤ c.1 && c.1 < w.1 + w.2

/-- Everything of an old partition and of the clusters that a new table names is gone: threads, cores, clusters and pads are
as 02 R22 says, no slice or engine of the partition is left, every full/empty bit is empty (06 R111, 19 R328). -/
def State.clearPartition (s : State) (p : Nat) (cls : List Nat) (ws : List (Nat × Nat)) : State :=
  let hit := fun core : Nat => cls.contains (clusterOf core)
  let inside := fun key : Nat => if isPad key then hit (key - padBase) else ws.any fun w => w.1 ≤ key && key < w.1 + w.2
  let keep := fun t : Tab Ctx => t.filter fun x => !hit x.1
  { s with
    t := if hit s.t.coreid then Ctx.reset s.t.kind s.t.coreid else s.t
    others := keep s.others
    cores := (s.cores.filter fun x => !hit (x.1 * 2 ^ 17)).map fun (x : Nat × CoreSt) =>
      (x.1, { x.2 with micro := x.2.micro.filter (·.part != p) })
    clusters := (s.clusters.filter fun x => !cls.contains x.1).map fun (x : Nat × Cluster) =>
      (x.1, { x.2 with tlb := x.2.tlb.filter (·.part != p) })
    walks := s.walks.map fun (x : Nat × List WalkEntry) => (x.1, x.2.filter (·.part != p))
    mem := s.mem.filter fun c => !(isPad c.1 && hit (c.1 - padBase))
    full := s.full.filter fun k => !inside k
    bad := s.bad.filter fun k => !inside k
    copies := s.copies.filter (·.part != p)
    subs := s.subs.filter (·.part != p)
    waiters := s.waiters.filter fun w => !hit w.core
    pendings := s.pendings.filter fun w => !inside w.key
    parked := s.parked.filter fun w => !inside w.key
    gangs := s.gangs.filter fun g => !s.slices.any fun x => x.id == g.1 && x.part == p
    slices := s.slices.filter (·.part != p)
    audits := s.audits.filter (·.part != p)
    sachets := s.sachets.filter fun x => !x.elements.any fun e => hit e.core
    flying := s.flying.filter fun f => !hit f.element.core
    flits := s.flits.filter (·.part != p) }

/-- The supervisor activity of a new partition: its control core's context, running (log entry 24). -/
def State.startSupervisor (s : State) (core : Nat) : State :=
  let t := Ctx.reset .control core
  (s.setCtx { t with mode := .running, s := t.s.set! 30 (selfAlias 0x10000) }).pushTurn core

/-- Command 3: a partition's table (24 R385). -/
def execPartitionTable (s : State) : Outcome State Fault Refusal :=
  runM (event fun s => s.signedCommand .partitionTable 3 fun c s =>
    let a := c.args
    if !s.tableOk a then (s, 2) else
    let p := at_ a 0 1
    let x := tablePartition a s.fresh
    let s1 := s.clearPartition p ((s.part p).clusters ++ x.clusters) ((s.part p).windows ++ x.windows)
    let s2 := { s1 with fresh := s1.fresh + 1, mem := assignMemory x.windows s1.mem }.setPart p x
    (s2.startSupervisor x.supervisor, 0)) s

/-- Command 4: a die reset (22 R366). -/
def execDieReset (s : State) : Outcome State Fault Refusal :=
  runM (event fun s => s.signedCommand .dieReset 4 fun c s =>
    let a := c.args
    if a.length != 8 || 3 < at_ a 0 1 || at_ a 1 7 != 0 then (s, 2) else (s.resetDie (at_ a 0 1), 0)) s

/-- Command 5: bytes written into the record area of the flash; the sector that the write begins in is erased first
(24 R385; log entry 25). -/
def execRecordWrite (s : State) : Outcome State Fault Refusal :=
  runM (event fun s => s.signedCommand .recordWrite 5 fun c s =>
    let a := c.args
    let off := at_ a 0 8
    let bs := a.drop 8
    if a.length < 8 || 0x1000000 ≤ off || 0x1000000 < off + bs.length then (s, 2) else
    let base := 0x04000000
    let erased := if bs.isEmpty then s.board.nor else
      s.board.nor.writeBytes (base + off / 4096 * 4096) (List.replicate 4096 0xFF)
    ({ s with board := { s.board with nor := erased.writeBytes (base + off) bs } }, 0)) s

end Sys2Proof.Machine
end

