-- ==== Sys2Proof/Machine/Mem.lean ====
section
/-! DEFINITION. LD, LDA, ST, STL, AMO, LDX, STX and ORD: majors 14 to 19 and 23, and the events of full/empty requests
(06 R99 to R118). -/

namespace Sys2Proof.Machine

open Host (Outcome)

/-! Loads and stores (06 R99, R100). -/

/-- The size in bytes that f3 gives. -/
def sizeOf3 (f : BitVec 3) : Nat := 2 ^ (f.toNat % 4)

/-- What a load writes: sign or zero extension (06 R100). -/
def extendLoad (f : BitVec 3) (v : Nat) : Word := if f.toNat < 4 then sext64 (8 * sizeOf3 f) v else word v

/-- The address: the base plus the displacement times the size. -/
def dispAddr (base : Word) (imm : BitVec 10) (f : BitVec 3) : Word := base + imm.signExtend 64 * word (sizeOf3 f)

/-- A special page is accessed 8 bytes at a time (10 R198, 19 R327). -/
def eightOnly (va : Word) (n : Nat) : M Unit := require (n == 8) .accv va

/-- What a load of `n` bytes gets from the place its address resolves to; an acquire is performed before the value is taken
(12 R237, R239). -/
def loadFrom (f : BitVec 3) (va : Word) (n : Nat) (acq : Bool) : Place → M Word
  | .mem k => do
    let v ← readPlain 1 va k n acq
    pure (extendLoad f v)
  | .aperture off => do
    eightOnly va n
    let v ← apertureLoad va off
    if acq then acquire
    pure v
  | .config off => do
    let s ← get
    if !s.isSup s.t.coreid then refuseConfig va
    eightOnly va n
    let v ← configLoad va off
    if acq then acquire
    pure v

/-- A load of the current context, as an acquire if asked (06 R100, R104). -/
def load (i : Instr) (imm : BitVec 10) (f : BitVec 3) (a : Src) (d : Code) (acq : Bool) : M Unit := do
  gate i
  let base ← readSrc a
  let va := dispAddr base imm f
  let n := sizeOf3 f
  let p ← resolve va n Acc.load
  let v ← loadFrom f va n acq p
  writeD d v
  retire i

/-- LD (06 R100). -/
def execLd (imm : BitVec 10) (f : BitVec 3) (a : Src) (d : Code) (s : State) : Outcome State Fault Refusal :=
  runM (load (.ld imm f a d) imm f a d false) s
/-- LDA (06 R104). -/
def execLda (imm : BitVec 10) (f : BitVec 3) (a : Src) (d : Code) (s : State) : Outcome State Fault Refusal :=
  runM (load (.lda imm f a d) imm f a d true) s

/-- A store's `n` bytes put where its address resolves to. -/
def storeTo (i : Instr) (va : Word) (n : Nat) (v : Word) : Place → M Unit
  | .mem k => writePlain va k (leBytes n v.toNat)
  | .aperture off => do
    eightOnly va n
    apertureStore i va off v
  | .config off => do
    let s ← get
    if !s.isSup s.t.coreid then refuseConfig va
    eightOnly va n
    configStore va off v

/-- A store of the current context, as a release if asked (06 R100, R105). -/
def store (i : Instr) (imm : BitVec 10) (f : BitVec 3) (a d : Src) (rel : Bool) : M Unit := do
  gate i
  let base ← readSrc a
  let v ← readSrc d
  let va := dispAddr base imm f
  let n := sizeOf3 f
  if rel then release
  let p ← resolve va n Acc.store
  storeTo i va n v p
  retire i

/-- ST (06 R100). -/
def execSt (imm : BitVec 10) (f : BitVec 3) (a d : Src) (s : State) : Outcome State Fault Refusal :=
  runM (store (.st imm f a d) imm f a d false) s
/-- STL (06 R105). -/
def execStl (imm : BitVec 10) (f : BitVec 3) (a d : Src) (s : State) : Outcome State Fault Refusal :=
  runM (store (.stl imm f a d) imm f a d true) s

/-! Atomics (06 R106 to R110). -/

/-- An atomic of the current context: one step at the location's home. `op` is f7[6:3]. -/
def amo (i : Instr) (op : Nat) (wide acq rel : Bool) (b a : Src) (d : Code) : M Unit := do
  gate i
  let va ← readSrc a
  let x ← readSrc b
  let cmp ← if op = 9 then readDest d else pure 0
  let n := if wide then 8 else 4
  if rel then release
  let k ← resolveMem va n Acc.amo
  dataOk va k n
  watch 3 va n
  let old ← readS fun s => s.mem.readNat k n
  modS fun s => s.atHome s.t.coreid k n
  if amoWrites op (8 * n) old cmp.toNat then
    modS fun s => (s.writeFor s.t.coreid k (leBytes n (amoNew op (8 * n) old x.toNat cmp.toNat))).noteDisposition s.t.coreid k n
  modS fun s => s.bankArrive k n
  if acq then acquire
  writeD d (sext64 (8 * n) old)
  retire i

/-- AMO ADD (06 R107). -/
def execAmoAdd (w q r : Bool) (b a : Src) (d : Code) (s : State) : Outcome State Fault Refusal :=
  runM (amo (.amoAdd w q r b a d) 0 w q r b a d) s
/-- AMO AND (06 R107). -/
def execAmoAnd (w q r : Bool) (b a : Src) (d : Code) (s : State) : Outcome State Fault Refusal :=
  runM (amo (.amoAnd w q r b a d) 1 w q r b a d) s
/-- AMO OR (06 R107). -/
def execAmoOr (w q r : Bool) (b a : Src) (d : Code) (s : State) : Outcome State Fault Refusal :=
  runM (amo (.amoOr w q r b a d) 2 w q r b a d) s
/-- AMO XOR (06 R107). -/
def execAmoXor (w q r : Bool) (b a : Src) (d : Code) (s : State) : Outcome State Fault Refusal :=
  runM (amo (.amoXor w q r b a d) 3 w q r b a d) s
/-- AMO MIN (06 R107). -/
def execAmoMin (w q r : Bool) (b a : Src) (d : Code) (s : State) : Outcome State Fault Refusal :=
  runM (amo (.amoMin w q r b a d) 4 w q r b a d) s
/-- AMO MAX (06 R107). -/
def execAmoMax (w q r : Bool) (b a : Src) (d : Code) (s : State) : Outcome State Fault Refusal :=
  runM (amo (.amoMax w q r b a d) 5 w q r b a d) s
/-- AMO MINN (06 R107). -/
def execAmoMinn (w q r : Bool) (b a : Src) (d : Code) (s : State) : Outcome State Fault Refusal :=
  runM (amo (.amoMinn w q r b a d) 6 w q r b a d) s
/-- AMO MAXN (06 R107). -/
def execAmoMaxn (w q r : Bool) (b a : Src) (d : Code) (s : State) : Outcome State Fault Refusal :=
  runM (amo (.amoMaxn w q r b a d) 7 w q r b a d) s
/-- AMO SWAP (06 R107). -/
def execAmoSwap (w q r : Bool) (b a : Src) (d : Code) (s : State) : Outcome State Fault Refusal :=
  runM (amo (.amoSwap w q r b a d) 8 w q r b a d) s
/-- AMO CAS (06 R107). -/
def execAmoCas (w q r : Bool) (b a : Src) (d : Code) (s : State) : Outcome State Fault Refusal :=
  runM (amo (.amoCas w q r b a d) 9 w q r b a d) s
/-- AMO FADD (06 R107). -/
def execAmoFadd (q r : Bool) (b a : Src) (d : Code) (s : State) : Outcome State Fault Refusal :=
  runM (amo (.amoFadd q r b a d) 10 false q r b a d) s
/-- AMO BFADD2 (06 R107). -/
def execAmoBfadd2 (q r : Bool) (b a : Src) (d : Code) (s : State) : Outcome State Fault Refusal :=
  runM (amo (.amoBfadd2 q r b a d) 11 false q r b a d) s

/-! Full/empty accesses (06 R112 to R116). -/

/-- A remote request: the peer's check, the flush of its sachet, and the request on its way (06 R115). XPHASE comes before the
peer's check: 06 R116 has it before the request is sent and gives no order among the two, the model takes this one (log
entry 74). -/
def feRemote (i : Instr) (a : Word) (r : FeReq) (d : Code) : M Unit := do
  notInTransfer i
  let s ← get
  let core := s.t.coreid
  let slot := fieldOf a 58 6
  if !s.peerOk core slot then refusePeer a a
  watch 3 a r.size
  modT fun t => { t with dest := d, len := i.len }
  let dest := s.peerDest core slot
  let r1 := { r with part := dest / 2 ^ 16 % 16 }
  modS fun s =>
    let s1 := (s.flushDest (dieOf core) dest).unrepeatable core
    if dest % 2 ^ 14 = s.fabric then s1.push .remoteFeRequest { fe := some r1 }
    else { s1 with outbox := s1.outbox ++ [.request (dest % 2 ^ 14) r1] }
  waitOn (.feRemote dest r1 false)

/-- The request of an LDX or STX of the current context: its address, size, condition, what becomes of the bit, its data. -/
def State.feRequest (s : State) (isStore : Bool) (va : Word) (n : Nat) (c e : BitVec 2) (v : Word) : FeReq :=
  { store := isStore, addr := fieldOf va 0 57, size := n, cond := c.toNat, after := e.toNat, data := v
    part := s.partNo s.t.coreid, core := s.t.coreid, limit := s.myPart.fetimeout.toNat, src := s.fabric
    slot := fieldOf va 58 6 }

/-- LDX or STX of the current context. -/
def fullEmpty (i : Instr) (isStore : Bool) (sz c e : BitVec 2) (a : Src) (data : M Word) (d : Code) : M Unit := do
  gate i
  let va ← readSrc a
  let v ← data
  let n := 2 ^ sz.toNat
  let s ← get
  let core := s.t.coreid
  let r := s.feRequest isStore va n c e v
  if classOf va == .remote then
    require (va.toNat % n == 0) .align va
    require (s.noseAllows core va) .accv va
    feRemote i va r d
  else
    let k ← resolveMem va n (if isStore then Acc.stx else Acc.ldx (e != 0))
    if !isStore then dataOk va k n
    if c != 0 then notInTransfer i
    watch 3 va n
    modT fun t => { t with dest := d, len := i.len, mode := .waiting .fe }
    modS fun s => match s.feTry false r k with | some s1 => s1 | none => s.fePark false r k s.time false

/-- LDX (06 R113). -/
def execLdx (sz c e : BitVec 2) (a : Src) (d : Code) (s : State) : Outcome State Fault Refusal :=
  runM (fullEmpty (.ldx sz c e a d) false sz c e a (pure 0) d) s
/-- STX (06 R113). -/
def execStx (sz c e : BitVec 2) (a d : Src) (s : State) : Outcome State Fault Refusal :=
  runM (fullEmpty (.stx sz c e a d) true sz c e a (readSrc d) 0) s

/-! Events of requests. -/

/-- A parked request `fe` that arrived first at time `z` on key `y` completes as a timeout once its limit has passed
(06 R114). -/
def execFeTimeout (s : State) : Outcome State Fault Refusal :=
  runM (do
    match (← get).arg.fe with
    | none => pure ()
    | some r =>
      let s ← get
      let isIt := fun p : Parked => p.req == r && p.key == s.arg.y && p.arrival == s.arg.z
      match s.parked.find? isIt with
      | none => pure ()
      | some p =>
        if s.time < s.arg.z + r.limit then notYet .feTimeout
        modS fun s =>
          let s1 := { s with parked := s.parked.erase p }
          if p.remote then s1.answer r .timeout else s1.feFinish r.core (!r.store) none 0) s

/-- A request `fe` that a full list bounced at time `x` is sent again 64 ns later, with a new arrival position (06 R114). -/
def execFeResend (s : State) : Outcome State Fault Refusal :=
  runM (do
    match (← get).arg.fe with
    | none => pure ()
    | some r =>
      let s ← get
      let isIt := fun p : Parked => p.bounced && p.req == r && p.key == s.arg.y && p.arrival == s.arg.z
      match s.parked.find? isIt with
      | none => pure ()
      | some p =>
        if s.time < s.arg.x + 64 || s.parkedHeld p then notYet .feResend
        modS fun s =>
          let s1 := { s with parked := s.parked.erase p }
          match s1.feTry p.remote r p.key with
          | some s2 => s2
          | none => s1.fePark p.remote r p.key p.arrival true) s

/-- Whether a request's place is a pad of a member in a transfer phase (11 R231). -/
def State.requestHeld (s : State) (r : FeReq) : Bool :=
  classOf (word r.addr) == .pad && s.padHeld engineAgent (padBase + r.addr % 2 ^ 31 / 2 ^ 17 * 2 ^ 17)

/-- A request `fe` arrives at this module and executes at its bank unit or Cobbler (06 R115), behind what its source sent before.
A rejection carries the element status of 13 R265. With `y` the source takes the request back: it leaves its list, unless it
has had its answer (06 R116). -/
def execRemoteFeRequest (s : State) : Outcome State Fault Refusal :=
  runM (do
    let s ← get
    match s.arg.fe with
    | none => pure ()
    | some r =>
      if s.arg.y != 0 then
        match s.parked.find? fun p => p.remote && p.req == r with
        | some p => set ({ s with parked := s.parked.erase p }.answer r .withdrawn)
        | none => pure ()
      else
        if s.requestHeld r then holdSource .remoteFeRequest r.src r.part
        modS fun s =>
          let acc := if r.store then Acc.stx else Acc.ldx (r.after != 0)
          let f7 := (if r.store then 64 else 0) + 16 * r.size.log2 + 4 * r.cond + r.after
          if Config.lacksRemote 19 f7 then s.answer r (.rejected 5) else
          match s.targetFind r.part r.core 0 r.addr r.size acc with
          | (s1, .error c) => s1.answer r (.rejected (BitVec.ofNat 8 c))
          | (s1, .ok k) =>
            if !r.store && s1.poisoned k r.size then s1.answer r (.rejected 4) else
            match s1.feTry true r k with
            | some s2 => s2
            | none => s1.fePark true r k s1.time false) s

/-- The answer to the request `fe` of context `x` arrives: the instruction completes, a rejection leaves a trace, a request that
was taken back leaves its instruction to be executed again. A thread that was asked to stop then stands at its boundary
(06 R115, R116). -/
def execRemoteFeResponse (s : State) : Outcome State Fault Refusal :=
  runM (event fun s =>
    match s.arg.fe, (s.ctx s.arg.x).mode with
    | some r, .waiting (.feRemote _ r0 asked) =>
      if r0 != r then s else
      (s.eventFor s.arg.x fun x =>
        let x1 := x.feAnswered r s.arg.answer
        if s.arg.answer = .withdrawn then x1 else x1.afterTaken).modCtx s.arg.x fun c =>
          if asked && c.mode == .running then { c with mode := .stopping } else c
    | _, _ => s) s

/-! Fences (06 R118). -/

/-- ACQ (06 R118). -/
def execAcq (s : State) : Outcome State Fault Refusal :=
  runM (do
    gate .acq
    acquire
    retire .acq) s

/-- REL (06 R118). -/
def execRel (s : State) : Outcome State Fault Refusal :=
  runM (do
    gate .rel
    release
    retire .rel) s

/-- FENCE: REL, then ACQ (06 R118). -/
def execFence (s : State) : Outcome State Fault Refusal :=
  runM (do
    gate .fence
    release
    acquire
    retire .fence) s

end Sys2Proof.Machine
end

