-- ==== Sys2Proof/Machine/Power.lean ====
section
/-! DEFINITION. Power-on, boot and measurement, the configuration records, power and heat (24 R381 to R388). -/

namespace Sys2Proof.Machine

open Host (Outcome)

/-! The firmware image (24 R381). -/

/-- An image slot of the flash: the header (length of the body, version, load address, 4 bytes each: log entry 26), the key, the
signature, the body. -/
structure FlashImage where
  header : List Byte
  key : List Byte
  signature : List Byte
  body : List Byte
deriving DecidableEq, Repr

/-- The image in the slot at an offset of the flash. -/
def imageAt (nor : Memory) (slot : Nat) : FlashImage :=
  let header := nor.readBytes slot 12
  ⟨header, nor.readBytes (slot + 12) 1952, nor.readBytes (slot + 1964) 3309, nor.readBytes (slot + 5273) (at_ header 0 4)⟩

/-- The digest that an image's signature covers. -/
def FlashImage.digest (i : FlashImage) : List Byte := shake256 (i.header ++ i.body)

/-- The two tests of an image: the key is Brewezal's, the signature is valid. -/
def FlashImage.verifies (i : FlashImage) : Bool :=
  shake256 i.key == Config.romKeyDigest && mldsaVerify i.key i.digest i.signature

/-- The first image that verifies, slot 0 before slot 1. -/
def bootImage (nor : Memory) : Option FlashImage := ([0x00010000, 0x02000000].map (imageAt nor)).find? FlashImage.verifies

/-! Configuration records (24 R383, R384). -/

/-- A record as it stands in the flash. -/
structure ConfigRecord where
  kind : Nat
  signer : Nat
  version : Nat
  length : Nat
  head : List Byte
  payload : List Byte
  signature : List Byte
deriving DecidableEq, Repr

/-- The record at an offset. One that claims more than 32768 payload bytes keeps its length. -/
def recordAt (nor : Memory) (off : Nat) : ConfigRecord :=
  let head := nor.readBytes off 96
  let n := at_ head 12 4
  ⟨at_ head 4 2, at_ head 6 1, at_ head 8 4, n, head, nor.readBytes (off + 96) (min n 32768),
    nor.readBytes (off + 96 + min n 32768) 3309⟩

/-- The records from an offset up, in at most `fuel` sectors: up to the first boundary without the magic value, or the end
of the area. -/
def scanRecords (nor : Memory) : Nat → Nat → List ConfigRecord
  | 0, _ => []
  | fuel + 1, off =>
    if 0x05000000 ≤ off || nor.readNat off 4 != 0x43524543 then [] else
    let r := recordAt nor off
    r :: scanRecords nor fuel (off + (96 + r.length + 3309 + 4095) / 4096 * 4096)

/-- The digest that a record's signature covers. -/
def ConfigRecord.digest (r : ConfigRecord) : List Byte := shake256 (r.head ++ r.payload)

/-- Coordinates of a module within some extents, with nothing in their reserved bits. -/
def coordsOk (bx by_ c : Nat) : Bool := c < 2 ^ 14 && c % 32 < bx && c / 32 % 32 < by_

/-- A payload that 24 R384 allows. -/
def payloadOk (kind : Nat) (p : List Byte) : Bool :=
  match kind with
  | 1 => p.length == 1952
  | 2 =>
    let f := at_ p 4 2
    let n := at_ p 6 2
    let ok := coordsOk (at_ p 8 1) (at_ p 9 1)
    p.length == 16 + 4 * f + 8 * n && f ≤ 256 && n ≤ 16 && 1 ≤ at_ p 8 1 && at_ p 8 1 ≤ 32 && 1 ≤ at_ p 9 1 && at_ p 9 1 ≤ 32 &&
    at_ p 10 6 == 0 && ok (at_ p 0 4) && (List.range f).all (fun i => ok (at_ p (16 + 4 * i) 4)) &&
    (List.range n).all (fun i =>
      let a := at_ p (16 + 4 * f + 8 * i) 4
      let b := at_ p (20 + 4 * f + 8 * i) 4
      ok a && ok b && a % 1024 == b % 1024)
  | 3 => p.length == 8 && 1000 ≤ at_ p 0 4 && at_ p 0 4 ≤ 4200 && at_ p 4 4 == 0
  | 4 => let n := at_ p 32 4; p.length == 40 + 1952 * n && 1 ≤ n && n ≤ 8 && at_ p 36 4 == 0
  | _ => false

/-- A record is valid under the key that its signer has, if it has one, on a module with an identity key (24 R383). -/
def ConfigRecord.valid (r : ConfigRecord) (identity : DsaKey) (key : Option (List Byte)) : Bool :=
  match key with
  | none => false
  | some k =>
    let binding := (r.head.drop 16).take 64
    at_ r.head 7 1 == 0 && at_ r.head 80 16 == 0 && r.length ≤ 32768 && payloadOk r.kind r.payload &&
    (binding == List.replicate 64 0 || binding == shake256 identity.pub) &&
    mldsaVerify k r.digest r.signature

/-- The record of the highest version. -/
def highest (rs : List ConfigRecord) : Option ConfigRecord :=
  rs.foldl (fun (best : Option ConfigRecord) (r : ConfigRecord) =>
    match best with
    | some b => if b.version < r.version then some r else best
    | none => some r) none

/-- The records accepted, in order. The owner key in force is that of the highest valid type 1 record. -/
def acceptedRecords (identity : DsaKey) (configKey : List Byte) (rs : List ConfigRecord) : List ConfigRecord :=
  let owner := (highest (rs.filter fun r => r.kind == 1 && r.signer == 0 && r.valid identity (some configKey))).map (·.payload)
  rs.filter fun r =>
    if r.signer = 0 then r.valid identity (some configKey) else r.signer == 1 && r.kind != 1 && r.valid identity owner

/-- What comes of a verified image at boot: the ROM measures it, loads it at its load address and releases management cores 1 to 3
(24 R381), and the firmware measures and applies the records. -/
def State.applyRecords (s : State) (i : FlashImage) : State :=
  let rs := acceptedRecords s.board.identity (i.body.take 1952) (scanRecords s.board.nor 4096 0x04000000)
  let b := { s.board with
    imageOk := true
    version := at_ i.header 4 4
    firmware := some (at_ i.header 8 4, i.body)
    released := true
    m0 := shake256 (List.replicate 64 0 ++ i.digest)
    m1 := rs.foldl (fun (m : List Byte) (r : ConfigRecord) => shake256 (m ++ r.digest)) (List.replicate 64 0)
    records := rs.map fun (r : ConfigRecord) => (r.kind, r.version, r.payload) }
  let limit := match b.inForce 3 with | some p => min 4200 (at_ p 0 4) | none => 4200
  let own := match b.inForce 2 with | some p => at_ p 0 4 | none => 0
  { s with board := { b with powerLimit := limit }, fabric := own, links := Vector.ofFn fun k => if hasNeighbour own k.val then 2 else 0 }

/-- Power-on: everything but the flash is as at reset, management cores 1 to 3 in reset; the boot count rises; the PUF's response,
corrected with the helper data in the flash, yields the identity's seed (24 R382); the ROM looks for an image, and its firmware
applies the records. Without one only opcodes 7 and 8 are answered, and M0 is 0 (R381, R383, R385). -/
def State.powerOn (s : State) : State :=
  let count := (s.board.nor.readNat 0xF000 4 + 1) % 2 ^ 32
  let outside := s.agenda.filter fun x => match x with | .event _ _ => true | _ => false
  let board := { Board.reset with
    booted := true, nor := s.board.nor.writeNat 0xF000 4 count, bootCount := count
    seed := padTo 32 ((Config.pufSeed (s.board.nor.readBytes Config.helperPlace.1 Config.helperPlace.2)).take 32) }
  let s1 := { State.reset with board := board, agenda := outside, arg := s.arg, fresh := s.fresh }
  match bootImage board.nor with
  | some i => s1.applyRecords i
  | none => s1

def execPowerOnBoot (s : State) : Outcome State Fault Refusal :=
  runM (event fun s => s.powerOn) s

/-! Power and heat (24 R386 to R388). -/

/-- The average over 1 ms, `x` W, exceeds the limit: the level rises by 1, to at most 7 (24 R386). -/
def execThrottleRaise (s : State) : Outcome State Fault Refusal :=
  runM (event fun s =>
    let s0 := s.measured
    let s1 := { s0 with board := { s0.board with power := s.arg.x } }
    if s.board.powerLimit < s.arg.x then s1.setLevel (min 7 (s1.board.level + 1)) else s1) s

/-- The average, `x` W, has stayed below 95% of the limit for 10 ms: the level falls by 1, to no less than the floor
(24 R386, R387). -/
def execThrottleLower (s : State) : Outcome State Fault Refusal :=
  runM (event fun s =>
    let s0 := s.measured
    let s1 := { s0 with board := { s0.board with power := s.arg.x } }
    if 100 * s.arg.x < 95 * s.board.powerLimit then s1.setLevel (max s1.board.floor (s1.board.level - 1)) else s1) s

/-- The junction temperature of die `x` is `y` tenths of a degree (24 R387). -/
def execThermalFloor (s : State) : Outcome State Fault Refusal :=
  runM (event fun s =>
    let s := s.measured
    let ts := s.board.dieTemp.set s.arg.x s.arg.y
    let s1 := { s with board := { s.board with dieTemp := ts, floor := floorOf ts } }
    s1.setLevel (max s.board.level (floorOf ts))) s

/-- Every slice is killed, the ARMED ones of the waiting-task tables too, a kind 6 notice goes to every partition, and power is
removed; HBM contents are lost, and with power the pads' (24 R387, 18 R303, 20 R343). -/
def State.shutdown (s : State) : State :=
  let s0 := s.slices.foldl (fun x y => x.killNow y.id 0) s
  let s1 := s.clusters.foldl (fun x c => x.killTable c.1) s0
  let s2 := s1.parts.foldl (fun x p =>
    let x1 := x.notice p.1 6 0
    (x1.part p.1).notices.foldl (fun z n => if n.sent.isNone then z.sendNotice p.1 n else z) x1) s1
  { s2 with mem := [], full := [], bad := [], board := { s2.board with on := false } }

/-- Die `x` is at `y` tenths of a degree and the coolant inlet has been at `z` for 1 s: shutdown at 120 °C, or with an inlet
above 45 °C (24 R387). -/
def execThermalShutdown (s : State) : Outcome State Fault Refusal :=
  runM (event fun s =>
    let s := s.measured
    let s1 := { s with board := { s.board with dieTemp := s.board.dieTemp.set s.arg.x s.arg.y, inlet := s.arg.z } }
    if 1200 ≤ s.arg.y || 450 < s.arg.z then s1.shutdown else s1) s

end Sys2Proof.Machine
end

