-- ==== Sys2Proof/Machine/Vector.lean ====
section
/-! DEFINITION. VARI, VGRP and the C form: majors 24 and 25 and the 16-bit instructions (04 R50, 07 R124 to R126). -/

namespace Sys2Proof.Machine

open Host (Outcome)

/-! What a member computes on one element: `t` is the type, `m` the rounding mode. -/

/-- An integer result modulo 2^w, or a float result. -/
def arithElem (int : Int → Int → Int → Int) (flt : Fmt → Nat → Nat → Nat → Nat → Nat × Nat) : ElemFn := fun t m a b d =>
  if isIntT t then (intBits t (int (intVal t a) (intVal t b) (intVal t d)), 0) else flt (fmtOf t) m a b d

def addElem : ElemFn := arithElem (fun a b _ => a + b) fun f m a b _ => f.add m a b
def subElem : ElemFn := arithElem (fun a b _ => a - b) fun f m a b _ => f.sub m a b
def mulElem : ElemFn := arithElem (fun a b _ => a * b) fun f m a b _ => f.mul m a b
def fmaElem : ElemFn := arithElem (fun a b d => a * b + d) fun f m a b d => f.fma m false false a b d
def fmsElem : ElemFn := arithElem (fun a b d => a * b - d) fun f m a b d => f.fma m false true a b d
def nfmaElem : ElemFn := arithElem (fun a b d => d - a * b) fun f m a b d => f.fma m true false a b d

/-- A pattern that is no NaN as an integer in the order of 07 R125: negative zero below positive zero. -/
def floatKey (f : Fmt) (x : Nat) : Int :=
  let mag := x % 2 ^ (f.ebits + f.fbits)
  if bitOf x (f.ebits + f.fbits) then -1 - mag else mag

/-- The smaller or the larger float (07 R125). -/
def floatPick (f : Fmt) (big : Bool) (a b : Nat) : Nat × Nat :=
  let x := f.decode a
  let y := f.decode b
  let fl := flagIf (x.signals || y.signals) flNv
  if x.isNan && y.isNan then (f.nan, fl)
  else if x.isNan then (b, fl)
  else if y.isNan then (a, fl)
  else if (floatKey f a < floatKey f b) == big then (b, fl) else (a, fl)

def minElem : ElemFn := arithElem (fun a b _ => min a b) fun f _ a b _ => floatPick f false a b
def maxElem : ElemFn := arithElem (fun a b _ => max a b) fun f _ a b _ => floatPick f true a b

/-- A float with its sign changed; a NaN gives the canonical one. -/
def signElem (f : Fmt) (a r : Nat) : Nat × Nat :=
  let x := f.decode a
  if x.isNan then (f.nan, flagIf x.signals flNv) else (r, 0)

def absElem : ElemFn := arithElem (fun a _ _ => a.natAbs) fun f _ a _ _ => signElem f a (a % 2 ^ (f.ebits + f.fbits))
def negElem : ElemFn := arithElem (fun a _ _ => -a) fun f _ a _ _ => signElem f a (a ^^^ 2 ^ (f.ebits + f.fbits))

def andElem : ElemFn := fun _ _ a b _ => (a &&& b, 0)
def orElem : ElemFn := fun _ _ a b _ => (a ||| b, 0)
def xorElem : ElemFn := fun _ _ a b _ => (a ^^^ b, 0)
def movElem : ElemFn := fun _ _ a _ _ => (a, 0)
def zeroElem : ElemFn := fun _ _ _ _ _ => (0, 0)

/-- Shifts by an unsigned count (05 R61 at the element width). -/
def shlElem : ElemFn := fun t _ a b _ => let w := typeBits t; (if w ≤ b then 0 else a * 2 ^ b % 2 ^ w, 0)
def shrElem : ElemFn := fun t _ a b _ => (if typeBits t ≤ b then 0 else a / 2 ^ b, 0)
def sraElem : ElemFn := fun t _ a b _ => let w := typeBits t; (intBits t (signed w a / 2 ^ (min b (w - 1))), 0)

def mulhElem : ElemFn := fun t _ a b _ => (intBits t (intVal t a * intVal t b / 2 ^ typeBits t), 0)
def clzElem : ElemFn := fun t _ a _ _ => (typeBits t - bitLen a, 0)
def popcElem : ElemFn := fun t _ a _ _ => ((setBits (typeBits t) a).length, 0)

/-- A sum or difference clamped to the type's range (07 R124). -/
def clampElem (op : Int → Int → Int) : ElemFn := fun t _ a b _ =>
  let r := op (intVal t a) (intVal t b)
  if r < intLow t then (intBits t (intLow t), flSat)
  else if intHigh t < r then (intBits t (intHigh t), flSat)
  else (intBits t r, 0)

/-! VARI, major 24 (07 R124, R125). -/

/-- VADD (07 R124). -/
def execVadd (q : BitVec 3) (b a : Src) (d : Code) (s : State) : Outcome State Fault Refusal :=
  runM (vecOp (.vadd q b a d) q .arith a (some b) d false addElem) s

/-- VSUB (07 R124). -/
def execVsub (q : BitVec 3) (b a : Src) (d : Code) (s : State) : Outcome State Fault Refusal :=
  runM (vecOp (.vsub q b a d) q .arith a (some b) d false subElem) s

/-- VMUL (07 R124). -/
def execVmul (q : BitVec 3) (b a : Src) (d : Code) (s : State) : Outcome State Fault Refusal :=
  runM (vecOp (.vmul q b a d) q .arith a (some b) d false mulElem) s

/-- VFMA: a × b + d (07 R124). -/
def execVfma (q : BitVec 3) (b a : Src) (d : Code) (s : State) : Outcome State Fault Refusal :=
  runM (vecOp (.vfma q b a d) q .arith a (some b) d true fmaElem) s

/-- VFMS: a × b − d (07 R124). -/
def execVfms (q : BitVec 3) (b a : Src) (d : Code) (s : State) : Outcome State Fault Refusal :=
  runM (vecOp (.vfms q b a d) q .arith a (some b) d true fmsElem) s

/-- VNFMA: d − a × b (07 R124). -/
def execVnfma (q : BitVec 3) (b a : Src) (d : Code) (s : State) : Outcome State Fault Refusal :=
  runM (vecOp (.vnfma q b a d) q .arith a (some b) d true nfmaElem) s

/-- VMIN (07 R124, R125). -/
def execVmin (q : BitVec 3) (b a : Src) (d : Code) (s : State) : Outcome State Fault Refusal :=
  runM (vecOp (.vmin q b a d) q .arith a (some b) d false minElem) s

/-- VMAX (07 R124, R125). -/
def execVmax (q : BitVec 3) (b a : Src) (d : Code) (s : State) : Outcome State Fault Refusal :=
  runM (vecOp (.vmax q b a d) q .arith a (some b) d false maxElem) s

/-- VABS (07 R124, R125). -/
def execVabs (q : BitVec 3) (a : Src) (d : Code) (s : State) : Outcome State Fault Refusal :=
  runM (vecOp (.vabs q a d) q .arith a none d false absElem) s

/-- VNEG (07 R124, R125). -/
def execVneg (q : BitVec 3) (a : Src) (d : Code) (s : State) : Outcome State Fault Refusal :=
  runM (vecOp (.vneg q a d) q .arith a none d false negElem) s

/-- VAND (07 R124). -/
def execVand (q : BitVec 3) (b a : Src) (d : Code) (s : State) : Outcome State Fault Refusal :=
  runM (vecOp (.vand q b a d) q .bytes a (some b) d false andElem) s

/-- VOR (07 R124). -/
def execVor (q : BitVec 3) (b a : Src) (d : Code) (s : State) : Outcome State Fault Refusal :=
  runM (vecOp (.vor q b a d) q .bytes a (some b) d false orElem) s

/-- VXOR (07 R124). -/
def execVxor (q : BitVec 3) (b a : Src) (d : Code) (s : State) : Outcome State Fault Refusal :=
  runM (vecOp (.vxor q b a d) q .bytes a (some b) d false xorElem) s

/-- VSHL (07 R124). -/
def execVshl (q : BitVec 3) (b a : Src) (d : Code) (s : State) : Outcome State Fault Refusal :=
  runM (vecOp (.vshl q b a d) q .ints a (some b) d false shlElem) s

/-- VSHR (07 R124). -/
def execVshr (q : BitVec 3) (b a : Src) (d : Code) (s : State) : Outcome State Fault Refusal :=
  runM (vecOp (.vshr q b a d) q .ints a (some b) d false shrElem) s

/-- VSRA (07 R124). -/
def execVsra (q : BitVec 3) (b a : Src) (d : Code) (s : State) : Outcome State Fault Refusal :=
  runM (vecOp (.vsra q b a d) q .ints a (some b) d false sraElem) s

/-! The C form: vd := vd op vs, as the 32-bit member without a shape (04 R50). -/

/-- A vector register as a source. -/
def vreg (n : BitVec 5) : Src := .code (n.setWidth 6)

/-- A C-form member on sources x and y. -/
def cForm (i : Instr) (acc : Accepts) (x y : Src) (vd : BitVec 5) (useD : Bool) (f : ElemFn) : M Unit := do
  gate i
  whole do
    lanes i acc x (some y) (vd.setWidth 6) useD f
    retire i

/-- C-form VADD (04 R50). -/
def execCVadd (vs vd : BitVec 5) (s : State) : Outcome State Fault Refusal :=
  runM (cForm (.cVadd vs vd) .arith (vreg vd) (vreg vs) vd false addElem) s

/-- C-form VSUB (04 R50). -/
def execCVsub (vs vd : BitVec 5) (s : State) : Outcome State Fault Refusal :=
  runM (cForm (.cVsub vs vd) .arith (vreg vd) (vreg vs) vd false subElem) s

/-- C-form VMUL (04 R50). -/
def execCVmul (vs vd : BitVec 5) (s : State) : Outcome State Fault Refusal :=
  runM (cForm (.cVmul vs vd) .arith (vreg vd) (vreg vs) vd false mulElem) s

/-- C-form VMIN (04 R50). -/
def execCVmin (vs vd : BitVec 5) (s : State) : Outcome State Fault Refusal :=
  runM (cForm (.cVmin vs vd) .arith (vreg vd) (vreg vs) vd false minElem) s

/-- C-form VMAX (04 R50). -/
def execCVmax (vs vd : BitVec 5) (s : State) : Outcome State Fault Refusal :=
  runM (cForm (.cVmax vs vd) .arith (vreg vd) (vreg vs) vd false maxElem) s

/-- C-form VAND (04 R50). -/
def execCVand (vs vd : BitVec 5) (s : State) : Outcome State Fault Refusal :=
  runM (cForm (.cVand vs vd) .bytes (vreg vd) (vreg vs) vd false andElem) s

/-- C-form VOR (04 R50). -/
def execCVor (vs vd : BitVec 5) (s : State) : Outcome State Fault Refusal :=
  runM (cForm (.cVor vs vd) .bytes (vreg vd) (vreg vs) vd false orElem) s

/-- C-form VXOR (04 R50). -/
def execCVxor (vs vd : BitVec 5) (s : State) : Outcome State Fault Refusal :=
  runM (cForm (.cVxor vs vd) .bytes (vreg vd) (vreg vs) vd false xorElem) s

/-- C-form VSHL (04 R50). -/
def execCVshl (vs vd : BitVec 5) (s : State) : Outcome State Fault Refusal :=
  runM (cForm (.cVshl vs vd) .ints (vreg vd) (vreg vs) vd false shlElem) s

/-- C-form VSHR (04 R50). -/
def execCVshr (vs vd : BitVec 5) (s : State) : Outcome State Fault Refusal :=
  runM (cForm (.cVshr vs vd) .ints (vreg vd) (vreg vs) vd false shrElem) s

/-- C-form VSRA (04 R50). -/
def execCVsra (vs vd : BitVec 5) (s : State) : Outcome State Fault Refusal :=
  runM (cForm (.cVsra vs vd) .ints (vreg vd) (vreg vs) vd false sraElem) s

/-- C-form VMAC: vd + vs × v31, fused (04 R50, 07 R124). -/
def execCVmac (vs vd : BitVec 5) (s : State) : Outcome State Fault Refusal :=
  runM (cForm (.cVmac vs vd) .arith (vreg vs) (vreg 31) vd true fmaElem) s

/-- C-form VMOV (04 R50). -/
def execCVmov (vs vd : BitVec 5) (s : State) : Outcome State Fault Refusal :=
  runM (cForm (.cVmov vs vd) .bytes (vreg vs) (vreg vs) vd false movElem) s

/-- C-form VNEG (04 R50). -/
def execCVneg (vs vd : BitVec 5) (s : State) : Outcome State Fault Refusal :=
  runM (cForm (.cVneg vs vd) .arith (vreg vs) (vreg vs) vd false negElem) s

/-- C-form VABS (04 R50). -/
def execCVabs (vs vd : BitVec 5) (s : State) : Outcome State Fault Refusal :=
  runM (cForm (.cVabs vs vd) .arith (vreg vs) (vreg vs) vd false absElem) s

/-- C-form VZERO: zero bits in the active elements, whatever TYPE holds (04 R50, 07 R120). -/
def execCVzero (vd : BitVec 5) (s : State) : Outcome State Fault Refusal :=
  runM (do
    gate (.cVzero vd)
    let t ← readT id
    let w := typeBits (workType t.elemType)
    writeVec (vd.setWidth 6) w [] (t.actives w) (List.replicate (512 / w) 0)
    retire (.cVzero vd)) s

/-! VGRP, major 25 (07 R126). -/

/-- VMOV (07 R126). -/
def execVmov (q : BitVec 3) (a : Src) (d : Code) (s : State) : Outcome State Fault Refusal :=
  runM (vecOp (.vmov q a d) q .bytes a none d false movElem) s

/-- VMULH: the high half of the products (07 R124). -/
def execVmulh (q : BitVec 3) (b a : Src) (d : Code) (s : State) : Outcome State Fault Refusal :=
  runM (vecOp (.vmulh q b a d) q .ints a (some b) d false mulhElem) s

/-- VCLZ (07 R124). -/
def execVclz (q : BitVec 3) (a : Src) (d : Code) (s : State) : Outcome State Fault Refusal :=
  runM (vecOp (.vclz q a d) q .ints a none d false clzElem) s

/-- VPOPC (07 R124). -/
def execVpopc (q : BitVec 3) (a : Src) (d : Code) (s : State) : Outcome State Fault Refusal :=
  runM (vecOp (.vpopc q a d) q .ints a none d false popcElem) s

/-- VADDS: a clamped sum (07 R124). -/
def execVadds (q : BitVec 3) (b a : Src) (d : Code) (s : State) : Outcome State Fault Refusal :=
  runM (vecOp (.vadds q b a d) q .ints a (some b) d false (clampElem (· + ·))) s

/-- VSUBS: a clamped difference (07 R124). -/
def execVsubs (q : BitVec 3) (b a : Src) (d : Code) (s : State) : Outcome State Fault Refusal :=
  runM (vecOp (.vsubs q b a d) q .ints a (some b) d false (clampElem (· - ·))) s

/-- An unshaped member of one or two vector sources whose result `f` gives as a whole (07 R126). `used` marks the elements of
a that the active elements need, from the active ones and b's elements (07 R121). -/
def wholeVec (i : Instr) (acc : Accepts) (a : Src) (b : Option Src) (d : Code) (used : Nat → List Bool → List Nat → M (List Bool))
    (f : Nat → List Nat → List Nat → M (List Nat)) : M Unit := do
  gate i
  whole do
    let t ← readT id
    let ty ← typeFor i acc t.elemType
    let w := typeBits ty
    let ha := srcHandle a
    let hb := b.bind srcHandle
    let hd := handleOf d
    let (ra, rb, rd) ← touchFields i ha hb hd 64 64 64
    let on := t.actives w
    let ys ← match b with
      | some y => readElems w on rb y
      | none => pure []
    let need ← used w on ys
    let xs ← readElems w need ra a
    let rs ← f w xs ys
    writeVec d w rd on rs
    moveFields ha hb hd 64 64 64
    retire i

/-- A condition of VCMP on integers and on floats, with the flags (07 R126). -/
def vcmpHolds (c t a b : Nat) : Bool × Nat :=
  if isIntT t then
    let w := typeBits t
    let x := signed w a
    let y := signed w b
    (match c with
     | 0 => a == b
     | 1 => a != b
     | 2 => decide (x < y)
     | 3 => decide (y ≤ x)
     | 4 => decide (a < b)
     | _ => decide (b ≤ a), 0)
  else
    let x := (fmtOf t).decode a
    let y := (fmtOf t).decode b
    let un := x.isNan || y.isNan
    let eq := !un && !x.lt y && !y.lt x
    (match c with
     | 0 => eq
     | 1 => !eq
     | 2 => x.lt y
     | 3 => !un && !x.lt y
     | _ => un, flagIf (x.signals || y.signals) flNv)

/-- The byte lanes of the elements that are marked. -/
def laneBits (w : Nat) : Nat → List Bool → Nat
  | _, [] => 0
  | i, m :: ms => (if m then (2 ^ (w / 8) - 1) * 2 ^ (i * (w / 8)) else 0) + laneBits w (i + 1) ms

/-- VCMP: the byte lanes of the active elements for which the condition holds (07 R126). -/
def execVcmp (c : BitVec 3) (b a : Src) (k : BitVec 3) (s : State) : Outcome State Fault Refusal :=
  runM (do
    let i := Instr.vcmp c b a k
    gate i
    whole do
      let t ← readT id
      let ty ← typeFor i .arith t.elemType
      require (if isIntT ty then c != 6 else c != 4 && c != 5) .illop (imageOf i)
      let w := typeBits ty
      let (ra, rb, _) ← touchFields i (srcHandle a) (srcHandle b) none 64 64 0
      let on := t.actives w
      let xs ← readElems w on ra a
      let ys ← readElems w on rb b
      let rs := (xs.zip ys).map fun (x, y) => vcmpHolds c.toNat ty x y
      raiseFlags (flagsOf on (rs.map fun r => (0, r.2)))
      writeK k.toNat (word (laneBits w 0 ((on.zip rs).map fun (m, r) => m && r.1)))
      moveFields (srcHandle a) (srcHandle b) none 64 64 0
      retire i) s

/-- An element whose bytes come from x where the predicate's bits from `j` on are set, else from y. -/
def selBytes (k : Word) (j : Nat) : Nat → Nat → Nat → Nat
  | 0, _, _ => 0
  | n + 1, x, y => (if flagOf k j then x % 256 else y % 256) + 256 * selBytes k (j + 1) n (x / 256) (y / 256)

/-- VSEL: bytes of a or of b by a predicate (07 R126). -/
def execVsel (k : BitVec 3) (b a : Src) (d : Code) (s : State) : Outcome State Fault Refusal :=
  runM (wholeVec (.vsel k b a d) .bytes a (some b) d (fun _ on _ => pure on) fun w xs ys => do
    let p ← readK k.toNat
    pure ((List.range (512 / w)).map fun i => selBytes p (i * (w / 8)) (w / 8) (xs.getD i 0) (ys.getD i 0))) s

/-- VBCAST: a scalar in every element (07 R126). -/
def execVbcast (a : Src) (d : Code) (s : State) : Outcome State Fault Refusal :=
  runM (do
    let i := Instr.vbcast a d
    gate i
    whole do
      let t ← readT id
      let ty ← typeFor i .bits t.elemType
      let w := typeBits ty
      let (_, _, rd) ← touchFields i none none (handleOf d) 0 0 64
      let x ← readSrc a
      writeVec d w rd (t.actives w) (List.replicate (512 / w) (x.toNat % 2 ^ w))
      moveFields none none (handleOf d) 0 0 64
      retire i) s

/-- VEXT: element B mod P as a scalar (07 R126). -/
def execVext (b a : Src) (d : Code) (s : State) : Outcome State Fault Refusal :=
  runM (do
    let i := Instr.vext b a d
    gate i
    whole do
      let t ← readT id
      let ty ← typeFor i .bits t.elemType
      let w := typeBits ty
      let (ra, _, _) ← touchFields i (srcHandle a) none none 64 0 0
      let n ← readSrc b
      let j := n.toNat % (512 / w)
      let xs ← readElems w ((List.range (512 / w)).map (· == j)) ra a
      let x := xs.getD j 0
      writeD d (if isIntT ty && signedT ty then sext64 w x else word x)
      moveFields (srcHandle a) none none 64 0 0
      retire i) s

/-- VINS: a scalar into element B mod P, if that element is active (07 R126). -/
def execVins (b a : Src) (d : Code) (s : State) : Outcome State Fault Refusal :=
  runM (do
    let i := Instr.vins b a d
    gate i
    whole do
      let t ← readT id
      let ty ← typeFor i .bits t.elemType
      let w := typeBits ty
      let (_, _, rd) ← touchFields i none none (handleOf d) 0 0 64
      let x ← readSrc a
      let n ← readSrc b
      let j := n.toNat % (512 / w)
      writeVec d w rd ((List.range (512 / w)).map fun k => k == j && t.active w k) (List.replicate (512 / w) (x.toNat % 2 ^ w))
      moveFields none none (handleOf d) 0 0 64
      retire i) s

/-- The elements among `n` that a list of indexes names where marked. -/
def namedElems (n : Nat) (on : List Bool) (js : List Nat) : List Bool :=
  let used := (on.zip js).filterMap fun (m, j) => if m then some (j % n) else none
  (List.range n).map used.contains

/-- VPERM: element i is the element of a that b's element i names (07 R126). -/
def execVperm (b a : Src) (d : Code) (s : State) : Outcome State Fault Refusal :=
  runM (wholeVec (.vperm b a d) .bits a (some b) d (fun w on ys => pure (namedElems (512 / w) on ys)) fun w xs ys =>
    pure (ys.map fun j => xs.getD (j % (512 / w)) 0)) s

/-- VSLIDE: element i is element i − S of a, or zero (07 R126). -/
def execVslide (b a : Src) (d : Code) (s : State) : Outcome State Fault Refusal :=
  runM (wholeVec (.vslide b a d) .bits a none d
    (fun w on _ => do
      let n ← readSrc b
      pure ((List.range (512 / w)).map fun (j : Nat) => let i : Int := j + n.toInt; decide (0 ≤ i) && on.getD i.toNat false))
    fun w xs _ => do
      let n ← readSrc b
      pure ((List.range (512 / w)).map fun (i : Nat) =>
        let j : Int := i - n.toInt
        if 0 ≤ j then xs.getD j.toNat 0 else 0)) s

end Sys2Proof.Machine
end

