-- ==== Sys2Proof/Machine/Reduce.lean ====
section
/-! DEFINITION. VRED: major 28, reductions, the gang maximum and the exact accumulator (03 R43, R44, 07 R131 to R133). -/

namespace Sys2Proof.Machine

open Host (Outcome)

/-! Reductions of the active elements (07 R131). -/

/-- The sum. -/
def redSum (t m : Nat) (xs : List Nat) : Nat × Nat :=
  if isIntT t then (intBits t ((xs.map (intVal t)).foldl (· + ·) 0), 0) else
  let f := fmtOf t
  let vs := xs.map f.decode
  if vs.any FVal.isNan then (f.nan, flagIf (vs.any FVal.signals) flNv) else
  match vs with
  | [] => (0, 0)
  | v :: vs =>
    let (r, fl) := vs.foldl (fun (x : FVal × Nat) y => let (z, g) := x.1.add m y; (z, x.2 ||| g)) (v, 0)
    f.finish m (r, fl)

/-- The largest or the smallest. -/
def redPick (big : Bool) (t : Nat) (xs : List Nat) : Nat × Nat :=
  if isIntT t then
    match xs with
    | [] => (intBits t (if big then intLow t else intHigh t), 0)
    | x :: xs => (intBits t ((xs.map (intVal t)).foldl (if big then max else min) (intVal t x)), 0)
  else
    let f := fmtOf t
    match xs with
    | [] => (f.infinity big, 0)
    | x :: xs =>
      let step := fun (r : Nat × Nat) y => let (z, g) := floatPick f big r.1 y; (z, r.2 ||| g)
      xs.foldl step (floatPick f big x x)

/-- The largest magnitude. -/
def redAmax (t : Nat) (xs : List Nat) : Nat × Nat :=
  if isIntT t then ((xs.map fun x => (intVal t x).natAbs).foldl max 0, 0) else
  let f := fmtOf t
  let vs := xs.map f.decode
  if vs.any FVal.isNan then (f.nan, flagIf (vs.any FVal.signals) flNv)
  else ((xs.map fun x => x % 2 ^ (f.ebits + f.fbits)).foldl max 0, 0)

/-- The active elements of a register operand. -/
def activeElems (i : Instr) (acc : Accepts) (a : Src) : M (Nat × List Nat) := do
  let t ← readT id
  let ty ← typeFor i acc t.elemType
  let xs ← readElems (typeBits ty) [] [] a
  pure (ty, ((t.actives (typeBits ty)).zip xs).filterMap fun (m, x) => if m then some x else none)

/-- A vector destination that is element 0 and zeros. -/
def writeFirst (d : Code) (x : Nat) : M Unit := writeVec d 64 [] (List.replicate 8 true) (x :: List.replicate 7 0)

/-- A reduction. -/
def reduce (i : Instr) (a : Src) (d : Code) (f : Nat → Nat → List Nat → Nat × Nat) : M Unit := do
  gate i
  whole do
    let (ty, xs) ← activeElems i .arith a
    let m ← readT Ctx.rounding
    let (r, fl) := f ty m xs
    raiseFlags fl
    writeFirst d r
    retire i

/-- VREDSUM (07 R131). -/
def execVredsum (a : Src) (d : Code) (s : State) : Outcome State Fault Refusal := runM (reduce (.vredsum a d) a d redSum) s
/-- VREDMAX (07 R131). -/
def execVredmax (a : Src) (d : Code) (s : State) : Outcome State Fault Refusal :=
  runM (reduce (.vredmax a d) a d fun t _ xs => redPick true t xs) s
/-- VREDMIN (07 R131). -/
def execVredmin (a : Src) (d : Code) (s : State) : Outcome State Fault Refusal :=
  runM (reduce (.vredmin a d) a d fun t _ xs => redPick false t xs) s
/-- VREDAMAX (07 R131). -/
def execVredamax (a : Src) (d : Code) (s : State) : Outcome State Fault Refusal :=
  runM (reduce (.vredamax a d) a d fun t _ xs => redAmax t xs) s

/-! The gang maximum (07 R132). -/

/-- The running maximum after a member: a NaN stays. -/
def rowMax (f : Fmt) (m x : Nat) : Nat := if (f.decode m).isNan || (f.decode x).isNan then f.nan else max m x

/-- VROWMAX: the member's largest magnitude joins the running maximum, which it holds in `vprog`; the broadcast comes at the
end of the east end's slot. -/
def execVrowmax (a : Src) (d : Code) (s : State) : Outcome State Fault Refusal :=
  runM (do
    let i := Instr.vrowmax a d
    gate i
    whole do
      let _ ← typeFor i .floats (← readT id).elemType
      match ← readS fun s => s.formedGang s.t.coreid with
      | none => trapOpen .gang
      | some (id, g, p) =>
        if ← readS State.inExchange then trapOpen .gang
        let (ty, xs) ← activeElems i .floats a
        let (x, fl) := redAmax ty xs
        raiseFlags fl
        let before ← readS fun s => if p = 0 then 0 else (s.ctx (g.members.getD (p - 1) 0)).vprog.toNat
        modT fun t => { t with vprog := BitVec.ofNat 32 (rowMax (fmtOf ty) before x) }
        if g.rowmax.isNone then
          modS fun s => { s with gangs := s.gangs.put id { g with rowmax := some (g.count p), rowdest := d } }
        retire i) s

/-! The exact accumulator (03 R43, R44, 07 R133). -/

/-- The accumulator's place: a pad-window address, a multiple of 8. -/
def accumulator (va : Word) (data : Bool) : M Nat := do
  require (va.toNat % 8 == 0) .align va
  require (classOf va == .pad) .accv va
  let k ← resolveMemAt va 8 80 Acc.amo
  if data then dataOk va k 80
  pure k

/-- The words of an accumulator that differ, written. -/
def writeWords (key old new : Nat) : Nat → M Unit
  | 0 => pure ()
  | n + 1 => do
    writeWords key old new n
    if bitsOf old (64 * n) 64 != bitsOf new (64 * n) 64 then
      modS fun s => s.writeFor s.t.coreid (key + 8 * n) (leBytes 8 (bitsOf new (64 * n) 64))

/-- VXADD: the active f32 elements added exactly, or none where one is no number (07 R133). -/
def execVxadd (b a : Src) (s : State) : Outcome State Fault Refusal :=
  runM (do
    let i := Instr.vxadd b a
    gate i
    whole do
      let va ← readSrc a
      let t ← readT id
      let ys ← readElems 32 [] [] b
      let k ← accumulator va true
      watch 3 va 80
      let xs := ((t.actives 32).zip ys).filterMap fun (m, x) => if m then some x else none
      if xs.any (fun x => (exactAdd x 0).2 != 0) then raiseFlags flNv
      else
        let old ← readS fun s => s.mem.readNat k 80
        writeWords k old (xs.foldl (fun acc x => (exactAdd x acc).1) old) 10
        modS fun s => s.bankArrive k 80
      retire i) s

/-- VXRD: the accumulator rounded to f32 (07 R133). -/
def execVxrd (a : Src) (d : Code) (s : State) : Outcome State Fault Refusal :=
  runM (do
    let i := Instr.vxrd a d
    gate i
    whole do
      let va ← readSrc a
      let k ← accumulator va true
      watch 3 va 80
      let m ← readT Ctx.rounding
      let acc ← readS fun s => s.mem.readNat k 80
      let (x, fl) := exactRead m acc
      raiseFlags fl
      modS fun s => s.bankArrive k 80
      writeD d (word x)
      retire i) s

/-- VXCLR: the ten words zero (07 R133). -/
def execVxclr (a : Src) (s : State) : Outcome State Fault Refusal :=
  runM (do
    let i := Instr.vxclr a
    gate i
    whole do
      let va ← readSrc a
      let k ← accumulator va false
      watch 3 va 80
      modS fun s => (s.writeFor s.t.coreid k (List.replicate 80 0)).bankArrive k 80
      retire i) s

end Sys2Proof.Machine
end

