-- ==== Sys2Proof/Machine/VecMem.lean ====
section
/-! DEFINITION. VMEM and RING: majors 29 and 30 (07 R134, R135, R139 to R141). -/

namespace Sys2Proof.Machine

open Host (Outcome)

/-! VMEM (07 R134). -/

/-- The type of a vector access, with its element size in bytes. -/
def vmemType (i : Instr) : M (Nat × Nat) := do
  let t ← readT id
  let ty ← typeFor i (match i with | .vgath _ _ _ | .vscat _ _ _ => .bits | _ => .bytes) t.elemType
  pure (typeBits ty, typeBits ty / 8)

/-- The addresses of consecutive elements, or of gathered ones. -/
def vmemAddrs (w : Nat) (gather : Bool) (base : Word) (b : Src) : M (List Word) := do
  let z := w / 8
  if gather then do
    let ix ← readElems w [] [] b
    pure (ix.map fun x => base + ofInt (signed w x * z))
  else do
    let off ← readSrc b
    pure ((List.range (512 / w)).map fun i => base + off + word (i * z))

/-- What is marked, with its mark. -/
def marked {α : Type} (on : List Bool) (xs : List α) : List α := (on.zip xs).filterMap fun (m, x) => if m then some x else none

/-- Values for the marked places, in order, zero for the others. -/
def spread : List Bool → List Nat → List Nat
  | [], _ => []
  | true :: ms, x :: xs => x :: spread ms xs
  | _ :: ms, xs => 0 :: spread ms xs

/-- A vector load. -/
def vload (i : Instr) (gather one : Bool) (b a : Src) (d : Code) : M Unit := do
  gate i
  whole do
    let (w, z) ← vmemType i
    let base ← readSrc a
    let vas ← vmemAddrs w gather base b
    let vas := if one then List.replicate (512 / w) (vas.headD 0) else vas
    let on ← readT fun t => t.actives w
    let ks ← locate Acc.load z (marked on vas)
    let xs ← if one then do
        let ys ← readFound z (ks.take 1)
        pure (ks.map fun _ => ys.headD 0)
      else readFound z ks
    writeVec d w [] on (spread on xs)
    retire i

/-- A vector store. -/
def vstore (i : Instr) (gather : Bool) (b a d : Src) : M Unit := do
  gate i
  whole do
    let (w, z) ← vmemType i
    let base ← readSrc a
    let vas ← vmemAddrs w gather base b
    let xs ← readElems w [] [] d
    let on ← readT fun t => t.actives w
    let ks ← locate Acc.store z (marked on vas)
    watchFound z ks
    writeFound z ks (marked on xs)
    retire i

/-- VLD (07 R134). -/
def execVld (b a : Src) (d : Code) (s : State) : Outcome State Fault Refusal := runM (vload (.vld b a d) false false b a d) s
/-- VLDB: one element in every active element (07 R134). -/
def execVldb (b a : Src) (d : Code) (s : State) : Outcome State Fault Refusal := runM (vload (.vldb b a d) false true b a d) s
/-- VGATH (07 R134). -/
def execVgath (b a : Src) (d : Code) (s : State) : Outcome State Fault Refusal := runM (vload (.vgath b a d) true false b a d) s
/-- VST (07 R134). -/
def execVst (b a d : Src) (s : State) : Outcome State Fault Refusal := runM (vstore (.vst b a d) false b a d) s
/-- VSCAT: of two elements with one address the higher stays (07 R134). -/
def execVscat (b a d : Src) (s : State) : Outcome State Fault Refusal := runM (vstore (.vscat b a d) true b a d) s

/-! Shape slots (07 R135). -/

/-- SHPLD (07 R135). -/
def execShpld (q : BitVec 3) (a : Src) (s : State) : Outcome State Fault Refusal :=
  runM (do
    let i := Instr.shpld q a
    gate i
    whole do
      let va ← readSrc a
      let k ← resolveMem va 32 Acc.load
      let x ← readPlain 1 va k 32
      require (bitsOf x 224 8 < 14 && bitsOf x 232 24 == 0) .illop (imageOf i)
      modT fun t => { t with q := t.q.set! (q.toNat - 1) (BitVec.ofNat 256 x), badRegs := setDrop t.badRegs (71 + q.toNat) }
      retire i) s

/-- SHPST (07 R135). -/
def execShpst (q : BitVec 3) (a : Src) (s : State) : Outcome State Fault Refusal :=
  runM (do
    let i := Instr.shpst q a
    gate i
    whole do
      let va ← readSrc a
      let k ← resolveMem va 32 Acc.store
      let x ← readT fun t => t.shape q.toNat
      writePlain va k (leBytes 32 x)
      retire i) s

/-! Ring handles (07 R139, R141). -/

/-- Whether a ring's slot count, size and base are legal (07 R139 check 5). The rule does not say what makes a base legal: here
all slots lie in the direct portion of one pad that the thread may access, and bits 30:16 of a self alias are zero (log
entry 79). -/
def State.ringLegal (s : State) (core part loc : Nat) (o : Obj) : Bool :=
  let base := o.basePad loc
  let last := base + o.expected * o.slotSize
  0 < o.expected && o.expected < 256 && 0 < o.slotSize && o.slotSize % 64 == 0 &&
    !(bitOf o.slotBase 31 && (!bitOf loc 32 || bitsOf o.slotBase 16 15 != 0)) &&
    base / 2 ^ 17 == (last - 1) / 2 ^ 17 && (s.padKey core part base (o.expected * o.slotSize)).isSome

/-- The bit of a ring's flags that marks a role as bound. -/
def roleBit (producer : Bool) : Nat := if producer then 8 else 4

/-- A handle instruction in a transfer phase traps (07 R140). -/
def handleGate (i : Instr) : M Unit := do
  gate i
  notInTransfer i

/-- A bound handle. -/
def boundHandle (i : Instr) (c : Code) : M Handle := do
  let t ← readT id
  let h := t.h[c.toNat - 32]!
  require (h.role != .unbound) .illop (imageOf i)
  pure h

/-- HBIND (07 R139). -/
def execHbind (b a : Src) (d : Code) (s : State) : Outcome State Fault Refusal :=
  runM (do
    let i := Instr.hbind b a d
    handleGate i
    whole do
      let av ← readSrc a
      let bv ← readSrc b
      let t ← readT id
      require ((t.h[d.toNat - 32]!).role == .unbound) .illop (imageOf i)
      require (fieldOf bv 17 47 == 0) .illop (imageOf i)
      let (key, loc) ← findObjectAs (refOf av) av
      let s ← get
      let o := s.obj key
      let core := s.t.coreid
      let part := s.partNo core
      require (o.kind == Obj.ring) .illop (imageOf i)
      require (s.ringLegal core part loc o) .illop (imageOf i)
      let producer := flagOf bv 16
      require (o.flags &&& roleBit producer == 0) .illop (imageOf i)
      let need := max 1 (fieldOf bv 0 16)
      require (need ≤ o.expected) .illop (imageOf i)
      let duty := ringDuty producer
      let os := s.table core
      if tableFull os loc duty then trapNow .obfull (refOf av)
      let ref := word (loc % 2 ^ 33)
      modS fun s => (s.setObj core key { o with flags := o.flags ||| roleBit producer }).setTable core
        (s.addDuty part os ⟨loc, duty, 1, 0, 0, false, false, false⟩)
      let h : Handle := ⟨ref, BitVec.ofNat 16 need, 0, if producer then .producer else .consumer⟩
      modT fun t => { t with h := t.h.set! (d.toNat - 32) h, badRegs := setDrop t.badRegs (48 + d.toNat) }
      retire i) s

/-- HADVC and HADVP (07 R141). -/
def advance (i : Instr) (d : Code) (producer : Bool) : M Unit := do
  handleGate i
  whole do
    let t ← readT id
    let h := t.h[d.toNat - 32]!
    require (h.role == (if producer then .producer else .consumer)) .illop (imageOf i)
    let (key, loc) ← handleRing h
    let s ← get
    let o := s.obj key
    require (if producer then o.arrived < o.expected else o.arrived != 0) .unowed h.ref
    release
    modS fun s => s.ownAdvance key loc producer
    modT fun t => { t with h := vecMod t.h (d.toNat - 32) fun h => { h with cursor := 0 } }
    retire i

/-- HADVC (07 R141). -/
def execHadvc (d : Code) (s : State) : Outcome State Fault Refusal := runM (advance (.hadvc d) d false) s
/-- HADVP (07 R141). -/
def execHadvp (d : Code) (s : State) : Outcome State Fault Refusal := runM (advance (.hadvp d) d true) s

def Role.bits : Role → Nat
  | .unbound => 0 | .consumer => 1 | .producer => 2

/-- HSTAT (07 R141). -/
def execHstat (a d : Code) (s : State) : Outcome State Fault Refusal :=
  runM (do
    let i := Instr.hstat a d
    handleGate i
    whole do
      let h ← boundHandle i a
      let (key, _) ← handleRing h
      arrived key
      let o ← readS fun s => s.obj key
      writeD d (word (h.cursor.toNat + 2 ^ 16 * (o.arrived % 256) + 2 ^ 24 * (o.expected % 256) + 2 ^ 32 * o.producerIndex +
        2 ^ 40 * o.consumerIndex + 2 ^ 48 * h.role.bits))
      retire i) s

/-- Whether a handle has a live subscription (10 R212). -/
def State.subscribed (s : State) (core : Nat) (h : Handle) : Option Subscription :=
  s.subs.find? fun x => x.loc == locOf core h.ref && x.part == s.partNo core && x.loader == (h.role == .consumer)

/-- HUNBIND (07 R141, 10 R212). -/
def execHunbind (d : Code) (s : State) : Outcome State Fault Refusal :=
  runM (do
    let i := Instr.hunbind d
    handleGate i
    whole do
      let h ← boundHandle i d
      if (← readS fun s => s.subscribed s.t.coreid h).isSome then trapNow .illop (imageOf i)
      let (key, loc) ← handleRing h
      let s ← get
      let o := s.obj key
      let producer := h.role == .producer
      require (h.cursor == 0 && (producer || o.arrived == 0)) .exitowe h.ref
      modS fun s => (s.setObj s.t.coreid key { o with flags := o.flags - (o.flags &&& roleBit producer) }).setTable s.t.coreid
        (s.endDuty (s.partNo s.t.coreid) (s.table s.t.coreid) loc (ringDuty producer))
      modT fun t => { t with h := t.h.set! (d.toNat - 32) Handle.none }
      retire i) s

end Sys2Proof.Machine
end

