-- ==== Sys2Proof/Machine/Stream.lean ====
section
/-! DEFINITION. TAG and STRM: majors 37 and 36, and the Cobbler loader and storer (10 R209 to R212). -/

namespace Sys2Proof.Machine

open Host (Outcome)

/-! Tags (10 R209). -/

/-- The tags of a thread for which some copy is pending. -/
def State.tagsPending (s : State) (core : Nat) : Nat :=
  (s.copies.filter fun c => c.core == core && c.slice == (s.ctx core).sliceid && fieldOf c.cref 62 2 == 0).foldl
    (fun x c => x ||| 2 ^ fieldOf c.cref 0 6) 0

/-- A wait member: its checks, its wait, and the tags found. -/
def tagWait (i : Instr) (a : Src) (all : Bool) : M (Word × Word) := do
  gate i
  let m ← readSrc a
  notInTransfer i
  let s ← get
  let t := s.t
  let known := t.tagrdy ||| word (s.tagsPending t.coreid)
  require (if all then m &&& ~~~known == 0 else m &&& known != 0) .illop m
  let found := t.tagrdy &&& m
  if (if all then found == m else found != 0) then
    acquire
    pure (found, m)
  else
    require ((s.table t.coreid).all fun o => t.tagrank.toNat < s.obligRank (s.partNo t.coreid) o) .rankv (t.tagrank.setWidth 64)
    waitOn .tag

/-- TAGWANY (10 R209). -/
def execTagwany (a : Src) (d : Code) (s : State) : Outcome State Fault Refusal :=
  runM (do
    let (f, _) ← tagWait (.tagwany a d) a false
    writeD d f
    retire (.tagwany a d)) s

/-- TAGWALL (10 R209). -/
def execTagwall (a : Src) (d : Code) (s : State) : Outcome State Fault Refusal :=
  runM (do
    let (f, _) ← tagWait (.tagwall a d) a true
    writeD d f
    retire (.tagwall a d)) s

/-- TAGFF: the lowest tag found is cleared (10 R209). -/
def execTagff (a : Src) (d : Code) (s : State) : Outcome State Fault Refusal :=
  runM (do
    let (f, _) ← tagWait (.tagff a d) a false
    let n := (lowestBit 64 0 f.toNat).getD 0
    modT fun t => { t with tagrdy := t.tagrdy &&& ~~~(word (2 ^ n)) }
    writeD d (word n)
    retire (.tagff a d)) s

/-- TAGCLR (10 R209). -/
def execTagclr (a : Src) (s : State) : Outcome State Fault Refusal :=
  runM (do
    gate (.tagclr a)
    let m ← readSrc a
    modT fun t => { t with tagrdy := t.tagrdy &&& ~~~m }
    retire (.tagclr a)) s

/-- TAGRD (10 R209). -/
def execTagrd (d : Code) (s : State) : Outcome State Fault Refusal :=
  runM (do
    gate (.tagrd d)
    let v ← readT fun t => t.tagrdy
    writeD d v
    retire (.tagrd d)) s

/-! Subscriptions (10 R210 to R212). -/

/-- The elements of a stream. -/
def streamLength (r : Nat) : Nat := shapeExt r 0 * shapeExt r 1 * shapeExt r 2 * shapeExt r 3

/-- The address of a stream's element `n` in shape order. -/
def streamAddr (r n : Nat) : Word :=
  let z := typeBits (shapeType r) / 8
  let e0 := shapeExt r 0
  let e1 := shapeExt r 1
  let e2 := shapeExt r 2
  shapeBase r + ofInt (shapeOffset r z z (n % e0) (n / e0 % e1) (n / (e0 * e1) % e2) (n / (e0 * e1 * e2)))

/-- A subscription's record changed. -/
def State.modSub (s : State) (x : Subscription) (f : Subscription → Subscription) : State :=
  { s with subs := s.subs.map fun y => if y.loc = x.loc && y.part = x.part && y.loader = x.loader then f y else y }

/-- The agent that a stream's writes count for: the thread that subscribed, whose superstep logs them, unless the stream began
before that superstep (22 R356). -/
def Subscription.agent (x : Subscription) : Nat := if x.early then engineAgent else x.core

/-- A subscription's engine ends its duty and clears its role bit. -/
def State.endSub (s : State) (x : Subscription) : State :=
  let s1 := { s with subs := s.subs.filter fun y => !(y.loc == x.loc && y.part == x.part && y.loader == x.loader) }
  match s1.locKey x.part x.loc with
  | none => s1
  | some key =>
    let o := s1.obj key
    s1.setObj x.agent key { o with flags := o.flags - (o.flags &&& roleBit x.loader) }

/-- The next slot of a subscription's engine, after what stands in the agenda. -/
def State.nextSlot (s : State) (x : Subscription) : State :=
  s.push (if x.loader then .loaderSlotFill else .storerSlotDrain) { x := x.part, y := x.loc }

/-- SUBSCR (10 R210). -/
def execSubscr (a d : Code) (s : State) : Outcome State Fault Refusal :=
  runM (do
    let i := Instr.subscr a d
    handleGate i
    whole do
      let t ← readT id
      let h := t.h[d.toNat - 32]!
      require (h.role != .unbound) .illop h.ref
      if (← readS fun s => s.subscribed s.t.coreid h).isSome then trapNow .illop h.ref
      let r := t.shape a.toNat
      require (shapeType r < 13) .illop h.ref
      let (key, loc) ← handleRing h
      let s ← get
      let o := s.obj key
      let loader := h.role == .consumer
      require (o.flags &&& roleBit loader == 0) .illop h.ref
      require (classOf (shapeBase r) == .global) .accv (shapeBase r)
      release
      let x : Subscription := {
        loc := loc, loader := loader, shape := BitVec.ofNat 256 r, part := s.partNo s.t.coreid
        cluster := clusterOf s.t.coreid, done := 0, faulted := false, ending := false, early := false, core := s.t.coreid }
      if streamLength r = 0 then pure ()
      else modS fun s => ({ s.setObj s.t.coreid key { o with flags := o.flags ||| roleBit loader } with subs := s.subs ++ [x] }).nextSlot x
      retire i) s

/-- UNSUB asks the engine to end, and returns when it has (10 R212). -/
def execUnsub (d : Code) (s : State) : Outcome State Fault Refusal :=
  runM (do
    let i := Instr.unsub d
    handleGate i
    let t ← readT id
    let h := t.h[d.toNat - 32]!
    match ← readS fun s => s.subscribed s.t.coreid h, t.mode with
    | none, .waiting .unsub =>
      acquire
      retire i
    | none, _ => trapNow .illop (imageOf i)
    | some x, _ =>
      require (h.role != .unbound) .illop (imageOf i)
      release
      modS fun s => s.modSub x fun y => { y with ending := true }
      waitOn .unsub) s

/-- The Cobbler that serves a stream: that of the stack which holds the base. -/
def State.streamStack (s : State) (x : Subscription) : Nat :=
  match s.walk x.part (shapeBase x.shape.toNat).toNat with
  | .leaf pte lvl _ => stackOf (leafPa pte lvl (shapeBase x.shape.toNat).toNat)
  | _ => 0

/-- A faulting element: CFAULT in the ring's status, and an entry in the Cobbler's error log (10 R211, 22 R353). -/
def State.streamFault (s : State) (x : Subscription) (key : Nat) (c : Cause) (va : Word) : State :=
  let o := s.obj key
  (s.setObj x.agent key { o with status := o.status ||| cfault }).logError x.part
    { addr := va.toNat, location := cobblerLocation (s.streamStack x), kind := 7, cause := c.code, detailB := cfault, detailC := x.loc }

/-- An element's place for a stream. -/
def State.streamFind (s : State) (x : Subscription) (n : Nat) (acc : Acc) : State × Except Cause Nat :=
  let va := streamAddr x.shape.toNat n
  let z := typeBits (shapeType x.shape.toNat) / 8
  if va.toNat % z != 0 then (s, .error .align) else
  match s.engineFind x.core x.part .die va z acc with
  | (s1, .ok k) => if acc.r && s1.poisoned k z then (s1, .error .poison) else (s1, .ok k)
  | (s1, .error c) => (s1, .error c)

/-- The bytes of `m` elements from element `n` on; the first fault ends it. -/
def State.loadElems (x : Subscription) : Nat → Nat → State → State × List Byte × Option (Cause × Word)
  | 0, _, s => (s, [], none)
  | m + 1, n, s =>
    match s.streamFind x n Acc.engineLoad with
    | (s1, .error c) => (s1, [], some (c, streamAddr x.shape.toNat n))
    | (s1, .ok k) =>
      let (s2, bs, f) := State.loadElems x m (n + 1) s1
      (s2, s1.mem.readBytes k (typeBits (shapeType x.shape.toNat) / 8) ++ bs, f)

/-- `m` elements from element `n` on written from a slot's bytes at `key`; the first fault ends it. -/
def State.storeElems (x : Subscription) : Nat → Nat → Nat → State → State × Option (Cause × Word)
  | 0, _, _, s => (s, none)
  | m + 1, n, key, s =>
    let z := typeBits (shapeType x.shape.toNat) / 8
    match s.streamFind x n Acc.engineStore with
    | (s1, .error c) => (s1, some (c, streamAddr x.shape.toNat n))
    | (s1, .ok k) =>
      let bs := s1.mem.readBytes key z
      let s2 := if s1.poisoned key z then (s1.writeFor x.agent k bs).poison k z else s1.writeFor x.agent k bs
      State.storeElems x m (n + 1) (key + z) s2

/-- The subscription that an event's operands name: partition `x`, location `y`. -/
def State.eventSub (s : State) (loader : Bool) : Option Subscription :=
  s.subs.find? fun x => x.part == s.arg.x && x.loc == s.arg.y && x.loader == loader

/-- A loader fills the next slot of its ring, or waits for a free one, or ends (10 R211, R212). -/
def execLoaderSlotFill (s : State) : Outcome State Fault Refusal :=
  runM (do
    let s ← get
    match s.eventSub true with
    | none => pure ()
    | some x =>
      match s.locKey x.part x.loc with
      | none => modS fun s => s.endSub x
      | some key =>
        let o := s.obj key
        if x.ending || o.kind != Obj.ring || o.broken then modS fun s => s.endSub x
        else
          let slot := padBase + o.basePad x.loc + o.producerIndex * o.slotSize
          if s.padHeld engineAgent key || s.padHeld engineAgent slot || o.expected ≤ o.arrived then notYet .loaderSlotFill
          let z := typeBits (shapeType x.shape.toNat) / 8
          let total := streamLength x.shape.toNat
          let m := min (o.slotSize / z) (total - x.done)
          modS fun s =>
            let (s1, bs, f) := if x.faulted then (s, [], none) else State.loadElems x m x.done s
            let s2 := match f with | some (c, va) => s1.streamFault x key c va | none => s1
            let bad := x.faulted || f.isSome
            let s3 := s2.writeFor x.agent slot (padTo o.slotSize (if bad then [] else bs))
            let s4 := if bad then s3.poison slot o.slotSize else s3
            let s5 := (s4.ringStep x.agent key true).modSub x fun y => { y with done := x.done + m, faulted := bad }
            if total ≤ x.done + m then s5.endSub x else s5.nextSlot x) s

/-- A storer drains the next slot of its ring, or waits for a filled one, or ends (10 R211, R212). -/
def execStorerSlotDrain (s : State) : Outcome State Fault Refusal :=
  runM (do
    let s ← get
    match s.eventSub false with
    | none => pure ()
    | some x =>
      match s.locKey x.part x.loc with
      | none => modS fun s => s.endSub x
      | some key =>
        let o := s.obj key
        if (x.ending && o.arrived = 0) || o.kind != Obj.ring || o.broken then modS fun s => s.endSub x
        else
          let slot := padBase + o.basePad x.loc + o.consumerIndex * o.slotSize
          if s.padHeld engineAgent key || s.padHeld engineAgent slot || o.arrived = 0 then notYet .storerSlotDrain
          let z := typeBits (shapeType x.shape.toNat) / 8
          let total := streamLength x.shape.toNat
          let m := min (o.slotSize / z) (total - x.done)
          modS fun s =>
            let (s1, f) := State.storeElems x m x.done slot s
            let s2 := match f with | some (c, va) => s1.streamFault x key c va | none => s1
            let s3 := (s2.ringStep x.agent key false).modSub x fun y => { y with done := x.done + m }
            if total ≤ x.done + m then s3.endSub x else s3.nextSlot x) s

end Sys2Proof.Machine
end

