-- ==== Sys2Proof/Machine/System.lean ====
section
/-! DEFINITION. SYS and CSR: majors 12 and 13, and the three events of registers (02 R19 to R21, 05 R80 to R86, 06 R93,
R95, 20 R330). -/

namespace Sys2Proof.Machine

open Host (Outcome)

/-- NOP (05 R80). -/
def execNop (s : State) : Outcome State Fault Refusal :=
  runM (do
    gate .nop
    retire .nop) s

/-- The instruction completes, with end processing, and then traps with A (05 R80). -/
def trapAfter (i : Instr) (a : Src) (c : Cause) : M Unit := do
  gate i
  let x ← readSrc a
  modS fun s => s.complete i.len 0 0
  trapAs c x .after

/-- TRAP (05 R80). -/
def execTrap (a : Src) (s : State) : Outcome State Fault Refusal := runM (trapAfter (.trap a) a .trapi) s
/-- SVC (05 R80). -/
def execSvc (a : Src) (s : State) : Outcome State Fault Refusal := runM (trapAfter (.svc a) a .svc) s

/-- The gang of a member whose handler returns runs again (11 R221). -/
def State.reform (s : State) : State :=
  match s.gangOf s.t.coreid with
  | some (id, g, _) => if g.formed && g.stopped then { s with gangs := s.gangs.put id { g with stopped := false, runner := none } } else s
  | none => s

/-- Whether ERET of a member's handler returns to the member's instruction (11 R221). -/
def State.eretFits (s : State) : Bool :=
  match s.gangOf s.t.coreid with
  | some (_, g, p) => !(g.formed && g.stopped) || s.t.tpc == g.pcOf p
  | none => true

/-- ERET (05 R82, 20 R330): the trap in progress ends, the pc is `tpc`, an incomplete staging is resumed, a gang re-forms.
An arrival watch that is due is taken once it has completed (23 R369). It takes no STEP (log entry 45). -/
def execEret (s : State) : Outcome State Fault Refusal :=
  runM (do
    gate .eret
    let s0 ← get
    require (flagOf s0.t.tstat 0) .illop (imageOf .eret)
    require s0.eretFits .illop (imageOf .eret)
    modT Ctx.leave
    modS State.reform
    if flagOf s0.t.tstat 1 then modS State.stageRest
    match ← readT fun t => t.arriveDue with
    | some a => trapAs .watch a .after
    | none => pure ()) s

/-- IFENCE (05 R83): fetches read the memory's latest bytes, and no fetched instruction is kept. -/
def execIfence (s : State) : Outcome State Fault Refusal :=
  runM (do
    gate .ifence
    retire .ifence) s

/-- BRKPT (05 R80). -/
def execBrkpt (s : State) : Outcome State Fault Refusal :=
  runM (do
    gate .brkpt
    trapNow .brkpt 0) s

/-- A HALT's stop: of its cluster, or of its own slice where a thread of the cluster is frozen already (23 R370, R373). -/
def State.haltStop (s : State) (core : Nat) : State :=
  let cl := clusterOf core
  if s.clusterFrozen cl then
    { s with agenda := .event .clusterStop { x := cl, y := Cause.brkpt.code, z := core, nums := [core] } :: s.agenda }
  else s.triggerStop cl Cause.brkpt.code core

/-- HALT (05 R81, 23 R373): with HEN it completes and stops its cluster, otherwise it is a breakpoint with `tval` 1. -/
def execHalt (s : State) : Outcome State Fault Refusal :=
  runM (do
    gate .halt
    let t ← readT id
    require (bitOf t.stepctl.toNat 0) .brkpt 1
    modS fun s => (s.complete 4 0 0).haltStop s.t.coreid
    afterInstr) s

/-- CSRR (05 R85). A follower that reads a loop register obtains what the leader read (02 R16). -/
def execCsrr (c : BitVec 11) (d : Code) (s : State) : Outcome State Fault Refusal :=
  runM (do
    let i := Instr.csrr c d
    gate i
    let s0 ← get
    let v := match s0.leaderEntry with
      | some e => if isLoopCsr c.toNat then e.dval else s0.csr c.toNat
      | none => s0.csr c.toNat
    writeD d v
    let handed := if isLoopCsr c.toNat then v else 0
    retireWith i handed handed) s

/-- CSRW, CSRS and CSRC (05 R85): the checks of 02 R20 from check 4 on, then the write and the old value in one step. Of a shared
register that has been written in this cycle, d receives the value from before the cycle's writes, and CSRS and CSRC change the
one that these have left (02 R21; log entry 6). -/
def csrChange (i : Instr) (c : BitVec 11) (a : Src) (d : Code) (f : Word → Word → Word) : M Unit := do
  gate i
  let x ← readSrc a
  let s0 ← get
  if isLoopCsr c.toNat && s0.follower s0.t.coreid then trapOpen .gang
  let old := s0.csr c.toNat
  let new := f (s0.csrNow c.toNat) x
  require (s0.csrLegal c.toNat new) .illop (imageOf i)
  modS fun s => s.csrStore c.toNat new
  modT fun t => { t with badRegs := setDrop t.badRegs (128 + c.toNat) }
  writeD d old
  retire i

/-- CSRW (05 R85). -/
def execCsrw (c : BitVec 11) (a : Src) (d : Code) (s : State) : Outcome State Fault Refusal :=
  runM (csrChange (.csrw c a d) c a d fun _ x => x) s
/-- CSRS (05 R85). -/
def execCsrs (c : BitVec 11) (a : Src) (d : Code) (s : State) : Outcome State Fault Refusal :=
  runM (csrChange (.csrs c a d) c a d fun o x => o ||| x) s
/-- CSRC (05 R85). -/
def execCsrc (c : BitVec 11) (a : Src) (d : Code) (s : State) : Outcome State Fault Refusal :=
  runM (csrChange (.csrc c a d) c a d fun o x => o &&& ~~~x) s

/-- A register of context `x`, number `y`, takes the value `v`: the checks of 02 R20, then the store. A write that a check
refuses leaves the register as it was. -/
def execRegisterWrite (s : State) : Outcome State Fault Refusal :=
  runM (event fun s =>
    let n := s.arg.y
    let v := s.arg.v
    s.asCtx s.arg.x fun s =>
      let allowed := match csrInfo n with
        | some (.rw, _) => true
        | some (.sv, _) => s.isSup s.t.coreid
        | _ => false
      if csrOn s.t.kind n && allowed && s.csrLegal n v then s.csrStore n v else s) s

/-- The pad of core `x` takes the split `y`, where 06 R93 allows it. -/
def execPadcfgChange (s : State) : Outcome State Fault Refusal :=
  runM (event fun s => if s.padcfgLegal s.arg.x s.arg.y then s.changePadcfg s.arg.x s.arg.y else s) s

/-- Core `x` takes the victim-pool mask `y`, where 06 R95 allows it. -/
def execVicgrpChange (s : State) : Outcome State Fault Refusal :=
  runM (event fun s =>
    if s.arg.y < 256 && (s.arg.y == 0 || bitOf s.arg.y (laneOf s.arg.x)) then s.changeVicgrp s.arg.x (BitVec.ofNat 8 s.arg.y)
    else s) s

end Sys2Proof.Machine
end

