-- ==== Sys2Proof/Machine/Dispatch.lean ====
section
/-! DEFINITION. What each instruction does: one arm for each constructor of `Instr`. -/

namespace Sys2Proof.Machine

def exec (i : Instr) (s : State) : Host.Outcome State Fault Refusal :=
  match i with
  | .add w b a d => Sys2Proof.Machine.execAdd w b a d s
  | .sub w b a d => Sys2Proof.Machine.execSub w b a d s
  | .and w b a d => Sys2Proof.Machine.execAnd w b a d s
  | .or w b a d => Sys2Proof.Machine.execOr w b a d s
  | .xor w b a d => Sys2Proof.Machine.execXor w b a d s
  | .andn w b a d => Sys2Proof.Machine.execAndn w b a d s
  | .orn w b a d => Sys2Proof.Machine.execOrn w b a d s
  | .shl w b a d => Sys2Proof.Machine.execShl w b a d s
  | .shr w b a d => Sys2Proof.Machine.execShr w b a d s
  | .sra w b a d => Sys2Proof.Machine.execSra w b a d s
  | .rol w b a d => Sys2Proof.Machine.execRol w b a d s
  | .ror w b a d => Sys2Proof.Machine.execRor w b a d s
  | .mul w b a d => Sys2Proof.Machine.execMul w b a d s
  | .mulh w b a d => Sys2Proof.Machine.execMulh w b a d s
  | .mulhn w b a d => Sys2Proof.Machine.execMulhn w b a d s
  | .div w b a d => Sys2Proof.Machine.execDiv w b a d s
  | .divn w b a d => Sys2Proof.Machine.execDivn w b a d s
  | .rem w b a d => Sys2Proof.Machine.execRem w b a d s
  | .remn w b a d => Sys2Proof.Machine.execRemn w b a d s
  | .min w b a d => Sys2Proof.Machine.execMin w b a d s
  | .max w b a d => Sys2Proof.Machine.execMax w b a d s
  | .minn w b a d => Sys2Proof.Machine.execMinn w b a d s
  | .maxn w b a d => Sys2Proof.Machine.execMaxn w b a d s
  | .slt w b a d => Sys2Proof.Machine.execSlt w b a d s
  | .sltn w b a d => Sys2Proof.Machine.execSltn w b a d s
  | .seq w b a d => Sys2Proof.Machine.execSeq w b a d s
  | .sne w b a d => Sys2Proof.Machine.execSne w b a d s
  | .sel w b a d => Sys2Proof.Machine.execSel w b a d s
  | .clz w a d => Sys2Proof.Machine.execClz w a d s
  | .ctz w a d => Sys2Proof.Machine.execCtz w a d s
  | .popc w a d => Sys2Proof.Machine.execPopc w a d s
  | .brev w a d => Sys2Proof.Machine.execBrev w a d s
  | .bswap w a d => Sys2Proof.Machine.execBswap w a d s
  | .addi imm a d => Sys2Proof.Machine.execAddi imm a d s
  | .lea sc b a d => Sys2Proof.Machine.execLea sc b a d s
  | .bfx b a d => Sys2Proof.Machine.execBfx b a d s
  | .bfxz b a d => Sys2Proof.Machine.execBfxz b a d s
  | .bfi b a d => Sys2Proof.Machine.execBfi b a d s
  | .cmp c b a k => Sys2Proof.Machine.execCmp c b a k s
  | .kand b a d => Sys2Proof.Machine.execKand b a d s
  | .kor b a d => Sys2Proof.Machine.execKor b a d s
  | .kxor b a d => Sys2Proof.Machine.execKxor b a d s
  | .knot a d => Sys2Proof.Machine.execKnot a d s
  | .kmov a d => Sys2Proof.Machine.execKmov a d s
  | .bt off k => Sys2Proof.Machine.execBt off k s
  | .bf off k => Sys2Proof.Machine.execBf off k s
  | .j off => Sys2Proof.Machine.execJ off s
  | .jal off => Sys2Proof.Machine.execJal off s
  | .jr a => Sys2Proof.Machine.execJr a s
  | .jalr a d => Sys2Proof.Machine.execJalr a d s
  | .ret => Sys2Proof.Machine.execRet s
  | .loop imm a l => Sys2Proof.Machine.execLoop imm a l s
  | .lbrk l => Sys2Proof.Machine.execLbrk l s
  | .lnext l => Sys2Proof.Machine.execLnext l s
  | .rep sb sa sd c => Sys2Proof.Machine.execRep sb sa sd c s
  | .nop => Sys2Proof.Machine.execNop s
  | .trap a => Sys2Proof.Machine.execTrap a s
  | .svc a => Sys2Proof.Machine.execSvc a s
  | .eret => Sys2Proof.Machine.execEret s
  | .ifence => Sys2Proof.Machine.execIfence s
  | .brkpt => Sys2Proof.Machine.execBrkpt s
  | .halt => Sys2Proof.Machine.execHalt s
  | .csrr c d => Sys2Proof.Machine.execCsrr c d s
  | .csrw c a d => Sys2Proof.Machine.execCsrw c a d s
  | .csrs c a d => Sys2Proof.Machine.execCsrs c a d s
  | .csrc c a d => Sys2Proof.Machine.execCsrc c a d s
  | .ld imm f a d => Sys2Proof.Machine.execLd imm f a d s
  | .lda imm f a d => Sys2Proof.Machine.execLda imm f a d s
  | .st imm f a d => Sys2Proof.Machine.execSt imm f a d s
  | .stl imm f a d => Sys2Proof.Machine.execStl imm f a d s
  | .amoAdd sz q r b a d => Sys2Proof.Machine.execAmoAdd sz q r b a d s
  | .amoAnd sz q r b a d => Sys2Proof.Machine.execAmoAnd sz q r b a d s
  | .amoOr sz q r b a d => Sys2Proof.Machine.execAmoOr sz q r b a d s
  | .amoXor sz q r b a d => Sys2Proof.Machine.execAmoXor sz q r b a d s
  | .amoMin sz q r b a d => Sys2Proof.Machine.execAmoMin sz q r b a d s
  | .amoMax sz q r b a d => Sys2Proof.Machine.execAmoMax sz q r b a d s
  | .amoMinn sz q r b a d => Sys2Proof.Machine.execAmoMinn sz q r b a d s
  | .amoMaxn sz q r b a d => Sys2Proof.Machine.execAmoMaxn sz q r b a d s
  | .amoSwap sz q r b a d => Sys2Proof.Machine.execAmoSwap sz q r b a d s
  | .amoCas sz q r b a d => Sys2Proof.Machine.execAmoCas sz q r b a d s
  | .amoFadd q r b a d => Sys2Proof.Machine.execAmoFadd q r b a d s
  | .amoBfadd2 q r b a d => Sys2Proof.Machine.execAmoBfadd2 q r b a d s
  | .ldx sz c e a d => Sys2Proof.Machine.execLdx sz c e a d s
  | .stx sz c e a d => Sys2Proof.Machine.execStx sz c e a d s
  | .acq => Sys2Proof.Machine.execAcq s
  | .rel => Sys2Proof.Machine.execRel s
  | .fence => Sys2Proof.Machine.execFence s
  | .cVadd vs vd => Sys2Proof.Machine.execCVadd vs vd s
  | .cVsub vs vd => Sys2Proof.Machine.execCVsub vs vd s
  | .cVmul vs vd => Sys2Proof.Machine.execCVmul vs vd s
  | .cVmac vs vd => Sys2Proof.Machine.execCVmac vs vd s
  | .cVmin vs vd => Sys2Proof.Machine.execCVmin vs vd s
  | .cVmax vs vd => Sys2Proof.Machine.execCVmax vs vd s
  | .cVand vs vd => Sys2Proof.Machine.execCVand vs vd s
  | .cVor vs vd => Sys2Proof.Machine.execCVor vs vd s
  | .cVxor vs vd => Sys2Proof.Machine.execCVxor vs vd s
  | .cVshl vs vd => Sys2Proof.Machine.execCVshl vs vd s
  | .cVshr vs vd => Sys2Proof.Machine.execCVshr vs vd s
  | .cVsra vs vd => Sys2Proof.Machine.execCVsra vs vd s
  | .cVmov vs vd => Sys2Proof.Machine.execCVmov vs vd s
  | .cVneg vs vd => Sys2Proof.Machine.execCVneg vs vd s
  | .cVabs vs vd => Sys2Proof.Machine.execCVabs vs vd s
  | .cVzero vd => Sys2Proof.Machine.execCVzero vd s
  | .vadd q b a d => Sys2Proof.Machine.execVadd q b a d s
  | .vsub q b a d => Sys2Proof.Machine.execVsub q b a d s
  | .vmul q b a d => Sys2Proof.Machine.execVmul q b a d s
  | .vfma q b a d => Sys2Proof.Machine.execVfma q b a d s
  | .vfms q b a d => Sys2Proof.Machine.execVfms q b a d s
  | .vnfma q b a d => Sys2Proof.Machine.execVnfma q b a d s
  | .vmin q b a d => Sys2Proof.Machine.execVmin q b a d s
  | .vmax q b a d => Sys2Proof.Machine.execVmax q b a d s
  | .vabs q a d => Sys2Proof.Machine.execVabs q a d s
  | .vneg q a d => Sys2Proof.Machine.execVneg q a d s
  | .vand q b a d => Sys2Proof.Machine.execVand q b a d s
  | .vor q b a d => Sys2Proof.Machine.execVor q b a d s
  | .vxor q b a d => Sys2Proof.Machine.execVxor q b a d s
  | .vshl q b a d => Sys2Proof.Machine.execVshl q b a d s
  | .vshr q b a d => Sys2Proof.Machine.execVshr q b a d s
  | .vsra q b a d => Sys2Proof.Machine.execVsra q b a d s
  | .vcmp c b a k => Sys2Proof.Machine.execVcmp c b a k s
  | .vsel k b a d => Sys2Proof.Machine.execVsel k b a d s
  | .vmov q a d => Sys2Proof.Machine.execVmov q a d s
  | .vbcast a d => Sys2Proof.Machine.execVbcast a d s
  | .vext b a d => Sys2Proof.Machine.execVext b a d s
  | .vins b a d => Sys2Proof.Machine.execVins b a d s
  | .vperm b a d => Sys2Proof.Machine.execVperm b a d s
  | .vslide b a d => Sys2Proof.Machine.execVslide b a d s
  | .vmulh q b a d => Sys2Proof.Machine.execVmulh q b a d s
  | .vclz q a d => Sys2Proof.Machine.execVclz q a d s
  | .vpopc q a d => Sys2Proof.Machine.execVpopc q a d s
  | .vadds q b a d => Sys2Proof.Machine.execVadds q b a d s
  | .vsubs q b a d => Sys2Proof.Machine.execVsubs q b a d s
  | .vcvt q t a d => Sys2Proof.Machine.execVcvt q t a d s
  | .vqnt q b a d => Sys2Proof.Machine.execVqnt q b a d s
  | .vdq q b a d => Sys2Proof.Machine.execVdq q b a d s
  | .vrndi q a d => Sys2Proof.Machine.execVrndi q a d s
  | .vscale q b a d => Sys2Proof.Machine.execVscale q b a d s
  | .vgetexp q a d => Sys2Proof.Machine.execVgetexp q a d s
  | .vexp2 q a d => Sys2Proof.Machine.execVexp2 q a d s
  | .vlog2 q a d => Sys2Proof.Machine.execVlog2 q a d s
  | .vrcp q a d => Sys2Proof.Machine.execVrcp q a d s
  | .vrsq q a d => Sys2Proof.Machine.execVrsq q a d s
  | .vsqrt q a d => Sys2Proof.Machine.execVsqrt q a d s
  | .vsinpi q a d => Sys2Proof.Machine.execVsinpi q a d s
  | .vcospi q a d => Sys2Proof.Machine.execVcospi q a d s
  | .vredsum a d => Sys2Proof.Machine.execVredsum a d s
  | .vredmax a d => Sys2Proof.Machine.execVredmax a d s
  | .vredmin a d => Sys2Proof.Machine.execVredmin a d s
  | .vredamax a d => Sys2Proof.Machine.execVredamax a d s
  | .vrowmax a d => Sys2Proof.Machine.execVrowmax a d s
  | .vxadd b a => Sys2Proof.Machine.execVxadd b a s
  | .vxrd a d => Sys2Proof.Machine.execVxrd a d s
  | .vxclr a => Sys2Proof.Machine.execVxclr a s
  | .vld b a d => Sys2Proof.Machine.execVld b a d s
  | .vst b a d => Sys2Proof.Machine.execVst b a d s
  | .vgath b a d => Sys2Proof.Machine.execVgath b a d s
  | .vscat b a d => Sys2Proof.Machine.execVscat b a d s
  | .vldb b a d => Sys2Proof.Machine.execVldb b a d s
  | .shpld q a => Sys2Proof.Machine.execShpld q a s
  | .shpst q a => Sys2Proof.Machine.execShpst q a s
  | .hbind b a d => Sys2Proof.Machine.execHbind b a d s
  | .hadvc d => Sys2Proof.Machine.execHadvc d s
  | .hadvp d => Sys2Proof.Machine.execHadvp d s
  | .hstat a d => Sys2Proof.Machine.execHstat a d s
  | .hunbind d => Sys2Proof.Machine.execHunbind d s
  | .mma z n ta tb w x y => Sys2Proof.Machine.execMma z n ta tb w x y s
  | .mmas p ta tb q w x y => Sys2Proof.Machine.execMmas p ta tb q w x y s
  | .mmaq z n ta tb w x y => Sys2Proof.Machine.execMmaq z n ta tb w x y s
  | .tld t a y x => Sys2Proof.Machine.execTld t a y x s
  | .tzero t y => Sys2Proof.Machine.execTzero t y s
  | .acz a y => Sys2Proof.Machine.execAcz a y s
  | .acrd a y x => Sys2Proof.Machine.execAcrd a y x s
  | .acwr a y x => Sys2Proof.Machine.execAcwr a y x s
  | .jpoll a x => Sys2Proof.Machine.execJpoll a x s
  | .jwait a => Sys2Proof.Machine.execJwait a s
  | .cxrd a d => Sys2Proof.Machine.execCxrd a d s
  | .burst b a d => Sys2Proof.Machine.execBurst b a d s
  | .cxdone a => Sys2Proof.Machine.execCxdone a s
  | .subscr a d => Sys2Proof.Machine.execSubscr a d s
  | .unsub d => Sys2Proof.Machine.execUnsub d s
  | .tagwany a d => Sys2Proof.Machine.execTagwany a d s
  | .tagwall a d => Sys2Proof.Machine.execTagwall a d s
  | .tagff a d => Sys2Proof.Machine.execTagff a d s
  | .tagclr a => Sys2Proof.Machine.execTagclr a s
  | .tagrd d => Sys2Proof.Machine.execTagrd d s
  | .obnew b a d => Sys2Proof.Machine.execObnew b a d s
  | .obdel a => Sys2Proof.Machine.execObdel a s
  | .arrive a => Sys2Proof.Machine.execArrive a s
  | .arriveLeave a => Sys2Proof.Machine.execArriveLeave a s
  | .arriveb b a => Sys2Proof.Machine.execArriveb b a s
  | .wait a d => Sys2Proof.Machine.execWait a d s
  | .signal b a => Sys2Proof.Machine.execSignal b a s
  | .lock a d => Sys2Proof.Machine.execLock a d s
  | .unlock a => Sys2Proof.Machine.execUnlock a s
  | .obxfer b a d => Sys2Proof.Machine.execObxfer b a d s
  | .obrd b a d => Sys2Proof.Machine.execObrd b a d s
  | .rankof a d => Sys2Proof.Machine.execRankof a d s
  | .spawn a d => Sys2Proof.Machine.execSpawn a d s
  | .exit => Sys2Proof.Machine.execExit s
  | .yield => Sys2Proof.Machine.execYield s
  | .msgsend a => Sys2Proof.Machine.execMsgsend a s
  | .ttarm a d => Sys2Proof.Machine.execTtarm a d s
  | .now d => Sys2Proof.Machine.execNow d s
  | .wstart a => Sys2Proof.Machine.execWstart a s
  | .wend => Sys2Proof.Machine.execWend s
  | .wpos d => Sys2Proof.Machine.execWpos d s
  | .sync a d => Sys2Proof.Machine.execSync a d s
  | .xmit b a => Sys2Proof.Machine.execXmit b a s
  | .xrecv b d => Sys2Proof.Machine.execXrecv b d s
  | .muxsel a => Sys2Proof.Machine.execMuxsel a s
  | .rst m sz b a d => Sys2Proof.Machine.execRst m sz b a d s
  | .ramoAdd sz b a => Sys2Proof.Machine.execRamoAdd sz b a s
  | .ramoAnd sz b a => Sys2Proof.Machine.execRamoAnd sz b a s
  | .ramoOr sz b a => Sys2Proof.Machine.execRamoOr sz b a s
  | .ramoXor sz b a => Sys2Proof.Machine.execRamoXor sz b a s
  | .ramoMin sz b a => Sys2Proof.Machine.execRamoMin sz b a s
  | .ramoMax sz b a => Sys2Proof.Machine.execRamoMax sz b a s
  | .ramoMinn sz b a => Sys2Proof.Machine.execRamoMinn sz b a s
  | .ramoMaxn sz b a => Sys2Proof.Machine.execRamoMaxn sz b a s
  | .ramoSwap sz b a => Sys2Proof.Machine.execRamoSwap sz b a s
  | .ramoCas sz b a d => Sys2Proof.Machine.execRamoCas sz b a d s
  | .ramoFadd b a => Sys2Proof.Machine.execRamoFadd b a s
  | .ramoBfadd2 b a => Sys2Proof.Machine.execRamoBfadd2 b a s
  | .sflush a => Sys2Proof.Machine.execSflush a s
  | .sflusha => Sys2Proof.Machine.execSflusha s
  | .fencef d => Sys2Proof.Machine.execFencef d s
  | .ferr d => Sys2Proof.Machine.execFerr d s
  | .pgcommit a d => Sys2Proof.Machine.execPgcommit a d s
  | .pgfree a d => Sys2Proof.Machine.execPgfree a d s
  | .tlbinv b a => Sys2Proof.Machine.execTlbinv b a s
  | .addrq a d => Sys2Proof.Machine.execAddrq a d s
  | .padcfgChange => Sys2Proof.Machine.execPadcfgChange s
  | .registerWrite => Sys2Proof.Machine.execRegisterWrite s
  | .feTimeout => Sys2Proof.Machine.execFeTimeout s
  | .feResend => Sys2Proof.Machine.execFeResend s
  | .remoteFeRequest => Sys2Proof.Machine.execRemoteFeRequest s
  | .matrixJobAdmission => Sys2Proof.Machine.execMatrixJobAdmission s
  | .matrixJobStart => Sys2Proof.Machine.execMatrixJobStart s
  | .matrixJobCompletion => Sys2Proof.Machine.execMatrixJobCompletion s
  | .kick => Sys2Proof.Machine.execKick s
  | .copyAccept => Sys2Proof.Machine.execCopyAccept s
  | .templateSlotWrite => Sys2Proof.Machine.execTemplateSlotWrite s
  | .copyStart => Sys2Proof.Machine.execCopyStart s
  | .burstAck => Sys2Proof.Machine.execBurstAck s
  | .copyCompletion => Sys2Proof.Machine.execCopyCompletion s
  | .loaderSlotFill => Sys2Proof.Machine.execLoaderSlotFill s
  | .storerSlotDrain => Sys2Proof.Machine.execStorerSlotDrain s
  | .waitResume => Sys2Proof.Machine.execWaitResume s
  | .armedEntryPush => Sys2Proof.Machine.execArmedEntryPush s
  | .gangSlot => Sys2Proof.Machine.execGangSlot s
  | .slotSend => Sys2Proof.Machine.execSlotSend s
  | .routerValueArrival => Sys2Proof.Machine.execRouterValueArrival s
  | .sachetAgeDeparture => Sys2Proof.Machine.execSachetAgeDeparture s
  | .elementApply => Sys2Proof.Machine.execElementApply s
  | .elementAckTimeout => Sys2Proof.Machine.execElementAckTimeout s
  | .elementStatus => Sys2Proof.Machine.execElementStatus s
  | .remoteNotice => Sys2Proof.Machine.execRemoteNotice s
  | .fabricInterfaceReset => Sys2Proof.Machine.execFabricInterfaceReset s
  | .linkFailureReset => Sys2Proof.Machine.execLinkFailureReset s
  | .linkRetrainComplete => Sys2Proof.Machine.execLinkRetrainComplete s
  | .collectiveResend => Sys2Proof.Machine.execCollectiveResend s
  | .cfgFormatRegion => Sys2Proof.Machine.execCfgFormatRegion s
  | .cfgQueue => Sys2Proof.Machine.execCfgQueue s
  | .cfgDomain => Sys2Proof.Machine.execCfgDomain s
  | .cfgPoolPages => Sys2Proof.Machine.execCfgPoolPages s
  | .cfgMigrate => Sys2Proof.Machine.execCfgMigrate s
  | .cfgRemoteFaultLog => Sys2Proof.Machine.execCfgRemoteFaultLog s
  | .cfgAccessLog => Sys2Proof.Machine.execCfgAccessLog s
  | .cfgSparseFaultQueue => Sys2Proof.Machine.execCfgSparseFaultQueue s
  | .cfgErrorLog => Sys2Proof.Machine.execCfgErrorLog s
  | .cfgUndoLog => Sys2Proof.Machine.execCfgUndoLog s
  | .cfgAuditArea => Sys2Proof.Machine.execCfgAuditArea s
  | .cfgReleaseQuarantine => Sys2Proof.Machine.execCfgReleaseQuarantine s
  | .cfgResetCluster => Sys2Proof.Machine.execCfgResetCluster s
  | .cfgStopCluster => Sys2Proof.Machine.execCfgStopCluster s
  | .sliceReady => Sys2Proof.Machine.execSliceReady s
  | .dispatchMatch => Sys2Proof.Machine.execDispatchMatch s
  | .footprintStaging => Sys2Proof.Machine.execFootprintStaging s
  | .preemption => Sys2Proof.Machine.execPreemption s
  | .suspension => Sys2Proof.Machine.execSuspension s
  | .resumption => Sys2Proof.Machine.execResumption s
  | .retireWriteback => Sys2Proof.Machine.execRetireWriteback s
  | .budgetExhausted => Sys2Proof.Machine.execBudgetExhausted s
  | .budgetGraceExhausted => Sys2Proof.Machine.execBudgetGraceExhausted s
  | .dispositionRelease => Sys2Proof.Machine.execDispositionRelease s
  | .dispositionKill => Sys2Proof.Machine.execDispositionKill s
  | .dispositionStep => Sys2Proof.Machine.execDispositionStep s
  | .clusterReset => Sys2Proof.Machine.execClusterReset s
  | .clusterStop => Sys2Proof.Machine.execClusterStop s
  | .rollback => Sys2Proof.Machine.execRollback s
  | .patrolScrub => Sys2Proof.Machine.execPatrolScrub s
  | .noseAuditPush => Sys2Proof.Machine.execNoseAuditPush s
  | .noseVerdict => Sys2Proof.Machine.execNoseVerdict s
  | .auditAbandon => Sys2Proof.Machine.execAuditAbandon s
  | .hostWrite => Sys2Proof.Machine.execHostWrite s
  | .hostRead => Sys2Proof.Machine.execHostRead s
  | .hostLaunch => Sys2Proof.Machine.execHostLaunch s
  | .hostNotice => Sys2Proof.Machine.execHostNotice s
  | .noticeResend => Sys2Proof.Machine.execNoticeResend s
  | .hostAck => Sys2Proof.Machine.execHostAck s
  | .telemetry => Sys2Proof.Machine.execTelemetry s
  | .attest => Sys2Proof.Machine.execAttest s
  | .openSession => Sys2Proof.Machine.execOpenSession s
  | .closeSession => Sys2Proof.Machine.execCloseSession s
  | .partitionTable => Sys2Proof.Machine.execPartitionTable s
  | .dieReset => Sys2Proof.Machine.execDieReset s
  | .recordWrite => Sys2Proof.Machine.execRecordWrite s
  | .powerOnBoot => Sys2Proof.Machine.execPowerOnBoot s
  | .throttleRaise => Sys2Proof.Machine.execThrottleRaise s
  | .throttleLower => Sys2Proof.Machine.execThrottleLower s
  | .thermalFloor => Sys2Proof.Machine.execThermalFloor s
  | .thermalShutdown => Sys2Proof.Machine.execThermalShutdown s
  | .remoteFeResponse => Sys2Proof.Machine.execRemoteFeResponse s
  | .xrecvCyclePassed => Sys2Proof.Machine.execXrecvCyclePassed s
  | .softError => Sys2Proof.Machine.execSoftError s
  | .linkFailure => Sys2Proof.Machine.execLinkFailure s
  | .vicgrpChange => Sys2Proof.Machine.execVicgrpChange s

end Sys2Proof.Machine
end

