-- ==== Sys2Proof/Machine/Turn.lean ====
section
/-! DEFINITION. Whose turn it is: one context's next instruction, a gang's slot, another context's turn; and where a program
stands for a test of one instruction. -/

namespace Sys2Proof.Machine

open Host (Outcome)

/-- The next state of an outcome changed. -/
def mapNext (o : Outcome State Fault Refusal) (f : State → State) : Outcome State Fault Refusal :=
  match o with
  | .next s => .next (f s)
  | .fault r => .fault r
  | .refused r => .refused r

/-- The current context's slice has no budget for another instruction (18 R302). -/
def State.spent (s : State) : Bool :=
  let lead := s.leaderOf s.t.coreid
  s.counted lead && !s.isSup s.t.coreid && s.counter.budget == 0 &&
    match s.gangOf s.t.coreid with
    | some (_, g, p) => p == 0 || g.stopped
    | none => true

/-- The current context fetches, decodes and executes one instruction (04 R48, R57). With no budget left an instruction that has
not been issued traps instead; one that has, a REP or a shaped one, completes (18 R302). -/
def runInstr (s : State) : Outcome State Fault Refusal :=
  match nextInstr s with
  | .error _ => runM (do let _ ← nextInstr) s
  | .ok (i, s1) =>
    if s.t.mode == .running && s.t.rep.isNone && !s.t.issued && s.spent then
      if s.counter.grace then exec .budgetGraceExhausted s else exec .budgetExhausted s
    else exec i s1

/-- A notice of a failing element is due, and the thread takes it at this boundary (20 R333), outside a transfer phase
(11 R231). An LDX or STX is no wait that a notice withdraws: it has its answer first (06 R116). -/
def State.remoteTaken (s : State) : Bool :=
  s.t.remoteDue && flagOf s.t.tstat 2 && !flagOf s.t.tstat 0 && (s.transferOf s.t.coreid).isNone &&
    match s.t.mode with | .waiting .fe | .waiting (.feRemote _ _ _) => false | _ => true

/-- An arrival watch that is due while the thread waits: the wait is withdrawn and the trap taken (23 R369). An LDX, STX, XMIT or
XRECV is no wait that is withdrawn (06 R116, 11 R219): it takes the trap as it completes. -/
def State.watchTaken (s : State) : Option Word :=
  match s.t.mode with
  | .waiting .fe | .waiting (.feRemote _ _ _) | .waiting .xmit | .waiting .xrecv => none
  | .waiting _ => s.t.arriveDue
  | _ => none

/-- A member of a transfer phase that is about to begin returns from its SYNC in the nanosecond before transfer cycle 0, so that
all of them execute their first instruction in that cycle (11 R227). -/
def State.beforeTransfer (s : State) : Bool :=
  match s.transferOf s.t.coreid with
  | some (_, d) => decide (s.time + 1 < d.start)
  | none => false

/-- One turn of the current context; with `notices` it takes a notice that is due. A trap that stands before its next instruction
comes first. -/
def ownTurn (notices : Bool) (s : State) : Outcome State Fault Refusal :=
  if s.yieldsCore then .next s else
  let noticed := notices && s.remoteTaken
  match s.t.mode with
  | .idle | .staging | .frozen | .stopping => .next s
  | .released _ => if s.beforeTransfer then .next s else exec .waitResume s
  | .waiting w =>
    match s.watchTaken with
    | some a => .next ((s.withdraw s.t.coreid).takeTrap .watch a .after)
    | none =>
      if noticed then exec .remoteNotice s else
      match w with
      | .object _ _ _ | .lock _ _ | .sync _ | .fe | .feRemote _ _ _ | .xmit | .xrecv | .jobQueue _ => .next s
      | _ => runInstr s
  | .running => if s.t.late.isSome then .next s.takeLate else if noticed then exec .remoteNotice s else runInstr s

/-- A turn, in which a formed gang's leader begins a slot, or takes a notice between two slots; one that comes in a slot abandons
it (11 R216, R219). While a gang is stopped, only the member that runs its handler has turns (11 R220). -/
def gangTurn (s : State) : Outcome State Fault Refusal :=
  match s.gangOf s.t.coreid with
  | some (id, g, p) =>
    if !g.formed then ownTurn true s
    else if !g.stopped then
      if p != 0 then .next s
      else if s.remoteTaken && !s.slotBusy g.members then
        exec .remoteNotice { s with gangs := s.gangs.put id { g with runner := some 0 } }
      else if s.remoteTaken && g.trapped.isEmpty && g.runner.isNone then
        .next { s with gangs := s.gangs.put id { g with stopped := true, notice := true } }
      else exec .gangSlot { s with arg := { x := id } }
    else
      match g.runner with
      | some r => if r = p then ownTurn true s else .next (s.pushTurn (g.members.getD r s.t.coreid))
      | none => .next s
  | none => ownTurn true s

/-- A turn costs a cycle of the slice's budget (18 R302). -/
def chargedTurn (s : State) : Outcome State Fault Refusal := mapNext (gangTurn s) fun s1 => s1.charge s.t.coreid s.t.sliceid

/-- What `f` does with another context as the current one; the current one is put back unless it has nothing to do. A
context that is still busy has its next turn at the end, behind one of the current context: so every busy context has one
turn in each round. -/
def turnOf (core : Nat) (f : State → Outcome State Fault Refusal) (s : State) : Outcome State Fault Refusal :=
  let p := s.t.coreid
  if core = p then f s else
    mapNext (f (s.swapIn core)) fun s1 =>
      if (s1.ctx p).mode == .idle then s1 else
      let s2 := s1.swapIn p
      if (s2.ctx core).busy then (s2.pushTurn p).pushTurn core else s2

/-- A gang's slot changed. -/
def State.modGang (s : State) (id : Nat) (f : Gang → Gang) : State :=
  match s.gangs.find id with
  | some g => { s with gangs := s.gangs.put id (f g) }
  | none => s

/-- The lowest position whose instruction in the slot traps. -/
def Gang.firstTrap (g : Gang) : Option (Nat × Option (Cause × Word)) := g.trapped.head?

/-- The members of a gang whose instruction an event has completed with a trap of the After class, but for one position, take it
before their next instruction (11 R219, R220). -/
def State.keepLate (s : State) (g : Gang) (taken : Option Nat) : State :=
  g.trapped.foldl (fun x (q, t) =>
    if t.isNone || taken == some q then x else x.modCtx (g.members.getD q 0) fun c => { c with late := t }) s

/-- The end of a slot, once every member that executes in it has ended its instruction. The trap of the lowest position is
taken: its instruction executes now, or had been completed by an event. The other ones stay incomplete (11 R219, R220). A gang
that an event has stopped leaves its skid record (R222); after a notice its leader runs the handler (20 R333). -/
def State.slotEnds (s : State) (id : Nat) : State :=
  match s.gangs.find id with
  | none => s
  | some g =>
    if s.slotBusy g.members then s
    else if g.stopped then
      let s1 := (s.keepLate g none).modGang id fun h =>
        { h with trapped := [], runner := if g.notice then some 0 else h.runner, notice := false }
      let s2 := (s1.endSlot id).laySkid id
      if g.notice then s2.pushTurn (g.members.headD 0) else s2
    else
      match g.firstTrap with
      | none => (s.modGang id fun h => { h with runner := none }).endSlot id
      | some (r, late) =>
        let s1 := (s.keepLate g (some r)).modGang id fun h => { h with runner := some r, trapped := [] }
        let m := g.members.getD r 0
        match late with
        | none => { s1 with agenda := s1.agenda ++ [.member m (g.count r)] }
        | some (c, v) => (s1.endSlot id).asCtx m fun x => x.takeTrap c v (lateClass c)

/-- A thread that stopped at a boundary goes on. -/
def State.goOn (s : State) (core : Nat) : State :=
  s.modCtx core fun c => if c.mode == .stopping then { c with mode := .running } else c

/-- A member's instruction in an abandoned slot has not completed: a wait is withdrawn, a REP keeps its count, a shaped
instruction its `vprog`. -/
def State.endMemberTurn (s : State) (core : Nat) : State := (s.stopThread core).goOn core

/-- Whether a member must still end its instruction in an abandoned slot: one that has not begun it executes it, a REP pair or a
shaped instruction only to its next repetition or step; an XMIT or XRECV completes, an LDX or STX of another module has its
answer (11 R219, 06 R116). -/
def State.mustEnd (s : State) (core : Nat) : Bool :=
  let c := s.ctx core
  match c.mode with
  | .running => c.rep.isNone && !c.issued
  | .waiting .xmit | .waiting .xrecv => true
  | _ => s.awaitsModule core

/-- A member's instruction of the slot in progress comes again, behind a turn of the current context. -/
def State.memberAgain (s : State) (core idx : Nat) : State :=
  let s1 := s.pushTurn s.t.coreid
  { s1 with agenda := s1.agenda ++ [.member core idx] }

/-- A member's instruction in a slot has trapped, in the turn that has led from `s` to `s2`. It leaves the member as it was before
that turn, until the end of the slot; so does a trap that stands before its instruction, in a gang that an event has stopped.
There a trap of the After class leaves its instruction completed (11 R219, R220). -/
def State.memberTrapped (s s2 : State) (id q core idx : Nat) (g h : Gang) (t : Option (Cause × Word)) : State :=
  if g.stopped then
    if h.count q != idx then
      (s2.modGang id fun k => { k with trapped := k.trapped.erase q }).modCtx core fun c => { c with late := t }
    else s.endMemberTurn core
  else if (s.ctx core).late.isSome then s2
  else (s.endMemberTurn core).modGang id fun k => { k with trapped := k.trapped.put q none }

/-- A gang member's part of the slot in progress: the instruction of index `idx`, again until it completes or the slot is
abandoned. In an abandoned slot it ends its instruction, if one step does it (11 R216, R219, R220). -/
def memberOf (core idx : Nat) (s : State) : Outcome State Fault Refusal :=
  let p := s.t.coreid
  match s.gangOf core with
  | none => .next s
  | some (id, g, q) =>
    if g.count q != idx || (g.stopped && g.runner == some q) then .next ((s.goOn core).slotEnds id) else
    let open1 := if g.stopped then [q] else []
    mapNext (ownTurn false (({ s with gangs := s.gangs.put id { g with trapped := g.trapped.erase q } }.closeSlot id open1).swapIn core)) fun s1 =>
      let s2 := (s1.swapIn p).closeSlot id []
      match s2.gangs.find id with
      | none => s2
      | some h =>
        match h.trapped.find q with
        | some t => (s.memberTrapped s2 id q core idx g h t).slotEnds id
        | none =>
          if h.count q != idx || h.ended.contains q then s2.slotEnds id
          else if h.stopped && h.runner == some q then s2.slotEnds id
          else if h.formed && !h.stopped && h.trapped.isEmpty && (h.runner.isNone || (s2.ctx core).mode == .running) then
            s2.memberAgain core idx
          else
            let s3 := if s2.mustEnd core then s2.resolveRemote core else s2.endMemberTurn core
            if s3.mustEnd core then s3.memberAgain core idx else s3.slotEnds id

/-! The order of a cycle (21 R347, 26 R408, log entry 6). -/

/-- The lowest context, from `lo` on, that has a turn in the agenda. -/
def leastTurn (lo : Nat) : List Agenda → Option Nat
  | [] => none
  | .turn c :: l =>
    match leastTurn lo l with
    | some d => if lo ≤ c && c < d then some c else some d
    | none => if lo ≤ c then some c else none
  | _ :: l => leastTurn lo l

/-- What moves next, with the rest of the agenda: the lowest turn that the cycle in progress still has; then what stands first; a
turn there is one of the next cycle, which begins with its lowest. -/
def State.pick (s : State) : Option (Agenda × List Agenda) :=
  match leastTurn s.turned s.agenda with
  | some c => some (.turn c, s.agenda.erase (.turn c))
  | none =>
    match s.agenda with
    | [] => none
    | .turn c :: rest =>
      let least := (leastTurn 0 (.turn c :: rest)).getD c
      some (.turn least, (Agenda.turn c :: rest).erase (.turn least))
    | x :: rest => some (x, rest)

/-- A context has its turn: where its place in the cycle is past, device time moves on to the next cycle. -/
def State.inCycle (s : State) (core : Nat) : State :=
  let s1 := if core < s.turned then s.tick else s
  { s1 with turned := core + 1 }

/-! Placing a program (log entry 16). -/

/-- Where the program stands: its address, and the tables that map the first GiB onto itself with every right. -/
def programBase : Nat := 0x10000
def programTables : Memory :=
  Memory.writeNat (Memory.writeNat (Memory.writeNat [] 0x1000 8 0x2003) 0x2000 8 0x3003) 0x3000 8 0x3D

/-- The record of the slice that runs it: entry, budget, kind. -/
def programRecord (gang : Bool) : BitVec 2048 :=
  BitVec.ofNat 2048 (programBase + 1000000 * 2 ^ 192 + (if gang then 2 ^ 233 + 2 * 2 ^ 240 else 0) + 0x20000 * 2 ^ 256)

/-- A partition of cluster 0 with 8 GiB and the tables above. -/
def programPartition : Partition :=
  { Partition.reset with
    clusters := [0], windows := [(0, 8 * 2 ^ 30)], supervisor := coreAt 0 8, masks := List.replicate 10 0
    sliceMap := List.replicate 1024 0, ptbase := 0x1000, ids := 1, slots := [0, 1, 2] }

/-- The slice that runs the program on some threads. -/
def programSlice (gang : Bool) (threads : List Nat) : Slice :=
  { id := 2 ^ 32 + 1, part := 0, record := programRecord gang, prio := 0, state := .running, arrival := 0, counted := false
    counter := none, threads := threads, lastThreads := [], slots := [1, 2], obls := [], saved := [], reason := 0
    refill := false, bounds := [], padcfgs := [], parked := none, staged := 0, restage := false, pinned := false, victimOf := none
    dispatches := 1, matchedAt := 0, die := 0, reserved := [], replayOf := none }

/-- A context about to execute at the program's address. -/
def programCtx (kind : CtxKind) (core : Nat) : Ctx :=
  { Ctx.reset kind core with
    mode := .running, pc := BitVec.ofNat 64 programBase, sliceid := if kind = .hart then 0 else 0x100000001
    budget := 1000000 }

/-- The copy that runs on channel 0 when the program is a template. -/
def programCopy : Copy :=
  { cluster := 0, channel := 0, template := 0, ord := false, started := true, running := true, ended := false, source := 0x20000
    dest := 0x21000, remaining := 64, length := 64, flags := 0, argOff := 0, cref := 0, duty := none, due := 0, status := 0
    inFlight := 0, slot := 0, core := 0, slice := 0x100000001, part := 0, peers := Vector.replicate 64 0, key := 0, cause := 0
    tval := 0, held := false, stopping := false, retries := 0, round := none, packets := 0, resend := [] }

/-- A booted machine whose current context fetches at the program's address: a lane thread, for the WELT family the leader
of a gang slice of two, for the CX family a copy channel. -/
def State.withProgram (s : State) (major : Nat) : State :=
  let hart := major = 35
  let gang := major = 40
  let core := if hart then channelCore 0 0 else 0
  { s with
    t := { programCtx (if hart then .hart else .lane) core with gangpos := if gang then 0x200 else 0 }
    others := if gang then [(coreAt 0 1, { programCtx .lane (coreAt 0 1) with mode := .idle, gangpos := 0x201 })] else []
    parts := [(0, programPartition)]
    mem := programTables
    copies := if hart then [programCopy] else []
    slices := if hart then [] else [programSlice gang (if gang then [0, coreAt 0 1] else [0])]
    gangs := if gang then [(2 ^ 32 + 1, { members := [0, coreAt 0 1], formed := false, stopped := false, counts := [0, 0], base := 0
                                          queue := [], ended := [], rowmax := none, rowdest := 0, closing := []
                                          trapped := [], runner := none, code := [], front := 0, exiting := false
                                          notice := false })]
      else []
    board := { s.board with booted := true, imageOk := true }
    agenda := [] }

/-- Whether the current context's next step fetches at its pc: the physical address then. -/
def State.fetchesAt (s : State) : Option Nat :=
  if s.board.on && s.agenda.isEmpty && s.t.mode == .running && s.t.rep.isNone && (s.formedGang s.t.coreid).isNone &&
      s.t.late.isNone && !s.yieldsCore && !s.remoteTaken && !(s.counted s.t.coreid && s.t.budget == 0) &&
      classOf s.t.pc == .global then
    match s.tryResolve s.t.coreid (s.partNo s.t.coreid) 0 .core s.t.pc 2 Acc.fetch with
    | (_, .ok (.mem k)) => if k % 4096 + 12 ≤ 4096 then some k else none
    | _ => none
  else none

end Sys2Proof.Machine
end

