-- ==== Sys2Proof/Machine/Step.lean ====
section
/-! DEFINITION. One step of the machine: what its agenda has next, or the current context's next instruction. -/

namespace Sys2Proof.Machine

open Host (Outcome)

/-- One step. Without power the machine stops (24 R387). -/
def step (s : State) : Outcome State Fault Refusal :=
  if !s.board.on then .fault .poweredOff else
  match s.pick with
  | none => chargedTurn (s.inCycle s.t.coreid)
  | some (.event i a, rest) => exec i { s with agenda := rest, arg := a }
  | some (.turn c, rest) => turnOf c chargedTurn ({ s with agenda := rest }.inCycle c)
  | some (.member c j, rest) => memberOf c j { s with agenda := rest }

/-- An instruction whose bits are `w`, numbered as the opcode table numbers them, stored where the next step fetches. A
machine that would not fetch, as the one right after reset, which holds no program, is given a program's surroundings
first (log entry 16). -/
def State.withFetchWord (s : State) (nbits w : Nat) : State :=
  let bs := (List.range 12).map fun k => BitVec.ofNat 8 (w % 2 ^ nbits / 256 ^ k)
  match s.fetchesAt with
  | some k => { s with mem := s.mem.writeBytes k bs }
  | none =>
    let s1 := s.withProgram (if w % 2 = 0 then 0 else w / 2 % 64)
    { s1 with mem := s1.mem.writeBytes programBase bs }

end Sys2Proof.Machine
end

