-- ==== Sys2Proof/Safety.lean ====
section
/-! DEFINITION. The words that claims are stated in: the invariant that steps keep, runs that do not stop, when the current
context may execute an instruction, what its operands read as, and when a check of the machine passes. -/

namespace Sys2Proof

open Sys2Proof.Machine

/-- What every step keeps: the memory is in its canonical form (log entry 3). -/
def Inv (s : State) : Prop := s.mem.wf = true

/-- A run of `n` steps that neither faults nor is refused. -/
def SafeRun : Nat → State → Prop
  | 0, _ => True
  | n + 1, s => ∃ t, step s = .next t ∧ SafeRun n t

/-- A check or an operation of the machine passes at `s`: no trap, no wait; its answer is `a`, the state after it `t`. -/
def Passes {α : Type} (m : M α) (s : State) (a : α) (t : State) : Prop := m s = .ok (a, t)

/-- The current context may execute an instruction: its kind has the family, the registers and the CSR, and may write the
CSR (02 R13, R20, 04 R57 check 6), an auditable slice is not forbidden it (22 R360), a Welt port is used in a formed gang
only (check 8), and no handle, shape, CSR or obligation table it reads holds uncorrectable data (22 R351). -/
def admits (i : Instr) (s : State) : Bool :=
  s.hasFamily i && s.hasCsr i && s.mayWriteCsr i && !(noseForbids i && s.auditable s.t.coreid) &&
  ((portOf i).isNone || (s.formedGang s.t.coreid).isSome) && !(marksRead i).any s.t.badRegs.contains &&
  !(readsTable i && (s.table s.t.coreid).any (·.bad))

/-- No trap of the After class is due to the current context: no watch match, no arrival that it watches for, and no step that is
armed outside a trap (05 R87, 23 R368, R369, R373). -/
def quiet (s : State) : Bool :=
  s.t.watchDue.isNone && s.t.arriveDue.isNone && (!bitOf s.t.stepctl.toNat 1 || flagOf s.t.tstat 0)

/-- An instruction may run to its end: it is admitted, and nothing is due after it. -/
def ready (i : Instr) (s : State) : Bool := admits i s && quiet s

/-- A register that is read holds no uncorrectable data (22 R351). -/
def regReadable (s : State) (n : Nat) : Bool := !s.t.badRegs.contains n

/-- A scalar source can be read. -/
def readable (s : State) : Src → Bool
  | .code c => !(c.toNat < 32) || regReadable s c.toNat
  | _ => true

/-- What a scalar source reads as (05 R58): `s0` is 0, a 32-bit literal is sign-extended, a receive port gives its
neighbour's send port. -/
def srcVal (s : State) : Src → Word
  | .code c =>
    if c = 0 then 0
    else if c.toNat < 32 then s.t.s[c.toNat]!
    else if c.toNat = 48 then s.readWi
    else if c.toNat = 50 then s.readEi
    else 0
  | .lit32 x => x.signExtend 64
  | .lit64 x => x

/-- What a predicate reads as: `k0` is all ones (02 R10). -/
def predVal (s : State) (k : BitVec 3) : Word := if k = 0 then BitVec.allOnes 64 else s.t.k[k.toNat]!

/-- The state with a scalar destination or send port written by the current context. -/
def setDest (s : State) (d : Code) (v : Word) : State := { s with t := s.t.writeDest d.toNat v }

/-- The state with a predicate written by the current context. -/
def setPred (s : State) (k : BitVec 3) (v : Word) : State := { s with t := s.t.writeK k.toNat v }

/-- The instruction has completed and the context advances (04 R48, 05 R71, R74, R78). -/
def advanced (s : State) (i : Instr) : State := s.complete i.len 0 0

/-- The instruction has completed with the context's change `f`, and the context goes on at `target`. -/
def jumped (s : State) (f : Ctx → Ctx) (target : Word) : State := s.finish { f s.t with pc := target } 0 0

/-- No watchpoint matches an access of the current context: the control bit, the address, the bytes (23 R367). -/
def unwatched (s : State) (bit : Nat) (va : Word) (n : Nat) : Bool :=
  (s.wpMatches s.t.coreid bit (watchAddr s.t.coreid va) n).isEmpty

/-- Where the instruction may run, it answers the next state `t`. -/
def Completes (i : Instr) (s t : State) : Prop := ready i s = true → exec i s = .next t

/-- Where the instruction may run at `s` and nothing is due at `s1`, it answers the next state `t`: `s1` is `s` after the
checks of its accesses. -/
def CompletesVia (i : Instr) (s s1 t : State) : Prop := admits i s = true → quiet s1 = true → exec i s = .next t

/-- Where the instruction may run, it completes: the destination holds `v`, and the context advances. -/
def Writes (i : Instr) (s : State) (d : Code) (v : Word) : Prop := Completes i s (advanced (setDest s d v) i)

/-- Where the instruction may run, it completes: the predicate holds `v`, and the context advances. -/
def WritesPred (i : Instr) (s : State) (k : BitVec 3) (v : Word) : Prop := Completes i s (advanced (setPred s k v) i)

/-! Vector instructions. -/

/-- The state with flags raised (03 R32). -/
def flagged (s : State) (fl : Nat) : State := { s with t := { s.t with vflags := s.t.vflags ||| BitVec.ofNat 16 fl } }

/-- What an element-wise member is: the types it accepts, its shape slot, its operands, whether it reads d, and its function
of one element of a, b and d. -/
structure Member where
  acc : Accepts
  q : BitVec 3
  a : Src
  b : Option Src
  d : Code
  useD : Bool
  f : ElemFn

/-- The element-wise members of VARI, VGRP, VCNV and VSFU, and of the C form (04 R50, 07 R124, R126, R129, R130). -/
def memberOfInstr : Instr → Option Member
  | .vadd q b a d => some ⟨.arith, q, a, some b, d, false, addElem⟩
  | .vsub q b a d => some ⟨.arith, q, a, some b, d, false, subElem⟩
  | .vmul q b a d => some ⟨.arith, q, a, some b, d, false, mulElem⟩
  | .vfma q b a d => some ⟨.arith, q, a, some b, d, true, fmaElem⟩
  | .vfms q b a d => some ⟨.arith, q, a, some b, d, true, fmsElem⟩
  | .vnfma q b a d => some ⟨.arith, q, a, some b, d, true, nfmaElem⟩
  | .vmin q b a d => some ⟨.arith, q, a, some b, d, false, minElem⟩
  | .vmax q b a d => some ⟨.arith, q, a, some b, d, false, maxElem⟩
  | .vabs q a d => some ⟨.arith, q, a, none, d, false, absElem⟩
  | .vneg q a d => some ⟨.arith, q, a, none, d, false, negElem⟩
  | .vand q b a d => some ⟨.bytes, q, a, some b, d, false, andElem⟩
  | .vor q b a d => some ⟨.bytes, q, a, some b, d, false, orElem⟩
  | .vxor q b a d => some ⟨.bytes, q, a, some b, d, false, xorElem⟩
  | .vshl q b a d => some ⟨.ints, q, a, some b, d, false, shlElem⟩
  | .vshr q b a d => some ⟨.ints, q, a, some b, d, false, shrElem⟩
  | .vsra q b a d => some ⟨.ints, q, a, some b, d, false, sraElem⟩
  | .vmov q a d => some ⟨.bytes, q, a, none, d, false, movElem⟩
  | .vmulh q b a d => some ⟨.ints, q, a, some b, d, false, mulhElem⟩
  | .vclz q a d => some ⟨.ints, q, a, none, d, false, clzElem⟩
  | .vpopc q a d => some ⟨.ints, q, a, none, d, false, popcElem⟩
  | .vadds q b a d => some ⟨.ints, q, a, some b, d, false, clampElem (· + ·)⟩
  | .vsubs q b a d => some ⟨.ints, q, a, some b, d, false, clampElem (· - ·)⟩
  | .vrndi q a d => some ⟨.floats, q, a, none, d, false, rndiElem⟩
  | .vscale q b a d => some ⟨.floats, q, a, some b, d, false, scaleElem⟩
  | .vgetexp q a d => some ⟨.floats, q, a, none, d, false, getexpElem⟩
  | .vexp2 q a d => some ⟨.floats, q, a, none, d, false, sfuElem 0⟩
  | .vlog2 q a d => some ⟨.floats, q, a, none, d, false, sfuElem 1⟩
  | .vrcp q a d => some ⟨.floats, q, a, none, d, false, sfuElem 2⟩
  | .vrsq q a d => some ⟨.floats, q, a, none, d, false, sfuElem 3⟩
  | .vsqrt q a d => some ⟨.floats, q, a, none, d, false, sfuElem 4⟩
  | .vsinpi q a d => some ⟨.floats, q, a, none, d, false, sfuElem 5⟩
  | .vcospi q a d => some ⟨.floats, q, a, none, d, false, sfuElem 6⟩
  | .cVadd vs vd => some ⟨.arith, 0, vreg vd, some (vreg vs), vd.setWidth 6, false, addElem⟩
  | .cVsub vs vd => some ⟨.arith, 0, vreg vd, some (vreg vs), vd.setWidth 6, false, subElem⟩
  | .cVmul vs vd => some ⟨.arith, 0, vreg vd, some (vreg vs), vd.setWidth 6, false, mulElem⟩
  | .cVmin vs vd => some ⟨.arith, 0, vreg vd, some (vreg vs), vd.setWidth 6, false, minElem⟩
  | .cVmax vs vd => some ⟨.arith, 0, vreg vd, some (vreg vs), vd.setWidth 6, false, maxElem⟩
  | .cVand vs vd => some ⟨.bytes, 0, vreg vd, some (vreg vs), vd.setWidth 6, false, andElem⟩
  | .cVor vs vd => some ⟨.bytes, 0, vreg vd, some (vreg vs), vd.setWidth 6, false, orElem⟩
  | .cVxor vs vd => some ⟨.bytes, 0, vreg vd, some (vreg vs), vd.setWidth 6, false, xorElem⟩
  | .cVshl vs vd => some ⟨.ints, 0, vreg vd, some (vreg vs), vd.setWidth 6, false, shlElem⟩
  | .cVshr vs vd => some ⟨.ints, 0, vreg vd, some (vreg vs), vd.setWidth 6, false, shrElem⟩
  | .cVsra vs vd => some ⟨.ints, 0, vreg vd, some (vreg vs), vd.setWidth 6, false, sraElem⟩
  | .cVmac vs vd => some ⟨.arith, 0, vreg vs, some (vreg 31), vd.setWidth 6, true, fmaElem⟩
  | .cVmov vs vd => some ⟨.bytes, 0, vreg vs, some (vreg vs), vd.setWidth 6, false, movElem⟩
  | .cVneg vs vd => some ⟨.arith, 0, vreg vs, some (vreg vs), vd.setWidth 6, false, negElem⟩
  | .cVabs vs vd => some ⟨.arith, 0, vreg vs, some (vreg vs), vd.setWidth 6, false, absElem⟩
  | _ => none

end Sys2Proof
end

