-- ==== Sys2Proof/Certificates/Slice0/Obligations.lean ====
section
/-! DEFINITION. The statements for the provers. A docstring names the rule of spec/ that a statement formalises, or says
what it derives from. `Completes`, `Writes` and `WritesPred` (Safety) say that an instruction answers a next state. -/

open Sys2Proof Sys2Proof.Machine

/-! Scalar instructions. -/

/-- 05 R59 to R61, R63, R64: each two-operand member of ALU and ADDR completes with its value in d. -/
def AluTwoOperandsComplete : Prop :=
  ∀ (w : Bool) (sc : BitVec 2) (b a : Src) (d : Code) (s : State), readable s a = true → readable s b = true →
    let x := srcVal s a
    let y := srcVal s b
    Writes (.add w b a d) s d (wide2 w (· + ·) x y) ∧ Writes (.sub w b a d) s d (wide2 w (· - ·) x y) ∧
    Writes (.and w b a d) s d (wide2 w (· &&& ·) x y) ∧ Writes (.or w b a d) s d (wide2 w (· ||| ·) x y) ∧
    Writes (.xor w b a d) s d (wide2 w (· ^^^ ·) x y) ∧ Writes (.andn w b a d) s d (wide2 w (fun p q => p &&& ~~~q) x y) ∧
    Writes (.orn w b a d) s d (wide2 w (fun p q => p ||| ~~~q) x y) ∧ Writes (.shl w b a d) s d (wide2 w opShl x y) ∧
    Writes (.shr w b a d) s d (wide2 w opShr x y) ∧ Writes (.sra w b a d) s d (wide2 w opSra x y) ∧
    Writes (.rol w b a d) s d (wide2 w opRol x y) ∧ Writes (.ror w b a d) s d (wide2 w opRor x y) ∧
    Writes (.mul w b a d) s d (wide2 w (· * ·) x y) ∧ Writes (.mulh w b a d) s d (wide2 w opMulh x y) ∧
    Writes (.mulhn w b a d) s d (wide2 w opMulhn x y) ∧ Writes (.div w b a d) s d (wide2 w opDiv x y) ∧
    Writes (.divn w b a d) s d (wide2 w opDivn x y) ∧ Writes (.rem w b a d) s d (wide2 w opRem x y) ∧
    Writes (.remn w b a d) s d (wide2 w opRemn x y) ∧ Writes (.min w b a d) s d (wide2 w opMin x y) ∧
    Writes (.max w b a d) s d (wide2 w opMax x y) ∧ Writes (.minn w b a d) s d (wide2 w opMinn x y) ∧
    Writes (.maxn w b a d) s d (wide2 w opMaxn x y) ∧ Writes (.slt w b a d) s d (wide2 w opSlt x y) ∧
    Writes (.sltn w b a d) s d (wide2 w opSltn x y) ∧ Writes (.seq w b a d) s d (wide2 w opSeq x y) ∧
    Writes (.sne w b a d) s d (wide2 w opSne x y) ∧ Writes (.lea sc b a d) s d (x + y <<< sc.toNat) ∧
    Writes (.bfx b a d) s d (opBfx x y) ∧ Writes (.bfxz b a d) s d (opBfxz x y)

/-- 05 R59, R60, R64: SEL and BFI also read d. -/
def AluThreeOperandsComplete : Prop :=
  ∀ (b a : Src) (d : Code) (s : State), readable s a = true → readable s b = true → readable s (.code d) = true →
    let x := srcVal s a
    let y := srcVal s b
    let z := srcVal s (.code d)
    Writes (.sel false b a d) s d (if z = 0 then y else x) ∧
    Writes (.sel true b a d) s d (((if z.setWidth 32 = 0#32 then y else x).setWidth 32).signExtend 64) ∧
    Writes (.bfi b a d) s d (opBfi z x y)

/-- 05 R59, R60, R63: each one-operand member of ALU, and ADDI, completes with its value in d. -/
def AluOneOperandComplete : Prop :=
  ∀ (w : Bool) (imm : BitVec 13) (a : Src) (d : Code) (s : State), readable s a = true →
    let x := srcVal s a
    Writes (.clz w a d) s d (wide1 w opClz x) ∧ Writes (.ctz w a d) s d (wide1 w opCtz x) ∧
    Writes (.popc w a d) s d (wide1 w opPopc x) ∧ Writes (.brev w a d) s d (wide1 w opBrev x) ∧
    Writes (.bswap w a d) s d (wide1 w opBswap x) ∧ Writes (.addi imm a d) s d (x + imm.signExtend 64)

/-- 05 R59, R60, bit by bit at both widths: MULH and MULHN are the high halves of the exact products, CLZ and CTZ count the zeros
before the first one bit, POPC the one bits, BREV moves bit i to the other end, BSWAP byte i. -/
def BitValues : Prop :=
  ∀ n, n = 64 ∨ n = 32 → ∀ x y : BitVec n,
    opMulh x y = (x.signExtend (2 * n) * y.signExtend (2 * n)).extractLsb' n n ∧
    opMulhn x y = (x.setWidth (2 * n) * y.setWidth (2 * n)).extractLsb' n n ∧
    (∀ c ≤ n, (∀ i < c, x.getLsbD (n - 1 - i) = false) → (c = n ∨ x.getLsbD (n - 1 - c) = true) → opClz x = BitVec.ofNat n c) ∧
    (∀ c ≤ n, (∀ i < c, x.getLsbD i = false) → (c = n ∨ x.getLsbD c = true) → opCtz x = BitVec.ofNat n c) ∧
    opPopc x = BitVec.ofNat n ((List.range n).countP fun i => x.getLsbD i) ∧
    ∀ i < n, (opBrev x).getLsbD i = x.getLsbD (n - 1 - i) ∧
      (opBswap x).getLsbD i = x.getLsbD (8 * (n / 8 - 1 - i / 8) + i % 8)

/-- 05 R64, bit by bit: of a field of lo = B[5:0] and width min(B[12:6], 64 - lo), BFX is the field sign-extended, BFXZ
zero-extended, each 0 for a width of 0, and BFI is D with the field replaced by the low bits of A. -/
def FieldValues : Prop :=
  ∀ x y z : Word,
    let lo := (y.extractLsb' 0 6).toNat
    let n := min (y.extractLsb' 6 7).toNat (64 - lo)
    ∀ i < 64,
      (opBfx x y).getLsbD i = (if i < n then x.getLsbD (lo + i) else decide (n ≠ 0) && x.getLsbD (lo + n - 1)) ∧
      (opBfxz x y).getLsbD i = (decide (i < n) && x.getLsbD (lo + i)) ∧
      (opBfi z x y).getLsbD i = (if lo ≤ i ∧ i < lo + n then x.getLsbD (i - lo) else z.getLsbD i)

/-- 05 R59 to R64: every member of ALU, ADDI and ADDR completes with its value in d; the values that are no plain arithmetic are
given bit by bit. -/
def Obligations.ScalarArithmeticCompletes : Prop :=
  AluTwoOperandsComplete ∧ AluThreeOperandsComplete ∧ AluOneOperandComplete ∧ BitValues ∧ FieldValues

/-- 05 R66, R67: CMP writes a predicate all ones or all zeros, KOP combines predicates; `k0` reads all ones. -/
def Obligations.PredicatesComplete : Prop :=
  ∀ (c : BitVec 7) (b a : Src) (k kb ka : BitVec 3) (s : State),
    (readable s a = true → readable s b = true →
      WritesPred (.cmp c b a k) s k (if cmpHolds c.toNat (srcVal s a) (srcVal s b) then BitVec.allOnes 64 else 0)) ∧
    (regReadable s (64 + ka.toNat) = true →
      WritesPred (.knot ka k) s k (~~~predVal s ka) ∧ WritesPred (.kmov ka k) s k (predVal s ka) ∧
      (regReadable s (64 + kb.toNat) = true →
        WritesPred (.kand kb ka k) s k (predVal s ka &&& predVal s kb) ∧
        WritesPred (.kor kb ka k) s k (predVal s ka ||| predVal s kb) ∧
        WritesPred (.kxor kb ka k) s k (predVal s ka ^^^ predVal s kb)))

/-! Transfers of control. -/

/-- 05 R69, R70: J, JAL, JR, JALR and RET complete at their target; JAL and JALR write the link. A follower of a gang goes
where its leader went (05 R71). -/
def JumpsComplete : Prop :=
  ∀ (off : BitVec 25) (a : Src) (d : Code) (s : State),
    Completes (.j off) s (jumped s id (s.t.pc + off.signExtend 64 * 2)) ∧
    Completes (.jal off) s (jumped s (fun t => t.writeDest 31 (s.t.pc + 4)) (s.t.pc + off.signExtend 64 * 2)) ∧
    (s.leaderEntry = none → readable s a = true → flagOf (srcVal s a) 0 = false →
      Completes (.jr a) s (jumped s id (srcVal s a)) ∧
      Completes (.jalr a d) s
        (jumped s (fun t => t.writeDest d.toNat (s.t.pc + BitVec.ofNat 64 (Instr.jalr a d).len)) (srcVal s a))) ∧
    (s.leaderEntry = none → readable s (.code 31) = true → flagOf (srcVal s (.code 31)) 0 = false →
      Completes .ret s (jumped s id (srcVal s (.code 31)))) ∧
    ∀ e, s.leaderEntry = some e →
      Completes (.jr a) s (jumped s id e.next) ∧ Completes .ret s (jumped s id e.next) ∧
      Completes (.jalr a d) s (jumped s (fun t => t.writeDest d.toNat (s.t.pc + BitVec.ofNat 64 (Instr.jalr a d).len)) e.next)

/-- 05 R68, R71: BT goes to its target when any bit of the predicate is set, BF when none is; otherwise they advance. A follower
of a gang reads no predicate and goes where its leader went. -/
def BranchesComplete : Prop :=
  ∀ (off : BitVec 21) (k : BitVec 3) (s : State),
    (s.leaderEntry = none → regReadable s (64 + k.toNat) = true →
      let target := s.t.pc + off.signExtend 64 * 2
      (predVal s k ≠ 0 → Completes (.bt off k) s (jumped s id target) ∧ Completes (.bf off k) s (advanced s (.bf off k))) ∧
      (predVal s k = 0 → Completes (.bf off k) s (jumped s id target) ∧ Completes (.bt off k) s (advanced s (.bt off k)))) ∧
    ∀ e, s.leaderEntry = some e → s.t.rep = none →
      Completes (.bt off k) s (advanced s (.bt off k)) ∧ (advanced s (.bt off k)).t.pc = e.next ∧
      Completes (.bf off k) s (advanced s (.bf off k)) ∧ (advanced s (.bf off k)).t.pc = e.next

/-- 05 R68 to R71: the jumps and branches complete at their target, or advance. -/
def Obligations.TransfersOfControlComplete : Prop := JumpsComplete ∧ BranchesComplete

/-- 05 R73, R75: LOOP arms its level and goes to the body, or past it for a count of 0; LBRK and LNEXT go to the end of the
level's body with end processing, LBRK as if the count were 1. A follower of a gang goes where its leader went (R71), and its loop
state is the leader's (02 R16). -/
def Obligations.LoopsComplete : Prop :=
  ∀ (imm : BitVec 13) (a : Src) (l : BitVec 2) (s : State),
    (∀ e, s.leaderEntry = some e →
      Completes (.loop imm a l) s (jumped s id e.next) ∧ Completes (.lnext l) s (jumped s id e.next) ∧
      Completes (.lbrk l) s (jumped s id e.next)) ∧
    (s.leaderEntry = none → readable s a = true →
      let n := srcVal s a
      let b := s.t.pc + BitVec.ofNat 64 (Instr.loop imm a l).len
      let e := b + 2 * imm.setWidth 64
      (∀ m, m < l.toNat → m < 3 → s.t.lc[m]! = 0 ∨ e.toNat ≤ (s.t.lend[m]!).toNat) →
      Completes (.loop imm a l) s (jumped s (fun t =>
        let t1 := t.dropDeeper l.toNat
        { t1 with lbeg := t1.lbeg.set! l.toNat b, lend := t1.lend.set! l.toNat e, lc := t1.lc.set! l.toNat n })
        (if n = 0 then e else b))) ∧
    (s.leaderEntry = none → s.t.lc[l.toNat]! ≠ 0 →
      let deep := s.t.dropDeeper l.toNat
      let brk := { deep with lc := deep.lc.set! l.toNat 1 }
      Completes (.lnext l) s (jumped s (fun t => { t with lc := (deep.advance (deep.lend[l.toNat]!)).lc })
        (deep.advance (deep.lend[l.toNat]!)).pc) ∧
      Completes (.lbrk l) s (jumped s (fun t => { t with lc := (brk.advance (brk.lend[l.toNat]!)).lc })
        (brk.advance (brk.lend[l.toNat]!)).pc))

/-- 04 R56, 05 R78: once its checks pass, REP with a count of 0 completes the pair, and with another count begins at
repetition 0, or where `repcnt` says that it stopped. A follower of a gang takes its leader's count (05 R71). -/
def Obligations.RepCompletes : Prop :=
  ∀ (sb sa sd : BitVec 3) (c : Src) (s s1 : State) (p : Instr) (w : Nat),
    let i := Instr.rep sb sa sd c
    let next := s1.t.pc + BitVec.ofNat 64 i.len
    let plen := headBytes w + litBytes w
    let n := match s1.leaderEntry with | some e => e.decision | none => srcVal s1 c
    Passes (repChecks (stride sd) (stride sa) (stride sb) (imageOf i) i.len) s (p, w) s1 →
    (s1.leaderEntry = none → readable s1 c = true) →
    (n = 0 → CompletesVia i s s1 (s1.finish ({ s1.t with repcnt := 0 }.advance (next + BitVec.ofNat 64 plen)) 0 0)) ∧
    (n ≠ 0 → Passes (repRange p w (stride sd) (stride sa) (stride sb) n.toNat) s1 () s1 →
      (portOf p = none ∨ (s1.formedGang s1.t.coreid).isSome = true) → s1.t.repcnt.toNat ≤ n.toNat →
      CompletesVia i s s1 { s1 with t := { s1.t with
        mode := .running
        rep := some { j := if s1.t.repcnt = 0 then 0 else n.toNat - s1.t.repcnt.toNat, n := n.toNat, addr := s1.t.pc
                      word := w, lit := none, partner := next, partnerLen := plen, sd := stride sd, sa := stride sa
                      sb := stride sb } } })

/-! SYS, CSR and the fences. -/

/-- 05 R80, R81, R83, 06 R118: NOP and IFENCE only advance; REL and FENCE wait for nothing that a step leaves unfinished, and
ACQ and FENCE drop the copies that an acquire drops; HALT with HEN completes and stops its cluster, or its own slice where threads
of the cluster are frozen already (23 R370, R373). -/
def FencesComplete : Prop :=
  ∀ s : State,
    Completes .nop s (advanced s .nop) ∧ Completes .ifence s (advanced s .ifence) ∧ Completes .rel s (advanced s .rel) ∧
    Completes .acq s (advanced (s.acquire s.t.coreid) .acq) ∧ Completes .fence s (advanced (s.acquire s.t.coreid) .fence) ∧
    (bitOf s.t.stepctl.toNat 0 = true →
      Completes .halt s ((advanced s .halt).haltStop (advanced s .halt).t.coreid))

/-- 05 R80, R81: TRAP and SVC complete and then trap with A as `tval`; BRKPT, and HALT without HEN, trap at once. Where a watch
match or a step is due as well, that TRAPI and SVC come first is log entry 45. -/
def SoftwareTraps : Prop :=
  ∀ (a : Src) (s : State),
    (readable s a = true →
      (admits (.trap a) s = true → exec (.trap a) s = .next ((advanced s (.trap a)).takeTrap .trapi (srcVal s a) .after)) ∧
      (admits (.svc a) s = true → exec (.svc a) s = .next ((advanced s (.svc a)).takeTrap .svc (srcVal s a) .after))) ∧
    (admits .brkpt s = true → exec .brkpt s = .next (s.takeTrap .brkpt 0 .before)) ∧
    (admits .halt s = true → bitOf s.t.stepctl.toNat 0 = false → exec .halt s = .next (s.takeTrap .brkpt 1 .before))

/-- 05 R80, R81, R83, 06 R118: NOP, the fences, HALT, and the software traps. -/
def Obligations.SystemMembersComplete : Prop := FencesComplete ∧ SoftwareTraps

/-- 05 R85, 02 R16: CSRR writes what the register reads, in a follower of a gang what its leader read of a loop register; CSRW,
CSRS and CSRC write the register and its old value together, where the new value is legal. A shared register that has been
written in this cycle reads as before its writes (02 R21); that CSRS and CSRC change what they have left is log entry 6's. -/
def Obligations.CsrsComplete : Prop :=
  ∀ (c : BitVec 11) (a : Src) (d : Code) (s : State),
    let n := c.toNat
    let loop := isLoopCsr n
    let reads := fun (v : Word) =>
      let handed := if loop then v else 0
      Completes (.csrr c d) s ((setDest s d v).complete (Instr.csrr c d).len handed handed)
    (s.leaderEntry = none ∨ loop = false → reads (s.csr n)) ∧ (∀ e, s.leaderEntry = some e → loop = true → reads e.dval) ∧
    (readable s a = true → (loop && s.follower s.t.coreid) = false →
      let stored (v : Word) : State :=
        let s1 := s.csrStore n v
        { s1 with t := { s1.t with badRegs := setDrop s1.t.badRegs (128 + n) } }
      let x := srcVal s a
      let o := s.csr n
      let now := s.csrNow n
      (s.csrLegal n x = true →
        CompletesVia (.csrw c a d) s (stored x) (advanced (setDest (stored x) d o) (.csrw c a d))) ∧
      (s.csrLegal n (now ||| x) = true →
        CompletesVia (.csrs c a d) s (stored (now ||| x)) (advanced (setDest (stored (now ||| x)) d o) (.csrs c a d))) ∧
      (s.csrLegal n (now &&& ~~~x) = true →
        CompletesVia (.csrc c a d) s (stored (now &&& ~~~x)) (advanced (setDest (stored (now &&& ~~~x)) d o) (.csrc c a d))))

/-! Scalar memory accesses. -/

/-- 06 R100, R104: LD and LDA complete with the extended value in d. Of memory the value is what the location holds for the
thread, for LDA after the acquire (12 R237); the special pages give what 10 R198 and 19 R327 say. -/
def LoadsComplete : Prop :=
  ∀ (imm : BitVec 10) (f : BitVec 3) (a : Src) (d : Code) (s s1 s2 : State) (p : Place) (v : Word),
    let va := srcVal s a + imm.signExtend 64 * word (sizeOf3 f)
    readable s a = true → Passes (resolve va (sizeOf3 f) Acc.load) s p s1 →
    (Passes (loadFrom f va (sizeOf3 f) false p) s1 v s2 →
      CompletesVia (.ld imm f a d) s s2 (advanced (setDest s2 d v) (.ld imm f a d))) ∧
    (Passes (loadFrom f va (sizeOf3 f) true p) s1 v s2 →
      CompletesVia (.lda imm f a d) s s2 (advanced (setDest s2 d v) (.lda imm f a d))) ∧
    (∀ k acq, p = .mem k → s1.poisoned k (sizeOf3 f) = false → unwatched s1 1 va (sizeOf3 f) = true →
      let from_ := if acq then s1.acquire s1.t.coreid else s1
      let (s3, bs) := from_.loadVia s1.t.coreid k (sizeOf3 f)
      Passes (loadFrom f va (sizeOf3 f) acq p) s1 (extendLoad f (leNat bs)) s3)

/-- 06 R100, R105: ST and STL complete with the low bytes of d stored at the address. -/
def StoresComplete : Prop :=
  ∀ (imm : BitVec 10) (f : BitVec 3) (a d : Src) (s s1 s2 : State) (p : Place),
    let va := srcVal s a + imm.signExtend 64 * word (sizeOf3 f)
    let n := sizeOf3 f
    let v := srcVal s d
    readable s a = true → readable s d = true → Passes (resolve va n Acc.store) s p s1 →
    (Passes (storeTo (.st imm f a d) va n v p) s1 () s2 →
      CompletesVia (.st imm f a d) s s2 (advanced s2 (.st imm f a d))) ∧
    (Passes (storeTo (.stl imm f a d) va n v p) s1 () s2 →
      CompletesVia (.stl imm f a d) s s2 (advanced s2 (.stl imm f a d))) ∧
    ∀ k i, p = .mem k → unwatched s1 2 va n = true →
      Passes (storeTo i va n v p) s1 () (s1.storeBy k (leBytes n v.toNat))

/-- 06 R100, R104, R105: the loads and the stores complete. -/
def Obligations.LoadsAndStoresComplete : Prop := LoadsComplete ∧ StoresComplete

/-- What an atomic of `n` bytes leaves at key `k`: the new value where the operation writes, its arrival at a pad noted, an
acquire where asked. -/
def amoState (op n : Nat) (acq : Bool) (k : Nat) (x cmp : Word) (s : State) : State :=
  let old := s.mem.readNat k n
  let s1 := s.atHome s.t.coreid k n
  let s2 := if amoWrites op (8 * n) old cmp.toNat then
      (s1.writeFor s.t.coreid k (leBytes n (amoNew op (8 * n) old x.toNat cmp.toNat))).noteDisposition s.t.coreid k n
    else s1
  let s3 := s2.bankArrive k n
  if acq then s3.acquire s3.t.coreid else s3

/-- An atomic member completes: the old value in d, the new one at the address (06 R106 to R109). -/
def AmoCompletes (i : Instr) (op n : Nat) (acq : Bool) (b a : Src) (d : Code) (cmp : Word) (s s1 : State) (k : Nat) : Prop :=
  readable s a = true → readable s b = true → Passes (resolveMem (srcVal s a) n Acc.amo) s k s1 → s1.poisoned k n = false →
  unwatched s1 3 (srcVal s a) n = true →
  let t := amoState op n acq k (srcVal s b) cmp s1
  CompletesVia i s t (advanced (setDest t d (sext64 (8 * n) (s1.mem.readNat k n))) i)

/-- 06 R106 to R110: each member of AMO completes; CAS compares with d. -/
def AtomicsComplete : Prop :=
  ∀ (w q r : Bool) (b a : Src) (d : Code) (s s1 : State) (k : Nat),
    let n := if w then 8 else 4
    AmoCompletes (.amoAdd w q r b a d) 0 n q b a d 0 s s1 k ∧ AmoCompletes (.amoAnd w q r b a d) 1 n q b a d 0 s s1 k ∧
    AmoCompletes (.amoOr w q r b a d) 2 n q b a d 0 s s1 k ∧ AmoCompletes (.amoXor w q r b a d) 3 n q b a d 0 s s1 k ∧
    AmoCompletes (.amoMin w q r b a d) 4 n q b a d 0 s s1 k ∧ AmoCompletes (.amoMax w q r b a d) 5 n q b a d 0 s s1 k ∧
    AmoCompletes (.amoMinn w q r b a d) 6 n q b a d 0 s s1 k ∧ AmoCompletes (.amoMaxn w q r b a d) 7 n q b a d 0 s s1 k ∧
    AmoCompletes (.amoSwap w q r b a d) 8 n q b a d 0 s s1 k ∧
    (readable s (.code d) = true → AmoCompletes (.amoCas w q r b a d) 9 n q b a d (srcVal s (.code d)) s s1 k) ∧
    AmoCompletes (.amoFadd q r b a d) 10 4 q b a d 0 s s1 k ∧ AmoCompletes (.amoBfadd2 q r b a d) 11 4 q b a d 0 s s1 k

/-- A local full/empty access whose condition holds completes in one step: the value read, the bit and data changed, `k7` and
d written, and the parked requests that the changed bit releases. -/
def FullEmptyCompletes (i : Instr) (isStore : Bool) (sz c e : BitVec 2) (a : Src) (v : Word) (d : Code) (s s1 : State)
    (k : Nat) : Prop :=
  let va := srcVal s a
  let n := 2 ^ sz.toNat
  let r := s.feRequest isStore va n c e v
  readable s a = true → classOf va ≠ .remote →
  Passes (resolveMem va n (if isStore then Acc.stx else Acc.ldx (e != 0))) s k s1 →
  (isStore = true ∨ s1.poisoned k n = false) → (c = 0 ∨ s1.transferOf s1.t.coreid = none) → unwatched s1 3 va n = true →
  feMet c.toNat (s1.full.contains (k / 8 * 8)) = true → admits i s = true →
  let s2 := { s1 with t := { s1.t with dest := d, len := i.len, mode := .waiting .fe } }
  let (s3, x, full) := s2.feStep false r k
  let s4 := s3.feFinish r.core (!isStore) (some x) (feFlag c.toNat full)
  exec i s = .next (if s4.full.contains (k / 8 * 8) != full then State.feWake (k / 8 * 8) (s4.parked.length + 1) s4 else s4)

/-- 06 R112, R113: LDX and STX on a local word whose condition holds. -/
def FullEmptyComplete : Prop :=
  ∀ (sz c e : BitVec 2) (a d : Src) (x : Code) (s s1 : State) (k : Nat),
    FullEmptyCompletes (.ldx sz c e a x) false sz c e a 0 x s s1 k ∧
    (readable s d = true → FullEmptyCompletes (.stx sz c e a d) true sz c e a (srcVal s d) 0 s s1 k)

/-- 06 R106 to R113: the atomics complete, and LDX and STX whose condition holds. -/
def Obligations.AtomicsAndFullEmptyComplete : Prop := AtomicsComplete ∧ FullEmptyComplete

/-! Vector instructions. -/

/-- 04 R50, 07 R121, R123, R124: an element-wise member without a shape, over registers, ring slots, scalars or ports.
Where its operands can be read and no flag that it raises is enabled, every active element of the destination receives
the member's function of the source elements. -/
def ElementwiseComplete : Prop :=
  ∀ (i : Instr) (m : Member) (s s1 s2 s3 : State) (rd : List (Nat × Nat)) (xs ys zs : List Nat),
    memberOfInstr i = some m → m.q = 0 → m.acc.ok s.t.elemType = true →
    let ty := workType s.t.elemType
    let w := typeBits ty
    let on := s.t.actives w
    let rs := map3 (m.f ty s.t.rounding) xs ys zs
    let fl := flagsOf on rs
    Passes (laneSources i w on m.a m.b m.d m.useD) s (rd, xs, ys, zs) s1 → enabledFlags s1.t.vround fl = 0 →
    Passes (writeVec m.d w rd on (rs.map (·.1))) (flagged s1 fl) () s2 →
    Passes (moveFields (srcHandle m.a) (m.b.bind srcHandle) (handleOf m.d) 64 64 64) s2 () s3 →
    CompletesVia i s s3 (advanced s3 i)

/-- 07 R121, R124: the same on vector registers alone, under a mask of all ones, where every operand access passes: every element of
the destination is written, and only it, the flags and the program's place change. Where 03 R45 leaves a value of the special-function
unit within 1 ulp (VRSQ, VSINPI, VCOSPI), it is log entry 10's free value; that the other members round correctly is log entry
19's. -/
def Obligations.ElementwiseOnRegisters : Prop :=
  ∀ (i : Instr) (m : Member) (s : State) (a b : Code), memberOfInstr i = some m → m.q = 0 →
    m.acc.ok s.t.elemType = true → m.a = .code a → a.toNat < 32 → m.b.getD (.code a) = .code b → b.toNat < 32 →
    m.d.toNat < 32 → regReadable s (32 + a.toNat) = true → regReadable s (32 + b.toNat) = true →
    regReadable s (32 + m.d.toNat) = true → s.t.vmask = BitVec.allOnes 64 →
    let ty := workType s.t.elemType
    let w := typeBits ty
    let rs := map3 (m.f ty s.t.rounding) (elems w s.t.v[a.toNat]!) (elems w s.t.v[b.toNat]!)
      (elems w s.t.v[if m.useD then m.d.toNat else a.toNat]!)
    let fl := flagsOf (s.t.actives w) rs
    enabledFlags s.t.vround fl = 0 →
    Completes i s (advanced { flagged s fl with
      t := (flagged s fl).t.writeV m.d.toNat (BitVec.ofNat 512 (packElems w (rs.map (·.1)))) } i)

/-- One step of a shaped instruction, or its completion (07 R136 to R138): with every step done it completes; otherwise the
step reads, raises its flags and writes, and the instruction completes with its last step or is to be executed again. -/
def ShapedCompletes (i : Instr) (q : BitVec 3) (z : Nat) (a : Tensor) (b : Option Tensor) (d : Tensor) (useD : Bool)
    (f : Nat → Nat → Nat → Nat → Nat × Nat) (fin : Ctx → Ctx) (s : State) : Prop :=
  let r := s.t.shape q.toNat
  let zz := typeBits z / 8
  let p := stepElems a b d
  let total := shapeSteps r p
  let j := s.t.vprog.toNat
  let st := stepAt r p j
  s.inExchange = false → stridesFit r zz a b d = true → total ≤ 0xFFFFFFFF →
  (j = total → total ≠ 0 → Completes i s (advanced { s with t := { fin s.t with vprog := 0 } } i)) ∧
  (j = total → total = 0 → Completes i s (advanced { s with t := { s.t with vprog := 0 } } i)) ∧
  (j < total → ∀ s1 s2 rd kd xs ys zs,
    let rs := map3 (f s.t.rounding) xs ys zs
    let fl := flagsOf (List.replicate st.2.1 true) rs
    Passes (shapedRead i r zz st a b d useD) s (rd, kd, xs, ys, zs) s1 → enabledFlags s1.t.vround fl = 0 →
    Passes (shapedWrite st.2.1 rd kd a b d (rs.map (·.1))) (flagged s1 fl) () s2 → admits i s = true →
    (j + 1 = total → quiet { s2 with t := { fin s2.t with vprog := 0 } } = true →
      exec i s = .next (advanced { s2 with t := { fin s2.t with vprog := 0 } } i)) ∧
    (j + 1 < total →
      exec i s = .next { s2 with t := { s2.t with vprog := BitVec.ofNat 32 (j + 1), mode := .running, issued := true } }))

/-- 07 R122, R136 to R138: an element-wise member over a shape. -/
def ShapedElementwise : Prop :=
  ∀ (i : Instr) (m : Member) (s : State), memberOfInstr i = some m → m.q ≠ 0 →
    let ty := shapeType (s.t.shape m.q.toNat)
    let z := workType ty
    m.acc.ok ty = true →
    ShapedCompletes i m.q z ⟨m.a, z⟩ (m.b.map fun x => ⟨x, z⟩) ⟨.code m.d, z⟩ m.useD (m.f z) id s

/-- 07 R121 to R124, R136 to R138: the element-wise members complete, and over a shape take their steps. -/
def Obligations.ElementwiseMembersComplete : Prop := ElementwiseComplete ∧ ShapedElementwise

/-- 07 R127, R128: VCVT, VQNT and VDQ without a shape complete: the converted elements, the codes of a block with its scale
in `qscale`, or the elements that codes stand for under a scale. -/
def ConversionsComplete : Prop :=
  ∀ (t : BitVec 4) (b a : Src) (d : Code) (s s1 s2 s3 s4 : State) (ra rb rd : List (Nat × Nat)) (xs : List Nat),
    let ty := workType s.t.elemType
    let w := typeBits ty
    let on := s.t.actives w
    let m := s.t.rounding
    let qt := s.t.quantType
    let all := List.replicate 64 true
    let plan := quantPlan qt (elemVal ty ((srcVal s b).toNat % 2 ^ w)).abs
    let cvt := (List.range (512 / w)).map fun k =>
      if k < min (512 / typeBits t.toNat) (512 / w) then convert m t.toNat ty (xs.getD k 0) else (0, 0)
    let codes := (List.range 64).map fun k => if k < 512 / w && s.t.active w k then plan.code qt ty (xs.getD k 0) else (0, 0)
    let dq := (List.range (512 / w)).map fun k => dequant m qt ((srcVal s b).toNat % 256) ty (xs.getD k 0)
    let read (i : Instr) (wide : Nat) (used : List Bool) : Prop :=
      Passes (touchFields i (srcHandle a) none (handleOf d) 64 0 64) s (ra, rb, rd) s1 ∧ Passes (readElems wide used ra a) s1 xs s2
    let wrote (fl wide : Nat) (marks : List Bool) (rs : List (Nat × Nat)) (f : Ctx → Ctx) : Prop :=
      enabledFlags s2.t.vround fl = 0 ∧ Passes (writeVec d wide rd marks (rs.map (·.1))) (flagged s2 fl) () s3 ∧
      Passes (moveFields (srcHandle a) none (handleOf d) 64 0 64) { s3 with t := f s3.t } () s4
    (t.toNat ≤ 12 → s.t.elemType ≤ 12 →
      read (.vcvt 0 t a d) (typeBits t.toNat) (on.take (min (512 / typeBits t.toNat) (512 / w))) → wrote (flagsOf on cvt) w on cvt id →
      CompletesVia (.vcvt 0 t a d) s s4 (advanced s4 (.vcvt 0 t a d))) ∧
    (isFloatT s.t.elemType = true → readable s b = true → read (.vqnt 0 b a d) w on →
      wrote (plan.flags ||| flagsOf all codes) 8 all codes (fun t => { t with qscale := BitVec.ofNat 8 plan.byte }) →
      CompletesVia (.vqnt 0 b a d) s s4 (advanced s4 (.vqnt 0 b a d))) ∧
    (isFloatT s.t.elemType = true → readable s b = true → read (.vdq 0 b a d) 8 on → wrote (flagsOf on dq) w on dq id →
      CompletesVia (.vdq 0 b a d) s s4 (advanced s4 (.vdq 0 b a d)))

/-- 07 R127, R128, R137: VCVT, VQNT and VDQ over a shape. -/
def ShapedConversions : Prop :=
  ∀ (q : BitVec 3) (t : BitVec 4) (b a : Src) (d : Code) (s : State), q ≠ 0 →
    let rt := shapeType (s.t.shape q.toNat)
    let z := workType rt
    let ty := workType s.t.elemType
    let qt := s.t.quantType
    let plan := quantPlan qt (elemVal ty ((srcVal s b).toNat % 2 ^ typeBits ty)).abs
    (t.toNat ≤ 12 → rt ≤ 12 → ShapedCompletes (.vcvt q t a d) q z ⟨a, t.toNat⟩ none ⟨.code d, z⟩ false
      (fun m x _ _ => convert m t.toNat z x) id s) ∧
    (isFloatT s.t.elemType = true → readable s b = true → rt = qt →
      ShapedCompletes (.vqnt q b a d) q rt ⟨a, ty⟩ none ⟨.code d, rt⟩ false (fun _ x _ _ => plan.code qt ty x)
        (fun t => { t with qscale := BitVec.ofNat 8 plan.byte }) s) ∧
    (isFloatT rt = true → readable s b = true →
      ShapedCompletes (.vdq q b a d) q z ⟨a, qt⟩ none ⟨.code d, z⟩ false
        (fun m x _ _ => dequant m qt ((srcVal s b).toNat % 256) z x) id s)

/-- 07 R127, R128, R137: VCVT, VQNT and VDQ, without a shape and over one. -/
def Obligations.VectorConversionsComplete : Prop := ConversionsComplete ∧ ShapedConversions

/-- An unshaped member of one or two vector sources whose result is a function of all their elements (07 R126); `used` marks
the elements of a that its active elements need (07 R121). -/
def WholeCompletes (i : Instr) (acc : Accepts) (a : Src) (b : Option Src) (d : Code) (s : State) (ok : State → Prop)
    (used : State → Nat → List Bool → List Nat → List Bool) (f : State → Nat → List Nat → List Nat → List Nat) : Prop :=
  ∀ (s1 s2 s3 s4 s5 : State) (ra rb rd : List (Nat × Nat)) (xs ys : List Nat),
    let w := typeBits (workType s.t.elemType)
    let on := s.t.actives w
    acc.ok s.t.elemType = true →
    Passes (touchFields i (srcHandle a) (b.bind srcHandle) (handleOf d) 64 64 64) s (ra, rb, rd) s1 →
    (match b with | some y => Passes (readElems w on rb y) s1 ys s2 | none => ys = [] ∧ s2 = s1) → ok s2 →
    Passes (readElems w (used s2 w on ys) ra a) s2 xs s3 → ok s3 →
    Passes (writeVec d w rd on (f s3 w xs ys)) s3 () s4 →
    Passes (moveFields (srcHandle a) (b.bind srcHandle) (handleOf d) 64 64 64) s4 () s5 →
    CompletesVia i s s5 (advanced s5 i)

/-- 04 R50, 07 R126: VSEL, VPERM and VSLIDE, VBCAST, VEXT and VINS, VCMP, and the C form's VZERO complete. -/
def Obligations.GroupMembersComplete : Prop :=
  ∀ (b a : Src) (d : Code) (k c : BitVec 3) (vd : BitVec 5) (s : State),
    let ty := workType s.t.elemType
    let w := typeBits ty
    let p := 512 / w
    let on := s.t.actives w
    WholeCompletes (.vsel k b a d) .bytes a (some b) d s (fun x => regReadable x (64 + k.toNat) = true) (fun _ _ m _ => m) (fun x w xs ys =>
      (List.range (512 / w)).map fun i => selBytes (predVal x k) (i * (w / 8)) (w / 8) (xs.getD i 0) (ys.getD i 0)) ∧
    WholeCompletes (.vperm b a d) .bits a (some b) d s (fun _ => True) (fun _ w m ys => namedElems (512 / w) m ys) (fun _ w xs ys =>
      ys.map fun j => xs.getD (j % (512 / w)) 0) ∧
    WholeCompletes (.vslide b a d) .bits a none d s (fun x => readable x b = true)
      (fun x w m _ => (List.range (512 / w)).map fun (j : Nat) =>
        let i : Int := j + (srcVal x b).toInt
        decide (0 ≤ i) && m.getD i.toNat false)
      (fun x w xs _ =>
      (List.range (512 / w)).map fun (i : Nat) =>
        let j : Int := i - (srcVal x b).toInt
        if 0 ≤ j then xs.getD j.toNat 0 else 0) ∧
    (s.t.elemType ≤ 12 → ∀ s1 s2 s3 s4 ra rb rd xs,
      (Passes (touchFields (.vbcast a d) none none (handleOf d) 0 0 64) s (ra, rb, rd) s1 → readable s1 a = true →
        Passes (writeVec d w rd on (List.replicate p ((srcVal s1 a).toNat % 2 ^ w))) s1 () s2 →
        Passes (moveFields none none (handleOf d) 0 0 64) s2 () s3 → CompletesVia (.vbcast a d) s s3 (advanced s3 (.vbcast a d))) ∧
      (Passes (touchFields (.vins b a d) none none (handleOf d) 0 0 64) s (ra, rb, rd) s1 → readable s1 a = true →
        readable s1 b = true →
        Passes (writeVec d w rd ((List.range p).map fun i => i == (srcVal s1 b).toNat % p && s.t.active w i)
          (List.replicate p ((srcVal s1 a).toNat % 2 ^ w))) s1 () s2 →
        Passes (moveFields none none (handleOf d) 0 0 64) s2 () s3 → CompletesVia (.vins b a d) s s3 (advanced s3 (.vins b a d))) ∧
      (Passes (touchFields (.vext b a d) (srcHandle a) none none 64 0 0) s (ra, rb, rd) s1 →
        readable s1 b = true → Passes (readElems w ((List.range p).map (· == (srcVal s1 b).toNat % p)) ra a) s1 xs s2 →
        let x := xs.getD ((srcVal s1 b).toNat % p) 0
        Passes (moveFields (srcHandle a) none none 64 0 0)
          (setDest s2 d (if isIntT ty && signedT ty then sext64 w x else word x)) () s4 →
        CompletesVia (.vext b a d) s s4 (advanced s4 (.vext b a d)))) ∧
    (Accepts.arith.ok s.t.elemType = true → (if isIntT ty then c ≠ 6 else c ≠ 4 ∧ c ≠ 5) → ∀ s1 s2 s3 s4 ra rb rd xs ys,
      let i := Instr.vcmp c b a k
      let rs := (xs.zip ys).map fun (x, y) => vcmpHolds c.toNat ty x y
      let fl := flagsOf on (rs.map fun r => (0, r.2))
      Passes (touchFields i (srcHandle a) (srcHandle b) none 64 64 0) s (ra, rb, rd) s1 → Passes (readElems w on ra a) s1 xs s2 →
      Passes (readElems w on rb b) s2 ys s3 → enabledFlags s3.t.vround fl = 0 →
      Passes (moveFields (srcHandle a) (srcHandle b) none 64 64 0)
        (setPred (flagged s3 fl) k (word (laneBits w 0 ((on.zip rs).map fun (m, r) => m && r.1)))) () s4 →
      CompletesVia i s s4 (advanced s4 i)) ∧
    ∀ s1, Passes (writeVec (vd.setWidth 6) w [] on (List.replicate p 0)) s () s1 →
      CompletesVia (.cVzero vd) s s1 (advanced s1 (.cVzero vd))

/-- 07 R131: a reduction of the active elements completes with its value in element 0 and zeros above. -/
def ReductionsComplete : Prop :=
  ∀ (a : Src) (d : Code) (s s1 s2 : State) (ty : Nat) (xs : List Nat),
    let m := s1.t.rounding
    let reduces (i : Instr) (r : Nat × Nat) : Prop :=
      Passes (activeElems i .arith a) s (ty, xs) s1 → enabledFlags s1.t.vround r.2 = 0 →
      Passes (writeFirst d r.1) (flagged s1 r.2) () s2 → CompletesVia i s s2 (advanced s2 i)
    reduces (.vredsum a d) (redSum ty m xs) ∧ reduces (.vredmax a d) (redPick true ty xs) ∧
    reduces (.vredmin a d) (redPick false ty xs) ∧ reduces (.vredamax a d) (redAmax ty xs)

/-- 07 R132: VROWMAX in a formed gang completes with the running maximum in `vprog`, the first member of an exchange noting
its index and destination. -/
def RowMaximumCompletes : Prop :=
  ∀ (a : Src) (d : Code) (s s1 : State) (ty id p : Nat) (g : Gang) (xs : List Nat),
    let i := Instr.vrowmax a d
    Accepts.floats.ok s.t.elemType = true → s.formedGang s.t.coreid = some (id, g, p) → s.inExchange = false →
    Passes (activeElems i .floats a) s (ty, xs) s1 → enabledFlags s1.t.vround (redAmax ty xs).2 = 0 →
    let s2 := flagged s1 (redAmax ty xs).2
    let before := if p = 0 then 0 else (s2.ctx (g.members.getD (p - 1) 0)).vprog.toNat
    let s3 := { s2 with t := { s2.t with vprog := BitVec.ofNat 32 (rowMax (fmtOf ty) before (redAmax ty xs).1) } }
    let s4 := if g.rowmax.isNone then { s3 with gangs := s3.gangs.put id { g with rowmax := some (g.count p), rowdest := d } } else s3
    CompletesVia i s s4 (advanced s4 i)

/-- 07 R131, R132: the reductions and VROWMAX complete. -/
def Obligations.VectorReductionsComplete : Prop := ReductionsComplete ∧ RowMaximumCompletes

/-- 03 R43, R44, 07 R133: VXADD adds the active f32 elements exactly, or raises NV where one is no number; VXRD rounds; VXCLR
clears the ten words. -/
def Obligations.ExactAccumulatorCompletes : Prop :=
  ∀ (b a : Src) (d : Code) (s s1 s2 s3 : State) (k : Nat) (ys : List Nat), readable s a = true →
    let va := srcVal s a
    (Passes (readElems 32 [] [] b) s ys s1 → Passes (accumulator va true) s1 k s2 → unwatched s2 3 va 80 = true →
      let i := Instr.vxadd b a
      let xs := ((s.t.actives 32).zip ys).filterMap fun (m, x) => if m then some x else none
      let old := s2.mem.readNat k 80
      (xs.any (fun x => (exactAdd x 0).2 != 0) = false →
        Passes (writeWords k old (xs.foldl (fun acc x => (exactAdd x acc).1) old) 10) s2 () s3 →
        CompletesVia i s (s3.bankArrive k 80) (advanced (s3.bankArrive k 80) i)) ∧
      (xs.any (fun x => (exactAdd x 0).2 != 0) = true → enabledFlags s2.t.vround flNv = 0 →
        CompletesVia i s (flagged s2 flNv) (advanced (flagged s2 flNv) i))) ∧
    (Passes (accumulator va true) s k s1 → unwatched s1 3 va 80 = true →
      let i := Instr.vxrd a d
      let (x, fl) := exactRead s1.t.rounding (s1.mem.readNat k 80)
      let t := (flagged s1 fl).bankArrive k 80
      enabledFlags s1.t.vround fl = 0 → CompletesVia i s t (advanced (setDest t d (word x)) i)) ∧
    (Passes (accumulator va false) s k s1 → unwatched s1 3 va 80 = true →
      let t := (s1.writeFor s1.t.coreid k (List.replicate 80 0)).bankArrive k 80
      CompletesVia (.vxclr a) s t (advanced t (.vxclr a)))

/-- 07 R134: VLD and VGATH read the active elements, VLDB one element for all of them; VST and VSCAT write them. -/
def VectorMemoryComplete : Prop :=
  ∀ (b a dv : Src) (d : Code) (s s1 s2 s3 s4 : State) (w z : Nat) (vas : List Word) (ks : List (Word × Nat)) (xs : List Nat),
    let on := s1.t.actives w
    readable s a = true →
    let loads (i : Instr) (gather one : Bool) : Prop :=
      Passes (vmemType i) s (w, z) s → Passes (vmemAddrs w gather (srcVal s a) b) s vas s1 →
      Passes (locate Acc.load z (marked on (if one then List.replicate (512 / w) (vas.headD 0) else vas))) s1 ks s2 →
      Passes (readFound z (if one then ks.take 1 else ks)) s2 xs s3 →
      Passes (writeVec d w [] on (spread on (if one then ks.map fun _ => xs.headD 0 else xs))) s3 () s4 →
      CompletesVia i s s4 (advanced s4 i)
    let stores (i : Instr) (gather : Bool) : Prop :=
      Passes (vmemType i) s (w, z) s → Passes (vmemAddrs w gather (srcVal s a) b) s vas s1 →
      Passes (readElems w [] [] dv) s1 xs s1 → Passes (locate Acc.store z (marked on vas)) s1 ks s2 →
      Passes (watchFound z ks) s2 () s3 → Passes (writeFound z ks (marked on xs)) s3 () s4 →
      CompletesVia i s s4 (advanced s4 i)
    loads (.vld b a d) false false ∧ loads (.vldb b a d) false true ∧ loads (.vgath b a d) true false ∧
    stores (.vst b a dv) false ∧ stores (.vscat b a dv) true

/-- 07 R135: SHPLD loads a shape record whose type and reserved bytes are legal; SHPST stores one. -/
def ShapeSlotsComplete : Prop :=
  ∀ (q : BitVec 3) (a : Src) (s s1 s2 : State) (k x : Nat), readable s a = true →
    let va := srcVal s a
    (Passes (resolveMem va 32 Acc.load) s k s1 → Passes (readPlain 1 va k 32) s1 x s2 → bitsOf x 224 8 < 14 → bitsOf x 232 24 = 0 →
      let t := { s2 with t := { s2.t with q := s2.t.q.set! (q.toNat - 1) (BitVec.ofNat 256 x)
                                          badRegs := setDrop s2.t.badRegs (71 + q.toNat) } }
      CompletesVia (.shpld q a) s t (advanced t (.shpld q a))) ∧
    (Passes (resolveMem va 32 Acc.store) s k s1 → unwatched s1 2 va 32 = true →
      let bs := leBytes 32 (s1.t.shape q.toNat)
      let t := s1.storeBy k bs
      CompletesVia (.shpst q a) s t (advanced t (.shpst q a)))

/-- 07 R134, R135: vector memory accesses and shape slots. -/
def Obligations.VectorMemoryAndSlotsComplete : Prop := VectorMemoryComplete ∧ ShapeSlotsComplete

/-- 07 R139: HBIND on a RING that its checks accept marks the role as bound, gives the activity its FILL or DRAIN duty and
binds the handle. -/
def HandleBinds : Prop :=
  ∀ (b a : Src) (d : Code) (s s1 : State) (key loc : Nat), readable s a = true → readable s b = true →
    let i := Instr.hbind b a d
    let av := srcVal s a
    let bv := srcVal s b
    let producer := flagOf bv 16
    let core := s1.t.coreid
    let part := s1.partNo core
    let o := s1.obj key
    let need := max 1 (fieldOf bv 0 16)
    let duty := ringDuty producer
    let os := s1.table core
    (s.transferOf s.t.coreid).isNone = true → (s.t.h[d.toNat - 32]!).role = .unbound → fieldOf bv 17 47 = 0 →
    Passes (findObjectAs (refOf av) av) s (key, loc) s1 → o.kind = Obj.ring → s1.ringLegal core part loc o = true →
    o.flags &&& roleBit producer = 0 → need ≤ o.expected → tableFull os loc duty = false →
    let s2 := (s1.setObj core key { o with flags := o.flags ||| roleBit producer }).setTable core
      (s1.addDuty part os ⟨loc, duty, 1, 0, 0, false, false, false⟩)
    let h : Handle := ⟨word (loc % 2 ^ 33), BitVec.ofNat 16 need, 0, if producer then .producer else .consumer⟩
    let t := { s2 with t := { s2.t with h := s2.t.h.set! (d.toNat - 32) h, badRegs := setDrop s2.t.badRegs (48 + d.toNat) } }
    CompletesVia i s t (advanced t i)

/-- 07 R141: HADVC and HADVP take one step of a ring that holds, or has room for, a slot; HSTAT reports a bound handle;
HUNBIND ends the binding and its duty. -/
def HandlesComplete : Prop :=
  ∀ (d a : Code) (s s1 : State) (key loc : Nat), (s.transferOf s.t.coreid).isNone = true →
    let h := s.t.h[d.toNat - 32]!
    let o := s1.obj key
    let core := s1.t.coreid
    let os := s1.table core
    let part := s1.partNo core
    let stepped (producer : Bool) : State :=
      let s3 := s1.ownAdvance key loc producer
      { s3 with t := { s3.t with h := vecMod s3.t.h (d.toNat - 32) fun h => { h with cursor := 0 } } }
    (h.role = .consumer → Passes (handleRing h) s (key, loc) s1 → o.arrived ≠ 0 →
      CompletesVia (.hadvc d) s (stepped false) (advanced (stepped false) (.hadvc d))) ∧
    (h.role = .producer → Passes (handleRing h) s (key, loc) s1 → o.arrived < o.expected →
      CompletesVia (.hadvp d) s (stepped true) (advanced (stepped true) (.hadvp d))) ∧
    (let g := s.t.h[a.toNat - 32]!
     let t := s1.bankArrive key 32
     let x := t.obj key
     g.role ≠ .unbound → Passes (handleRing g) s (key, loc) s1 →
      CompletesVia (.hstat a d) s t (advanced (setDest t d (word (g.cursor.toNat + 2 ^ 16 * (x.arrived % 256) +
        2 ^ 24 * (x.expected % 256) + 2 ^ 32 * x.producerIndex + 2 ^ 40 * x.consumerIndex + 2 ^ 48 * g.role.bits))) (.hstat a d))) ∧
    (h.role ≠ .unbound → s.subscribed s.t.coreid h = none → Passes (handleRing h) s (key, loc) s1 → h.cursor = 0 →
      (h.role = .producer ∨ o.arrived = 0) →
      let s2 := (s1.setObj core key { o with flags := o.flags - (o.flags &&& roleBit (h.role == .producer)) }).setTable core
        (s1.endDuty part os loc (ringDuty (h.role == .producer)))
      let t := { s2 with t := { s2.t with h := s2.t.h.set! (d.toNat - 32) Handle.none } }
      CompletesVia (.hunbind d) s t (advanced t (.hunbind d)))

/-- 07 R139, R141: the handle members complete. -/
def Obligations.RingHandlesComplete : Prop := HandleBinds ∧ HandlesComplete

/-! The matrix engine. -/

/-- A job whose ranges pass enters a queue with room: it holds its configurations and its unit of the done duty, `lastjob` is
its id, and its start is to come (08 R150, R152, R153). `s1` is the state after its references' checks. -/
def Issues (i : Instr) (op : JobOp) (rs : List JobRange) (wait done : Option (Word × Nat × Nat)) (s s1 s2 : State) : Prop :=
  Passes (checkRanges rs) s1 () s2 → s2.queueFull = false → s2.jobOwed done = true →
  s2.jobRankOk (s2.newJob op wait done) done = true →
  let t := s2.admitJob (s2.newJob op wait done)
  CompletesVia i s t (advanced t i)

/-- 08 R150, R151, R155: MMA, MMAS and MMAQ are issued where their tiles and window are lawful. -/
def MultipliesIssue : Prop :=
  ∀ (z n : Bool) (p q : BitVec 2) (ta tb : BitVec 4) (w x y : BitVec 5) (x4 y4 : BitVec 4) (s s1 s2 s3 : State)
    (wait done : Option (Word × Nat × Nat)),
    let tcfg (t : BitVec 4) := s.tileCfg (clusterOf s.t.coreid) t.toNat
    let ca := tcfg ta
    let cb := tcfg tb
    let reg (n : Nat) : Src := .code (BitVec.ofNat 6 n)
    let wv := srcVal s (reg w.toNat)
    let r0 := fieldOf wv 0 10
    let c0 := fieldOf wv 16 7
    let lawful (types : Nat → Nat → Option Nat) : Prop :=
      cfgRows ca ≠ 0 ∧ cfgRows cb ≠ 0 ∧ (types (cfgType ca) (cfgType cb)).any (fun limit => cfgLen ca ≤ limit) = true ∧
      cfgLen ca = cfgLen cb ∧ fieldOf wv 10 6 = 0 ∧ fieldOf wv 23 41 = 0 ∧ windowFits r0 c0 (cfgRows ca) (cfgRows cb) = true
    let refs (a b : Nat) : Prop :=
      readable s (reg a) = true ∧ readable s (reg b) = true ∧ Passes (jobRef a (srcVal s (reg a))) s wait s1 ∧
      Passes (jobRef b (srcVal s (reg b))) s1 done s2
    readable s (reg w.toNat) = true →
    (lawful mmaTypes → refs x.toNat y.toNat →
      Issues (.mma z n ta tb w x y) (.mma z n ta.toNat tb.toNat r0 c0) [] wait done s s2 s3) ∧
    (lawful mmasTypes → refs x4.toNat y4.toNat →
      Issues (.mmas p ta tb q w x4 y4) (.mmas (16 * 2 ^ p.toNat) (16 * 2 ^ q.toNat) ta.toNat tb.toNat r0 c0) [] wait done s s2 s3) ∧
    (lawful mmaqTypes → refs x.toNat y.toNat →
      Issues (.mmaq z n ta tb w x y) (.mmaq z n ta.toNat tb.toNat r0 c0) [] wait done s s2 s3)

/-- 08 R150, R151, R158: TLD, TZERO, ACZ, ACRD and ACWR are issued where their tile or descriptor is lawful. -/
def TileJobsIssue : Prop :=
  ∀ (tl : BitVec 4) (a x : Src) (y : BitVec 5) (s s1 s2 : State) (done : Option (Word × Nat × Nat)),
    let cfg := s.tileCfg (clusterOf s.t.coreid) tl.toNat
    let av := srcVal s a
    let v := srcVal s x
    let rows := cfgRows cfg
    let data : JobRange := ⟨av, rows * cfgRowSize cfg, Acc.engineLoad, 64⟩
    Passes (matDone y) s done s1 →
    (rows ≠ 0 → Issues (.tzero tl y) (.tzero tl.toNat) [] none done s s1 s2) ∧
    (readable s a = true →
      (descLawful av true = true → Issues (.acz a y) (.acz av) [] none done s s1 s2) ∧
      (readable s x = true →
        (rows ≠ 0 → (v = 0 ∨ wideT (cfgType cfg) = false) →
          Issues (.tld tl a y x) (.tld tl.toNat av v) (if v = 0 then [data] else [data, ⟨v, 8 * rows, Acc.engineLoad, 8⟩]) none
            done s s1 s2) ∧
        ([10, 9, 8, 11, 12, 0].contains (descType v) = true → descLawful v false = true → s1.t.acscale ≠ 255 →
          Issues (.acrd a y x) (.acrd av v) [⟨av, descBytes v, Acc.engineStore, 64⟩] none done s s1 s2) ∧
        ([10, 9, 8].contains (descType v) = true → descLawful v false = true →
          Issues (.acwr a y x) (.acwr av v) [⟨av, descBytes v, Acc.engineLoad, 64⟩] none done s s1 s2)))

/-- 08 R160: JPOLL answers a job's state; JWAIT completes, as an acquire, once the job has left the queue. -/
def JobPollsComplete : Prop :=
  ∀ (a : Src) (d : Code) (s : State), readable s a = true →
    let cl := clusterOf s.t.coreid
    Writes (.jpoll a d) s d (word (s.jobState cl (srcVal s a))) ∧
    ((s.transferOf s.t.coreid).isNone = true → (s.cluster cl).validJob (srcVal s a) = true →
      (s.cluster cl).jobs.find? (·.id == fieldOf (srcVal s a) 0 32) = none →
      Completes (.jwait a) s (advanced (s.acquire s.t.coreid) (.jwait a)))

/-- 08 R150 to R160: the matrix members are issued, JPOLL and JWAIT complete. -/
def Obligations.MatrixMembersComplete : Prop := MultipliesIssue ∧ TileJobsIssue ∧ JobPollsComplete

/-- 08 R162, 09 R185: an engine's step at an object's home. A SIG or a CTR counts one more with the status ORed in; a barrier of
the step's phase receives the units with it, and completes the phase they fill; a step for the phase after the current one is held
for it; any other breaks the barrier; a location that holds no object is left alone. -/
def EngineStepsArrive : Prop :=
  ∀ (s : State) (agent key count status : Nat) (due : BitVec 16),
    let o := s.obj key
    let t := s.engineStep agent key due count status
    let merged := mergeStatus o.status status
    (o.kind = Obj.sig →
      t = (s.setObj agent key { o with arrived := (o.arrived + 1) % 2 ^ 32, status := merged }).wakeIf key
        (fun w => !w.lock && ({ o with arrived := (o.arrived + 1) % 2 ^ 32 } : Obj).satisfies w.value) merged) ∧
    (o.kind = Obj.ctr → t = s.addCount agent key 1 status) ∧
    (o.kind = 0 → t = s) ∧
    (o.isBarrier = true →
      (due.toNat = o.phase → o.arrived + count ≤ o.expected →
        t = (s.setObj agent key { o with arrived := o.arrived + count, status := merged }).settled agent key) ∧
      (due.toNat = (o.phase + 1) % 2 ^ 16 → o.broken = false →
        t = { s with pendings := s.pendings ++ [⟨key, agent, due, count, word status⟩] }) ∧
      (due.toNat ≠ o.phase → due.toNat ≠ (o.phase + 1) % 2 ^ 16 →
        t = (s.setObj agent key { o with status := merged }).breakObj agent key))

/-- 08 R153, R161 to R163: an issue that stalled on a full queue is admitted; a job starts once its wait object, the jobs
ahead of it and the array allow; a job that runs completes, where no transfer phase holds the pads of its ranges and of its done
object, with its work and its step at the done object, whose status has BRK where the wait object was BROKEN at its start. -/
def JobEvents : Prop :=
  ∀ (s : State) (j : Job),
    let cl := s.arg.x
    let c := s.cluster cl
    (∀ r, c.jobs.length < 16 → c.offers.find? (fun j => c.turnIs (laneOf j.core)) = some j →
      (s.ctx j.core).mode = .waiting (.jobQueue r) →
      exec .matrixJobAdmission s = .next (((s.eventFor j.core fun s =>
        let s1 := s.admitJob j
        (s1.complete s1.t.len 0 0).afterTaken).pushTurn j.core).moreOffers cl)) ∧
    (c.jobs.find? (·.id == s.arg.y) = some j →
      (j.running = false → s.jobReady c j = true →
        (j.op.multiply = false ∨ (c.jobs.any (fun q => q.running && q.op.multiply) = false ∧
          (c.ahead j.id).any (fun q => q.op.multiply && !q.running && s.jobReady c q) = false)) →
        let brk := match j.wait with | some (k, _) => (s.obj k).broken | none => j.brk
        exec .matrixJobStart s = .next ((s.modCluster cl fun c => { c with
          jobs := c.jobs.map fun q => if q.id = j.id then { q with running := true, brk := brk } else q }).push
            .matrixJobCompletion { x := cl, y := j.id })) ∧
      (j.running = true →
        j.op.addrs.all (fun a => classOf a != .pad || !s.padHeld engineAgent (padBase + padCoreOf j.core a)) = true →
        (∀ k loc, j.done = some (k, loc) → s.padHeld engineAgent k = false) →
        let part := (s.partOf cl).getD 0
        let (s1, st, f) := (s.undoJob cl j).runJob cl part j s.arg.errs
        let s2 := s1.modCluster cl fun c => { c with jobs := c.jobs.filter (·.id != j.id) }
        (j.done = none → exec .matrixJobCompletion s = .next ((s2.logJob cl part j st f).moreOffers cl)) ∧
        ∀ k loc, j.done = some (k, loc) →
          exec .matrixJobCompletion s = .next (((s2.engineStep j.core k j.due 1 (if j.brk then st + 2 ^ 63 else st)).logJob cl part j
            st f).moreOffers cl)))

/-- 08 R153, R161 to R163, 09 R185: the events of jobs, and the step of an engine at a done object. -/
def Obligations.MatrixEvents : Prop := JobEvents ∧ EngineStepsArrive

/-! Copies, tags and streams. -/

/-- 10 R204: in a copy program CXRD reads the record, BURST moves its bytes and the cursors, CXDONE ends the copy with its
status. -/
def Obligations.CopyInstructionsComplete : Prop :=
  ∀ (b a dv : Src) (d : Code) (s s1 s2 : State) (c : Copy) (ks kd : List Nat), s.runningCopy = some c → readable s a = true →
    (∀ v, c.field (srcVal s a).toNat = some v → Writes (.cxrd a d) s d v) ∧
    (admits (.cxdone a) s = true → fieldOf (srcVal s a) 4 60 = 0 →
      exec (.cxdone a) s = .next (s.endCopy s.t.coreid
        (fieldOf (srcVal s a) 0 4 * 2 ^ 12 + (if c.remaining = 0 then 0 else ctpl)) 0 0)) ∧
    (readable s b = true → readable s dv = true → c.stopping = false →
      let len := srcVal s b
      let n := len.toNat
      let dst := srcVal s dv
      let remote := classOf dst == .remote
      0 < n → n ≤ 512 → n ≤ c.remaining → Passes (burstKeys Acc.load n (srcVal s a)) s ks s1 →
      (if remote then kd = [] ∧ s2 = s1 ∧ s1.peerOk s1.t.coreid (fieldOf dst 58 6) = true
        else Passes (burstKeys Acc.store n dst) s1 kd s2) →
      let (bs, bad) := s2.gatherBytes ks
      let moved := if remote then (s2.unrepeatable c.core).send (bulkPacket s2 c c.packets dst bs bad)
        else s2.scatterBytes c.core kd bs bad
      let s3 := moved.modCopy c fun x => { x with
        source := x.source + len, dest := x.dest + len, remaining := x.remaining - n, inFlight := x.inFlight + 1
        status := if bad.isEmpty then x.status else x.status ||| word cpsn
        packets := x.packets + 1
        resend := if remote then x.resend ++ [⟨c.packets, srcVal s a, dst, n, moved.time, 0⟩] else x.resend }
      let t := if !remote then s3.push .burstAck c.localAck
        else if c.collective then s3.push .collectiveResend { c.arg with v := word c.packets, z := s3.time } else s3
      CompletesVia (.burst b a dv) s t (advanced t (.burst b a dv)))

/-- 10 R209: TAGWANY, TAGWALL and TAGFF complete, as acquires, once the tags they wait for are in `tagrdy`; TAGCLR clears
tags and TAGRD reads them. -/
def TagsComplete : Prop :=
  ∀ (a : Src) (d : Code) (s : State),
    let found := s.t.tagrdy &&& srcVal s a
    let acq := s.acquire s.t.coreid
    Writes (.tagrd d) s d s.t.tagrdy ∧
    (readable s a = true →
      (let t := { s with t := { s.t with tagrdy := s.t.tagrdy &&& ~~~srcVal s a } }
       Completes (.tagclr a) s (advanced t (.tagclr a))) ∧
      (s.transferOf s.t.coreid = none →
        (found ≠ 0 → Completes (.tagwany a d) s (advanced (setDest acq d found) (.tagwany a d))) ∧
        (found = srcVal s a → Completes (.tagwall a d) s (advanced (setDest acq d found) (.tagwall a d))) ∧
        (found ≠ 0 →
          let n := (lowestBit 64 0 found.toNat).getD 0
          let t := { acq with t := { acq.t with tagrdy := acq.t.tagrdy &&& ~~~(word (2 ^ n)) } }
          Completes (.tagff a d) s (advanced (setDest t d (word n)) (.tagff a d)))))

/-- 10 R210, R212: SUBSCR on a bound handle starts its engine on the other side of the ring; UNSUB asks the engine to end
and completes once it has. -/
def SubscriptionsComplete : Prop :=
  ∀ (a d : Code) (s s1 : State) (key loc : Nat), s.transferOf s.t.coreid = none →
    let h := s.t.h[d.toNat - 32]!
    let r := s.t.shape a.toNat
    let loader := h.role == .consumer
    let o := s1.obj key
    (h.role ≠ .unbound → s.subscribed s.t.coreid h = none → shapeType r < 13 → Passes (handleRing h) s (key, loc) s1 →
      o.flags &&& roleBit loader = 0 → classOf (shapeBase r) = .global → streamLength r ≠ 0 →
      let x : Subscription := {
        loc := loc, loader := loader, shape := BitVec.ofNat 256 r, part := s1.partNo s1.t.coreid
        cluster := clusterOf s1.t.coreid, done := 0, faulted := false, ending := false, early := false
        core := s1.t.coreid }
      let s2 := s1.setObj s1.t.coreid key { o with flags := o.flags ||| roleBit loader }
      let t := { s2 with subs := s1.subs ++ [x] }.nextSlot x
      CompletesVia (.subscr a d) s t (advanced t (.subscr a d))) ∧
    (s.subscribed s.t.coreid h = none → s.t.mode = .waiting .unsub →
      Completes (.unsub d) s (advanced (s.acquire s.t.coreid) (.unsub d)))

/-- 10 R209 to R212: the tag members, SUBSCR and UNSUB complete. -/
def Obligations.TagsAndStreamsComplete : Prop := TagsComplete ∧ SubscriptionsComplete

/-- 10 R199, R202, R203: a kick whose checks pass is accepted; a stalled one tries again when its thread has a free record; the
supervisor writes template slots; an idle channel starts the copy at the head of its queue. -/
def CopyEventsStart : Prop :=
  ∀ (s s1 : State) (c : Copy) (cs : List Copy),
    let x := s.arg.x
    let y := s.arg.y
    (y < 8 → (s.ctx x).mode = .running → Passes (kickStore .kick 0 y s.arg.v) (s.swapIn x) () s1 →
      exec .kick s = .next (s1.swapIn s.t.coreid)) ∧
    ((s.ctx x).mode = .waiting .copyQueue → (s.freeRecord x (s.ctx x).sliceid.toNat).isSome = true →
      exec .copyAccept s = .next ((s.setCtx { s.ctx x with mode := .running }).pushTurn x)) ∧
    (s.isSup x = true → y < 64 → exec .templateSlotWrite s = .next (s.setTemplate (clusterOf x) y s.arg.v)) ∧
    (s.channelQueue x y = c :: cs → c.running = false →
      let v := (s.cluster x).templates.getD c.template 0
      let s2 := s.modCopy c fun x => { x with started := true, running := true, ord := if x.started then x.ord else flagOf v 0 }
      let s3 := (s2.setCtx (startCtx c (v &&& ~~~(1#64)))).acquire (channelCore x y)
      let stalled := ((s3.t.coreid, s3.t) :: s3.others).filter fun x => x.2.mode == .waiting .copyQueue
      exec .copyStart s = .next (stalled.foldl (fun x w => x.push .copyAccept { x := w.1 }) (s3.pushTurn (channelCore x y))))

/-- 10 R205, R206, 22 R364, R365: an acknowledged transfer is no longer in flight, a packet's record goes with its acknowledgement,
and one that has none any more changes nothing; a copy that has ended with none in flight performs its completion step; a packet of a
collective step is sent again after its failure or its time, in a round of the step's or past the last one not at all. -/
def CopyEventsEnd : Prop :=
  ∀ (s : State) (c : Copy), s.copyOf s.arg = some c →
    (s.arg.nums.getD 1 0 = 1 → exec .burstAck s = .next (s.modCopy c fun x => { x with inFlight := x.inFlight - 1 })) ∧
    (s.arg.nums.getD 1 0 ≠ 1 → c.resend.find? (fun r => r.num == s.arg.v.toNat) = none → exec .burstAck s = .next s) ∧
    (∀ r, s.arg.nums.getD 1 0 ≠ 1 → c.resend.find? (fun r => r.num == s.arg.v.toNat) = some r →
      (s.arg.z = 6 → c.collective = true →
        exec .burstAck s = .next (s.push .collectiveResend { s.arg with z := 0 })) ∧
      (s.arg.z ≠ 6 ∨ c.collective = false →
        exec .burstAck s = .next (s.modCopy c fun x => { x with
          inFlight := x.inFlight - 1
          status := x.status ||| word (if s.arg.z = 0 then 0 else cfault)
          resend := x.resend.erase r }))) ∧
    (c.ended = true → c.held = false → s.copyBlocked c = false → c.inFlight = 0 → s.padHeld engineAgent c.key = false →
      let s1 := s.copyDone c
      let s2 := if (s1.ctx c.core).mode = .waiting .copyQueue then s1.push .copyAccept { x := c.core } else s1
      exec .copyCompletion s = .next
        (if (s2.channelQueue c.cluster c.channel).isEmpty then s2 else s2.push .copyStart { x := c.cluster, y := c.channel })) ∧
    ∀ r, c.resend.find? (fun r => r.num == s.arg.v.toNat) = some r →
      (s.arg.z = 0 ∨ (s.arg.z = r.time ∧ r.time + 100000 ≤ s.time)) →
      let rounds := (s.part c.part).collretry.toNat
      (c.retries < rounds ∨ r.tries < c.retries → exec .collectiveResend s = .next (s.resent c r)) ∧
      (rounds ≤ c.retries → c.retries ≤ r.tries →
        exec .collectiveResend s = .next ((s.modCopy c fun x => { x with
          inFlight := x.inFlight - 1, status := x.status ||| word (2 ^ 16), resend := x.resend.erase r }).logError c.part
          { slice := c.slice.toNat, location := c.core, kind := 14, detailA := c.retries, detailB := c.node r.dst % 2 ^ 14 }))

/-- 10 R199 to R206, 22 R364, R365: copies are accepted, start, move and complete. -/
def Obligations.CopyEvents : Prop := CopyEventsStart ∧ CopyEventsEnd

/-- 10 R211, R212: a loader fills the next slot of its ring, and a storer drains it, where the ring and its pad allow; each
ends its subscription when the ring is gone. -/
def Obligations.StreamEvents : Prop :=
  ∀ (s : State) (x : Subscription) (key : Nat), s.locKey x.part x.loc = some key →
    let o := s.obj key
    let z := typeBits (shapeType x.shape.toNat) / 8
    let total := streamLength x.shape.toNat
    let m := min (o.slotSize / z) (total - x.done)
    let slot (i : Nat) := padBase + o.basePad x.loc + i * o.slotSize
    o.kind = Obj.ring → o.broken = false → s.padHeld engineAgent key = false →
    (s.eventSub true = some x → x.ending = false → x.faulted = false → s.padHeld engineAgent (slot o.producerIndex) = false →
      o.arrived < o.expected → ∀ s1 bs, State.loadElems x m x.done s = (s1, bs, none) →
      let s2 := s1.writeFor x.agent (slot o.producerIndex) (padTo o.slotSize bs)
      let s3 := (s2.ringStep x.agent key true).modSub x fun y => { y with done := x.done + m, faulted := false }
      exec .loaderSlotFill s = .next (if total ≤ x.done + m then s3.endSub x else s3.nextSlot x)) ∧
    (s.eventSub false = some x → s.padHeld engineAgent (slot o.consumerIndex) = false → o.arrived ≠ 0 →
      ∀ s1, State.storeElems x m x.done (slot o.consumerIndex) s = (s1, none) →
      let s2 := (s1.ringStep x.agent key false).modSub x fun y => { y with done := x.done + m }
      exec .storerSlotDrain s = .next (if total ≤ x.done + m then s2.endSub x else s2.nextSlot x))

/-! Objects and obligations. -/

/-- An instruction that takes effect once for an activity completes for the thread that executes it (09 R167): `s1` is the
state after its effect, `v` what d receives. -/
def OnceCompletes (i : Instr) (d : Option Code) (s s1 : State) (v : Word) : Prop :=
  s.leaderEntry = none → CompletesVia i s s1
    ((match d with | some c => setDest s1 c v | none => s1).complete i.len 0 v)

/-- The instructions of OBJ, TASK and SYNC that take effect once for a gang, with their destinations (09 R167). -/
def onceDest : Instr → Option (Option Code)
  | .obnew _ _ d | .wait _ d | .lock _ d | .obrd _ _ d | .rankof _ d | .spawn _ d | .ttarm _ d | .now d | .sync _ d => some (some d)
  | .obdel _ | .arrive _ | .arriveLeave _ | .arriveb _ _ | .signal _ _ | .unlock _ | .obxfer _ _ _ | .msgsend _ => some none
  | _ => none

/-- 09 R167: a follower of a gang completes them with the value that its leader's d received, and with no other effect. -/
def Obligations.FollowersTakeTheLeadersValue : Prop :=
  ∀ (i : Instr) (d : Option Code) (e : Skew) (s : State), onceDest i = some d → s.leaderEntry = some e →
    Completes i s (advanced (match d with | some c => setDest s c e.dval | none => s) i)

/-- 09 R183, R184, R190: OBNEW makes an object with its creator's duties, OBDEL retires one that nobody waits for, owes or
holds, OBRD reads a word of one and RANKOF its rank. -/
def ObjectsComplete : Prop :=
  ∀ (b a : Src) (d : Code) (s s0 s1 : State) (key loc r : Nat), readable s a = true →
    let av := srcVal s a
    let bv := srcVal s b
    let core := s1.t.coreid
    let os := s1.table core
    let o := s1.obj key
    (readable s b = true → Passes (findObject (word (fieldOf bv 0 33))) s (key, loc) s0 →
      let i := Instr.obnew b a d
      let kind := fieldOf bv 44 4
      let x := fieldOf bv 34 8 * 2 ^ 16 + fieldOf bv 48 16
      let dutyCtr := flagOf bv 43
      let duty := creatorDuty kind x dutyCtr
      1 ≤ kind → kind ≤ 6 → flagOf bv 42 = false → flagOf bv 33 = false → (dutyCtr = true → kind = Obj.ctr) →
      (kind = Obj.bar ∨ kind = Obj.bbar → x ≠ 0) → (kind = Obj.lock → x = 0) → (kind = Obj.ring → x ≠ 0 ∧ x ≤ 255) →
      Passes (rankSpec i av) s0 r s1 →
      (∀ k, duty = some k → tableFull os loc k = false ∧
        (k.phased = true → findDuty os loc .arrive = none ∧ findDuty os loc .bytes = none)) →
      let new : Obj := {
        rank := r, kind := kind, flags := if dutyCtr then 2 else 0, phase := 0, expected := x, arrived := 0
        aux := if kind = Obj.ring then o.aux % 2 ^ 48 else 0, status := 0 }
      let s2 := s1.placeObj core key new
      let s3 := match duty with
        | some k => s2.setTable core (s2.addDuty (s2.partNo core) (s2.table core) ⟨loc, k, x, if k = .bytes then x else 0, 0, false, false, false⟩)
        | none => s2
      let ref := word (fieldOf bv 0 33)
      OnceCompletes i (some d) s s3 (if kind = Obj.lock ∨ kind = Obj.ring then ref else ref + word (2 ^ 48))) ∧
    (Passes (findKind [1, 2, 3, 4, 5, 6] (refOf av)) s (key, loc, o) s1 →
      (s1.waiters.any (·.key == key) = false →
        s1.others.any (fun x => (s1.waitsOnRing key x.2).isSome) = false →
        (o.kind = Obj.ring → o.flags &&& 12 = 0) → (o.kind = Obj.lock → o.arrived = 0) →
        (os ++ s1.orphansOf core).any (·.loc == loc) = false →
        let gone := (s1.dropPendings key).setObj core key { o with
          kind := 0, flags := o.flags ||| 1, status := s1.pendingStatus key (o.status ||| 2 ^ 63) }
        OnceCompletes (.obdel a) none s (if o.kind = Obj.ctr then gone.readyOn key else gone) 0) ∧
      OnceCompletes (.rankof a d) (some d) s (s1.bankArrive key 32) (word o.rank) ∧
      (readable s b = true → bv.toNat ≤ 3 →
        let t := s1.bankArrive key 32
        OnceCompletes (.obrd b a d) (some d) s t (word (t.mem.readNat (key + 8 * bv.toNat) 8))))

/-- 09 R185: ARRIVE and ARRIVE.LEAVE of a due phase add the entry's units to the barrier, which may complete its phase; ARRIVEB adds
its operand's units, of the activity's entry and then of an orphaned one (20 R344); on a BROKEN barrier they end the duty (R181), and
at a retired location they do no more than that (R184). -/
def ArrivalsComplete : Prop :=
  ∀ (b a : Src) (s s1 : State) (key loc : Nat) (e : Oblig) (orphan : Bool), readable s a = true →
    let o := s1.obj key
    let core := s1.t.coreid
    Passes (findDischarge [Obj.bar, Obj.bbar] (refOf (srcVal s a))) s (key, loc, o) s1 →
    (o.kind = 0 → s1.anyDuty core loc [.arrive, .bytes] = some (e, orphan) →
      let ends (i : Instr) : Prop := OnceCompletes i none s (s1.updateDuty core loc e.kind orphan none) 0
      ends (.arrive a) ∧ ends (.arriveLeave a) ∧ (readable s b = true → ends (.arriveb b a))) ∧
    (o.kind ≠ 0 → ∀ es, s1.dueAt core loc (arrivalDuty o) o.phase = (e, orphan) :: es →
    let arrives (i : Instr) (c : Nat) (leave : Bool) : Prop :=
      o.arrived + c ≤ o.expected →
      let left := if leave then (if o.kind = Obj.bar then e.count else e.share) else 0
      let s2 := State.arriveFrom core loc o.broken leave ((e, orphan) :: es) c s1
      OnceCompletes i none s ((s2.setObj core key { o with
        arrived := o.arrived + c, aux := putBits o.aux 0 32 (o.aux % 2 ^ 32 + left) }).settled core key) 0
    arrives (.arrive a) e.count false ∧ arrives (.arriveLeave a) e.count true ∧
    (readable s b = true → o.kind = Obj.bbar → srcVal s b ≠ 0 →
      (srcVal s b).toNat ≤ e.count + (es.map (·.1.count)).foldl (· + ·) 0 →
      arrives (.arriveb b a) (srcVal s b).toNat false))

/-- 09 R183 to R185, R190: objects are made, read, retired and arrived at. -/
def Obligations.ObjectMembersComplete : Prop := ObjectsComplete ∧ ArrivalsComplete

/-- 09 R176, R186: WAIT within the wait rule completes at once, as an acquire, where the object is BROKEN or satisfies the
value, with the object's status in d; otherwise the thread is listed as a waiter and stays. -/
def WaitCompletesOrWaits : Prop :=
  ∀ (a : Src) (d : Code) (s s1 : State) (key loc : Nat), readable s a = true → s.transferOf s.t.coreid = none →
    s.leaderEntry = none →
    let i := Instr.wait a d
    let ref := refOf (srcVal s a)
    let o := s1.obj key
    let core := s1.t.coreid
    let v := BitVec.ofNat 16 (fieldOf ref 48 16)
    Passes (findWhere Obj.awaitable ref) s (key, loc, o) s1 →
    s1.mayWait core (s1.table core) o.rank (fun x => o.isBarrier && barrierExempt loc v.toNat x) none = true →
    let s2 := s1.bankArrive key 32
    ((o.broken || o.satisfies v) = true → OnceCompletes i (some d) s (s2.acquire core) (word o.status)) ∧
    ((o.broken || o.satisfies v) = false → admits i s = true →
      exec i s = .next { s2 with
        t := { s2.t with dest := d, len := i.len, mode := .waiting (.object key loc v) }
        waiters := s2.waiters ++ [⟨key, core, v, false⟩] })

/-- 09 R187, R188: SIGNAL spends its duty where the object needs one and adds to the count, and at a retired location ends its
duty (R184); LOCK takes a free lock with its UNLOCK duty, waits for it, or reads the status of a BROKEN one; UNLOCK gives up the
duty and passes the lock on. -/
def SignalsAndLocksComplete : Prop :=
  ∀ (b a : Src) (d : Code) (s s1 s2 : State) (key loc : Nat), readable s a = true →
    let ref := refOf (srcVal s a)
    let o := s1.obj key
    let core := s1.t.coreid
    let os := s1.table core
    (readable s b = true → Passes (findDischarge [Obj.sig, Obj.ctr] ref) s (key, loc, o) s1 → o.kind ≠ 0 →
      (o.kind = Obj.sig → s1.discharge core loc .signal (max 1 (srcVal s b).toNat) = some s2) →
      (o.kind ≠ Obj.sig → o.dutyCtr = true → s1.discharge core loc .msg (max 1 (srcVal s b).toNat) = some s2) →
      (o.kind ≠ Obj.sig → o.dutyCtr = false → s2 = s1) →
      OnceCompletes (.signal b a) none s (s2.addCount core key (max 1 (srcVal s b).toNat) 0) 0) ∧
    (readable s b = true → Passes (findDischarge [Obj.sig, Obj.ctr] ref) s (key, loc, o) s1 → o.kind = 0 →
      ∀ e orphan, s1.anyDuty core loc [.signal, .msg] = some (e, orphan) →
      OnceCompletes (.signal b a) none s (s1.updateDuty core loc e.kind orphan none) 0) ∧
    (s.transferOf s.t.coreid = none → Passes (findKind [Obj.lock] ref) s (key, loc, o) s1 →
      s1.mayWait core os o.rank (fun _ => false) none = true →
      (o.broken = true → OnceCompletes (.lock a d) (some d) s ((s1.bankArrive key 32).acquire core) (word o.status)) ∧
      (tableFull os loc .unlock = false → o.broken = false → o.arrived = 0 →
        let s2 := s1.setObj core key { o with arrived := tokenOf s1.t }
        let s3 := s2.setTable core (s2.addDuty (s2.partNo core) (s2.table core) ⟨loc, .unlock, 1, 0, 0, false, false, false⟩)
        OnceCompletes (.lock a d) (some d) s (s3.acquire s3.t.coreid) (word o.status)) ∧
      (tableFull os loc .unlock = false → o.broken = false → o.arrived ≠ 0 → s.leaderEntry = none → admits (.lock a d) s = true →
        let s2 := s1.bankArrive key 32
        exec (.lock a d) s = .next { s2 with
          t := { s2.t with dest := d, len := (Instr.lock a d).len, mode := .waiting (.lock key loc) }
          waiters := s2.waiters ++ [⟨key, core, 0, true⟩] })) ∧
    (Passes (findDischarge [Obj.lock] ref) s (key, loc, o) s1 → ∀ e orphan, s1.dutyOf core loc .unlock = some (e, orphan) →
      let s2 := s1.updateDuty core loc .unlock orphan none
      OnceCompletes (.unlock a) none s (if o.kind = 0 then s2 else s2.passLock core key) 0)

/-- 09 R175, R189: OBXFER moves units of a duty to a live slice of the partition whose wait still passes its test with them; a
lock's token follows its duty. -/
def TransferOfDutiesCompletes : Prop :=
  ∀ (b a dv : Src) (s s0 s1 : State) (key loc : Nat) (o : Obj) (k : Duty) (e : Oblig) (x : Slice),
    readable s a = true → readable s b = true → readable s dv = true → s1 = s0.bankArrive key 32 →
    let bv := srcVal s b
    let n := fieldOf bv 0 32
    let core := s1.t.coreid
    let p := s1.partNo core
    let os := s1.sliceTable x
    let moved : Oblig := ⟨loc, k, n, 0, e.due, false, false, false⟩
    Passes (findKind [1, 2, 3, 4, 5, 6] (refOf (srcVal s a))) s (key, loc, o) s0 → Duty.ofCode (fieldOf bv 32 3) = some k →
    n ≠ 0 → k ≠ .fill → k ≠ .drain → (k = .unlock → n = 1) → fieldOf bv 35 29 = 0 →
    findDuty (s1.table core) loc k = some e → n ≤ e.count → s1.slice (srcVal s dv).toNat = some x → x.live = true →
    x.part = p → x.id ≠ s1.t.sliceid.toNat → mergeConflict os loc k e.due = false → tableFull os loc k = false →
    x.threads.find? (fun c => !s1.waitAllows c (s1.addDuty p os moved)) = none →
    let s2 := (s1.unrepeatable core).setTable core (s1.takeUnits p (s1.table core) e n)
    let s3 := s2.setSliceTable x (s2.addDuty p (s2.sliceTable x) moved)
    OnceCompletes (.obxfer b a dv) none s (s3.handLocks core p (fieldOf (srcVal s dv) 0 32) [moved]) 0

/-- 09 R175, R176, R186 to R189: waits, signals, locks and transfers of duties. -/
def Obligations.WaitsAndSignalsComplete : Prop := WaitCompletesOrWaits ∧ SignalsAndLocksComplete ∧ TransferOfDutiesCompletes

/-! Tasks. -/

/-- 09 R192, R196, 18 R289, R290: SPAWN and TTARM of a record whose checks pass move its units; SPAWN pushes the slice and
writes its id into the record, under the check of the record's load alone (log entry 57); TTARM arms an entry, the lowest free one
(log entry 58), which fires at once where its counter allows. -/
def SpawnAndArmComplete : Prop :=
  ∀ (a : Src) (d : Code) (s s1 s2 : State) (r : BitVec 2048) (units : List Oblig) (counter : Option Nat),
    readable s a = true → Passes (readRecord (srcVal s a)) s r s1 →
    let core := s2.t.coreid
    let p := s2.partNo core
    let given := (s2.unrepeatable core).setTable core (s2.giveUnits p (s2.table core) units)
    (Passes (checkRecord (.spawn a d) (srcVal s a) r false) s1 (units, counter) s2 →
      (s2.part p).hasRoom (recQueue r) = true →
      let (s3, id) := given.pushSlice core p r (s2.gather p units) counter
      let t := match s3.tryResolve core p 0 .core (srcVal s a + 56) 8 Acc.load with
        | (s4, .ok (.mem k)) => s4.writeHome core k (leBytes 8 id)
        | _ => s3
      OnceCompletes (.spawn a d) (some d) s t (word id)) ∧
    (Passes (checkRecord (.ttarm a d) (srcVal s a) r true) s1 (units, counter) s2 →
      let cl := clusterOf core
      let n := ((List.range 64).find? fun k => ((s2.cluster cl).armed.find k).isNone).getD 0
      let key := counter.getD 0
      let s3 := given.modCluster cl fun c => { c with armed := c.armed.put n ⟨r, s2.gather p units, p, core, key, false⟩ }
      OnceCompletes (.ttarm a d) (some d) s
        (if counterHolds (s2.obj key).arrived (recField r 48 4) then s3.fireEntry cl n else s3) (word n))

/-- 09 R193 to R195, R197: EXIT with nothing owed retires the slice, in a formed gang once the east end has passed it; YIELD
completes and sends the slice back to its pool with a fresh budget, once its threads stand at boundaries; NOW reads the device
time; MSGSEND sends its message. A YIELD with a step due takes it first, which is log entry 45's. -/
def TasksComplete : Prop :=
  ∀ (a : Src) (d : Code) (s : State), s.transferOf s.t.coreid = none →
    OnceCompletes (.now d) (some d) s s (word s.time) ∧
    (s.lowestDuty s.t.coreid = none → admits .exit s = true →
      (s.formedGang s.t.coreid = none → exec .exit s = .next (s.exitSlice s.t.sliceid.toNat)) ∧
      ∀ id g p, s.formedGang s.t.coreid = some (id, g, p) →
        let t := (s.complete 4 0 0).endMember id p true
        exec .exit s = .next (if p + 1 = g.members.length then t.exitSlice id else t)) ∧
    (s.leaderEntry = none → admits .yield s = true →
      let id := s.t.sliceid.toNat
      let t := (s.complete 4 0 0).afterTaken
      ∀ x, t.slice id = some x → x.state = .running →
        (t.readyToLeave x = true → exec .yield s = .next (t.yieldNow x)) ∧
        (t.readyToLeave x = false →
          exec .yield s = .next ((t.towardLeaving x).push .suspension { x := id, y := yieldCode, z := s.t.coreid }))) ∧
    (readable s a = true → ∀ dst cref bs bad s1 s2, Passes (readMessage (.msgsend a) (srcVal s a)) s (dst, cref, bs, bad) s1 →
      Passes (if classOf dst == .remote then sendMessage dst cref bs bad else localMessage dst cref bs bad) s1 () s2 →
      OnceCompletes (.msgsend a) none s s2 0)

/-- 09 R192 to R197, 18 R289, R290: the members of TASK complete. -/
def Obligations.TaskMembersComplete : Prop := SpawnAndArmComplete ∧ TasksComplete

/-! Gangs, domains and the routers. -/

/-- 11 R215: WSTART with the gang's length forms it and begins its first slots; WEND stops a member, and the gang dissolves at
the east end; WPOS reads the position. A follower's WSTART has no effect. -/
def WeltComplete : Prop :=
  ∀ (a : Src) (d : Code) (s : State),
    Writes (.wpos d) s d (word (s.t.gangpos.toNat % 256)) ∧
    (s.leaderEntry.isSome = true → Completes (.wstart a) s (advanced s (.wstart a))) ∧
    (∀ id g p, s.leaderEntry = none → readable s a = true → s.gangOf s.t.coreid = some (id, g, p) → g.formed = false →
      (srcVal s a).toNat = g.members.length →
      CompletesVia (.wstart a) s (s.formGang id g) (advanced (s.formGang id g) (.wstart a))) ∧
    ∀ id g p, s.formedGang s.t.coreid = some (id, g, p) →
      let s1 := (s.complete 4 0 0).endMember id p false
      let t := if p + 1 = g.members.length then s1.dissolve id else s1
      CompletesVia .wend s t t

/-- 11 R226, R228: SYNC within the wait rule arrives and waits, and the phase completes if every member has arrived; in a
BROKEN domain it completes at once, as an acquire. -/
def SyncArrives : Prop :=
  ∀ (a : Src) (d : Code) (s : State) (n : Nat) (dom : Domain), readable s a = true → s.leaderEntry = none →
    let av := srcVal s a
    let core := s.t.coreid
    let l := fieldOf av 0 2
    (s.domainsOf core).find? (fun x => x.2.level == l) = some (n, dom) → fieldOf av 2 62 = 0 →
    (s.domainsOf core).any (fun x => x.2.transfer && x.2.level != l) = false →
    s.mayWait core (s.table core) dom.rank (fun _ => false) (some l) = true →
    (dom.broken = true → OnceCompletes (.sync a d) (some d) s (s.acquire core) (syncWord dom.phase.toNat false true)) ∧
    (dom.broken = false → admits (.sync a d) s = true →
      exec (.sync a d) s = .next (State.tryDomain { s with
        t := { s.t with dest := d, len := (Instr.sync a d).len, mode := .waiting (.sync l) } } (s.partNo core) n))

/-- 11 R215, R226, R228: the members of WELT, and SYNC. -/
def Obligations.GangsAndDomainsComplete : Prop := WeltComplete ∧ SyncArrives

/-- 11 R232 to R234: in a transfer phase MUXSEL selects from the next cycle on, XMIT sends in its own cycle and waits for a
later one, XRECV reads a latch whose cycle has passed and waits for a later one. -/
def RoutersComplete : Prop :=
  ∀ (b a : Src) (v d : Code) (s : State) (n : Nat) (dom : Domain), s.transferOf s.t.coreid = some (n, dom) →
    let core := s.t.coreid
    let p := s.partNo core
    let now := s.cycleOf dom
    let bv := srcVal s b
    (readable s a = true →
      let av := srcVal s a
      fieldOf av 0 3 ≤ 4 → (fieldOf av 3 3 ≤ 3 ∨ fieldOf av 3 3 = 7) → fieldOf av 6 58 = 0 →
      let t := s.modCluster (clusterOf core) fun c =>
        { c with muxsel := c.muxsel ++ [(fieldOf av 0 3, now + 1, laneOf core, fieldOf av 3 3)] }
      Completes (.muxsel a) s (advanced t (.muxsel a))) ∧
    (readable s b = true → regReadable s (32 + v.toNat) = true → fieldOf bv 34 30 = 0 →
      let x := fieldOf bv 0 32
      let link := fieldOf bv 32 2
      dom.entry (clusterOf core) link x = slotCode core →
      (x = now → let t := s.sendOn p n (clusterOf core) link x s.t.v[v.toNat]!
        CompletesVia (.xmit b v) s t (advanced t (.xmit b v))) ∧
      (now < x → admits (.xmit b v) s = true →
        let s1 := { s with t := { s.t with len := (Instr.xmit b v).len, result := bv } }
        let s2 := s1.push .slotSend { x := core, y := link, z := x, nums := [p, n], bytes := leBytes 64 (s.t.v[v.toNat]!).toNat }
        exec (.xmit b v) s = .next { s2 with t := { s2.t with mode := .waiting .xmit } })) ∧
    (readable s b = true → fieldOf bv 32 32 = 0 →
      (bv.toNat < now → s.stillComing p n bv.toNat = false →
        let t := { s with t := recvInto (s.core core).latch bv.toNat d.toNat s.t }
        Completes (.xrecv b d) s (advanced t (.xrecv b d))) ∧
      (now ≤ bv.toNat → admits (.xrecv b d) s = true →
        let s1 := { s with t := { s.t with len := (Instr.xrecv b d).len, result := bv, dest := d } }
        let s2 := s1.push .xrecvCyclePassed { x := core, z := bv.toNat, nums := [p, n] }
        exec (.xrecv b d) s = .next { s2 with t := { s2.t with mode := .waiting .xrecv } }))

/-- 09 R178, 11 R216, R230, R233, R234: a released wait returns; a slot of a gang begins for the members that the advance rule
admits; a value arrives at its router in its cycle; a waiting XMIT or XRECV completes once its cycle has come or passed. -/
def GangAndRouterEvents : Prop :=
  ∀ (s : State),
    (∀ redo, s.t.mode = .released redo → quiet s.finishWait = true → exec .waitResume s = .next s.finishWait) ∧
    (∀ g, s.gangs.find s.arg.x = some g → g.formed = true → g.stopped = false →
      s.slotBusy g.members = false →
      exec .gangSlot s = .next { s with agenda := (((List.range g.members.length).filter g.advances).map fun q =>
        .member (g.members.getD q 0) (g.count q)) ++ s.agenda }) ∧
    (∀ f d, s.flits.find? (fun f => f.cluster == s.arg.x && f.input == s.arg.y && f.cycle == s.arg.z &&
        s.arg.nums == [f.part, f.dom]) = some f → (s.part f.part).domains[f.dom]? = some d → d.start + f.cycle ≤ s.time →
      s.stillComing f.part f.dom (f.cycle - 1) = false →
      exec .routerValueArrival s = .next (State.arrive { s with flits := s.flits.erase f } d f)) ∧
    ∀ d, (s.part (s.arg.nums.headD 0)).domains[s.arg.nums.getD 1 0]? = some d → d.transfer = true →
      let p := s.arg.nums.headD 0
      let n := s.arg.nums.getD 1 0
      let core := s.arg.x
      ((s.ctx core).mode = .waiting .xmit → (s.ctx core).result = word (s.arg.z + s.arg.y * 2 ^ 32) → d.start + s.arg.z ≤ s.time →
        exec .slotSend s = .next
          ((s.sendOn p n (clusterOf core) s.arg.y s.arg.z (BitVec.ofNat 512 (leNat s.arg.bytes))).completeFor core id)) ∧
      ((s.ctx core).mode = .waiting .xrecv → (s.ctx core).result = word s.arg.z → s.arg.z < s.cycleOf d →
        s.stillComing p n s.arg.z = false →
        exec .xrecvCyclePassed s = .next (s.completeFor core (recvInto (s.core core).latch s.arg.z (s.ctx core).dest.toNat)))

/-- 11 R216, R230 to R234: the router members, and the events of waits, gangs and routers. -/
def Obligations.RoutersAndGangEvents : Prop := RoutersComplete ∧ GangAndRouterEvents

/-! Remote operations. -/

/-- A remote element of an instruction is accepted into its destination's sachet (13 R260, R261). -/
def RemoteCompletes (i : Instr) (op : Nat) (wide : Bool) (b a : Src) (cmp : Word) (s : State) : Prop :=
  readable s a = true → readable s b = true →
  let va := srcVal s a
  let n := if wide then 8 else 4
  let slot := fieldOf va 58 6
  fieldOf va 0 57 % n = 0 → classOf va = .remote → s.auditable s.t.coreid = false → s.peerOk s.t.coreid slot = true →
  s.transferOf s.t.coreid = none → unwatched s 3 va n = true →
  let t := s.create (newElement s 21 (8 * op + if wide then 4 else 0) va n (srcVal s b) cmp false) [slot]
  CompletesVia i s t (advanced t i)

/-- 13 R260, R261: every member of RAMO, and RST to one peer or to those of a mask, completes with its elements created. -/
def Obligations.RemoteOperationsComplete : Prop :=
  ∀ (w : Bool) (sz : BitVec 2) (b a : Src) (d : Code) (s : State),
    RemoteCompletes (.ramoAdd w b a) 0 w b a 0 s ∧ RemoteCompletes (.ramoAnd w b a) 1 w b a 0 s ∧
    RemoteCompletes (.ramoOr w b a) 2 w b a 0 s ∧ RemoteCompletes (.ramoXor w b a) 3 w b a 0 s ∧
    RemoteCompletes (.ramoMin w b a) 4 w b a 0 s ∧ RemoteCompletes (.ramoMax w b a) 5 w b a 0 s ∧
    RemoteCompletes (.ramoMinn w b a) 6 w b a 0 s ∧ RemoteCompletes (.ramoMaxn w b a) 7 w b a 0 s ∧
    RemoteCompletes (.ramoSwap w b a) 8 w b a 0 s ∧
    (readable s (.code d) = true → RemoteCompletes (.ramoCas w b a d) 9 w b a (srcVal s (.code d)) s) ∧
    RemoteCompletes (.ramoFadd b a) 10 false b a 0 s ∧ RemoteCompletes (.ramoBfadd2 b a) 11 false b a 0 s ∧
    (readable s a = true → readable s b = true → readable s (.code d) = true → srcVal s (.code d) = 0 →
      Completes (.rst true sz b a d) s (advanced s (.rst true sz b a d))) ∧
    (readable s a = true → readable s b = true → s.auditable s.t.coreid = false → s.transferOf s.t.coreid = none →
      let va := srcVal s a
      let n := 2 ^ sz.toNat
      fieldOf va 0 57 % n = 0 → unwatched s 2 va n = true →
      (classOf va = .remote → s.peerOk s.t.coreid (fieldOf va 58 6) = true →
        let t := s.create (newElement s 20 sz.toNat va n (srcVal s b) 0 false) [fieldOf va 58 6]
        CompletesVia (.rst false sz b a d) s t (advanced t (.rst false sz b a d))) ∧
      (readable s (.code d) = true → fieldOf va 57 7 = 0 → srcVal s (.code d) ≠ 0 →
        (setBits 64 (srcVal s (.code d)).toNat).all (s.peerOk s.t.coreid) = true →
        let t := s.create (newElement s 20 (sz.toNat + 4) va n (srcVal s b) 0 true) (setBits 64 (srcVal s (.code d)).toNat)
        CompletesVia (.rst true sz b a d) s t (advanced t (.rst true sz b a d))))

/-- 13 R268, R269: SFLUSH and SFLUSHA send sachets on their way; FENCEF, once no status is outstanding, completes as an
acquire with the sticky word; FERR reads and clears it. -/
def Obligations.FabricComplete : Prop :=
  ∀ (a : Src) (d : Code) (s : State),
    let core := s.t.coreid
    let flushed := s.flushFor core s.t.sliceid.toNat
    CompletesVia .sflusha s flushed (advanced flushed .sflusha) ∧
    (readable s a = true → (srcVal s a).toNat < 64 → flagOf s.t.peers[(srcVal s a).toNat]! 63 = true →
      let t := s.flushDest (dieOf core) (s.peerDest core (srcVal s a).toNat)
      CompletesVia (.sflush a) s t (advanced t (.sflush a))) ∧
    (s.transferOf core = none → flushed.activity.outstanding = 0 →
      let t := flushed.acquire flushed.t.coreid
      CompletesVia (.fencef d) s t (advanced (setDest t d flushed.activity.sticky) (.fencef d))) ∧
    (let t := s.modCtx (s.leaderOf core) fun c => { c with sticky := 0 }
     CompletesVia (.ferr d) s t (advanced (setDest t d s.activity.sticky) (.ferr d)))

/-- 13 R256, R262, R265, R266, 20 R333: a sachet departs at its age; a packet's elements are applied in order and their
statuses return; an element without a status draws RESET and has no effect any more; a status reaches its activity, whose notice is a REMOTE trap. -/
def ElementEvents : Prop :=
  ∀ (s : State) (pk : Packet),
    (∀ x e es, s.sachets.find? (fun x => x.die == s.arg.x && x.index == s.arg.y) = some x → x.elements = e :: es →
      e.accepted = s.arg.z → e.accepted + (s.part (s.partNo e.core)).sachage.toNat ≤ s.time →
      exec .sachetAgeDeparture s = .next (s.depart x)) ∧
    (s.arg.packet = some pk →
      (pk.elements.any s.elementHeld = false →
        let (s1, cs) := State.applyAll pk.part pk.elements s
        exec .elementApply s = .next (if pk.src = s.fabric then
            (pk.elements.zip cs).foldl (fun x (e, c) => (x.noteElement e c).acknowledge (pk.dest + pk.part * 2 ^ 16) pk e c) s1
          else { s1 with outbox := s1.outbox ++ [.status pk.src pk cs] })) ∧
      (let late := s.flying.filter fun f => f.departed == s.arg.x && pk.elements.contains f.element
       late ≠ [] → s.arg.x + 100000 ≤ s.time →
        exec .elementAckTimeout s = .next
          (late.foldl (fun x f => (x.landed f.element).statusOf f.element f.dest 6) (s.unsend (late.map (·.element))))) ∧
      exec .elementStatus s = .next (pk.elements.foldl (fun x e =>
        if x.flying.any (·.element == e) then (x.landed e).statusOf e s.arg.y s.arg.x else x) s)) ∧
    (s.t.remoteDue = true → flagOf s.t.tstat 2 = true → flagOf s.t.tstat 0 = false → s.transferOf s.t.coreid = none →
      let w := s.withdraw s.t.coreid
      exec .remoteNotice s = .next
        (State.takeTrap { w with t := { w.t with remoteDue := false } } .remote s.activity.sticky .between))

/-- 13 R271, 22 R366: a link with a neighbour that fails trains; when it is not back within 1 ms, and when asked, its die's
interface is reset; a link that has trained is up, and one without a neighbour stays idle (00 R6). -/
def LinkEvents : Prop :=
  ∀ s : State,
    (s.arg.x < 4 → exec .fabricInterfaceReset s = .next (s.resetInterface s.arg.x s.arg.y)) ∧
    (hasNeighbour s.fabric s.arg.x = false → exec .linkFailure s = .next s ∧ exec .linkRetrainComplete s = .next s) ∧
    (hasNeighbour s.fabric s.arg.x = true →
      exec .linkFailure s = .next (State.push { s with links := s.links.set! s.arg.x 1 } .linkFailureReset
        { x := s.arg.x, z := s.time }) ∧
      exec .linkRetrainComplete s = .next { s with links := s.links.set! s.arg.x 2 } ∧
      (s.links[s.arg.x]! ≠ 2 → s.arg.z + 1000000 ≤ s.time →
        exec .linkFailureReset s = .next (s.resetInterface (s.arg.x / 2) (2 ^ s.arg.x))))

/-- 13 R256 to R271, 20 R333, 22 R366: the events of elements, links and interfaces. -/
def Obligations.FabricEvents : Prop := ElementEvents ∧ LinkEvents

/-! Pages. -/

/-- 19 R315, R316, R318, R319: PGCOMMIT commits a reserved entry or reports what it finds; PGFREE frees a committed one;
TLBINV drops cached translations; ADDRQ reports a translation or the fault it would meet. -/
def Obligations.PagesComplete : Prop :=
  ∀ (b a : Src) (d : Code) (s s1 : State), readable s a = true → s.transferOf s.t.coreid = none →
    let va := srcVal s a
    let p := s1.partNo s1.t.coreid
    Writes (.addrq a d) s d (word (s.addrq va)) ∧
    (∀ pte lvl, Passes (walkToPage va) s (.leaf pte lvl) s1 →
      CompletesVia (.pgcommit a d) s s1
        (advanced (setDest s1 d (word (1 + leafPa pte lvl va.toNat / 4096 * 4096))) (.pgcommit a d))) ∧
    (∀ addr, Passes (walkToPage va) s (.entry addr) s1 →
      let e := s1.mem.readNat addr 8
      (bitOf e 0 = true →
        CompletesVia (.pgcommit a d) s s1 (advanced (setDest s1 d (word (1 + bitsOf e 12 40 * 4096))) (.pgcommit a d))) ∧
      (bitOf e 0 = false → bitOf e 7 = true →
        CompletesVia (.pgfree a d) s s1 (advanced (setDest s1 d 1) (.pgfree a d)) ∧
        (bitsOf e 8 2 = 0 → bitsOf e 52 7 = 0 → bitOf e 1 = false → bitOf e 6 = false →
          ((s1.part p).nextPage (dieOf s1.t.coreid) = none →
            CompletesVia (.pgcommit a d) s s1 (advanced (setDest s1 d 2) (.pgcommit a d))) ∧
          ∀ k q rest, (s1.part p).nextPage (dieOf s1.t.coreid) = some (k, q, rest) →
            let t := s1.commitPage p addr k q rest
            CompletesVia (.pgcommit a d) s t (advanced (setDest t d (word (q / 4096 * 4096))) (.pgcommit a d)))) ∧
      (bitOf e 0 = true → bitsOf e 8 2 = 0 → bitsOf e 52 7 = 0 → bitOf e 7 = false → bitOf e 1 = false → bitOf e 6 = false →
        let page := bitsOf e 12 40 * 4096
        (s1.part p).inWindows page 4096 = true →
        let t := s1.freePage p addr page
        CompletesVia (.pgfree a d) s t (advanced (setDest t d 0) (.pgfree a d)))) ∧
    (readable s b = true → (srcVal s b).toNat ≤ 2 → (srcVal s b = 0 ∨ s.isSup s.t.coreid = true) → classOf va = .global →
      let t := s.invalidate (s.partNo s.t.coreid) (srcVal s b).toNat va.toNat
      CompletesVia (.tlbinv b a) s (t.acquire t.t.coreid) (advanced (t.acquire t.t.coreid) (.tlbinv b a)))

/-- 19 R322: under a partition's table, bit i of the index of a physical address is the parity of PA[51:9] AND mask i, entry h of
the slice map names its home, a lawful table names slices beside its own clusters only, and a 512-byte line has one home. -/
def Obligations.EachLineHasOneHome : Prop :=
  ∀ (s : State) (a : List Byte) (key pa pb : Nat),
    let x := tablePartition a key
    let ones := fun (i : Nat) => (List.range 43).filter fun j => bitOf (pa / 512) j && (x.masks.getD i 0).getLsbD j
    (∀ i, i < 10 → bitOf (x.homeIndex pa) i = decide ((ones i).length % 2 = 1)) ∧
    x.homeSlice pa = x.sliceMap.getD (x.homeIndex pa) 0 ∧ (s.tableOk a = true → x.clusters.contains (x.homeSlice pa) = true) ∧
    (pa / 512 = pb / 512 → x.homeSlice pa = x.homeSlice pb)

/-! Events of registers and of full/empty requests. -/

/-- 02 R20, 06 R93, R95: a pad takes a split and a core a victim pool that the rules allow; a register takes a value that its
checks pass. -/
def RegisterEvents : Prop :=
  ∀ s : State,
    (s.padcfgLegal s.arg.x s.arg.y = true → exec .padcfgChange s = .next (s.changePadcfg s.arg.x s.arg.y)) ∧
    (s.arg.y < 256 → (s.arg.y = 0 ∨ bitOf s.arg.y (laneOf s.arg.x) = true) →
      exec .vicgrpChange s = .next (s.changeVicgrp s.arg.x (BitVec.ofNat 8 s.arg.y))) ∧
    (let u := s.swapIn s.arg.x
     csrOn u.t.kind s.arg.y = true → u.csrLegal s.arg.y s.arg.v = true →
     (csrInfo s.arg.y).any (fun c => c.1 == .rw || (c.1 == .sv && u.isSup u.t.coreid)) = true →
     exec .registerWrite s = .next ((u.csrStore s.arg.y s.arg.v).swapIn s.t.coreid))

/-- 06 R114, R115: a parked request times out after its limit, and one that a full list bounced is sent again after 64 ns, where no
transfer phase holds its place; a request of another module executes here or parks, where the module does not lack it; an answer
completes the instruction that waits for it, a rejection with its trace. That the source takes a request back by a message of its own,
which the list answers, and that the thread asked for stops with the answer, is log entry 43's reading of R116. -/
def FullEmptyEvents : Prop :=
  ∀ (s : State) (r : FeReq), s.arg.fe = some r →
    let core := s.arg.x
    (∀ q, s.parked.find? (fun p => p.req == r && p.key == s.arg.y && p.arrival == s.arg.z) = some q →
      s.arg.z + r.limit ≤ s.time →
      let t := { s with parked := s.parked.erase q }
      exec .feTimeout s = .next (if q.remote then t.answer r .timeout else t.feFinish r.core (!r.store) none 0)) ∧
    (∀ q, s.parked.find? (fun p => p.bounced && p.req == r && p.key == s.arg.y && p.arrival == s.arg.z) = some q →
      s.arg.x + 64 ≤ s.time → s.parkedHeld q = false →
      let t := { s with parked := s.parked.erase q }
      exec .feResend s = .next ((t.feTry q.remote r q.key).getD (t.fePark q.remote r q.key q.arrival true))) ∧
    (∀ s1 k, s.targetFind r.part r.core 0 r.addr r.size (if r.store then Acc.stx else Acc.ldx (r.after != 0)) = (s1, .ok k) →
      s.arg.y = 0 → s.requestHeld r = false → (r.store = true ∨ s1.poisoned k r.size = false) →
      exec .remoteFeRequest s = .next
        (if Config.lacksRemote 19 ((if r.store then 64 else 0) + 16 * r.size.log2 + 4 * r.cond + r.after) then
          s.answer r (.rejected 5) else (s1.feTry true r k).getD (s1.fePark true r k s1.time false))) ∧
    (∀ q, s.arg.y ≠ 0 → s.parked.find? (fun p => p.remote && p.req == r) = some q →
      exec .remoteFeRequest s = .next ({ s with parked := s.parked.erase q }.answer r .withdrawn)) ∧
    (∀ dest asked, (s.ctx core).mode = .waiting (.feRemote dest r asked) →
      let answers (f : State → State) : Prop := exec .remoteFeResponse s = .next ((s.eventFor core f).modCtx core fun c =>
        if asked && c.mode == .running then { c with mode := .stopping } else c)
      let ends (x : State) : State := if asked then { x with t := { x.t with mode := .stopping, skid := 1 } } else x
      (∀ v full, s.arg.answer = .done v full →
        answers fun x => (ends (x.feWrite (!r.store) (some v) (feFlag r.cond full))).afterTaken) ∧
      (s.arg.answer = .timeout → answers fun x => (ends (x.feWrite (!r.store) none 0)).afterTaken) ∧
      (∀ st, s.arg.answer = .rejected st →
        answers fun x => (ends ((x.feRejected r st.toNat).feWrite (!r.store) none 0)).afterTaken) ∧
      (s.arg.answer = .withdrawn → answers fun x => { x with t := { x.t with mode := if asked then .stopping else .running } }))

/-- 02 R20, 06 R93, R95, R114, R115: the events of registers and of full/empty requests. -/
def Obligations.RegisterAndRequestEvents : Prop := RegisterEvents ∧ FullEmptyEvents

/-! The configuration window. -/

/-- The command in progress of partition `s.arg.x` ends with status 0 in the state `t` (19 R327). -/
def CommandEnds (i : Instr) (code : Nat) (s t : State) : Prop :=
  let x := s.part s.arg.x
  x.cfgStatus = 1 → bitsOf x.cfg.toNat 0 16 = code → bitsOf x.cfg.toNat 32 32 = 0 →
  exec i s = .next (t.modPart s.arg.x fun y => { y with cfgStatus := 0 })

/-- 08 R146, 18 R288, 11 R223, 19 R313, R320: commands 1 to 5 write a format region, a queue and a domain, append pages to a
pool, and move a page. -/
def TableCommandsComplete : Prop :=
  ∀ s : State,
    let p := s.arg.x
    let x := s.part p
    let n := x.cfgIndex
    let f := x.cfgVal
    (let r := BitVec.ofNat 256 (f 0 32)
     1 ≤ n → n ≤ 31 → (regionLen r = 0 ∨ (regionLawful r = true ∧ x.mayName (regionBase r) (regionLen r) = true ∧
        x.mayName (regionScales r) (regionScaleBytes r) = true ∧
        x.regions.any (fun (k, q) => k != n && regionLen q != 0 &&
          rangesMeet (regionBase q, regionLen q) (regionBase r, regionLen r)) = false)) →
      CommandEnds .cfgFormatRegion 1 s (s.modPart p fun y => { y with regions := y.regions.put n r })) ∧
    (n ≤ 1023 → queueLawful x = true →
      CommandEnds .cfgQueue 2 s (s.modPart p fun y => { y with
        queues := y.queues.put n ⟨f 0 1 == 1, f 1 1, f 4 4, (x.queue n).occupancy⟩ })) ∧
    (∀ d, s.domainNamed x = .ok d → CommandEnds .cfgDomain 3 s (s.modPart p fun y => y.putDomain d)) ∧
    (let a := f 0 8
     let m := f 8 4
     let pool := x.pools.getD n []
     n ≤ 11 → a % 4096 = 0 → (m = 0 ∨ (stackOf a = n ∧ stackOf (a + 4096 * (m - 1)) = n)) → x.mayName a (4096 * m) = true →
      pool.any (fun q => a ≤ q && q < a + 4096 * m) = false → pool.length + m ≤ 2 ^ 20 →
      CommandEnds .cfgPoolPages 4 s (s.modPart p fun y => { y with
        pools := y.pools.put n (pool ++ (List.range m).map fun i => a + 4096 * i) })) ∧
    (let pte := f 0 8
     let q := f 8 8
     let e := s.mem.readNat pte 8
     let a := bitsOf e 12 40 * 4096
     n = 0 → pte % 8 = 0 → q % 4096 = 0 → x.mayName pte 8 = true → x.mayName q 4096 = true → bitOf e 0 = true →
      bitOf e 1 = false → bitOf e 6 = false → bitOf e 7 = false → bitsOf e 8 2 = 0 → bitsOf e 52 7 = 0 →
      x.mayName a 4096 = true → x.pools.any (fun k => k.2.contains q) = false →
      CommandEnds .cfgMigrate 5 s (s.migrate p pte a q))

/-- 13 R267, 19 R312, R326, 20 R345, 22 R352, R354, R363, 23 R370: commands 6 to 14 place the logs and the areas, and release,
reset or stop a cluster of the partition that is not the supervisor's. -/
def PlaceAndClusterCommandsComplete : Prop :=
  ∀ s : State,
    let p := s.arg.x
    let x := s.part p
    let n := x.cfgIndex
    let a := x.cfgVal 0 8
    let m := x.cfgVal 8 8
    let place (i : Instr) (code size : Nat) (put : Partition → Partition) : Prop :=
      n = 0 → x.mayName a size = true → CommandEnds i code s (s.modPart p put)
    place .cfgRemoteFaultLog 6 (64 + 4096 * 64) (fun y => { y with remoteLog := some a }) ∧
    place .cfgAccessLog 7 (64 + 1024 * 32) (fun y => { y with accessLog := some a }) ∧
    place .cfgSparseFaultQueue 8 (64 + 1024 * 32) (fun y => { y with sparseLog := some a }) ∧
    place .cfgErrorLog 9 (64 + 4096 * 64) (fun y => { y with errorLog := some a }) ∧
    (m % 128 = 0 → 2 ^ 20 ≤ m → x.mayName a m = true → ∀ i d,
      (((List.range x.domains.length).zip x.domains).filter fun d => d.2.level * 256 + d.2.number == n).getLast? = some (i, d) →
      CommandEnds .cfgUndoLog 10 s (s.modDomain p i fun d => { d with undoLog := some (a, m) })) ∧
    (n = 0 → m % 4096 = 0 → x.mayName a m = true →
      CommandEnds .cfgAuditArea 11 s (s.modPart p fun y => { y with auditArea := if m = 0 then none else some (a, m) })) ∧
    (n ≤ 1023 → x.cfgVal 0 48 = 0 → x.clusters.contains n = true → n ≠ clusterOf x.supervisor →
      CommandEnds .cfgReleaseQuarantine 12 s (s.unquarantine p n) ∧
      ((s.slicesOn n).all s.readyToLeave = true → CommandEnds .cfgResetCluster 13 s (s.resetCluster n 0)) ∧
      CommandEnds .cfgStopCluster 14 s (s.triggerStop n 0 0))

/-- 19 R327: the configuration commands whose arguments pass end with status 0. -/
def Obligations.ConfigurationCommandsComplete : Prop := TableCommandsComplete ∧ PlaceAndClusterCommandsComplete

/-! The scheduler. -/

/-- 18 R292 to R295, R299, 09 R196: a slice whose condition holds enters its pool; free threads are matched with the slices of
a partition; a READY slice that none fits displaces others; a fired entry is pushed once its queue has room. That the slice's arrival
number is an engine's, and that fired entries go in the order of their indices and then of their clusters, is log entry 76's. -/
def DispatchEvents : Prop :=
  ∀ (s : State) (x : Slice) (e : Armed),
    (s.slice s.arg.x = some x → x.state = .pending →
      exec .sliceReady s = .next (State.push (State.modSlice { s with arrivals := s.arrivals + 1 } x.id fun y => { y with
        state := .ready, arrival := s.arrivalOf engineAgent, die := ((s.part x.part).queue (recQueue x.record)).die })
        .dispatchMatch { x := x.part })) ∧
    (let t := (List.range 4).foldl (fun y die => State.rounds s.arg.x die (y.slices.length + 1) y) s
     exec .dispatchMatch s = .next
      (if t.slices.any fun y => y.part == s.arg.x && y.state == .ready then t.push .preemption { x := s.arg.x } else t)) ∧
    exec .preemption s = .next (s.preempt s.arg.x) ∧
    ((s.cluster s.arg.x).armed.find s.arg.y = some e → e.fired = true →
      ((s.part e.part).queue (recQueue e.record)).valid = true → (s.part e.part).hasRoom (recQueue e.record) = true →
      s.clusters.any (fun (k, c) => c.armed.any fun (n, f) => (n < s.arg.y || (n = s.arg.y && k < s.arg.x)) && f.fired &&
        f.part == e.part && recQueue f.record == recQueue e.record) = false →
      exec .armedEntryPush s = .next ((State.pushSlice (s.modCluster s.arg.x fun c => { c with
        armed := c.armed.erase s.arg.y }) engineAgent e.part e.record e.obls none).1))

/-- 18 R297, R298, R300, R302, R303, 20 R341, R343, 22 R361: staging starts a slice, or gives it the staging's fault; a victim is
suspended, and a killed slice leaves, once its threads stand at boundaries; a saved slice resumes; a slice past its EXIT has its
outputs written back and retires, a replay's go to the audit area, where they stand behind its inputs (log entry 21); a budget of 0
traps. -/
def SliceEvents : Prop :=
  ∀ (s : State) (x : Slice),
    let lead := x.threads.headD 0
    (s.counter.budget = 0 → (s.counter.grace = false → exec .budgetExhausted s = .next (s.takeTrap .budget 0 .before)) ∧
      (s.counter.grace = true → exec .budgetGraceExhausted s = .next (s.takeTrap .budget 0 .before))) ∧
    (s.slice s.arg.x = some x →
      (x.state = .staging → x.saved = [] → s.padHeld engineAgent (padOf lead) = false →
        let s0 := x.threads.foldl State.acquire s
        let begins (t : State) : Prop := exec .footprintStaging s = .next (t.frozenIf (s.stoppedEarly x) x)
        (∀ id u, x.replayOf = some id → s.audits.find? (·.id == id) = some u →
          begins ((State.copyFeet x.record isInput true lead 4 0 u.base s0).start x)) ∧
        (x.replayOf = none → ∀ s1 k,
          (State.stageFrom lead x.part x.record 4 0 s0 = (s1, k, none) →
            begins (((s1.modSlice x.id fun y => { y with staged := k }).auditInputs x lead).start x)) ∧
          ∀ c va, State.stageFrom lead x.part x.record 4 0 s0 = (s1, k, some (c, va)) →
            begins (State.asCtx ((s1.modSlice x.id fun y => { y with staged := k }).start x) lead fun y => y.stageTrap c va))) ∧
      (killCode ≤ s.arg.y → s.readyToLeave x = true →
        exec .suspension s = .next (s.killNow x.id (s.arg.y - killCode))) ∧
      (x.state = .running → s.readyToLeave x = true →
        (s.arg.y = 0 → x.victimOf ≠ none →
          x.threads.any (fun c => (s.transferOf c).isSome || (s.ctx c).mode == .frozen) = false →
          s.agenda.any (fun e => match e with | .event .suspension a => a.x == x.id && a.y != 0 | _ => false) = false →
          exec .suspension s = .next (s.displace x)) ∧
        (s.arg.y ≠ 0 → exec .suspension s = .next (s.leaveAt x s.arg))) ∧
      (x.state = .staging → x.saved ≠ [] → x.held = false → exec .resumption s = .next (s.resume x)) ∧
      (x.state = .retiring → s.padHeld engineAgent (padOf lead) = false →
        (x.replayOf = none →
          let s1 := State.writeBack x lead 4 0 s
          (s1.audits.find? (·.id == x.id) = none → exec .retireWriteback s = .next (s1.retireSlice x.id)) ∧
          ∀ u, s1.audits.find? (·.id == x.id) = some u →
            let s2 := s1.endRun u (clusterOf lead) (s.signature x.record lead) (some s.time)
            exec .retireWriteback s = .next
              (((s2.push .noseAuditPush { x := x.id }).push .auditAbandon { x := x.id }).retireSlice x.id)) ∧
        ∀ id u, x.replayOf = some id → s.audits.find? (·.id == id) = some u →
          let s1 := State.copyFeet x.record isOutput false lead 4 0 (u.base + footBytes x.record isInput) s
          exec .retireWriteback s = .next (((s1.endRun u (clusterOf lead) (s.signature x.record lead) u.since).push
            .noseVerdict { x := id }).retireSlice x.id)))

/-- 18 R292 to R303: the events of the scheduler. -/
def Obligations.SchedulerEvents : Prop := DispatchEvents ∧ SliceEvents

/-! Reliability. -/

/-- 20 R335, R343, 23 R372: a disposition word releases a suspended slice or a frozen one, kills it, or has a frozen one make
one step: one instruction, a REP or a shaped one to its end, and freeze again; an entry of a stop that does not stand for its slice
waits for the one that does. -/
def Obligations.DispositionsComplete : Prop :=
  ∀ (s : State) (u : Nat × Report) (x : Slice),
    let p := s.arg.x
    let t := s.dispose p u
    u.2.acts = true →
    (s.disposed p s.arg.y 1 = some u → t.slice u.2.slice = some x →
      (u.2.kind = 5 → exec .dispositionRelease s = .next (t.unfreeze x)) ∧
      (u.2.kind ≠ 5 → x.state = .suspended → exec .dispositionRelease s = .next
        ((t.modSlice x.id fun y => { y with refill := y.refill || u.2.kind == 1 }).makeReady x.id false))) ∧
    (s.disposed p s.arg.y 2 = some u → exec .dispositionKill s = .next (t.kill u.2.slice 0)) ∧
    (s.arg.z = 0 → s.disposed p s.arg.y 3 = some u → u.2.kind = 5 →
      exec .dispositionStep s = .next (t.push .dispositionStep { x := p, z := u.2.slice })) ∧
    (s.arg.z ≠ 0 → s.slice s.arg.z = some x →
      (s.arg.y = 0 → s.isFrozen x = true → x.state ≠ .staging → (s.swapIn (s.stepper x)).yieldsCore = false →
        exec .dispositionStep s = .next ((s.unfreeze x).nextTurn x)) ∧
      (s.arg.y ≠ 0 → x.state = .running → s.isFrozen x = false → s.slotBusy x.threads = false →
        s.agenda.any (fun e => match e with | .event .suspension a => a.x == x.id | _ => false) = false →
        (s.midInstr x = true → exec .dispositionStep s = .next (s.nextTurn x)) ∧
        (s.midInstr x = false → x.threads.any s.awaitsModule = false → exec .dispositionStep s = .next
          ((x.threads.foldl State.freeze (s.halt x.id)).frozenSlices Cause.step.code [x]))))

/-- 20 R345, 22 R350, R358, R359, R366, 23 R370: an error in its control state resets a cluster; a stop freezes the threads of a
cluster at their boundaries; a domain rolls back, or its members are killed; a soft error is corrected or poisons what it
strikes, and the patrol scrub comes every 8 hours. A gang in a slot ends it first (11 R219), a request to another module is resolved
first (06 R116), and a killed slice's transfers are acknowledged first (20 R337). That a patrol scrub finds the error, if any, that its
event carries is log entry 65's. -/
def Obligations.ReliabilityEventsComplete : Prop :=
  ∀ (s : State),
    ((s.slicesOn s.arg.x).all s.readyToLeave = true → exec .clusterReset s = .next (s.resetCluster s.arg.x s.arg.y)) ∧
    (let xs := s.stopSet s.arg
     let t := xs.foldl (fun y x => y.halt x.id) s
     (s.arg.nums = [] → s.clusterFrozen s.arg.x = true → exec .clusterStop s = .next s) ∧
     ((s.arg.nums ≠ [] ∨ s.clusterFrozen s.arg.x = false) → t.midSlot xs = false →
       (t.stopThreads s.arg xs).any t.awaitsModule = false → exec .clusterStop s = .next (t.stopAll s.arg xs))) ∧
    (∀ d, (s.part s.arg.x).domains[s.arg.y]? = some d →
      (s.arg.z = 0 → d.snapshot = true → d.repeatable = true → d.rolledBack = false →
        exec .rollback s = .next (s.rollBack s.arg.x s.arg.y d)) ∧
      (s.arg.z ≠ 0 → (s.memberSlices d).all s.readyToLeave = true → exec .rollback s = .next (s.killMembers s.arg.x d))) ∧
    (∀ e, s.arg.error = some e → exec .softError s = .next (s.strike e)) ∧
    (s.arg.z + 8 * 3600 * 1000000000 ≤ s.time →
      let t := match s.arg.error with | some e => s.strike e | none => s
      exec .patrolScrub s = .next (t.push .patrolScrub { x := s.arg.x, z := s.time }))

/-- 22 R361 to R363: the first run of an audited slice asks for a replay; two runs that agree end the audit, two that differ ask
for a third; of three a run that differs from two that agree quarantines its cluster, once what runs there can be suspended, and
three that all differ are reported; an audit not ended after 10 s is abandoned. The bits of a verdict entry's agreement mask, and that
a replay does not count in its queue, are log entry 63's. -/
def Obligations.NoseEventsComplete : Prop :=
  ∀ (s : State) (u : Audit), s.audits.find? (·.id == s.arg.x) = some u →
    let done := { s with audits := s.audits.filter (·.id != u.id) }
    let free (c : Nat) : Prop := (s.runningOn c).all s.suspendable = true
    (u.since ≠ none → u.runs.length < 3 → s.slices.any (fun x => x.replayOf == some u.id) = false →
      let (s1, id) := s.pushSlice engineAgent u.part u.record [] none
      exec .noseAuditPush s = .next ((s1.occupy u.part (recQueue u.record) false).modSlice id fun y => { y with
        prio := 0, counted := false, replayOf := some u.id })) ∧
    (∀ c0 c1 a b, u.runs = [(c0, a), (c1, b)] →
      (a = b → exec .noseVerdict s = .next done) ∧
      (a ≠ b → exec .noseVerdict s = .next (s.push .noseAuditPush { x := u.id }))) ∧
    (∀ c0 c1 c2 a b c, u.runs = [(c0, a), (c1, b), (c2, c)] →
      (b = c → a ≠ b → free c0 → exec .noseVerdict s = .next ((done.logVerdict u 4 3).quarantine c0)) ∧
      (a = c → a ≠ b → free c1 → exec .noseVerdict s = .next ((done.logVerdict u 2 3).quarantine c1)) ∧
      (a = b → a ≠ c → free c2 → exec .noseVerdict s = .next ((done.logVerdict u 1 3).quarantine c2)) ∧
      (a ≠ b → a ≠ c → b ≠ c → exec .noseVerdict s = .next ((done.logVerdict u 0 3).report u.part
        { kind := 0, cause := Cause.poison.code, slice := u.id, position := 0, resume := 0, tval := 0, core := coreAt c0 0
          slot := 0 }))) ∧
    (∀ t, u.since = some t → t + 10000000000 ≤ s.time →
      let s1 := (s.slices.filter fun x => x.replayOf == some u.id).foldl (fun y x =>
        (x.threads.foldl State.stopThread y).retireSlice x.id) s
      exec .auditAbandon s = .next (State.logVerdict { s1 with audits := s1.audits.filter (·.id != u.id) } u 0 0))

/-! The host link and power. -/

/-- A host request of opcode `own` with a payload of `n` bytes, well formed and in its session's order, is carried out with a reply:
the state after it, and the response's opcode, status and payload (24 R374 to R376). -/
def Replies (i : Instr) (own n : Nat) (s : State) (r : Reply) : Prop :=
  let h := s.arg.host
  ∀ x, h.opcode = own → s.board.discards h n = false → s.board.booted = true → s.board.imageOk = true →
    s.sessions.find h.session = some x → x.partition = h.partition → h.sequence = x.next →
    exec i s = .next (s.carryOut h x fun _ => r)

/-- A host request of opcode `own` in its session's order is carried out: the state becomes `t`. -/
def RequestDone (i : Instr) (own : Nat) (s t : State) (opcode status : Nat) (payload : List Byte) : Prop :=
  Replies i own s.arg.bytes.length s (t, opcode, status, payload)

/-- 24 R374 to R378, R382, R388, 18 R291: the host's writes, reads and launches in a session, the notices and their
acknowledgements, telemetry and attestation, and the status of an opcode that no host's message has; every message's datagram begins
with its header of 32 bytes. That telemetry, attestation and an unknown opcode are answered without a session is log entry 67's. -/
def HostRequestsComplete : Prop :=
  ∀ s : State,
    let bs := s.arg.bytes
    let h := s.arg.host
    let x := s.part h.partition
    let pa := at_ bs 0 8
    let n := at_ bs 8 4
    (8 ≤ bs.length → x.inWindows pa (bs.length - 8) = true → RequestDone .hostWrite 1 s (s.write pa (bs.drop 8)) 5 0 []) ∧
    (bs.length = 12 → n ≠ 0 → n ≤ 8192 → x.inWindows pa n = true → RequestDone .hostRead 2 s s 2 0 (s.mem.readBytes pa n)) ∧
    (let r := BitVec.ofNat 2048 (leNat (bs.drop 8))
     let dep := refOf (word (recCounter r))
     ∀ s1 us k, bs.length = 264 → at_ bs 2 6 = 0 → recField r 128 64 = 0 → at_ bs 0 2 = recQueue r →
      (flagOf dep 32 = false ∨ flagOf dep 31 = false) →
      s.recordChecks x.supervisor h.partition 0 [] 0 0 r false = (s1, .ok (us, k)) →
      (s1.part h.partition).hasRoom (recQueue r) = true →
      let (s2, id) := s1.pushSlice engineAgent h.partition r [] k
      RequestDone .hostLaunch 3 s s2 3 0 (leBytes 8 id)) ∧
    (∀ m, (s.part s.arg.x).notices.find? (·.sent.isNone) = some m → exec .hostNotice s = .next (s.sendNotice s.arg.x m)) ∧
    (∀ m t, (s.part s.arg.x).notices.find? (·.seq == s.arg.y) = some m → m.sent = some t → t + 1000000 ≤ s.time →
      exec .noticeResend s = .next (s.sendNotice s.arg.x m)) ∧
    (s.board.discards h bs.length = false → s.board.booted = true →
      (s.board.imageOk = true → h.opcode = 5 → exec .hostAck s = .next (s.modPart h.partition fun x => { x with
        notices := x.notices.filter fun n => !(n.seq == h.tag && n.sent.isSome) })) ∧
      (s.sessions.find h.session = none →
        (h.opcode = 7 → exec .telemetry s = .next (s.measured.respond h 7 0 s.measured.telemetry)) ∧
        (h.opcode = 8 → bs.length = 32 →
          exec .attest s = .next (State.respond { s with fresh := s.fresh + 1 } h 8 0 (s.attestation bs))) ∧
        (s.board.imageOk = true → h.opcode ∉ [1, 2, 3, 5, 6, 7, 8] → exec .hostWrite s = .next (s.respond h h.opcode 1 [])))) ∧
    ∀ r : Response, r.datagram.drop 32 = r.payload ∧ at_ r.datagram 0 2 = 0x5C4D ∧ at_ r.datagram 2 1 = 1 ∧
      at_ r.datagram 3 1 = r.opcode % 256 ∧ at_ r.datagram 4 4 = r.session % 2 ^ 32 ∧ at_ r.datagram 8 8 = r.sequence % 2 ^ 64 ∧
      at_ r.datagram 16 1 = r.partition % 256 ∧ at_ r.datagram 17 1 = 0 ∧ at_ r.datagram 18 2 = r.payload.length % 2 ^ 16 ∧
      at_ r.datagram 20 4 = r.status % 2 ^ 32 ∧ at_ r.datagram 24 8 = r.tag % 2 ^ 64

/-- A signed command in session 0 whose key and boot count are right is carried out where its signature verifies, and
otherwise refused with status 5 (24 R383, R385). -/
def SignedDone (i : Instr) (command : Nat) (s t : State) : Prop :=
  let h := s.arg.host
  let c := s.arg.signed
  ∀ key, h.session = 0 → h.partition = 255 → s.board.hostKey c.keyIndex = some key → c.bootCount = s.board.bootCount →
    c.command = command → c.length = c.args.length → c.zeroByte = 0 → c.zeroWord = 0 → c.args.length ≤ 4867 →
    Replies i 6 (signedLength c) s (if mldsaVerify key (shake256 (signedBytes h c)) c.signature then (t, 6, 0, [])
      else (s, 6, 5, []))

/-- A signed command whose code is no command's, or whose argument length is not that of its arguments, is refused with status 2,
where its signature verifies (24 R385). -/
def SignedCommandRefused : Prop :=
  ∀ (s : State) (key : List Byte),
    let h := s.arg.host
    let c := s.arg.signed
    h.session = 0 → h.partition = 255 → s.board.hostKey c.keyIndex = some key → c.bootCount = s.board.bootCount →
    mldsaVerify key (shake256 (signedBytes h c)) c.signature = true →
    (c.command = 0 ∨ 5 < c.command ∨ (c.command = 1 ∧ c.length ≠ c.args.length)) →
    Replies .openSession 6 (signedLength c) s (s, 6, 2, [])

/-- 24 R385, 19 R321 to R323, 22 R366: the signed commands open and close a session, write a partition's table, whose supervisor
starts as log entry 24 has it, reset a die, write records: of the sectors that a write touches the first alone is erased (log entry
25). -/
def SignedCommandsComplete : Prop :=
  ∀ s : State,
    let a := s.arg.signed.args
    let n := at_ a 0 4
    (a.length = 8 → n ≠ 0 → at_ a 4 1 ≤ 15 → at_ a 5 3 = 0 →
      SignedDone .openSession 1 s { s with sessions := s.sessions.put n ⟨at_ a 4 1, s.arg.signed.keyIndex, 1, [], [], 0⟩ }) ∧
    (a.length = 8 → n ≠ 0 → at_ a 4 4 = 0 → s.sessions.find n ≠ none →
      SignedDone .closeSession 2 s { s with sessions := s.sessions.erase n }) ∧
    (s.tableOk a = true →
      let p := at_ a 0 1
      let x := tablePartition a s.fresh
      let s1 := s.clearPartition p ((s.part p).clusters ++ x.clusters) ((s.part p).windows ++ x.windows)
      let s2 := State.setPart { s1 with fresh := s1.fresh + 1, mem := assignMemory x.windows s1.mem } p x
      SignedDone .partitionTable 3 s (s2.startSupervisor x.supervisor)) ∧
    (a.length = 8 → at_ a 0 1 ≤ 3 → at_ a 1 7 = 0 → SignedDone .dieReset 4 s (s.resetDie (at_ a 0 1))) ∧
    (let off := at_ a 0 8
     let bs := a.drop 8
     8 ≤ a.length → off < 0x1000000 → off + bs.length ≤ 0x1000000 →
      let erased := if bs.isEmpty then s.board.nor else
        s.board.nor.writeBytes (0x04000000 + off / 4096 * 4096) (List.replicate 4096 0xFF)
      SignedDone .recordWrite 5 s { s with board := { s.board with nor := erased.writeBytes (0x04000000 + off) bs } })

/-- 24 R374 to R388: the host's requests and signed commands. -/
def Obligations.HostLinkEvents : Prop := HostRequestsComplete ∧ SignedCommandsComplete ∧ SignedCommandRefused

/-- 24 R381, R382, R386, R387: power-on leaves the state of reset but for the flash, the boot count, the identity's seed and what a
valid image applies, which is loaded at its load address and releases the other management cores; the throttle level rises and falls
with the power, the junctions set its floor, and at 120 °C, or with an inlet that has been above 45 °C for 1 s (the event comes with
such an inlet), power is removed. The sensors' readings come with the event. That the boot count rises without a valid image too is
log entry 31's. -/
def Obligations.PowerEvents : Prop :=
  ∀ s : State,
    let x := s.arg.x
    let m := s.measured
    let p := { m with board := { m.board with power := x } }
    let ts := m.board.dieTemp.set x s.arg.y
    (let count := (s.board.nor.readNat 0xF000 4 + 1) % 2 ^ 32
     let nor := s.board.nor.writeNat 0xF000 4 count
     let t := { State.reset with
       board := { Board.reset with
         booted := true, nor := nor, bootCount := count
         seed := padTo 32 ((Config.pufSeed (s.board.nor.readBytes Config.helperPlace.1 Config.helperPlace.2)).take 32) }
       agenda := s.agenda.filter fun g => match g with | .event _ _ => true | _ => false
       arg := s.arg, fresh := s.fresh }
     (exec .powerOnBoot s = .next (match bootImage nor with | some i => t.applyRecords i | none => t)) ∧
     t.board.released = false ∧ ∀ i, (t.applyRecords i).board.released = true ∧
       (t.applyRecords i).board.firmware = some (at_ i.header 8 4, i.body)) ∧
    (s.board.powerLimit < x → exec .throttleRaise s = .next (State.setLevel p (min 7 (m.board.level + 1)))) ∧
    (100 * x < 95 * s.board.powerLimit →
      exec .throttleLower s = .next (State.setLevel p (max m.board.floor (m.board.level - 1)))) ∧
    exec .thermalFloor s = .next (State.setLevel { m with board := { m.board with dieTemp := ts, floor := floorOf ts } }
      (max m.board.level (floorOf ts))) ∧
    ((1200 ≤ s.arg.y ∨ 450 < s.arg.z) →
      exec .thermalShutdown s = .next (State.shutdown { m with board := { m.board with dieTemp := ts, inlet := s.arg.z } }))

/-! Rules of single instructions. -/

/-- 02 R11: `s0` reads 0 and `k0` all ones, a write to either is discarded and raises no fault; JAL writes `s31`. -/
def Obligations.HardwiredRegisters : Prop :=
  ∀ (imm : BitVec 13) (c : BitVec 7) (off : BitVec 25) (b a : Src) (v : Word) (s : State),
    srcVal s (.code 0) = 0 ∧ predVal s 0 = BitVec.allOnes 64 ∧ setDest s 0 v = s ∧ setPred s 0 v = s ∧
    (readable s a = true → Completes (.addi imm a 0) s (advanced s (.addi imm a 0))) ∧
    (readable s a = true → readable s b = true → Completes (.cmp c b a 0) s (advanced s (.cmp c b a 0))) ∧
    (ready (.jal off) s = true → ∃ t, exec (.jal off) s = .next t ∧ t.t.s[31]! = s.t.pc + 4)

/-- 05 R63: ADDI, the I form with major 2, writes the sum of A and the signed immediate, modulo 2 to the 64; it has no word
variant. -/
def Obligations.AddImmediate : Prop :=
  ∀ (imm : BitVec 13) (a : Src) (c d : Code) (s : State),
    (readable s a = true →
      ∃ v : Word, (v.toNat : Int) = ((srcVal s a).toInt + imm.toInt) % 2 ^ 64 ∧ Writes (.addi imm a d) s d v) ∧
    (isReg c = true → isReg d = true →
      decodeWord (imm.toNat * 2 ^ 19 + c.toNat * 2 ^ 13 + d.toNat * 2 ^ 7 + 2 * 2 + 1) 0 = .ok (.addi imm (.code c) d))

/-- The five shifts of `x` by the count `y`, bit by bit (05 R61). -/
def ShiftsOf {n : Nat} (x y l r q u v : BitVec n) : Prop :=
  ∀ j, j < n →
    l.getLsbD j = (decide (y.toNat ≤ j) && x.getLsbD (j - y.toNat)) ∧ r.getLsbD j = x.getLsbD (j + y.toNat) ∧
    q.getLsbD j = x.getLsbD (min (j + y.toNat) (n - 1)) ∧ u.getLsbD j = x.getLsbD ((j + n - y.toNat % n) % n) ∧
    v.getLsbD j = x.getLsbD ((j + y.toNat) % n)

/-- 05 R61: SHL, SHR, SRA, ROL and ROR at both widths, for every count; none of them traps. -/
def Obligations.ShiftsByAnyCount : Prop :=
  ∀ (b a : Src) (d : Code) (s : State), readable s a = true → readable s b = true →
    let x := srcVal s a
    let y := srcVal s b
    (∃ l r q u v : Word, ShiftsOf x y l r q u v ∧ Writes (.shl false b a d) s d l ∧ Writes (.shr false b a d) s d r ∧
      Writes (.sra false b a d) s d q ∧ Writes (.rol false b a d) s d u ∧ Writes (.ror false b a d) s d v) ∧
    ∃ l r q u v : BitVec 32, ShiftsOf (x.setWidth 32) (y.setWidth 32) l r q u v ∧
      Writes (.shl true b a d) s d (l.signExtend 64) ∧ Writes (.shr true b a d) s d (r.signExtend 64) ∧
      Writes (.sra true b a d) s d (q.signExtend 64) ∧ Writes (.rol true b a d) s d (u.signExtend 64) ∧
      Writes (.ror true b a d) s d (v.signExtend 64)

/-- Quotients and remainders of `x` by `y`, signed and unsigned (05 R62). -/
def DividesAs {n : Nat} (x y q r qn rn : BitVec n) : Prop :=
  (y = 0 → q = BitVec.allOnes n ∧ r = x ∧ qn = BitVec.allOnes n ∧ rn = x) ∧
  (y ≠ 0 → qn.toNat = x.toNat / y.toNat ∧ rn.toNat = x.toNat % y.toNat) ∧
  (x = BitVec.intMin n → y = BitVec.allOnes n → q = x ∧ r = 0) ∧
  (y ≠ 0 → ¬(x = BitVec.intMin n ∧ y = BitVec.allOnes n) →
    q.toInt = x.toInt.tdiv y.toInt ∧ x.toInt = q.toInt * y.toInt + r.toInt ∧ (r.toInt ≠ 0 → r.toInt.sign = x.toInt.sign))

/-- 05 R62: DIV, REM, DIVN and REMN at both widths, with their fixed corners; none of them traps. -/
def Obligations.DivisionCorners : Prop :=
  ∀ (b a : Src) (d : Code) (s : State), readable s a = true → readable s b = true →
    let x := srcVal s a
    let y := srcVal s b
    (∃ q r qn rn : Word, DividesAs x y q r qn rn ∧ Writes (.div false b a d) s d q ∧ Writes (.rem false b a d) s d r ∧
      Writes (.divn false b a d) s d qn ∧ Writes (.remn false b a d) s d rn) ∧
    ∃ q r qn rn : BitVec 32, DividesAs (x.setWidth 32) (y.setWidth 32) q r qn rn ∧
      Writes (.div true b a d) s d (q.signExtend 64) ∧ Writes (.rem true b a d) s d (r.signExtend 64) ∧
      Writes (.divn true b a d) s d (qn.signExtend 64) ∧ Writes (.remn true b a d) s d (rn.signExtend 64)

/-! Traps. -/

/-- Where a trap of the current context is delivered: a member of a formed gang whose trap its slot's end takes stops the gang, with
its skid record, and runs its handler; the position is the trap's GPOS (11 R219, R220, R222). -/
def TrapStops (s : State) : State × Nat :=
  match s.gangOf s.t.coreid with
  | some (id, g, p) =>
    (if g.formed && !g.stopped then
      State.laySkid { s with gangs := s.gangs.put id { g with stopped := true, runner := some p } } id else s, p)
  | none => (s, 0)

/-- The current context is a member of a formed gang whose slot is in progress, and not the one whose trap the slot's end takes. -/
def inSlot (s : State) : Bool :=
  match s.gangOf s.t.coreid with
  | some (_, g, p) => g.formed && g.runner != some p && (!g.stopped || g.closing.contains p)
  | none => false

/-- 05 R88, 20 R330: a trap that the thread's handler takes writes the four trap registers, marks a trap in progress, goes to
`tvec`, and changes no other register of the thread; but for a gang's stop and skid record it changes nothing else. The trap of a
spent budget also grants its grace of 4,096 cycles (18 R302). TILEFAULT goes to no handler (19 R312). -/
def HandlersTakeTraps : Prop :=
  ∀ (c : Cause) (v : Word) (cls : TrapClass) (s : State), s.t.kind ≠ .hart → inSlot s = false → c ≠ .tilefault →
    s.rollsBack c = none → s.toSupervisor c = false →
    let t := s.takeTrap c v cls
    let gpos := (TrapStops s).2
    t = { (TrapStops s).1 with t := t.t } ∧ t.t.tcause.toNat = c.code ∧ t.t.tval = v ∧ t.t.tpc = s.t.pc ∧ t.t.pc = s.t.tvec ∧
    (c ≠ .budget → t.t.budget = s.t.budget ∧ t.t.grace = s.t.grace) ∧ (c = .budget → t.t.budget = 4096 ∧ t.t.grace = true) ∧
    fieldOf t.t.tstat 0 2 = 1 ∧ fieldOf t.t.tstat 2 2 = fieldOf s.t.tstat 2 1 ∧ fieldOf t.t.tstat 4 4 = cls.code ∧
    (gpos < 64 → fieldOf t.t.tstat 16 48 = gpos ∧ (c ≠ .watch → fieldOf t.t.tstat 8 8 = 0) ∧
      ∀ i a, c = .watch → s.t.watchDue = some (i, a) → i < 4 → fieldOf t.t.tstat 8 8 = i) ∧
    (∀ r, s.t.rep = some r → t.t.repcnt = BitVec.ofNat 32 (r.n - r.j)) ∧ (s.t.rep = none → t.t.repcnt = s.t.repcnt) ∧
    t.t = { s.t with
      tcause := t.t.tcause, tval := t.t.tval, tpc := t.t.tpc, tstat := t.t.tstat, pc := t.t.pc, mode := .running
      repcnt := t.t.repcnt, rep := none, issued := false, ringTrap := false, watchDue := t.t.watchDue, watchMet := t.t.watchMet
      arriveDue := t.t.arriveDue, budget := t.t.budget, grace := t.t.grace }

/-- 20 R331, R334: a trap that goes to the supervisor suspends the activity with the cause as its reason, and reports it, once its
threads stand at boundaries; one of the supervisor itself freezes it and raises a notice of kind 4 (19 R325). -/
def SupervisorTakesTraps : Prop :=
  ∀ (c : Cause) (v : Word) (cls : TrapClass) (s : State), s.t.kind ≠ .hart → inSlot s = false → c ≠ .tilefault →
    s.rollsBack c = none → s.toSupervisor c = true → (c = .poison → s.escalates = none) →
    let core := s.t.coreid
    let p := s.partNo core
    let id := s.t.sliceid.toNat
    let s1 := { (TrapStops s).1 with t := { (s.clearWatch c cls).t.stopRep with ringTrap := false } }
    (s.isSup core = true → s.takeTrap c v cls =
      (State.modPart { s1 with t := { s1.t with mode := .frozen } } p fun x => { x with supFrozen := true }).notice p 4 0) ∧
    (s.isSup core = false → ∀ x, s1.slice id = some x →
      (s1.readyToLeave x = true → s.takeTrap c v cls = (s1.suspend id c.code).report x.part
        { kind := if c = .budget then 1 else 0, cause := c.code, slice := id, position := x.positionOf core, resume := s1.t.pc
          tval := v, core := core, slot := x.slots.getD (x.positionOf core) 0 }) ∧
      (s1.readyToLeave x = false → s.takeTrap c v cls =
        (s1.towardLeaving x).push .suspension { x := id, y := c.code, z := core, v := v }))

/-- 11 R219, R220: in a gang's slot the trap of a member waits for the end of the slot, where that of the lowest position is taken:
nothing else changes. -/
def SlotsKeepTraps : Prop :=
  ∀ (c : Cause) (v : Word) (cls : TrapClass) (s : State) (id : Nat) (g : Gang) (p : Nat), s.t.kind ≠ .hart → inSlot s = true →
    s.gangOf s.t.coreid = some (id, g, p) →
    s.takeTrap c v cls = { s with gangs := s.gangs.put id { g with trapped := g.trapped.put p (some (c, v)) } }

/-- 05 R88, 11 R219, R220, 20 R330, R331: a trap is taken by the thread's handler, in a gang too, or by the supervisor; in a gang's
slot it waits for the slot's end. -/
def Obligations.TrapEntry : Prop := HandlersTakeTraps ∧ SupervisorTakesTraps ∧ SlotsKeepTraps

/-- 05 R82, 20 R330: ERET with a trap in progress clears TIP and goes to `tpc`, runs the rest of a staging and re-forms a gang;
an arrival watch that is due it takes then (23 R369). Without a trap in progress it traps with ILLOP. That it takes no STEP, though
`stepctl.SS` is set and TIP is clear again, is log entry 45's. -/
def Obligations.EretCompletes : Prop :=
  ∀ s : State, admits .eret s = true →
    (flagOf s.t.tstat 0 = true → s.eretFits = true →
      let s1 := State.reform { s with t := { s.t with tstat := s.t.tstat &&& ~~~(1#64), pc := s.t.tpc, mode := .running } }
      let s2 := if flagOf s.t.tstat 1 then s1.stageRest else s1
      (s2.t.arriveDue = none → exec .eret s = .next s2) ∧
      ∀ a, s2.t.arriveDue = some a → exec .eret s = .next (s2.takeTrap .watch a .after)) ∧
    (flagOf s.t.tstat 0 = false → exec .eret s = .next (s.takeTrap .illop (word (encodeWord .eret)) .before))

/-- 06 R101 check 1: a load, a store, an atomic, an LDX or an STX at an address that is not a multiple of its size traps with ALIGN
before any effect, with the address in `tval`. -/
def Obligations.MisalignedAccessesTrap : Prop :=
  ∀ (imm : BitVec 10) (f : BitVec 3) (w q r : Bool) (b a dv : Src) (d : Code) (s : State), readable s a = true →
    let va := srcVal s a + imm.signExtend 64 * word (sizeOf3 f)
    (va.toNat % sizeOf3 f ≠ 0 →
      (∀ i, i ∈ [Instr.ld imm f a d, .lda imm f a d] → admits i s = true → exec i s = .next (s.takeTrap .align va .before)) ∧
      (readable s dv = true → ∀ i, i ∈ [Instr.st imm f a dv, .stl imm f a dv] → admits i s = true →
        exec i s = .next (s.takeTrap .align va .before))) ∧
    (readable s b = true → (srcVal s a).toNat % (if w then 8 else 4) ≠ 0 →
      ∀ i, i ∈ [Instr.amoAdd w q r b a d, .amoAnd w q r b a d, .amoOr w q r b a d, .amoXor w q r b a d,
        .amoMin w q r b a d, .amoMax w q r b a d, .amoMinn w q r b a d, .amoMaxn w q r b a d, .amoSwap w q r b a d,
        .amoCas w q r b a d] →
      (i = .amoCas w q r b a d → readable s (.code d) = true) →
      admits i s = true → exec i s = .next (s.takeTrap .align (srcVal s a) .before)) ∧
    (readable s b = true → (srcVal s a).toNat % 4 ≠ 0 → ∀ i, i ∈ [Instr.amoFadd q r b a d, .amoBfadd2 q r b a d] →
      admits i s = true → exec i s = .next (s.takeTrap .align (srcVal s a) .before)) ∧
    ∀ sz c e : BitVec 2, (srcVal s a).toNat % 2 ^ sz.toNat ≠ 0 →
      (admits (.ldx sz c e a d) s = true → exec (.ldx sz c e a d) s = .next (s.takeTrap .align (srcVal s a) .before)) ∧
      (readable s dv = true → admits (.stx sz c e a dv) s = true →
        exec (.stx sz c e a dv) s = .next (s.takeTrap .align (srcVal s a) .before))

/-- 02 R20 checks 1 to 3: on a thread, an access of a CSR that it lacks traps with ILLOP; a write of a read-only register, or of a
supervisor's by another thread, with PERM, even where no bit would change. -/
def Obligations.RegisterPrivileges : Prop :=
  ∀ (c : BitVec 11) (a : Src) (d : Code) (s : State), s.t.kind ≠ .hart →
    ∀ i, i ∈ [Instr.csrr c d, .csrw c a d, .csrs c a d, .csrc c a d] → s.hasFamily i = true →
      (csrOn s.t.kind c.toNat = false → exec i s = .next (s.takeTrap .illop (word (encodeWord i)) .before)) ∧
      (csrOn s.t.kind c.toNat = true → i ≠ .csrr c d → ∀ lane,
        (csrInfo c.toNat = some (.ro, lane) ∨ (csrInfo c.toNat = some (.sv, lane) ∧ s.isSup s.t.coreid = false)) →
        exec i s = .next (s.takeTrap .perm (word (encodeWord i)) .before))

/-- 05 R87, 23 R368, R369, R373: an instruction that completes with a watch match or a watched arrival due, or stepped outside a
trap, has all its effects and then traps in the After class. -/
def Obligations.TrapsAfterCompletion : Prop :=
  ∀ (imm : BitVec 13) (a : Src) (d : Code) (s : State), readable s a = true → s.t.rep = none →
    let i := Instr.addi imm a d
    let t := advanced (setDest s d (srcVal s a + imm.signExtend 64)) i
    admits i s = true →
    (∀ n va, s.t.watchDue = some (n, va) → exec i s = .next (t.takeTrap .watch va .after)) ∧
    (∀ va, s.t.watchDue = none → s.t.arriveDue = some va → exec i s = .next (t.takeTrap .watch va .after)) ∧
    (s.t.watchDue = none → s.t.arriveDue = none → bitOf s.t.stepctl.toNat 1 = true → flagOf s.t.tstat 0 = false →
      exec i s = .next (t.takeTrap .step 0 .after))

/-! The machine. -/

/-- Whatever an instruction meets, it has a next state: no instruction of the table faults or is refused. Only a machine whose
power thermal shutdown removed (24 R387) does not step. -/
def Obligations.EveryInstructionAnswers : Prop :=
  (∀ (i : Instr) (s : State), ∃ t, exec i s = .next t) ∧
  ∀ s : State, (s.board.on = true → ∃ t, step s = .next t) ∧ (s.board.on = false → step s = .fault .poweredOff)

/-- 04 R48, R49, R57, 18 R302: with nothing else to do, a step of a running thread outside a gang executes the instruction that
its bytes decode to, in its turn of the cycle in progress, or of the next one where that is past (log entry 6); its budget pays a
cycle. -/
def Obligations.StepRunsDecodedInstruction : Prop :=
  ∀ (u s s1 s2 : State) (i i0 : Instr) (w l : Nat), u.board.on = true → u.agenda = [] → s = u.inCycle u.t.coreid →
    s.gangOf s.t.coreid = none → s.yieldsCore = false → s.t.mode = .running → s.t.late = none → s.remoteTaken = false →
    s.t.rep = none → Passes (fetchHead s.t.pc) s w s1 →
    unwatched s1 4 s.t.pc 2 = true → decodeWord w 0 = .ok i0 → admits i0 s1 = true →
    (match i0 with
     | .rep sb sa sd _ => (litBytes w = 0 ∧ s2 = s1) ∨ ∃ p s3, litBytes w ≠ 0 ∧
        Passes (repChecks (stride sd) (stride sa) (stride sb) (word w) (4 + litBytes w)) s1 p s3 ∧
        Passes (fetchLit (litBytes w / 2) (s.t.pc + 4)) s3 l s2
     | _ => Passes (fetchLit (litBytes w / 2) (s.t.pc + 4)) s1 l s2) →
    (if litBytes w = 0 then i = i0 else decodeWord w (word l) = .ok i) →
    ((s.counted s.t.coreid && !s.isSup s.t.coreid) = false ∨ s.t.budget ≠ 0) →
    step u = mapNext (exec i s2) fun t => t.charge s.t.coreid s.t.sliceid

/-- 04 'Encodings worked from the tables': the words that the spec works out decode to the instructions they stand for. -/
def Obligations.SpecWordsDecode : Prop :=
  decodeWord 0x00304015 0 = .ok (.loop 6 (.code 2) 0) ∧ decodeWord 0x01809883 0 = .ok (.add false (.code 48) (.code 4) 49) ∧
  decodeWord 0x0C38C2A5 0 = .ok (.amoAdd true true false (.code 7) (.code 6) 5) ∧
  decodeWord 0x88C0C6BF 0 = .ok (.mma true false 2 3 0 12 13) ∧ decodeWord 0x00082197 0 = .ok (.rep 1 0 1 (.code 3)) ∧
  decodeWord 0x803E 0 = .ok (.cVzero 1) ∧ decodeWord 0x501002C5 0 = .ok (.jpoll (.code 4) 5)

/-- 04 R48 to R57: every well-formed instruction that has an encoding is read back from its bytes, whatever follows them. -/
def Obligations.DecodeOfEncode : Prop :=
  ∀ (i : Instr) (rest : List Byte), i.wf = true → (i.isC = true ∨ i.major ≠ 0) → decode (encode i ++ rest) = .ok (i, rest)

/-- The state at power-on, from 19 R321, 24 R381, R386: no partition is assigned, no slice or copy exists, the power limit is 4,200 W,
and the boot is the only thing to come. Where the spec states no reset value, the values are the model's (log entries 2, 3). -/
def Obligations.ResetHasNothingAssigned : Prop :=
  State.reset.parts = [] ∧ State.reset.slices = [] ∧ State.reset.gangs = [] ∧ State.reset.copies = [] ∧
  State.reset.board.booted = false ∧ State.reset.board.on = true ∧ State.reset.board.powerLimit = 4200 ∧
  State.reset.agenda = [.event .powerOnBoot {}] ∧ State.reset.t.mode = .idle ∧ State.reset.t.k[0] = BitVec.allOnes 64

/-- Right after reset the memory has its canonical form (log entry 3). -/
def Obligations.ResetKeepsInv : Prop := Inv State.reset

/-- The memory keeps its canonical form in every step (log entry 3). -/
def Obligations.StepKeepsInv : Prop := ∀ s t : State, Inv s → step s = .next t → Inv t

/-! Frames. -/

/-- The members of ALU, ADDI, ADDR, CMP, KOP and the plain members of SYS: their sources, the predicates they read, the scalar
and the predicate that they write. -/
def registerForm : Instr → Option (List Src × List (BitVec 3) × Option Code × Option (BitVec 3))
  | .add _ b a d | .sub _ b a d | .and _ b a d | .or _ b a d | .xor _ b a d | .andn _ b a d | .orn _ b a d | .shl _ b a d
  | .shr _ b a d | .sra _ b a d | .rol _ b a d | .ror _ b a d | .mul _ b a d | .mulh _ b a d | .mulhn _ b a d | .div _ b a d
  | .divn _ b a d | .rem _ b a d | .remn _ b a d | .min _ b a d | .max _ b a d | .minn _ b a d | .maxn _ b a d | .slt _ b a d
  | .sltn _ b a d | .seq _ b a d | .sne _ b a d | .lea _ b a d | .bfx b a d | .bfxz b a d => some ([a, b], [], some d, none)
  | .sel _ b a d | .bfi b a d => some ([a, b, .code d], [], some d, none)
  | .clz _ a d | .ctz _ a d | .popc _ a d | .brev _ a d | .bswap _ a d | .addi _ a d => some ([a], [], some d, none)
  | .cmp _ b a k => some ([a, b], [], none, some k)
  | .kand b a k | .kor b a k | .kxor b a k => some ([], [a, b], none, some k)
  | .knot a k | .kmov a k => some ([], [a], none, some k)
  | .nop | .ifence => some ([], [], none, none)
  | _ => none

/-- 05 R58 to R67, R80, R83: an instruction of these forms changes its destination register, the loop counts and the pc of its
thread (a REP's progress, its pc with the last repetition, 05 R74, R78), in a gang the gang's skew queue, and nothing else:
no other register, no flag, no special register, no byte of memory. -/
def Obligations.RegisterFormsChangeOnlyTheirDestination : Prop :=
  ∀ (i : Instr) (srcs : List Src) (preds : List (BitVec 3)) (d : Option Code) (k : Option (BitVec 3)) (s : State),
    registerForm i = some (srcs, preds, d, k) → ready i s = true → srcs.all (readable s) = true →
    preds.all (fun k => regReadable s (64 + k.toNat)) = true →
    ∃ t, exec i s = .next t ∧ t = { s with t := t.t, gangs := t.gangs } ∧
      (s.formedGang s.t.coreid = none → t.gangs = s.gangs) ∧
      (∀ n, n < 32 → (∀ c, d = some c → n ≠ c.toNat ∨ n = 0) → t.t.s[n]! = s.t.s[n]!) ∧
      (∀ n, n < 8 → (∀ c, k = some c → n ≠ c.toNat ∨ n = 0) → t.t.k[n]! = s.t.k[n]!) ∧
      (d ≠ some 49 → t.t.eo = s.t.eo) ∧ (d ≠ some 51 → t.t.wo = s.t.wo) ∧
      (s.t.rep = none → t.t.rep = none ∧ t.t.repcnt = s.t.repcnt) ∧
      t.t = { s.t with
        s := t.t.s, k := t.t.k, badRegs := t.t.badRegs, eo := t.t.eo, eoPrev := t.t.eoPrev, eoOld := t.t.eoOld, eoMark := t.t.eoMark
        wo := t.t.wo, woPrev := t.t.woPrev, woOld := t.t.woOld, woMark := t.t.woMark
        lc := t.t.lc, pc := t.t.pc, mode := t.t.mode, rep := t.t.rep
        repcnt := t.t.repcnt, issued := t.t.issued, watchMet := t.t.watchMet } ∧
      ∀ a, t.mem.read a = s.mem.read a

/-- A byte that lies in no undo log of a superstep that the current context's stores are logged in (22 R356). -/
def logFree (s : State) (x : Nat) : Prop :=
  ∀ e ∈ s.domainsOf (s.leaderOf s.t.coreid), e.2.parent = none → e.2.snapshot = true → ∀ addr size, e.2.undoLog = some (addr, size) →
    x < addr ∨ addr + size ≤ x

/-- Every byte outside the stored ones (key and count) reads in `t` as in `s`, but for the undo logs of `s1`. -/
def OnlyBytes (s s1 t : State) (stored : List (Nat × Nat)) : Prop :=
  ∀ x, (∀ c ∈ stored, x < c.1 ∨ c.1 + c.2 ≤ x) → logFree s1 x → t.mem.read x = s.mem.read x

/-- The scalar registers but `d`, the predicates but those of `ks`, the vector registers, the flags and the trap's status hold in
`t` what they hold in `s`. -/
def KeepsRegisters (s t : State) (d : Option Code) (ks : List Nat) : Prop :=
  (∀ m, m < 32 → (∀ c, d = some c → m ≠ c.toNat ∨ m = 0) → t.t.s[m]! = s.t.s[m]!) ∧
  (∀ m, m < 8 → m ∉ ks → t.t.k[m]! = s.t.k[m]!) ∧ t.t.v = s.t.v ∧ t.t.vflags = s.t.vflags ∧ t.t.tstat = s.t.tstat

/-- 06 R99, R100: LD and LDA of memory change no byte of it; ST and STL change the bytes at their address. `s1` is the state after
the checks of the access, which change no byte. -/
def LoadsAndStoresFrame : Prop :=
  ∀ (imm : BitVec 10) (f : BitVec 3) (a dv : Src) (d : Code) (s s1 : State) (k : Nat),
    let n := sizeOf3 f
    let va := srcVal s a + imm.signExtend 64 * word n
    readable s a = true → Inv s →
    (Passes (resolve va n Acc.load) s (.mem k) s1 → s1.poisoned k n = false → unwatched s1 1 va n = true → quiet s1 = true →
      ∀ i, i ∈ [Instr.ld imm f a d, .lda imm f a d] → admits i s = true →
      ∃ t, exec i s = .next t ∧ (∀ x, t.mem.read x = s.mem.read x) ∧ t.full = s.full ∧ KeepsRegisters s t (some d) []) ∧
    (readable s dv = true → Passes (resolve va n Acc.store) s (.mem k) s1 → unwatched s1 2 va n = true → quiet s1 = true →
      ∀ i, i ∈ [Instr.st imm f a dv, .stl imm f a dv] → admits i s = true →
      ∃ t, exec i s = .next t ∧ t.mem.readNat k n = (srcVal s dv).toNat % 256 ^ n ∧ OnlyBytes s s1 t [(k, n)] ∧
        t.full = s.full ∧ KeepsRegisters s t none [])

/-- An atomic changes the bytes at its address and its destination (06 R106, R107). -/
def AmoFrame (i : Instr) (op n : Nat) (acq : Bool) (b a : Src) (d : Code) (cmp : Word) (s s1 : State) (k : Nat) : Prop :=
  readable s a = true → readable s b = true → Inv s → Passes (resolveMem (srcVal s a) n Acc.amo) s k s1 →
  s1.poisoned k n = false → unwatched s1 3 (srcVal s a) n = true → quiet (amoState op n acq k (srcVal s b) cmp s1) = true →
  admits i s = true →
  ∃ t, exec i s = .next t ∧ OnlyBytes s s1 t [(k, n)] ∧ t.full = s.full ∧ KeepsRegisters s t (some d) []

/-- 06 R106 to R110: each member of AMO. -/
def AtomicsFrame : Prop :=
  ∀ (w q r : Bool) (b a : Src) (d : Code) (s s1 : State) (k : Nat),
    let n := if w then 8 else 4
    AmoFrame (.amoAdd w q r b a d) 0 n q b a d 0 s s1 k ∧ AmoFrame (.amoAnd w q r b a d) 1 n q b a d 0 s s1 k ∧
    AmoFrame (.amoOr w q r b a d) 2 n q b a d 0 s s1 k ∧ AmoFrame (.amoXor w q r b a d) 3 n q b a d 0 s s1 k ∧
    AmoFrame (.amoMin w q r b a d) 4 n q b a d 0 s s1 k ∧ AmoFrame (.amoMax w q r b a d) 5 n q b a d 0 s s1 k ∧
    AmoFrame (.amoMinn w q r b a d) 6 n q b a d 0 s s1 k ∧ AmoFrame (.amoMaxn w q r b a d) 7 n q b a d 0 s s1 k ∧
    AmoFrame (.amoSwap w q r b a d) 8 n q b a d 0 s s1 k ∧
    (readable s (.code d) = true → AmoFrame (.amoCas w q r b a d) 9 n q b a d (srcVal s (.code d)) s s1 k) ∧
    AmoFrame (.amoFadd q r b a d) 10 4 q b a d 0 s s1 k ∧ AmoFrame (.amoBfadd2 q r b a d) 11 4 q b a d 0 s s1 k

/-- A local LDX or STX whose condition holds, with no request parked that its bit could release, changes the bytes of a store, the
bit of its own doubleword, `k7`, and the destination of a load (06 R111, R113). -/
def FeFrame (i : Instr) (isStore : Bool) (sz c e : BitVec 2) (a : Src) (v : Word) (d : Code) (s s1 : State) (k : Nat) : Prop :=
  let va := srcVal s a
  let n := 2 ^ sz.toNat
  let r := s.feRequest isStore va n c e v
  readable s a = true → Inv s → classOf va ≠ .remote →
  Passes (resolveMem va n (if isStore then Acc.stx else Acc.ldx (e != 0))) s k s1 →
  (isStore = true ∨ s1.poisoned k n = false) → (c = 0 ∨ s1.transferOf s1.t.coreid = none) → unwatched s1 3 va n = true →
  feMet c.toNat (s1.full.contains (k / 8 * 8)) = true → s1.parked = [] → admits i s = true →
  quiet (State.feStep { s1 with t := { s1.t with dest := d, len := i.len, mode := .waiting .fe } } false r k).1 = true →
  ∃ t, exec i s = .next t ∧ OnlyBytes s s1 t (if isStore then [(k, n)] else []) ∧
    (∀ w, w ≠ k / 8 * 8 → t.full.contains w = s.full.contains w) ∧ KeepsRegisters s t (if isStore then none else some d) [7]

/-- 06 R111 to R113: LDX and STX. -/
def FullEmptyFrame : Prop :=
  ∀ (sz c e : BitVec 2) (a d : Src) (x : Code) (s s1 : State) (k : Nat),
    FeFrame (.ldx sz c e a x) false sz c e a 0 x s s1 k ∧
    (readable s d = true → FeFrame (.stx sz c e a d) true sz c e a (srcVal s d) 0 s s1 k)

/-- 07 R134, R135: VST and VSCAT change the bytes of their active elements, at the keys that `locate` finds, SHPST the 32 bytes at its
address; no register and no flag. -/
def VectorStoresFrame : Prop :=
  (∀ (b a dv : Src) (s s1 s2 s3 : State) (w z : Nat) (vas : List Word) (ks : List (Word × Nat)) (xs : List Nat) (gather : Bool)
    (i : Instr), i = (if gather then .vscat b a dv else .vst b a dv) → readable s a = true → Inv s →
    Passes (vmemType i) s (w, z) s → Passes (vmemAddrs w gather (srcVal s a) b) s vas s1 → Passes (readElems w [] [] dv) s1 xs s1 →
    Passes (locate Acc.store z (marked (s1.t.actives w) vas)) s1 ks s2 → Passes (watchFound z ks) s2 () s3 → quiet s3 = true →
    admits i s = true →
    ∃ t, exec i s = .next t ∧ OnlyBytes s s3 t (ks.map fun x => (x.2, z)) ∧ t.full = s.full ∧ KeepsRegisters s t none []) ∧
  ∀ (q : BitVec 3) (a : Src) (s s1 : State) (k : Nat), readable s a = true → Inv s →
    Passes (resolveMem (srcVal s a) 32 Acc.store) s k s1 → unwatched s1 2 (srcVal s a) 32 = true → quiet s1 = true →
    admits (.shpst q a) s = true →
    ∃ t, exec (.shpst q a) s = .next t ∧ OnlyBytes s s1 t [(k, 32)] ∧ t.full = s.full ∧ KeepsRegisters s t none []

/-- 06 R99, R100, R106, R113, 07 R134, R135: a load changes no byte of memory; a store, an atomic, an STX, a vector store and SHPST
change the bytes that they store to and, in a snapshotted superstep, its undo log (22 R356). -/
def Obligations.MemoryFormsChangeOnlyTheirBytes : Prop :=
  LoadsAndStoresFrame ∧ AtomicsFrame ∧ FullEmptyFrame ∧ VectorStoresFrame
end

