-- ==== Sys2Proof/Laws/Memory.lean ====
section
/-! SUPPORT. The laws of memory: what a read answers after a write, and that every operation keeps the canonical form. -/

namespace Sys2Proof.Laws

open Sys2Proof Sys2Proof.Machine

/-! The canonical form. -/

theorem above_mono {lo lo' : Nat} {m : Memory} (h : lo' ≤ lo) (hm : Memory.above lo m = true) : Memory.above lo' m = true := by
  cases m with
  | nil => rfl
  | cons x m =>
    simp only [Memory.above, Bool.and_eq_true, decide_eq_true_eq] at hm ⊢
    exact ⟨⟨by omega, hm.1.2⟩, hm.2⟩

theorem above_write {lo a : Nat} {b : Byte} : ∀ {m : Memory}, Memory.above lo m = true → lo ≤ a →
    Memory.above lo (m.write a b) = true
  | [], _, h => by
    unfold Memory.write
    split
    · rfl
    · rename_i hb; simp [Memory.above, h, hb]
  | (c, x) :: m, hm, h => by
    simp only [Memory.above, Bool.and_eq_true, decide_eq_true_eq] at hm
    unfold Memory.write
    split
    · rename_i hc
      split
      · simp [Memory.above, hm]
      · rename_i hb
        simp only [Memory.above, Bool.and_eq_true, decide_eq_true_eq]
        exact ⟨⟨h, by simpa using hb⟩, ⟨⟨by omega, hm.1.2⟩, hm.2⟩⟩
    · split
      · rename_i hc he
        split
        · exact above_mono (by omega) hm.2
        · rename_i hb
          simp only [Memory.above, Bool.and_eq_true, decide_eq_true_eq]
          exact ⟨⟨h, by simpa using hb⟩, by subst he; exact hm.2⟩
      · rename_i hc he
        simp only [Memory.above, Bool.and_eq_true, decide_eq_true_eq]
        exact ⟨⟨hm.1.1, hm.1.2⟩, above_write hm.2 (by omega)⟩

theorem wf_write {m : Memory} (h : m.wf = true) (a : Nat) (b : Byte) : (m.write a b).wf = true :=
  above_write h (Nat.zero_le a)

theorem wf_writeBytes (bs : List Byte) : ∀ {m : Memory}, m.wf = true → ∀ a, (m.writeBytes a bs).wf = true := by
  induction bs with
  | nil => intro m h a; exact h
  | cons b bs ih => intro m h a; exact ih (wf_write h a b) (a + 1)

theorem wf_writeNat {m : Memory} (h : m.wf = true) (a n x : Nat) : (m.writeNat a n x).wf = true := wf_writeBytes _ h a

theorem above_filter (p : Host.Cell → Bool) : ∀ {lo : Nat} {m : Memory}, Memory.above lo m = true →
    Memory.above lo (m.filter p) = true
  | _, [], _ => rfl
  | lo, (c, x) :: m, hm => by
    simp only [Memory.above, Bool.and_eq_true, decide_eq_true_eq] at hm
    simp only [List.filter]
    split
    · simp only [Memory.above, Bool.and_eq_true, decide_eq_true_eq]
      exact ⟨hm.1, above_filter p hm.2⟩
    · exact above_mono (by omega) (above_filter p hm.2)

theorem wf_filter {m : Memory} (h : m.wf = true) (p : Host.Cell → Bool) : Memory.wf (m.filter p) = true := above_filter p h

theorem wf_clear {m : Memory} (h : m.wf = true) (a n : Nat) : (m.clear a n).wf = true := wf_filter h _

theorem wf_nil : Memory.wf [] = true := rfl

/-- A memory changed cell by cell keeps its form. -/
theorem wf_foldl {α : Type} {f : Memory → α → Memory} (hf : ∀ m x, Memory.wf m = true → (f m x).wf = true) :
    ∀ (l : List α) {m : Memory}, m.wf = true → (l.foldl f m).wf = true
  | [], _, h => h
  | x :: l, m, h => wf_foldl hf l (hf m x h)

/-! Reads after writes. -/

theorem read_below {a lo : Nat} : ∀ {m : Memory}, Memory.above lo m = true → a < lo → m.read a = Memory.unlisted
  | [], _, _ => rfl
  | (c, x) :: m, hm, h => by
    simp only [Memory.above, Bool.and_eq_true, decide_eq_true_eq] at hm
    unfold Memory.read
    rw [if_neg (by omega)]
    exact read_below hm.2 (by omega)

theorem read_write {lo : Nat} {a : Nat} {b : Byte} (a' : Nat) : ∀ {m : Memory}, Memory.above lo m = true →
    (m.write a b).read a' = if a' = a then b else m.read a'
  | [], _ => by
    unfold Memory.write
    split
    · rename_i hb; subst hb; split <;> simp [Memory.read]
    · simp [Memory.read]
  | (c, x) :: m, hm => by
    have hm0 := hm
    simp only [Memory.above, Bool.and_eq_true, decide_eq_true_eq] at hm
    unfold Memory.write
    split
    · rename_i hc
      split
      · rename_i hb
        by_cases ha : a' = a
        · subst ha hb
          rw [if_pos rfl]
          unfold Memory.read
          rw [if_neg (by omega)]
          exact read_below hm.2 (by omega)
        · rw [if_neg ha]
      · by_cases ha : a' = a <;> simp [Memory.read, ha]
    · split
      · rename_i hc he
        subst he
        split
        · rename_i hb
          by_cases ha : a' = a
          · subst ha hb; rw [if_pos rfl]; exact read_below hm.2 (by omega)
          · simp [Memory.read, ha]
        · by_cases ha : a' = a <;> simp [Memory.read, ha]
      · rename_i hc he
        unfold Memory.read
        by_cases ha : a' = c
        · rw [if_pos ha, if_pos ha, if_neg (by omega)]
        · rw [if_neg ha, if_neg ha]; exact read_write a' hm.2

/-- A write changes the one byte. -/
theorem read_write_same {m : Memory} (h : m.wf = true) (a : Nat) (b : Byte) : (m.write a b).read a = b := by
  rw [read_write a h, if_pos rfl]
theorem read_write_other {m : Memory} (h : m.wf = true) {a a' : Nat} (b : Byte) (ne : a' ≠ a) : (m.write a b).read a' = m.read a' := by
  rw [read_write a' h, if_neg ne]

theorem read_writeBytes_outside : ∀ (bs : List Byte) {m : Memory}, m.wf = true → ∀ {a x : Nat}, (x < a ∨ a + bs.length ≤ x) →
    (m.writeBytes a bs).read x = m.read x
  | [], _, _, _, _, _ => rfl
  | b :: bs, m, h, a, x, hx => by
    simp only [List.length_cons] at hx
    unfold Memory.writeBytes
    rw [read_writeBytes_outside bs (wf_write h a b) (by omega)]
    exact read_write_other h b (by omega)

/-- The bytes written are the bytes read. -/
theorem readBytes_writeBytes : ∀ (bs : List Byte) {m : Memory}, m.wf = true → ∀ a,
    (m.writeBytes a bs).readBytes a bs.length = bs
  | [], _, _, _ => rfl
  | b :: bs, m, h, a => by
    show Memory.read _ a :: _ = _
    unfold Memory.writeBytes
    rw [read_writeBytes_outside bs (wf_write h a b) (by omega), read_write_same h, readBytes_writeBytes bs (wf_write h a b)]

theorem read_clear (n : Nat) (a x : Nat) : ∀ (m : Memory), (m.clear a n).read x =
    if a ≤ x ∧ x < a + n then Memory.unlisted else m.read x
  | [] => by simp [Memory.clear, Memory.read]
  | (c, y) :: m => by
    have ih := read_clear n a x m
    unfold Memory.clear at ih ⊢
    simp only [List.filter]
    split
    · rename_i hp
      unfold Memory.read
      by_cases hx : x = c
      · subst hx
        rw [if_pos rfl, if_pos rfl, if_neg]
        simp only [Bool.or_eq_true, decide_eq_true_eq] at hp
        omega
      · rw [if_neg hx, if_neg hx]; exact ih
    · rename_i hp
      rw [ih]
      simp only [Bool.or_eq_false_iff, decide_eq_false_iff_not] at hp
      by_cases hx : a ≤ x ∧ x < a + n
      · rw [if_pos hx, if_pos hx]
      · rw [if_neg hx, if_neg hx]
        conv => rhs; unfold Memory.read
        rw [if_neg (by omega)]

/-! The state's writes. -/

@[simp] theorem write_mem (s : State) (a : Nat) (bs : List Byte) : (s.write a bs).mem = s.mem.writeBytes a bs := by
  unfold State.write State.unown; split <;> rfl

theorem Inv_write {s : State} (h : Inv s) (a : Nat) (bs : List Byte) : Inv (s.write a bs) := by
  unfold Inv; rw [write_mem]; exact wf_writeBytes bs h a
theorem Inv_lay {s : State} (h : Inv s) (a : Nat) (bs : List Byte) : Inv (s.lay a bs) := Inv_write h a bs
theorem Inv_writeNat {s : State} (h : Inv s) (a n x : Nat) : Inv (s.writeNat a n x) := Inv_lay h a _
theorem Inv_same_mem {s t : State} (e : t.mem = s.mem) (h : Inv s) : Inv t := by unfold Inv; rw [e]; exact h
theorem wf_assignMemory {m : Memory} (h : m.wf = true) (ws : List (Nat × Nat)) : (assignMemory ws m).wf = true := wf_filter h _

end Sys2Proof.Laws
end

