-- ==== Sys2Proof/Laws/State.lean ====
section
/-! SUPPORT. What the named updates of a state and of a context leave as it was: one lemma per field per update. -/

namespace Sys2Proof.Laws

open Sys2Proof Sys2Proof.Machine

/-! `push`. -/

@[simp] theorem push_t (s : State) (i : Instr) (a : EventArg) : (s.push i a).t = s.t := rfl
@[simp] theorem push_others (s : State) (i : Instr) (a : EventArg) : (s.push i a).others = s.others := rfl
@[simp] theorem push_cores (s : State) (i : Instr) (a : EventArg) : (s.push i a).cores = s.cores := rfl
@[simp] theorem push_clusters (s : State) (i : Instr) (a : EventArg) : (s.push i a).clusters = s.clusters := rfl
@[simp] theorem push_walks (s : State) (i : Instr) (a : EventArg) : (s.push i a).walks = s.walks := rfl
@[simp] theorem push_parts (s : State) (i : Instr) (a : EventArg) : (s.push i a).parts = s.parts := rfl
@[simp] theorem push_mem (s : State) (i : Instr) (a : EventArg) : (s.push i a).mem = s.mem := rfl
@[simp] theorem push_full (s : State) (i : Instr) (a : EventArg) : (s.push i a).full = s.full := rfl
@[simp] theorem push_bad (s : State) (i : Instr) (a : EventArg) : (s.push i a).bad = s.bad := rfl
@[simp] theorem push_copies (s : State) (i : Instr) (a : EventArg) : (s.push i a).copies = s.copies := rfl
@[simp] theorem push_subs (s : State) (i : Instr) (a : EventArg) : (s.push i a).subs = s.subs := rfl
@[simp] theorem push_waiters (s : State) (i : Instr) (a : EventArg) : (s.push i a).waiters = s.waiters := rfl
@[simp] theorem push_pendings (s : State) (i : Instr) (a : EventArg) : (s.push i a).pendings = s.pendings := rfl
@[simp] theorem push_parked (s : State) (i : Instr) (a : EventArg) : (s.push i a).parked = s.parked := rfl
@[simp] theorem push_slices (s : State) (i : Instr) (a : EventArg) : (s.push i a).slices = s.slices := rfl
@[simp] theorem push_gangs (s : State) (i : Instr) (a : EventArg) : (s.push i a).gangs = s.gangs := rfl
@[simp] theorem push_audits (s : State) (i : Instr) (a : EventArg) : (s.push i a).audits = s.audits := rfl
@[simp] theorem push_arrivals (s : State) (i : Instr) (a : EventArg) : (s.push i a).arrivals = s.arrivals := rfl
@[simp] theorem push_tokens (s : State) (i : Instr) (a : EventArg) : (s.push i a).tokens = s.tokens := rfl
@[simp] theorem push_sachets (s : State) (i : Instr) (a : EventArg) : (s.push i a).sachets = s.sachets := rfl
@[simp] theorem push_flying (s : State) (i : Instr) (a : EventArg) : (s.push i a).flying = s.flying := rfl
@[simp] theorem push_outbox (s : State) (i : Instr) (a : EventArg) : (s.push i a).outbox = s.outbox := rfl
@[simp] theorem push_flits (s : State) (i : Instr) (a : EventArg) : (s.push i a).flits = s.flits := rfl
@[simp] theorem push_links (s : State) (i : Instr) (a : EventArg) : (s.push i a).links = s.links := rfl
@[simp] theorem push_sessions (s : State) (i : Instr) (a : EventArg) : (s.push i a).sessions = s.sessions := rfl
@[simp] theorem push_responses (s : State) (i : Instr) (a : EventArg) : (s.push i a).responses = s.responses := rfl
@[simp] theorem push_board (s : State) (i : Instr) (a : EventArg) : (s.push i a).board = s.board := rfl
@[simp] theorem push_fabric (s : State) (i : Instr) (a : EventArg) : (s.push i a).fabric = s.fabric := rfl
@[simp] theorem push_time (s : State) (i : Instr) (a : EventArg) : (s.push i a).time = s.time := rfl
@[simp] theorem push_turned (s : State) (i : Instr) (a : EventArg) : (s.push i a).turned = s.turned := rfl
@[simp] theorem push_arg (s : State) (i : Instr) (a : EventArg) : (s.push i a).arg = s.arg := rfl
@[simp] theorem push_fresh (s : State) (i : Instr) (a : EventArg) : (s.push i a).fresh = s.fresh := rfl

/-! `setCore`. -/

@[simp] theorem setCore_t (s : State) (c : Nat) (x : CoreSt) : (s.setCore c x).t = s.t := rfl
@[simp] theorem setCore_others (s : State) (c : Nat) (x : CoreSt) : (s.setCore c x).others = s.others := rfl
@[simp] theorem setCore_clusters (s : State) (c : Nat) (x : CoreSt) : (s.setCore c x).clusters = s.clusters := rfl
@[simp] theorem setCore_walks (s : State) (c : Nat) (x : CoreSt) : (s.setCore c x).walks = s.walks := rfl
@[simp] theorem setCore_parts (s : State) (c : Nat) (x : CoreSt) : (s.setCore c x).parts = s.parts := rfl
@[simp] theorem setCore_mem (s : State) (c : Nat) (x : CoreSt) : (s.setCore c x).mem = s.mem := rfl
@[simp] theorem setCore_full (s : State) (c : Nat) (x : CoreSt) : (s.setCore c x).full = s.full := rfl
@[simp] theorem setCore_bad (s : State) (c : Nat) (x : CoreSt) : (s.setCore c x).bad = s.bad := rfl
@[simp] theorem setCore_copies (s : State) (c : Nat) (x : CoreSt) : (s.setCore c x).copies = s.copies := rfl
@[simp] theorem setCore_subs (s : State) (c : Nat) (x : CoreSt) : (s.setCore c x).subs = s.subs := rfl
@[simp] theorem setCore_waiters (s : State) (c : Nat) (x : CoreSt) : (s.setCore c x).waiters = s.waiters := rfl
@[simp] theorem setCore_pendings (s : State) (c : Nat) (x : CoreSt) : (s.setCore c x).pendings = s.pendings := rfl
@[simp] theorem setCore_parked (s : State) (c : Nat) (x : CoreSt) : (s.setCore c x).parked = s.parked := rfl
@[simp] theorem setCore_slices (s : State) (c : Nat) (x : CoreSt) : (s.setCore c x).slices = s.slices := rfl
@[simp] theorem setCore_gangs (s : State) (c : Nat) (x : CoreSt) : (s.setCore c x).gangs = s.gangs := rfl
@[simp] theorem setCore_audits (s : State) (c : Nat) (x : CoreSt) : (s.setCore c x).audits = s.audits := rfl
@[simp] theorem setCore_arrivals (s : State) (c : Nat) (x : CoreSt) : (s.setCore c x).arrivals = s.arrivals := rfl
@[simp] theorem setCore_tokens (s : State) (c : Nat) (x : CoreSt) : (s.setCore c x).tokens = s.tokens := rfl
@[simp] theorem setCore_sachets (s : State) (c : Nat) (x : CoreSt) : (s.setCore c x).sachets = s.sachets := rfl
@[simp] theorem setCore_flying (s : State) (c : Nat) (x : CoreSt) : (s.setCore c x).flying = s.flying := rfl
@[simp] theorem setCore_outbox (s : State) (c : Nat) (x : CoreSt) : (s.setCore c x).outbox = s.outbox := rfl
@[simp] theorem setCore_flits (s : State) (c : Nat) (x : CoreSt) : (s.setCore c x).flits = s.flits := rfl
@[simp] theorem setCore_links (s : State) (c : Nat) (x : CoreSt) : (s.setCore c x).links = s.links := rfl
@[simp] theorem setCore_sessions (s : State) (c : Nat) (x : CoreSt) : (s.setCore c x).sessions = s.sessions := rfl
@[simp] theorem setCore_responses (s : State) (c : Nat) (x : CoreSt) : (s.setCore c x).responses = s.responses := rfl
@[simp] theorem setCore_board (s : State) (c : Nat) (x : CoreSt) : (s.setCore c x).board = s.board := rfl
@[simp] theorem setCore_fabric (s : State) (c : Nat) (x : CoreSt) : (s.setCore c x).fabric = s.fabric := rfl
@[simp] theorem setCore_time (s : State) (c : Nat) (x : CoreSt) : (s.setCore c x).time = s.time := rfl
@[simp] theorem setCore_turned (s : State) (c : Nat) (x : CoreSt) : (s.setCore c x).turned = s.turned := rfl
@[simp] theorem setCore_agenda (s : State) (c : Nat) (x : CoreSt) : (s.setCore c x).agenda = s.agenda := rfl
@[simp] theorem setCore_arg (s : State) (c : Nat) (x : CoreSt) : (s.setCore c x).arg = s.arg := rfl
@[simp] theorem setCore_fresh (s : State) (c : Nat) (x : CoreSt) : (s.setCore c x).fresh = s.fresh := rfl

/-! `setCluster`. -/

@[simp] theorem setCluster_t (s : State) (c : Nat) (x : Cluster) : (s.setCluster c x).t = s.t := rfl
@[simp] theorem setCluster_others (s : State) (c : Nat) (x : Cluster) : (s.setCluster c x).others = s.others := rfl
@[simp] theorem setCluster_cores (s : State) (c : Nat) (x : Cluster) : (s.setCluster c x).cores = s.cores := rfl
@[simp] theorem setCluster_walks (s : State) (c : Nat) (x : Cluster) : (s.setCluster c x).walks = s.walks := rfl
@[simp] theorem setCluster_parts (s : State) (c : Nat) (x : Cluster) : (s.setCluster c x).parts = s.parts := rfl
@[simp] theorem setCluster_mem (s : State) (c : Nat) (x : Cluster) : (s.setCluster c x).mem = s.mem := rfl
@[simp] theorem setCluster_full (s : State) (c : Nat) (x : Cluster) : (s.setCluster c x).full = s.full := rfl
@[simp] theorem setCluster_bad (s : State) (c : Nat) (x : Cluster) : (s.setCluster c x).bad = s.bad := rfl
@[simp] theorem setCluster_copies (s : State) (c : Nat) (x : Cluster) : (s.setCluster c x).copies = s.copies := rfl
@[simp] theorem setCluster_subs (s : State) (c : Nat) (x : Cluster) : (s.setCluster c x).subs = s.subs := rfl
@[simp] theorem setCluster_waiters (s : State) (c : Nat) (x : Cluster) : (s.setCluster c x).waiters = s.waiters := rfl
@[simp] theorem setCluster_pendings (s : State) (c : Nat) (x : Cluster) : (s.setCluster c x).pendings = s.pendings := rfl
@[simp] theorem setCluster_parked (s : State) (c : Nat) (x : Cluster) : (s.setCluster c x).parked = s.parked := rfl
@[simp] theorem setCluster_slices (s : State) (c : Nat) (x : Cluster) : (s.setCluster c x).slices = s.slices := rfl
@[simp] theorem setCluster_gangs (s : State) (c : Nat) (x : Cluster) : (s.setCluster c x).gangs = s.gangs := rfl
@[simp] theorem setCluster_audits (s : State) (c : Nat) (x : Cluster) : (s.setCluster c x).audits = s.audits := rfl
@[simp] theorem setCluster_arrivals (s : State) (c : Nat) (x : Cluster) : (s.setCluster c x).arrivals = s.arrivals := rfl
@[simp] theorem setCluster_tokens (s : State) (c : Nat) (x : Cluster) : (s.setCluster c x).tokens = s.tokens := rfl
@[simp] theorem setCluster_sachets (s : State) (c : Nat) (x : Cluster) : (s.setCluster c x).sachets = s.sachets := rfl
@[simp] theorem setCluster_flying (s : State) (c : Nat) (x : Cluster) : (s.setCluster c x).flying = s.flying := rfl
@[simp] theorem setCluster_outbox (s : State) (c : Nat) (x : Cluster) : (s.setCluster c x).outbox = s.outbox := rfl
@[simp] theorem setCluster_flits (s : State) (c : Nat) (x : Cluster) : (s.setCluster c x).flits = s.flits := rfl
@[simp] theorem setCluster_links (s : State) (c : Nat) (x : Cluster) : (s.setCluster c x).links = s.links := rfl
@[simp] theorem setCluster_sessions (s : State) (c : Nat) (x : Cluster) : (s.setCluster c x).sessions = s.sessions := rfl
@[simp] theorem setCluster_responses (s : State) (c : Nat) (x : Cluster) : (s.setCluster c x).responses = s.responses := rfl
@[simp] theorem setCluster_board (s : State) (c : Nat) (x : Cluster) : (s.setCluster c x).board = s.board := rfl
@[simp] theorem setCluster_fabric (s : State) (c : Nat) (x : Cluster) : (s.setCluster c x).fabric = s.fabric := rfl
@[simp] theorem setCluster_time (s : State) (c : Nat) (x : Cluster) : (s.setCluster c x).time = s.time := rfl
@[simp] theorem setCluster_turned (s : State) (c : Nat) (x : Cluster) : (s.setCluster c x).turned = s.turned := rfl
@[simp] theorem setCluster_agenda (s : State) (c : Nat) (x : Cluster) : (s.setCluster c x).agenda = s.agenda := rfl
@[simp] theorem setCluster_arg (s : State) (c : Nat) (x : Cluster) : (s.setCluster c x).arg = s.arg := rfl
@[simp] theorem setCluster_fresh (s : State) (c : Nat) (x : Cluster) : (s.setCluster c x).fresh = s.fresh := rfl

/-! `setPart`. -/

@[simp] theorem setPart_t (s : State) (p : Nat) (x : Partition) : (s.setPart p x).t = s.t := rfl
@[simp] theorem setPart_others (s : State) (p : Nat) (x : Partition) : (s.setPart p x).others = s.others := rfl
@[simp] theorem setPart_cores (s : State) (p : Nat) (x : Partition) : (s.setPart p x).cores = s.cores := rfl
@[simp] theorem setPart_clusters (s : State) (p : Nat) (x : Partition) : (s.setPart p x).clusters = s.clusters := rfl
@[simp] theorem setPart_walks (s : State) (p : Nat) (x : Partition) : (s.setPart p x).walks = s.walks := rfl
@[simp] theorem setPart_mem (s : State) (p : Nat) (x : Partition) : (s.setPart p x).mem = s.mem := rfl
@[simp] theorem setPart_full (s : State) (p : Nat) (x : Partition) : (s.setPart p x).full = s.full := rfl
@[simp] theorem setPart_bad (s : State) (p : Nat) (x : Partition) : (s.setPart p x).bad = s.bad := rfl
@[simp] theorem setPart_copies (s : State) (p : Nat) (x : Partition) : (s.setPart p x).copies = s.copies := rfl
@[simp] theorem setPart_subs (s : State) (p : Nat) (x : Partition) : (s.setPart p x).subs = s.subs := rfl
@[simp] theorem setPart_waiters (s : State) (p : Nat) (x : Partition) : (s.setPart p x).waiters = s.waiters := rfl
@[simp] theorem setPart_pendings (s : State) (p : Nat) (x : Partition) : (s.setPart p x).pendings = s.pendings := rfl
@[simp] theorem setPart_parked (s : State) (p : Nat) (x : Partition) : (s.setPart p x).parked = s.parked := rfl
@[simp] theorem setPart_slices (s : State) (p : Nat) (x : Partition) : (s.setPart p x).slices = s.slices := rfl
@[simp] theorem setPart_gangs (s : State) (p : Nat) (x : Partition) : (s.setPart p x).gangs = s.gangs := rfl
@[simp] theorem setPart_audits (s : State) (p : Nat) (x : Partition) : (s.setPart p x).audits = s.audits := rfl
@[simp] theorem setPart_arrivals (s : State) (p : Nat) (x : Partition) : (s.setPart p x).arrivals = s.arrivals := rfl
@[simp] theorem setPart_tokens (s : State) (p : Nat) (x : Partition) : (s.setPart p x).tokens = s.tokens := rfl
@[simp] theorem setPart_sachets (s : State) (p : Nat) (x : Partition) : (s.setPart p x).sachets = s.sachets := rfl
@[simp] theorem setPart_flying (s : State) (p : Nat) (x : Partition) : (s.setPart p x).flying = s.flying := rfl
@[simp] theorem setPart_outbox (s : State) (p : Nat) (x : Partition) : (s.setPart p x).outbox = s.outbox := rfl
@[simp] theorem setPart_flits (s : State) (p : Nat) (x : Partition) : (s.setPart p x).flits = s.flits := rfl
@[simp] theorem setPart_links (s : State) (p : Nat) (x : Partition) : (s.setPart p x).links = s.links := rfl
@[simp] theorem setPart_sessions (s : State) (p : Nat) (x : Partition) : (s.setPart p x).sessions = s.sessions := rfl
@[simp] theorem setPart_responses (s : State) (p : Nat) (x : Partition) : (s.setPart p x).responses = s.responses := rfl
@[simp] theorem setPart_board (s : State) (p : Nat) (x : Partition) : (s.setPart p x).board = s.board := rfl
@[simp] theorem setPart_fabric (s : State) (p : Nat) (x : Partition) : (s.setPart p x).fabric = s.fabric := rfl
@[simp] theorem setPart_time (s : State) (p : Nat) (x : Partition) : (s.setPart p x).time = s.time := rfl
@[simp] theorem setPart_turned (s : State) (p : Nat) (x : Partition) : (s.setPart p x).turned = s.turned := rfl
@[simp] theorem setPart_agenda (s : State) (p : Nat) (x : Partition) : (s.setPart p x).agenda = s.agenda := rfl
@[simp] theorem setPart_arg (s : State) (p : Nat) (x : Partition) : (s.setPart p x).arg = s.arg := rfl
@[simp] theorem setPart_fresh (s : State) (p : Nat) (x : Partition) : (s.setPart p x).fresh = s.fresh := rfl

/-! `modCore`. -/

@[simp] theorem modCore_t (s : State) (c : Nat) (f : CoreSt → CoreSt) : (s.modCore c f).t = s.t := rfl
@[simp] theorem modCore_others (s : State) (c : Nat) (f : CoreSt → CoreSt) : (s.modCore c f).others = s.others := rfl
@[simp] theorem modCore_clusters (s : State) (c : Nat) (f : CoreSt → CoreSt) : (s.modCore c f).clusters = s.clusters := rfl
@[simp] theorem modCore_walks (s : State) (c : Nat) (f : CoreSt → CoreSt) : (s.modCore c f).walks = s.walks := rfl
@[simp] theorem modCore_parts (s : State) (c : Nat) (f : CoreSt → CoreSt) : (s.modCore c f).parts = s.parts := rfl
@[simp] theorem modCore_mem (s : State) (c : Nat) (f : CoreSt → CoreSt) : (s.modCore c f).mem = s.mem := rfl
@[simp] theorem modCore_full (s : State) (c : Nat) (f : CoreSt → CoreSt) : (s.modCore c f).full = s.full := rfl
@[simp] theorem modCore_bad (s : State) (c : Nat) (f : CoreSt → CoreSt) : (s.modCore c f).bad = s.bad := rfl
@[simp] theorem modCore_copies (s : State) (c : Nat) (f : CoreSt → CoreSt) : (s.modCore c f).copies = s.copies := rfl
@[simp] theorem modCore_subs (s : State) (c : Nat) (f : CoreSt → CoreSt) : (s.modCore c f).subs = s.subs := rfl
@[simp] theorem modCore_waiters (s : State) (c : Nat) (f : CoreSt → CoreSt) : (s.modCore c f).waiters = s.waiters := rfl
@[simp] theorem modCore_pendings (s : State) (c : Nat) (f : CoreSt → CoreSt) : (s.modCore c f).pendings = s.pendings := rfl
@[simp] theorem modCore_parked (s : State) (c : Nat) (f : CoreSt → CoreSt) : (s.modCore c f).parked = s.parked := rfl
@[simp] theorem modCore_slices (s : State) (c : Nat) (f : CoreSt → CoreSt) : (s.modCore c f).slices = s.slices := rfl
@[simp] theorem modCore_gangs (s : State) (c : Nat) (f : CoreSt → CoreSt) : (s.modCore c f).gangs = s.gangs := rfl
@[simp] theorem modCore_audits (s : State) (c : Nat) (f : CoreSt → CoreSt) : (s.modCore c f).audits = s.audits := rfl
@[simp] theorem modCore_arrivals (s : State) (c : Nat) (f : CoreSt → CoreSt) : (s.modCore c f).arrivals = s.arrivals := rfl
@[simp] theorem modCore_tokens (s : State) (c : Nat) (f : CoreSt → CoreSt) : (s.modCore c f).tokens = s.tokens := rfl
@[simp] theorem modCore_sachets (s : State) (c : Nat) (f : CoreSt → CoreSt) : (s.modCore c f).sachets = s.sachets := rfl
@[simp] theorem modCore_flying (s : State) (c : Nat) (f : CoreSt → CoreSt) : (s.modCore c f).flying = s.flying := rfl
@[simp] theorem modCore_outbox (s : State) (c : Nat) (f : CoreSt → CoreSt) : (s.modCore c f).outbox = s.outbox := rfl
@[simp] theorem modCore_flits (s : State) (c : Nat) (f : CoreSt → CoreSt) : (s.modCore c f).flits = s.flits := rfl
@[simp] theorem modCore_links (s : State) (c : Nat) (f : CoreSt → CoreSt) : (s.modCore c f).links = s.links := rfl
@[simp] theorem modCore_sessions (s : State) (c : Nat) (f : CoreSt → CoreSt) : (s.modCore c f).sessions = s.sessions := rfl
@[simp] theorem modCore_responses (s : State) (c : Nat) (f : CoreSt → CoreSt) : (s.modCore c f).responses = s.responses := rfl
@[simp] theorem modCore_board (s : State) (c : Nat) (f : CoreSt → CoreSt) : (s.modCore c f).board = s.board := rfl
@[simp] theorem modCore_fabric (s : State) (c : Nat) (f : CoreSt → CoreSt) : (s.modCore c f).fabric = s.fabric := rfl
@[simp] theorem modCore_time (s : State) (c : Nat) (f : CoreSt → CoreSt) : (s.modCore c f).time = s.time := rfl
@[simp] theorem modCore_turned (s : State) (c : Nat) (f : CoreSt → CoreSt) : (s.modCore c f).turned = s.turned := rfl
@[simp] theorem modCore_agenda (s : State) (c : Nat) (f : CoreSt → CoreSt) : (s.modCore c f).agenda = s.agenda := rfl
@[simp] theorem modCore_arg (s : State) (c : Nat) (f : CoreSt → CoreSt) : (s.modCore c f).arg = s.arg := rfl
@[simp] theorem modCore_fresh (s : State) (c : Nat) (f : CoreSt → CoreSt) : (s.modCore c f).fresh = s.fresh := rfl

/-! `modCluster`. -/

@[simp] theorem modCluster_t (s : State) (c : Nat) (f : Cluster → Cluster) : (s.modCluster c f).t = s.t := rfl
@[simp] theorem modCluster_others (s : State) (c : Nat) (f : Cluster → Cluster) : (s.modCluster c f).others = s.others := rfl
@[simp] theorem modCluster_cores (s : State) (c : Nat) (f : Cluster → Cluster) : (s.modCluster c f).cores = s.cores := rfl
@[simp] theorem modCluster_walks (s : State) (c : Nat) (f : Cluster → Cluster) : (s.modCluster c f).walks = s.walks := rfl
@[simp] theorem modCluster_parts (s : State) (c : Nat) (f : Cluster → Cluster) : (s.modCluster c f).parts = s.parts := rfl
@[simp] theorem modCluster_mem (s : State) (c : Nat) (f : Cluster → Cluster) : (s.modCluster c f).mem = s.mem := rfl
@[simp] theorem modCluster_full (s : State) (c : Nat) (f : Cluster → Cluster) : (s.modCluster c f).full = s.full := rfl
@[simp] theorem modCluster_bad (s : State) (c : Nat) (f : Cluster → Cluster) : (s.modCluster c f).bad = s.bad := rfl
@[simp] theorem modCluster_copies (s : State) (c : Nat) (f : Cluster → Cluster) : (s.modCluster c f).copies = s.copies := rfl
@[simp] theorem modCluster_subs (s : State) (c : Nat) (f : Cluster → Cluster) : (s.modCluster c f).subs = s.subs := rfl
@[simp] theorem modCluster_waiters (s : State) (c : Nat) (f : Cluster → Cluster) : (s.modCluster c f).waiters = s.waiters := rfl
@[simp] theorem modCluster_pendings (s : State) (c : Nat) (f : Cluster → Cluster) : (s.modCluster c f).pendings = s.pendings := rfl
@[simp] theorem modCluster_parked (s : State) (c : Nat) (f : Cluster → Cluster) : (s.modCluster c f).parked = s.parked := rfl
@[simp] theorem modCluster_slices (s : State) (c : Nat) (f : Cluster → Cluster) : (s.modCluster c f).slices = s.slices := rfl
@[simp] theorem modCluster_gangs (s : State) (c : Nat) (f : Cluster → Cluster) : (s.modCluster c f).gangs = s.gangs := rfl
@[simp] theorem modCluster_audits (s : State) (c : Nat) (f : Cluster → Cluster) : (s.modCluster c f).audits = s.audits := rfl
@[simp] theorem modCluster_arrivals (s : State) (c : Nat) (f : Cluster → Cluster) : (s.modCluster c f).arrivals = s.arrivals := rfl
@[simp] theorem modCluster_tokens (s : State) (c : Nat) (f : Cluster → Cluster) : (s.modCluster c f).tokens = s.tokens := rfl
@[simp] theorem modCluster_sachets (s : State) (c : Nat) (f : Cluster → Cluster) : (s.modCluster c f).sachets = s.sachets := rfl
@[simp] theorem modCluster_flying (s : State) (c : Nat) (f : Cluster → Cluster) : (s.modCluster c f).flying = s.flying := rfl
@[simp] theorem modCluster_outbox (s : State) (c : Nat) (f : Cluster → Cluster) : (s.modCluster c f).outbox = s.outbox := rfl
@[simp] theorem modCluster_flits (s : State) (c : Nat) (f : Cluster → Cluster) : (s.modCluster c f).flits = s.flits := rfl
@[simp] theorem modCluster_links (s : State) (c : Nat) (f : Cluster → Cluster) : (s.modCluster c f).links = s.links := rfl
@[simp] theorem modCluster_sessions (s : State) (c : Nat) (f : Cluster → Cluster) : (s.modCluster c f).sessions = s.sessions := rfl
@[simp] theorem modCluster_responses (s : State) (c : Nat) (f : Cluster → Cluster) : (s.modCluster c f).responses = s.responses := rfl
@[simp] theorem modCluster_board (s : State) (c : Nat) (f : Cluster → Cluster) : (s.modCluster c f).board = s.board := rfl
@[simp] theorem modCluster_fabric (s : State) (c : Nat) (f : Cluster → Cluster) : (s.modCluster c f).fabric = s.fabric := rfl
@[simp] theorem modCluster_time (s : State) (c : Nat) (f : Cluster → Cluster) : (s.modCluster c f).time = s.time := rfl
@[simp] theorem modCluster_turned (s : State) (c : Nat) (f : Cluster → Cluster) : (s.modCluster c f).turned = s.turned := rfl
@[simp] theorem modCluster_agenda (s : State) (c : Nat) (f : Cluster → Cluster) : (s.modCluster c f).agenda = s.agenda := rfl
@[simp] theorem modCluster_arg (s : State) (c : Nat) (f : Cluster → Cluster) : (s.modCluster c f).arg = s.arg := rfl
@[simp] theorem modCluster_fresh (s : State) (c : Nat) (f : Cluster → Cluster) : (s.modCluster c f).fresh = s.fresh := rfl

/-! `modPart`. -/

@[simp] theorem modPart_t (s : State) (p : Nat) (f : Partition → Partition) : (s.modPart p f).t = s.t := rfl
@[simp] theorem modPart_others (s : State) (p : Nat) (f : Partition → Partition) : (s.modPart p f).others = s.others := rfl
@[simp] theorem modPart_cores (s : State) (p : Nat) (f : Partition → Partition) : (s.modPart p f).cores = s.cores := rfl
@[simp] theorem modPart_clusters (s : State) (p : Nat) (f : Partition → Partition) : (s.modPart p f).clusters = s.clusters := rfl
@[simp] theorem modPart_walks (s : State) (p : Nat) (f : Partition → Partition) : (s.modPart p f).walks = s.walks := rfl
@[simp] theorem modPart_mem (s : State) (p : Nat) (f : Partition → Partition) : (s.modPart p f).mem = s.mem := rfl
@[simp] theorem modPart_full (s : State) (p : Nat) (f : Partition → Partition) : (s.modPart p f).full = s.full := rfl
@[simp] theorem modPart_bad (s : State) (p : Nat) (f : Partition → Partition) : (s.modPart p f).bad = s.bad := rfl
@[simp] theorem modPart_copies (s : State) (p : Nat) (f : Partition → Partition) : (s.modPart p f).copies = s.copies := rfl
@[simp] theorem modPart_subs (s : State) (p : Nat) (f : Partition → Partition) : (s.modPart p f).subs = s.subs := rfl
@[simp] theorem modPart_waiters (s : State) (p : Nat) (f : Partition → Partition) : (s.modPart p f).waiters = s.waiters := rfl
@[simp] theorem modPart_pendings (s : State) (p : Nat) (f : Partition → Partition) : (s.modPart p f).pendings = s.pendings := rfl
@[simp] theorem modPart_parked (s : State) (p : Nat) (f : Partition → Partition) : (s.modPart p f).parked = s.parked := rfl
@[simp] theorem modPart_slices (s : State) (p : Nat) (f : Partition → Partition) : (s.modPart p f).slices = s.slices := rfl
@[simp] theorem modPart_gangs (s : State) (p : Nat) (f : Partition → Partition) : (s.modPart p f).gangs = s.gangs := rfl
@[simp] theorem modPart_audits (s : State) (p : Nat) (f : Partition → Partition) : (s.modPart p f).audits = s.audits := rfl
@[simp] theorem modPart_arrivals (s : State) (p : Nat) (f : Partition → Partition) : (s.modPart p f).arrivals = s.arrivals := rfl
@[simp] theorem modPart_tokens (s : State) (p : Nat) (f : Partition → Partition) : (s.modPart p f).tokens = s.tokens := rfl
@[simp] theorem modPart_sachets (s : State) (p : Nat) (f : Partition → Partition) : (s.modPart p f).sachets = s.sachets := rfl
@[simp] theorem modPart_flying (s : State) (p : Nat) (f : Partition → Partition) : (s.modPart p f).flying = s.flying := rfl
@[simp] theorem modPart_outbox (s : State) (p : Nat) (f : Partition → Partition) : (s.modPart p f).outbox = s.outbox := rfl
@[simp] theorem modPart_flits (s : State) (p : Nat) (f : Partition → Partition) : (s.modPart p f).flits = s.flits := rfl
@[simp] theorem modPart_links (s : State) (p : Nat) (f : Partition → Partition) : (s.modPart p f).links = s.links := rfl
@[simp] theorem modPart_sessions (s : State) (p : Nat) (f : Partition → Partition) : (s.modPart p f).sessions = s.sessions := rfl
@[simp] theorem modPart_responses (s : State) (p : Nat) (f : Partition → Partition) : (s.modPart p f).responses = s.responses := rfl
@[simp] theorem modPart_board (s : State) (p : Nat) (f : Partition → Partition) : (s.modPart p f).board = s.board := rfl
@[simp] theorem modPart_fabric (s : State) (p : Nat) (f : Partition → Partition) : (s.modPart p f).fabric = s.fabric := rfl
@[simp] theorem modPart_time (s : State) (p : Nat) (f : Partition → Partition) : (s.modPart p f).time = s.time := rfl
@[simp] theorem modPart_turned (s : State) (p : Nat) (f : Partition → Partition) : (s.modPart p f).turned = s.turned := rfl
@[simp] theorem modPart_agenda (s : State) (p : Nat) (f : Partition → Partition) : (s.modPart p f).agenda = s.agenda := rfl
@[simp] theorem modPart_arg (s : State) (p : Nat) (f : Partition → Partition) : (s.modPart p f).arg = s.arg := rfl
@[simp] theorem modPart_fresh (s : State) (p : Nat) (f : Partition → Partition) : (s.modPart p f).fresh = s.fresh := rfl

/-! `modSlice`. -/

@[simp] theorem modSlice_t (s : State) (n : Nat) (f : Slice → Slice) : (s.modSlice n f).t = s.t := rfl
@[simp] theorem modSlice_others (s : State) (n : Nat) (f : Slice → Slice) : (s.modSlice n f).others = s.others := rfl
@[simp] theorem modSlice_cores (s : State) (n : Nat) (f : Slice → Slice) : (s.modSlice n f).cores = s.cores := rfl
@[simp] theorem modSlice_clusters (s : State) (n : Nat) (f : Slice → Slice) : (s.modSlice n f).clusters = s.clusters := rfl
@[simp] theorem modSlice_walks (s : State) (n : Nat) (f : Slice → Slice) : (s.modSlice n f).walks = s.walks := rfl
@[simp] theorem modSlice_parts (s : State) (n : Nat) (f : Slice → Slice) : (s.modSlice n f).parts = s.parts := rfl
@[simp] theorem modSlice_mem (s : State) (n : Nat) (f : Slice → Slice) : (s.modSlice n f).mem = s.mem := rfl
@[simp] theorem modSlice_full (s : State) (n : Nat) (f : Slice → Slice) : (s.modSlice n f).full = s.full := rfl
@[simp] theorem modSlice_bad (s : State) (n : Nat) (f : Slice → Slice) : (s.modSlice n f).bad = s.bad := rfl
@[simp] theorem modSlice_copies (s : State) (n : Nat) (f : Slice → Slice) : (s.modSlice n f).copies = s.copies := rfl
@[simp] theorem modSlice_subs (s : State) (n : Nat) (f : Slice → Slice) : (s.modSlice n f).subs = s.subs := rfl
@[simp] theorem modSlice_waiters (s : State) (n : Nat) (f : Slice → Slice) : (s.modSlice n f).waiters = s.waiters := rfl
@[simp] theorem modSlice_pendings (s : State) (n : Nat) (f : Slice → Slice) : (s.modSlice n f).pendings = s.pendings := rfl
@[simp] theorem modSlice_parked (s : State) (n : Nat) (f : Slice → Slice) : (s.modSlice n f).parked = s.parked := rfl
@[simp] theorem modSlice_gangs (s : State) (n : Nat) (f : Slice → Slice) : (s.modSlice n f).gangs = s.gangs := rfl
@[simp] theorem modSlice_audits (s : State) (n : Nat) (f : Slice → Slice) : (s.modSlice n f).audits = s.audits := rfl
@[simp] theorem modSlice_arrivals (s : State) (n : Nat) (f : Slice → Slice) : (s.modSlice n f).arrivals = s.arrivals := rfl
@[simp] theorem modSlice_tokens (s : State) (n : Nat) (f : Slice → Slice) : (s.modSlice n f).tokens = s.tokens := rfl
@[simp] theorem modSlice_sachets (s : State) (n : Nat) (f : Slice → Slice) : (s.modSlice n f).sachets = s.sachets := rfl
@[simp] theorem modSlice_flying (s : State) (n : Nat) (f : Slice → Slice) : (s.modSlice n f).flying = s.flying := rfl
@[simp] theorem modSlice_outbox (s : State) (n : Nat) (f : Slice → Slice) : (s.modSlice n f).outbox = s.outbox := rfl
@[simp] theorem modSlice_flits (s : State) (n : Nat) (f : Slice → Slice) : (s.modSlice n f).flits = s.flits := rfl
@[simp] theorem modSlice_links (s : State) (n : Nat) (f : Slice → Slice) : (s.modSlice n f).links = s.links := rfl
@[simp] theorem modSlice_sessions (s : State) (n : Nat) (f : Slice → Slice) : (s.modSlice n f).sessions = s.sessions := rfl
@[simp] theorem modSlice_responses (s : State) (n : Nat) (f : Slice → Slice) : (s.modSlice n f).responses = s.responses := rfl
@[simp] theorem modSlice_board (s : State) (n : Nat) (f : Slice → Slice) : (s.modSlice n f).board = s.board := rfl
@[simp] theorem modSlice_fabric (s : State) (n : Nat) (f : Slice → Slice) : (s.modSlice n f).fabric = s.fabric := rfl
@[simp] theorem modSlice_time (s : State) (n : Nat) (f : Slice → Slice) : (s.modSlice n f).time = s.time := rfl
@[simp] theorem modSlice_turned (s : State) (n : Nat) (f : Slice → Slice) : (s.modSlice n f).turned = s.turned := rfl
@[simp] theorem modSlice_agenda (s : State) (n : Nat) (f : Slice → Slice) : (s.modSlice n f).agenda = s.agenda := rfl
@[simp] theorem modSlice_arg (s : State) (n : Nat) (f : Slice → Slice) : (s.modSlice n f).arg = s.arg := rfl
@[simp] theorem modSlice_fresh (s : State) (n : Nat) (f : Slice → Slice) : (s.modSlice n f).fresh = s.fresh := rfl

/-! `setSlice`. -/

@[simp] theorem setSlice_t (s : State) (x : Slice) : (s.setSlice x).t = s.t := rfl
@[simp] theorem setSlice_others (s : State) (x : Slice) : (s.setSlice x).others = s.others := rfl
@[simp] theorem setSlice_cores (s : State) (x : Slice) : (s.setSlice x).cores = s.cores := rfl
@[simp] theorem setSlice_clusters (s : State) (x : Slice) : (s.setSlice x).clusters = s.clusters := rfl
@[simp] theorem setSlice_walks (s : State) (x : Slice) : (s.setSlice x).walks = s.walks := rfl
@[simp] theorem setSlice_parts (s : State) (x : Slice) : (s.setSlice x).parts = s.parts := rfl
@[simp] theorem setSlice_mem (s : State) (x : Slice) : (s.setSlice x).mem = s.mem := rfl
@[simp] theorem setSlice_full (s : State) (x : Slice) : (s.setSlice x).full = s.full := rfl
@[simp] theorem setSlice_bad (s : State) (x : Slice) : (s.setSlice x).bad = s.bad := rfl
@[simp] theorem setSlice_copies (s : State) (x : Slice) : (s.setSlice x).copies = s.copies := rfl
@[simp] theorem setSlice_subs (s : State) (x : Slice) : (s.setSlice x).subs = s.subs := rfl
@[simp] theorem setSlice_waiters (s : State) (x : Slice) : (s.setSlice x).waiters = s.waiters := rfl
@[simp] theorem setSlice_pendings (s : State) (x : Slice) : (s.setSlice x).pendings = s.pendings := rfl
@[simp] theorem setSlice_parked (s : State) (x : Slice) : (s.setSlice x).parked = s.parked := rfl
@[simp] theorem setSlice_gangs (s : State) (x : Slice) : (s.setSlice x).gangs = s.gangs := rfl
@[simp] theorem setSlice_audits (s : State) (x : Slice) : (s.setSlice x).audits = s.audits := rfl
@[simp] theorem setSlice_arrivals (s : State) (x : Slice) : (s.setSlice x).arrivals = s.arrivals := rfl
@[simp] theorem setSlice_tokens (s : State) (x : Slice) : (s.setSlice x).tokens = s.tokens := rfl
@[simp] theorem setSlice_sachets (s : State) (x : Slice) : (s.setSlice x).sachets = s.sachets := rfl
@[simp] theorem setSlice_flying (s : State) (x : Slice) : (s.setSlice x).flying = s.flying := rfl
@[simp] theorem setSlice_outbox (s : State) (x : Slice) : (s.setSlice x).outbox = s.outbox := rfl
@[simp] theorem setSlice_flits (s : State) (x : Slice) : (s.setSlice x).flits = s.flits := rfl
@[simp] theorem setSlice_links (s : State) (x : Slice) : (s.setSlice x).links = s.links := rfl
@[simp] theorem setSlice_sessions (s : State) (x : Slice) : (s.setSlice x).sessions = s.sessions := rfl
@[simp] theorem setSlice_responses (s : State) (x : Slice) : (s.setSlice x).responses = s.responses := rfl
@[simp] theorem setSlice_board (s : State) (x : Slice) : (s.setSlice x).board = s.board := rfl
@[simp] theorem setSlice_fabric (s : State) (x : Slice) : (s.setSlice x).fabric = s.fabric := rfl
@[simp] theorem setSlice_time (s : State) (x : Slice) : (s.setSlice x).time = s.time := rfl
@[simp] theorem setSlice_turned (s : State) (x : Slice) : (s.setSlice x).turned = s.turned := rfl
@[simp] theorem setSlice_agenda (s : State) (x : Slice) : (s.setSlice x).agenda = s.agenda := rfl
@[simp] theorem setSlice_arg (s : State) (x : Slice) : (s.setSlice x).arg = s.arg := rfl
@[simp] theorem setSlice_fresh (s : State) (x : Slice) : (s.setSlice x).fresh = s.fresh := rfl

/-! `poison`. -/

@[simp] theorem poison_t (s : State) (a n : Nat) : (s.poison a n).t = s.t := rfl
@[simp] theorem poison_others (s : State) (a n : Nat) : (s.poison a n).others = s.others := rfl
@[simp] theorem poison_cores (s : State) (a n : Nat) : (s.poison a n).cores = s.cores := rfl
@[simp] theorem poison_clusters (s : State) (a n : Nat) : (s.poison a n).clusters = s.clusters := rfl
@[simp] theorem poison_walks (s : State) (a n : Nat) : (s.poison a n).walks = s.walks := rfl
@[simp] theorem poison_parts (s : State) (a n : Nat) : (s.poison a n).parts = s.parts := rfl
@[simp] theorem poison_mem (s : State) (a n : Nat) : (s.poison a n).mem = s.mem := rfl
@[simp] theorem poison_full (s : State) (a n : Nat) : (s.poison a n).full = s.full := rfl
@[simp] theorem poison_copies (s : State) (a n : Nat) : (s.poison a n).copies = s.copies := rfl
@[simp] theorem poison_subs (s : State) (a n : Nat) : (s.poison a n).subs = s.subs := rfl
@[simp] theorem poison_waiters (s : State) (a n : Nat) : (s.poison a n).waiters = s.waiters := rfl
@[simp] theorem poison_pendings (s : State) (a n : Nat) : (s.poison a n).pendings = s.pendings := rfl
@[simp] theorem poison_parked (s : State) (a n : Nat) : (s.poison a n).parked = s.parked := rfl
@[simp] theorem poison_slices (s : State) (a n : Nat) : (s.poison a n).slices = s.slices := rfl
@[simp] theorem poison_gangs (s : State) (a n : Nat) : (s.poison a n).gangs = s.gangs := rfl
@[simp] theorem poison_audits (s : State) (a n : Nat) : (s.poison a n).audits = s.audits := rfl
@[simp] theorem poison_arrivals (s : State) (a n : Nat) : (s.poison a n).arrivals = s.arrivals := rfl
@[simp] theorem poison_tokens (s : State) (a n : Nat) : (s.poison a n).tokens = s.tokens := rfl
@[simp] theorem poison_sachets (s : State) (a n : Nat) : (s.poison a n).sachets = s.sachets := rfl
@[simp] theorem poison_flying (s : State) (a n : Nat) : (s.poison a n).flying = s.flying := rfl
@[simp] theorem poison_outbox (s : State) (a n : Nat) : (s.poison a n).outbox = s.outbox := rfl
@[simp] theorem poison_flits (s : State) (a n : Nat) : (s.poison a n).flits = s.flits := rfl
@[simp] theorem poison_links (s : State) (a n : Nat) : (s.poison a n).links = s.links := rfl
@[simp] theorem poison_sessions (s : State) (a n : Nat) : (s.poison a n).sessions = s.sessions := rfl
@[simp] theorem poison_responses (s : State) (a n : Nat) : (s.poison a n).responses = s.responses := rfl
@[simp] theorem poison_board (s : State) (a n : Nat) : (s.poison a n).board = s.board := rfl
@[simp] theorem poison_fabric (s : State) (a n : Nat) : (s.poison a n).fabric = s.fabric := rfl
@[simp] theorem poison_time (s : State) (a n : Nat) : (s.poison a n).time = s.time := rfl
@[simp] theorem poison_turned (s : State) (a n : Nat) : (s.poison a n).turned = s.turned := rfl
@[simp] theorem poison_agenda (s : State) (a n : Nat) : (s.poison a n).agenda = s.agenda := rfl
@[simp] theorem poison_arg (s : State) (a n : Nat) : (s.poison a n).arg = s.arg := rfl
@[simp] theorem poison_fresh (s : State) (a n : Nat) : (s.poison a n).fresh = s.fresh := rfl

/-! `tick`. -/

@[simp] theorem tick_t (s : State) : (s.tick).t = s.t := rfl
@[simp] theorem tick_others (s : State) : (s.tick).others = s.others := rfl
@[simp] theorem tick_cores (s : State) : (s.tick).cores = s.cores := rfl
@[simp] theorem tick_clusters (s : State) : (s.tick).clusters = s.clusters := rfl
@[simp] theorem tick_walks (s : State) : (s.tick).walks = s.walks := rfl
@[simp] theorem tick_parts (s : State) : (s.tick).parts = s.parts := rfl
@[simp] theorem tick_mem (s : State) : (s.tick).mem = s.mem := rfl
@[simp] theorem tick_full (s : State) : (s.tick).full = s.full := rfl
@[simp] theorem tick_bad (s : State) : (s.tick).bad = s.bad := rfl
@[simp] theorem tick_copies (s : State) : (s.tick).copies = s.copies := rfl
@[simp] theorem tick_subs (s : State) : (s.tick).subs = s.subs := rfl
@[simp] theorem tick_waiters (s : State) : (s.tick).waiters = s.waiters := rfl
@[simp] theorem tick_pendings (s : State) : (s.tick).pendings = s.pendings := rfl
@[simp] theorem tick_parked (s : State) : (s.tick).parked = s.parked := rfl
@[simp] theorem tick_slices (s : State) : (s.tick).slices = s.slices := rfl
@[simp] theorem tick_gangs (s : State) : (s.tick).gangs = s.gangs := rfl
@[simp] theorem tick_audits (s : State) : (s.tick).audits = s.audits := rfl
@[simp] theorem tick_arrivals (s : State) : (s.tick).arrivals = s.arrivals := rfl
@[simp] theorem tick_tokens (s : State) : (s.tick).tokens = s.tokens := rfl
@[simp] theorem tick_sachets (s : State) : (s.tick).sachets = s.sachets := rfl
@[simp] theorem tick_flying (s : State) : (s.tick).flying = s.flying := rfl
@[simp] theorem tick_outbox (s : State) : (s.tick).outbox = s.outbox := rfl
@[simp] theorem tick_flits (s : State) : (s.tick).flits = s.flits := rfl
@[simp] theorem tick_links (s : State) : (s.tick).links = s.links := rfl
@[simp] theorem tick_sessions (s : State) : (s.tick).sessions = s.sessions := rfl
@[simp] theorem tick_responses (s : State) : (s.tick).responses = s.responses := rfl
@[simp] theorem tick_board (s : State) : (s.tick).board = s.board := rfl
@[simp] theorem tick_fabric (s : State) : (s.tick).fabric = s.fabric := rfl
@[simp] theorem tick_turned (s : State) : (s.tick).turned = s.turned := rfl
@[simp] theorem tick_agenda (s : State) : (s.tick).agenda = s.agenda := rfl
@[simp] theorem tick_arg (s : State) : (s.tick).arg = s.arg := rfl
@[simp] theorem tick_fresh (s : State) : (s.tick).fresh = s.fresh := rfl

/-! `setDest`. -/

@[simp] theorem setDest_others (s : State) (d : Code) (v : Word) : (setDest s d v).others = s.others := rfl
@[simp] theorem setDest_cores (s : State) (d : Code) (v : Word) : (setDest s d v).cores = s.cores := rfl
@[simp] theorem setDest_clusters (s : State) (d : Code) (v : Word) : (setDest s d v).clusters = s.clusters := rfl
@[simp] theorem setDest_walks (s : State) (d : Code) (v : Word) : (setDest s d v).walks = s.walks := rfl
@[simp] theorem setDest_parts (s : State) (d : Code) (v : Word) : (setDest s d v).parts = s.parts := rfl
@[simp] theorem setDest_mem (s : State) (d : Code) (v : Word) : (setDest s d v).mem = s.mem := rfl
@[simp] theorem setDest_full (s : State) (d : Code) (v : Word) : (setDest s d v).full = s.full := rfl
@[simp] theorem setDest_bad (s : State) (d : Code) (v : Word) : (setDest s d v).bad = s.bad := rfl
@[simp] theorem setDest_copies (s : State) (d : Code) (v : Word) : (setDest s d v).copies = s.copies := rfl
@[simp] theorem setDest_subs (s : State) (d : Code) (v : Word) : (setDest s d v).subs = s.subs := rfl
@[simp] theorem setDest_waiters (s : State) (d : Code) (v : Word) : (setDest s d v).waiters = s.waiters := rfl
@[simp] theorem setDest_pendings (s : State) (d : Code) (v : Word) : (setDest s d v).pendings = s.pendings := rfl
@[simp] theorem setDest_parked (s : State) (d : Code) (v : Word) : (setDest s d v).parked = s.parked := rfl
@[simp] theorem setDest_slices (s : State) (d : Code) (v : Word) : (setDest s d v).slices = s.slices := rfl
@[simp] theorem setDest_gangs (s : State) (d : Code) (v : Word) : (setDest s d v).gangs = s.gangs := rfl
@[simp] theorem setDest_audits (s : State) (d : Code) (v : Word) : (setDest s d v).audits = s.audits := rfl
@[simp] theorem setDest_arrivals (s : State) (d : Code) (v : Word) : (setDest s d v).arrivals = s.arrivals := rfl
@[simp] theorem setDest_tokens (s : State) (d : Code) (v : Word) : (setDest s d v).tokens = s.tokens := rfl
@[simp] theorem setDest_sachets (s : State) (d : Code) (v : Word) : (setDest s d v).sachets = s.sachets := rfl
@[simp] theorem setDest_flying (s : State) (d : Code) (v : Word) : (setDest s d v).flying = s.flying := rfl
@[simp] theorem setDest_outbox (s : State) (d : Code) (v : Word) : (setDest s d v).outbox = s.outbox := rfl
@[simp] theorem setDest_flits (s : State) (d : Code) (v : Word) : (setDest s d v).flits = s.flits := rfl
@[simp] theorem setDest_links (s : State) (d : Code) (v : Word) : (setDest s d v).links = s.links := rfl
@[simp] theorem setDest_sessions (s : State) (d : Code) (v : Word) : (setDest s d v).sessions = s.sessions := rfl
@[simp] theorem setDest_responses (s : State) (d : Code) (v : Word) : (setDest s d v).responses = s.responses := rfl
@[simp] theorem setDest_board (s : State) (d : Code) (v : Word) : (setDest s d v).board = s.board := rfl
@[simp] theorem setDest_fabric (s : State) (d : Code) (v : Word) : (setDest s d v).fabric = s.fabric := rfl
@[simp] theorem setDest_time (s : State) (d : Code) (v : Word) : (setDest s d v).time = s.time := rfl
@[simp] theorem setDest_turned (s : State) (d : Code) (v : Word) : (setDest s d v).turned = s.turned := rfl
@[simp] theorem setDest_agenda (s : State) (d : Code) (v : Word) : (setDest s d v).agenda = s.agenda := rfl
@[simp] theorem setDest_arg (s : State) (d : Code) (v : Word) : (setDest s d v).arg = s.arg := rfl
@[simp] theorem setDest_fresh (s : State) (d : Code) (v : Word) : (setDest s d v).fresh = s.fresh := rfl

/-! `setPred`. -/

@[simp] theorem setPred_others (s : State) (k : BitVec 3) (v : Word) : (setPred s k v).others = s.others := rfl
@[simp] theorem setPred_cores (s : State) (k : BitVec 3) (v : Word) : (setPred s k v).cores = s.cores := rfl
@[simp] theorem setPred_clusters (s : State) (k : BitVec 3) (v : Word) : (setPred s k v).clusters = s.clusters := rfl
@[simp] theorem setPred_walks (s : State) (k : BitVec 3) (v : Word) : (setPred s k v).walks = s.walks := rfl
@[simp] theorem setPred_parts (s : State) (k : BitVec 3) (v : Word) : (setPred s k v).parts = s.parts := rfl
@[simp] theorem setPred_mem (s : State) (k : BitVec 3) (v : Word) : (setPred s k v).mem = s.mem := rfl
@[simp] theorem setPred_full (s : State) (k : BitVec 3) (v : Word) : (setPred s k v).full = s.full := rfl
@[simp] theorem setPred_bad (s : State) (k : BitVec 3) (v : Word) : (setPred s k v).bad = s.bad := rfl
@[simp] theorem setPred_copies (s : State) (k : BitVec 3) (v : Word) : (setPred s k v).copies = s.copies := rfl
@[simp] theorem setPred_subs (s : State) (k : BitVec 3) (v : Word) : (setPred s k v).subs = s.subs := rfl
@[simp] theorem setPred_waiters (s : State) (k : BitVec 3) (v : Word) : (setPred s k v).waiters = s.waiters := rfl
@[simp] theorem setPred_pendings (s : State) (k : BitVec 3) (v : Word) : (setPred s k v).pendings = s.pendings := rfl
@[simp] theorem setPred_parked (s : State) (k : BitVec 3) (v : Word) : (setPred s k v).parked = s.parked := rfl
@[simp] theorem setPred_slices (s : State) (k : BitVec 3) (v : Word) : (setPred s k v).slices = s.slices := rfl
@[simp] theorem setPred_gangs (s : State) (k : BitVec 3) (v : Word) : (setPred s k v).gangs = s.gangs := rfl
@[simp] theorem setPred_audits (s : State) (k : BitVec 3) (v : Word) : (setPred s k v).audits = s.audits := rfl
@[simp] theorem setPred_arrivals (s : State) (k : BitVec 3) (v : Word) : (setPred s k v).arrivals = s.arrivals := rfl
@[simp] theorem setPred_tokens (s : State) (k : BitVec 3) (v : Word) : (setPred s k v).tokens = s.tokens := rfl
@[simp] theorem setPred_sachets (s : State) (k : BitVec 3) (v : Word) : (setPred s k v).sachets = s.sachets := rfl
@[simp] theorem setPred_flying (s : State) (k : BitVec 3) (v : Word) : (setPred s k v).flying = s.flying := rfl
@[simp] theorem setPred_outbox (s : State) (k : BitVec 3) (v : Word) : (setPred s k v).outbox = s.outbox := rfl
@[simp] theorem setPred_flits (s : State) (k : BitVec 3) (v : Word) : (setPred s k v).flits = s.flits := rfl
@[simp] theorem setPred_links (s : State) (k : BitVec 3) (v : Word) : (setPred s k v).links = s.links := rfl
@[simp] theorem setPred_sessions (s : State) (k : BitVec 3) (v : Word) : (setPred s k v).sessions = s.sessions := rfl
@[simp] theorem setPred_responses (s : State) (k : BitVec 3) (v : Word) : (setPred s k v).responses = s.responses := rfl
@[simp] theorem setPred_board (s : State) (k : BitVec 3) (v : Word) : (setPred s k v).board = s.board := rfl
@[simp] theorem setPred_fabric (s : State) (k : BitVec 3) (v : Word) : (setPred s k v).fabric = s.fabric := rfl
@[simp] theorem setPred_time (s : State) (k : BitVec 3) (v : Word) : (setPred s k v).time = s.time := rfl
@[simp] theorem setPred_turned (s : State) (k : BitVec 3) (v : Word) : (setPred s k v).turned = s.turned := rfl
@[simp] theorem setPred_agenda (s : State) (k : BitVec 3) (v : Word) : (setPred s k v).agenda = s.agenda := rfl
@[simp] theorem setPred_arg (s : State) (k : BitVec 3) (v : Word) : (setPred s k v).arg = s.arg := rfl
@[simp] theorem setPred_fresh (s : State) (k : BitVec 3) (v : Word) : (setPred s k v).fresh = s.fresh := rfl

/-! `flagged`. -/

@[simp] theorem flagged_others (s : State) (fl : Nat) : (flagged s fl).others = s.others := rfl
@[simp] theorem flagged_cores (s : State) (fl : Nat) : (flagged s fl).cores = s.cores := rfl
@[simp] theorem flagged_clusters (s : State) (fl : Nat) : (flagged s fl).clusters = s.clusters := rfl
@[simp] theorem flagged_walks (s : State) (fl : Nat) : (flagged s fl).walks = s.walks := rfl
@[simp] theorem flagged_parts (s : State) (fl : Nat) : (flagged s fl).parts = s.parts := rfl
@[simp] theorem flagged_mem (s : State) (fl : Nat) : (flagged s fl).mem = s.mem := rfl
@[simp] theorem flagged_full (s : State) (fl : Nat) : (flagged s fl).full = s.full := rfl
@[simp] theorem flagged_bad (s : State) (fl : Nat) : (flagged s fl).bad = s.bad := rfl
@[simp] theorem flagged_copies (s : State) (fl : Nat) : (flagged s fl).copies = s.copies := rfl
@[simp] theorem flagged_subs (s : State) (fl : Nat) : (flagged s fl).subs = s.subs := rfl
@[simp] theorem flagged_waiters (s : State) (fl : Nat) : (flagged s fl).waiters = s.waiters := rfl
@[simp] theorem flagged_pendings (s : State) (fl : Nat) : (flagged s fl).pendings = s.pendings := rfl
@[simp] theorem flagged_parked (s : State) (fl : Nat) : (flagged s fl).parked = s.parked := rfl
@[simp] theorem flagged_slices (s : State) (fl : Nat) : (flagged s fl).slices = s.slices := rfl
@[simp] theorem flagged_gangs (s : State) (fl : Nat) : (flagged s fl).gangs = s.gangs := rfl
@[simp] theorem flagged_audits (s : State) (fl : Nat) : (flagged s fl).audits = s.audits := rfl
@[simp] theorem flagged_arrivals (s : State) (fl : Nat) : (flagged s fl).arrivals = s.arrivals := rfl
@[simp] theorem flagged_tokens (s : State) (fl : Nat) : (flagged s fl).tokens = s.tokens := rfl
@[simp] theorem flagged_sachets (s : State) (fl : Nat) : (flagged s fl).sachets = s.sachets := rfl
@[simp] theorem flagged_flying (s : State) (fl : Nat) : (flagged s fl).flying = s.flying := rfl
@[simp] theorem flagged_outbox (s : State) (fl : Nat) : (flagged s fl).outbox = s.outbox := rfl
@[simp] theorem flagged_flits (s : State) (fl : Nat) : (flagged s fl).flits = s.flits := rfl
@[simp] theorem flagged_links (s : State) (fl : Nat) : (flagged s fl).links = s.links := rfl
@[simp] theorem flagged_sessions (s : State) (fl : Nat) : (flagged s fl).sessions = s.sessions := rfl
@[simp] theorem flagged_responses (s : State) (fl : Nat) : (flagged s fl).responses = s.responses := rfl
@[simp] theorem flagged_board (s : State) (fl : Nat) : (flagged s fl).board = s.board := rfl
@[simp] theorem flagged_fabric (s : State) (fl : Nat) : (flagged s fl).fabric = s.fabric := rfl
@[simp] theorem flagged_time (s : State) (fl : Nat) : (flagged s fl).time = s.time := rfl
@[simp] theorem flagged_turned (s : State) (fl : Nat) : (flagged s fl).turned = s.turned := rfl
@[simp] theorem flagged_agenda (s : State) (fl : Nat) : (flagged s fl).agenda = s.agenda := rfl
@[simp] theorem flagged_arg (s : State) (fl : Nat) : (flagged s fl).arg = s.arg := rfl
@[simp] theorem flagged_fresh (s : State) (fl : Nat) : (flagged s fl).fresh = s.fresh := rfl

/-! `write`. -/

theorem write_shape (s : State) (a : Nat) (bs : List Byte) : ∃ x0 x1, s.write a bs = { s with mem := x0, cores := x1 } := by
  unfold State.write State.unown; repeat' split
  all_goals exact ⟨_, _, rfl⟩

@[simp] theorem write_t (s : State) (a : Nat) (bs : List Byte) : (s.write a bs).t = s.t := by
  obtain ⟨_, _, h⟩ := write_shape s a bs; rw [h]
@[simp] theorem write_others (s : State) (a : Nat) (bs : List Byte) : (s.write a bs).others = s.others := by
  obtain ⟨_, _, h⟩ := write_shape s a bs; rw [h]
@[simp] theorem write_clusters (s : State) (a : Nat) (bs : List Byte) : (s.write a bs).clusters = s.clusters := by
  obtain ⟨_, _, h⟩ := write_shape s a bs; rw [h]
@[simp] theorem write_walks (s : State) (a : Nat) (bs : List Byte) : (s.write a bs).walks = s.walks := by
  obtain ⟨_, _, h⟩ := write_shape s a bs; rw [h]
@[simp] theorem write_parts (s : State) (a : Nat) (bs : List Byte) : (s.write a bs).parts = s.parts := by
  obtain ⟨_, _, h⟩ := write_shape s a bs; rw [h]
@[simp] theorem write_full (s : State) (a : Nat) (bs : List Byte) : (s.write a bs).full = s.full := by
  obtain ⟨_, _, h⟩ := write_shape s a bs; rw [h]
@[simp] theorem write_bad (s : State) (a : Nat) (bs : List Byte) : (s.write a bs).bad = s.bad := by
  obtain ⟨_, _, h⟩ := write_shape s a bs; rw [h]
@[simp] theorem write_copies (s : State) (a : Nat) (bs : List Byte) : (s.write a bs).copies = s.copies := by
  obtain ⟨_, _, h⟩ := write_shape s a bs; rw [h]
@[simp] theorem write_subs (s : State) (a : Nat) (bs : List Byte) : (s.write a bs).subs = s.subs := by
  obtain ⟨_, _, h⟩ := write_shape s a bs; rw [h]
@[simp] theorem write_waiters (s : State) (a : Nat) (bs : List Byte) : (s.write a bs).waiters = s.waiters := by
  obtain ⟨_, _, h⟩ := write_shape s a bs; rw [h]
@[simp] theorem write_pendings (s : State) (a : Nat) (bs : List Byte) : (s.write a bs).pendings = s.pendings := by
  obtain ⟨_, _, h⟩ := write_shape s a bs; rw [h]
@[simp] theorem write_parked (s : State) (a : Nat) (bs : List Byte) : (s.write a bs).parked = s.parked := by
  obtain ⟨_, _, h⟩ := write_shape s a bs; rw [h]
@[simp] theorem write_slices (s : State) (a : Nat) (bs : List Byte) : (s.write a bs).slices = s.slices := by
  obtain ⟨_, _, h⟩ := write_shape s a bs; rw [h]
@[simp] theorem write_gangs (s : State) (a : Nat) (bs : List Byte) : (s.write a bs).gangs = s.gangs := by
  obtain ⟨_, _, h⟩ := write_shape s a bs; rw [h]
@[simp] theorem write_audits (s : State) (a : Nat) (bs : List Byte) : (s.write a bs).audits = s.audits := by
  obtain ⟨_, _, h⟩ := write_shape s a bs; rw [h]
@[simp] theorem write_arrivals (s : State) (a : Nat) (bs : List Byte) : (s.write a bs).arrivals = s.arrivals := by
  obtain ⟨_, _, h⟩ := write_shape s a bs; rw [h]
@[simp] theorem write_tokens (s : State) (a : Nat) (bs : List Byte) : (s.write a bs).tokens = s.tokens := by
  obtain ⟨_, _, h⟩ := write_shape s a bs; rw [h]
@[simp] theorem write_sachets (s : State) (a : Nat) (bs : List Byte) : (s.write a bs).sachets = s.sachets := by
  obtain ⟨_, _, h⟩ := write_shape s a bs; rw [h]
@[simp] theorem write_flying (s : State) (a : Nat) (bs : List Byte) : (s.write a bs).flying = s.flying := by
  obtain ⟨_, _, h⟩ := write_shape s a bs; rw [h]
@[simp] theorem write_outbox (s : State) (a : Nat) (bs : List Byte) : (s.write a bs).outbox = s.outbox := by
  obtain ⟨_, _, h⟩ := write_shape s a bs; rw [h]
@[simp] theorem write_flits (s : State) (a : Nat) (bs : List Byte) : (s.write a bs).flits = s.flits := by
  obtain ⟨_, _, h⟩ := write_shape s a bs; rw [h]
@[simp] theorem write_links (s : State) (a : Nat) (bs : List Byte) : (s.write a bs).links = s.links := by
  obtain ⟨_, _, h⟩ := write_shape s a bs; rw [h]
@[simp] theorem write_sessions (s : State) (a : Nat) (bs : List Byte) : (s.write a bs).sessions = s.sessions := by
  obtain ⟨_, _, h⟩ := write_shape s a bs; rw [h]
@[simp] theorem write_responses (s : State) (a : Nat) (bs : List Byte) : (s.write a bs).responses = s.responses := by
  obtain ⟨_, _, h⟩ := write_shape s a bs; rw [h]
@[simp] theorem write_board (s : State) (a : Nat) (bs : List Byte) : (s.write a bs).board = s.board := by
  obtain ⟨_, _, h⟩ := write_shape s a bs; rw [h]
@[simp] theorem write_fabric (s : State) (a : Nat) (bs : List Byte) : (s.write a bs).fabric = s.fabric := by
  obtain ⟨_, _, h⟩ := write_shape s a bs; rw [h]
@[simp] theorem write_time (s : State) (a : Nat) (bs : List Byte) : (s.write a bs).time = s.time := by
  obtain ⟨_, _, h⟩ := write_shape s a bs; rw [h]
@[simp] theorem write_turned (s : State) (a : Nat) (bs : List Byte) : (s.write a bs).turned = s.turned := by
  obtain ⟨_, _, h⟩ := write_shape s a bs; rw [h]
@[simp] theorem write_agenda (s : State) (a : Nat) (bs : List Byte) : (s.write a bs).agenda = s.agenda := by
  obtain ⟨_, _, h⟩ := write_shape s a bs; rw [h]
@[simp] theorem write_arg (s : State) (a : Nat) (bs : List Byte) : (s.write a bs).arg = s.arg := by
  obtain ⟨_, _, h⟩ := write_shape s a bs; rw [h]
@[simp] theorem write_fresh (s : State) (a : Nat) (bs : List Byte) : (s.write a bs).fresh = s.fresh := by
  obtain ⟨_, _, h⟩ := write_shape s a bs; rw [h]

/-! `lay`. -/

theorem lay_shape (s : State) (a : Nat) (bs : List Byte) : ∃ x0 x1 x2, s.lay a bs = { s with mem := x0, bad := x1, cores := x2 } := by
  unfold State.lay State.write State.unown; repeat' split
  all_goals exact ⟨_, _, _, rfl⟩

@[simp] theorem lay_t (s : State) (a : Nat) (bs : List Byte) : (s.lay a bs).t = s.t := by
  obtain ⟨_, _, _, h⟩ := lay_shape s a bs; rw [h]
@[simp] theorem lay_others (s : State) (a : Nat) (bs : List Byte) : (s.lay a bs).others = s.others := by
  obtain ⟨_, _, _, h⟩ := lay_shape s a bs; rw [h]
@[simp] theorem lay_clusters (s : State) (a : Nat) (bs : List Byte) : (s.lay a bs).clusters = s.clusters := by
  obtain ⟨_, _, _, h⟩ := lay_shape s a bs; rw [h]
@[simp] theorem lay_walks (s : State) (a : Nat) (bs : List Byte) : (s.lay a bs).walks = s.walks := by
  obtain ⟨_, _, _, h⟩ := lay_shape s a bs; rw [h]
@[simp] theorem lay_parts (s : State) (a : Nat) (bs : List Byte) : (s.lay a bs).parts = s.parts := by
  obtain ⟨_, _, _, h⟩ := lay_shape s a bs; rw [h]
@[simp] theorem lay_full (s : State) (a : Nat) (bs : List Byte) : (s.lay a bs).full = s.full := by
  obtain ⟨_, _, _, h⟩ := lay_shape s a bs; rw [h]
@[simp] theorem lay_copies (s : State) (a : Nat) (bs : List Byte) : (s.lay a bs).copies = s.copies := by
  obtain ⟨_, _, _, h⟩ := lay_shape s a bs; rw [h]
@[simp] theorem lay_subs (s : State) (a : Nat) (bs : List Byte) : (s.lay a bs).subs = s.subs := by
  obtain ⟨_, _, _, h⟩ := lay_shape s a bs; rw [h]
@[simp] theorem lay_waiters (s : State) (a : Nat) (bs : List Byte) : (s.lay a bs).waiters = s.waiters := by
  obtain ⟨_, _, _, h⟩ := lay_shape s a bs; rw [h]
@[simp] theorem lay_pendings (s : State) (a : Nat) (bs : List Byte) : (s.lay a bs).pendings = s.pendings := by
  obtain ⟨_, _, _, h⟩ := lay_shape s a bs; rw [h]
@[simp] theorem lay_parked (s : State) (a : Nat) (bs : List Byte) : (s.lay a bs).parked = s.parked := by
  obtain ⟨_, _, _, h⟩ := lay_shape s a bs; rw [h]
@[simp] theorem lay_slices (s : State) (a : Nat) (bs : List Byte) : (s.lay a bs).slices = s.slices := by
  obtain ⟨_, _, _, h⟩ := lay_shape s a bs; rw [h]
@[simp] theorem lay_gangs (s : State) (a : Nat) (bs : List Byte) : (s.lay a bs).gangs = s.gangs := by
  obtain ⟨_, _, _, h⟩ := lay_shape s a bs; rw [h]
@[simp] theorem lay_audits (s : State) (a : Nat) (bs : List Byte) : (s.lay a bs).audits = s.audits := by
  obtain ⟨_, _, _, h⟩ := lay_shape s a bs; rw [h]
@[simp] theorem lay_arrivals (s : State) (a : Nat) (bs : List Byte) : (s.lay a bs).arrivals = s.arrivals := by
  obtain ⟨_, _, _, h⟩ := lay_shape s a bs; rw [h]
@[simp] theorem lay_tokens (s : State) (a : Nat) (bs : List Byte) : (s.lay a bs).tokens = s.tokens := by
  obtain ⟨_, _, _, h⟩ := lay_shape s a bs; rw [h]
@[simp] theorem lay_sachets (s : State) (a : Nat) (bs : List Byte) : (s.lay a bs).sachets = s.sachets := by
  obtain ⟨_, _, _, h⟩ := lay_shape s a bs; rw [h]
@[simp] theorem lay_flying (s : State) (a : Nat) (bs : List Byte) : (s.lay a bs).flying = s.flying := by
  obtain ⟨_, _, _, h⟩ := lay_shape s a bs; rw [h]
@[simp] theorem lay_outbox (s : State) (a : Nat) (bs : List Byte) : (s.lay a bs).outbox = s.outbox := by
  obtain ⟨_, _, _, h⟩ := lay_shape s a bs; rw [h]
@[simp] theorem lay_flits (s : State) (a : Nat) (bs : List Byte) : (s.lay a bs).flits = s.flits := by
  obtain ⟨_, _, _, h⟩ := lay_shape s a bs; rw [h]
@[simp] theorem lay_links (s : State) (a : Nat) (bs : List Byte) : (s.lay a bs).links = s.links := by
  obtain ⟨_, _, _, h⟩ := lay_shape s a bs; rw [h]
@[simp] theorem lay_sessions (s : State) (a : Nat) (bs : List Byte) : (s.lay a bs).sessions = s.sessions := by
  obtain ⟨_, _, _, h⟩ := lay_shape s a bs; rw [h]
@[simp] theorem lay_responses (s : State) (a : Nat) (bs : List Byte) : (s.lay a bs).responses = s.responses := by
  obtain ⟨_, _, _, h⟩ := lay_shape s a bs; rw [h]
@[simp] theorem lay_board (s : State) (a : Nat) (bs : List Byte) : (s.lay a bs).board = s.board := by
  obtain ⟨_, _, _, h⟩ := lay_shape s a bs; rw [h]
@[simp] theorem lay_fabric (s : State) (a : Nat) (bs : List Byte) : (s.lay a bs).fabric = s.fabric := by
  obtain ⟨_, _, _, h⟩ := lay_shape s a bs; rw [h]
@[simp] theorem lay_time (s : State) (a : Nat) (bs : List Byte) : (s.lay a bs).time = s.time := by
  obtain ⟨_, _, _, h⟩ := lay_shape s a bs; rw [h]
@[simp] theorem lay_turned (s : State) (a : Nat) (bs : List Byte) : (s.lay a bs).turned = s.turned := by
  obtain ⟨_, _, _, h⟩ := lay_shape s a bs; rw [h]
@[simp] theorem lay_agenda (s : State) (a : Nat) (bs : List Byte) : (s.lay a bs).agenda = s.agenda := by
  obtain ⟨_, _, _, h⟩ := lay_shape s a bs; rw [h]
@[simp] theorem lay_arg (s : State) (a : Nat) (bs : List Byte) : (s.lay a bs).arg = s.arg := by
  obtain ⟨_, _, _, h⟩ := lay_shape s a bs; rw [h]
@[simp] theorem lay_fresh (s : State) (a : Nat) (bs : List Byte) : (s.lay a bs).fresh = s.fresh := by
  obtain ⟨_, _, _, h⟩ := lay_shape s a bs; rw [h]

/-! `writeNat`. -/

theorem writeNat_shape (s : State) (a n x : Nat) : ∃ x0 x1 x2, s.writeNat a n x = { s with mem := x0, bad := x1, cores := x2 } := by
  unfold State.writeNat State.lay State.write State.unown; repeat' split
  all_goals exact ⟨_, _, _, rfl⟩

@[simp] theorem writeNat_t (s : State) (a n x : Nat) : (s.writeNat a n x).t = s.t := by
  obtain ⟨_, _, _, h⟩ := writeNat_shape s a n x; rw [h]
@[simp] theorem writeNat_others (s : State) (a n x : Nat) : (s.writeNat a n x).others = s.others := by
  obtain ⟨_, _, _, h⟩ := writeNat_shape s a n x; rw [h]
@[simp] theorem writeNat_clusters (s : State) (a n x : Nat) : (s.writeNat a n x).clusters = s.clusters := by
  obtain ⟨_, _, _, h⟩ := writeNat_shape s a n x; rw [h]
@[simp] theorem writeNat_walks (s : State) (a n x : Nat) : (s.writeNat a n x).walks = s.walks := by
  obtain ⟨_, _, _, h⟩ := writeNat_shape s a n x; rw [h]
@[simp] theorem writeNat_parts (s : State) (a n x : Nat) : (s.writeNat a n x).parts = s.parts := by
  obtain ⟨_, _, _, h⟩ := writeNat_shape s a n x; rw [h]
@[simp] theorem writeNat_full (s : State) (a n x : Nat) : (s.writeNat a n x).full = s.full := by
  obtain ⟨_, _, _, h⟩ := writeNat_shape s a n x; rw [h]
@[simp] theorem writeNat_copies (s : State) (a n x : Nat) : (s.writeNat a n x).copies = s.copies := by
  obtain ⟨_, _, _, h⟩ := writeNat_shape s a n x; rw [h]
@[simp] theorem writeNat_subs (s : State) (a n x : Nat) : (s.writeNat a n x).subs = s.subs := by
  obtain ⟨_, _, _, h⟩ := writeNat_shape s a n x; rw [h]
@[simp] theorem writeNat_waiters (s : State) (a n x : Nat) : (s.writeNat a n x).waiters = s.waiters := by
  obtain ⟨_, _, _, h⟩ := writeNat_shape s a n x; rw [h]
@[simp] theorem writeNat_pendings (s : State) (a n x : Nat) : (s.writeNat a n x).pendings = s.pendings := by
  obtain ⟨_, _, _, h⟩ := writeNat_shape s a n x; rw [h]
@[simp] theorem writeNat_parked (s : State) (a n x : Nat) : (s.writeNat a n x).parked = s.parked := by
  obtain ⟨_, _, _, h⟩ := writeNat_shape s a n x; rw [h]
@[simp] theorem writeNat_slices (s : State) (a n x : Nat) : (s.writeNat a n x).slices = s.slices := by
  obtain ⟨_, _, _, h⟩ := writeNat_shape s a n x; rw [h]
@[simp] theorem writeNat_gangs (s : State) (a n x : Nat) : (s.writeNat a n x).gangs = s.gangs := by
  obtain ⟨_, _, _, h⟩ := writeNat_shape s a n x; rw [h]
@[simp] theorem writeNat_audits (s : State) (a n x : Nat) : (s.writeNat a n x).audits = s.audits := by
  obtain ⟨_, _, _, h⟩ := writeNat_shape s a n x; rw [h]
@[simp] theorem writeNat_arrivals (s : State) (a n x : Nat) : (s.writeNat a n x).arrivals = s.arrivals := by
  obtain ⟨_, _, _, h⟩ := writeNat_shape s a n x; rw [h]
@[simp] theorem writeNat_tokens (s : State) (a n x : Nat) : (s.writeNat a n x).tokens = s.tokens := by
  obtain ⟨_, _, _, h⟩ := writeNat_shape s a n x; rw [h]
@[simp] theorem writeNat_sachets (s : State) (a n x : Nat) : (s.writeNat a n x).sachets = s.sachets := by
  obtain ⟨_, _, _, h⟩ := writeNat_shape s a n x; rw [h]
@[simp] theorem writeNat_flying (s : State) (a n x : Nat) : (s.writeNat a n x).flying = s.flying := by
  obtain ⟨_, _, _, h⟩ := writeNat_shape s a n x; rw [h]
@[simp] theorem writeNat_outbox (s : State) (a n x : Nat) : (s.writeNat a n x).outbox = s.outbox := by
  obtain ⟨_, _, _, h⟩ := writeNat_shape s a n x; rw [h]
@[simp] theorem writeNat_flits (s : State) (a n x : Nat) : (s.writeNat a n x).flits = s.flits := by
  obtain ⟨_, _, _, h⟩ := writeNat_shape s a n x; rw [h]
@[simp] theorem writeNat_links (s : State) (a n x : Nat) : (s.writeNat a n x).links = s.links := by
  obtain ⟨_, _, _, h⟩ := writeNat_shape s a n x; rw [h]
@[simp] theorem writeNat_sessions (s : State) (a n x : Nat) : (s.writeNat a n x).sessions = s.sessions := by
  obtain ⟨_, _, _, h⟩ := writeNat_shape s a n x; rw [h]
@[simp] theorem writeNat_responses (s : State) (a n x : Nat) : (s.writeNat a n x).responses = s.responses := by
  obtain ⟨_, _, _, h⟩ := writeNat_shape s a n x; rw [h]
@[simp] theorem writeNat_board (s : State) (a n x : Nat) : (s.writeNat a n x).board = s.board := by
  obtain ⟨_, _, _, h⟩ := writeNat_shape s a n x; rw [h]
@[simp] theorem writeNat_fabric (s : State) (a n x : Nat) : (s.writeNat a n x).fabric = s.fabric := by
  obtain ⟨_, _, _, h⟩ := writeNat_shape s a n x; rw [h]
@[simp] theorem writeNat_time (s : State) (a n x : Nat) : (s.writeNat a n x).time = s.time := by
  obtain ⟨_, _, _, h⟩ := writeNat_shape s a n x; rw [h]
@[simp] theorem writeNat_turned (s : State) (a n x : Nat) : (s.writeNat a n x).turned = s.turned := by
  obtain ⟨_, _, _, h⟩ := writeNat_shape s a n x; rw [h]
@[simp] theorem writeNat_agenda (s : State) (a n x : Nat) : (s.writeNat a n x).agenda = s.agenda := by
  obtain ⟨_, _, _, h⟩ := writeNat_shape s a n x; rw [h]
@[simp] theorem writeNat_arg (s : State) (a n x : Nat) : (s.writeNat a n x).arg = s.arg := by
  obtain ⟨_, _, _, h⟩ := writeNat_shape s a n x; rw [h]
@[simp] theorem writeNat_fresh (s : State) (a n x : Nat) : (s.writeNat a n x).fresh = s.fresh := by
  obtain ⟨_, _, _, h⟩ := writeNat_shape s a n x; rw [h]

/-! `atHome`. -/

theorem atHome_shape (s : State) (c k n : Nat) : ∃ x0, s.atHome c k n = { s with cores := x0 } := by
  unfold State.atHome; repeat' split
  all_goals exact ⟨_, rfl⟩

@[simp] theorem atHome_t (s : State) (c k n : Nat) : (s.atHome c k n).t = s.t := by
  obtain ⟨_, h⟩ := atHome_shape s c k n; rw [h]
@[simp] theorem atHome_others (s : State) (c k n : Nat) : (s.atHome c k n).others = s.others := by
  obtain ⟨_, h⟩ := atHome_shape s c k n; rw [h]
@[simp] theorem atHome_clusters (s : State) (c k n : Nat) : (s.atHome c k n).clusters = s.clusters := by
  obtain ⟨_, h⟩ := atHome_shape s c k n; rw [h]
@[simp] theorem atHome_walks (s : State) (c k n : Nat) : (s.atHome c k n).walks = s.walks := by
  obtain ⟨_, h⟩ := atHome_shape s c k n; rw [h]
@[simp] theorem atHome_parts (s : State) (c k n : Nat) : (s.atHome c k n).parts = s.parts := by
  obtain ⟨_, h⟩ := atHome_shape s c k n; rw [h]
@[simp] theorem atHome_mem (s : State) (c k n : Nat) : (s.atHome c k n).mem = s.mem := by
  obtain ⟨_, h⟩ := atHome_shape s c k n; rw [h]
@[simp] theorem atHome_full (s : State) (c k n : Nat) : (s.atHome c k n).full = s.full := by
  obtain ⟨_, h⟩ := atHome_shape s c k n; rw [h]
@[simp] theorem atHome_bad (s : State) (c k n : Nat) : (s.atHome c k n).bad = s.bad := by
  obtain ⟨_, h⟩ := atHome_shape s c k n; rw [h]
@[simp] theorem atHome_copies (s : State) (c k n : Nat) : (s.atHome c k n).copies = s.copies := by
  obtain ⟨_, h⟩ := atHome_shape s c k n; rw [h]
@[simp] theorem atHome_subs (s : State) (c k n : Nat) : (s.atHome c k n).subs = s.subs := by
  obtain ⟨_, h⟩ := atHome_shape s c k n; rw [h]
@[simp] theorem atHome_waiters (s : State) (c k n : Nat) : (s.atHome c k n).waiters = s.waiters := by
  obtain ⟨_, h⟩ := atHome_shape s c k n; rw [h]
@[simp] theorem atHome_pendings (s : State) (c k n : Nat) : (s.atHome c k n).pendings = s.pendings := by
  obtain ⟨_, h⟩ := atHome_shape s c k n; rw [h]
@[simp] theorem atHome_parked (s : State) (c k n : Nat) : (s.atHome c k n).parked = s.parked := by
  obtain ⟨_, h⟩ := atHome_shape s c k n; rw [h]
@[simp] theorem atHome_slices (s : State) (c k n : Nat) : (s.atHome c k n).slices = s.slices := by
  obtain ⟨_, h⟩ := atHome_shape s c k n; rw [h]
@[simp] theorem atHome_gangs (s : State) (c k n : Nat) : (s.atHome c k n).gangs = s.gangs := by
  obtain ⟨_, h⟩ := atHome_shape s c k n; rw [h]
@[simp] theorem atHome_audits (s : State) (c k n : Nat) : (s.atHome c k n).audits = s.audits := by
  obtain ⟨_, h⟩ := atHome_shape s c k n; rw [h]
@[simp] theorem atHome_arrivals (s : State) (c k n : Nat) : (s.atHome c k n).arrivals = s.arrivals := by
  obtain ⟨_, h⟩ := atHome_shape s c k n; rw [h]
@[simp] theorem atHome_tokens (s : State) (c k n : Nat) : (s.atHome c k n).tokens = s.tokens := by
  obtain ⟨_, h⟩ := atHome_shape s c k n; rw [h]
@[simp] theorem atHome_sachets (s : State) (c k n : Nat) : (s.atHome c k n).sachets = s.sachets := by
  obtain ⟨_, h⟩ := atHome_shape s c k n; rw [h]
@[simp] theorem atHome_flying (s : State) (c k n : Nat) : (s.atHome c k n).flying = s.flying := by
  obtain ⟨_, h⟩ := atHome_shape s c k n; rw [h]
@[simp] theorem atHome_outbox (s : State) (c k n : Nat) : (s.atHome c k n).outbox = s.outbox := by
  obtain ⟨_, h⟩ := atHome_shape s c k n; rw [h]
@[simp] theorem atHome_flits (s : State) (c k n : Nat) : (s.atHome c k n).flits = s.flits := by
  obtain ⟨_, h⟩ := atHome_shape s c k n; rw [h]
@[simp] theorem atHome_links (s : State) (c k n : Nat) : (s.atHome c k n).links = s.links := by
  obtain ⟨_, h⟩ := atHome_shape s c k n; rw [h]
@[simp] theorem atHome_sessions (s : State) (c k n : Nat) : (s.atHome c k n).sessions = s.sessions := by
  obtain ⟨_, h⟩ := atHome_shape s c k n; rw [h]
@[simp] theorem atHome_responses (s : State) (c k n : Nat) : (s.atHome c k n).responses = s.responses := by
  obtain ⟨_, h⟩ := atHome_shape s c k n; rw [h]
@[simp] theorem atHome_board (s : State) (c k n : Nat) : (s.atHome c k n).board = s.board := by
  obtain ⟨_, h⟩ := atHome_shape s c k n; rw [h]
@[simp] theorem atHome_fabric (s : State) (c k n : Nat) : (s.atHome c k n).fabric = s.fabric := by
  obtain ⟨_, h⟩ := atHome_shape s c k n; rw [h]
@[simp] theorem atHome_time (s : State) (c k n : Nat) : (s.atHome c k n).time = s.time := by
  obtain ⟨_, h⟩ := atHome_shape s c k n; rw [h]
@[simp] theorem atHome_turned (s : State) (c k n : Nat) : (s.atHome c k n).turned = s.turned := by
  obtain ⟨_, h⟩ := atHome_shape s c k n; rw [h]
@[simp] theorem atHome_agenda (s : State) (c k n : Nat) : (s.atHome c k n).agenda = s.agenda := by
  obtain ⟨_, h⟩ := atHome_shape s c k n; rw [h]
@[simp] theorem atHome_arg (s : State) (c k n : Nat) : (s.atHome c k n).arg = s.arg := by
  obtain ⟨_, h⟩ := atHome_shape s c k n; rw [h]
@[simp] theorem atHome_fresh (s : State) (c k n : Nat) : (s.atHome c k n).fresh = s.fresh := by
  obtain ⟨_, h⟩ := atHome_shape s c k n; rw [h]

/-! `triggerStop`. -/

theorem triggerStop_shape (s : State) (a b c : Nat) : ∃ x0, s.triggerStop a b c = { s with agenda := x0 } := by
  unfold State.triggerStop; repeat' split
  all_goals exact ⟨_, rfl⟩

@[simp] theorem triggerStop_t (s : State) (a b c : Nat) : (s.triggerStop a b c).t = s.t := by
  obtain ⟨_, h⟩ := triggerStop_shape s a b c; rw [h]
@[simp] theorem triggerStop_others (s : State) (a b c : Nat) : (s.triggerStop a b c).others = s.others := by
  obtain ⟨_, h⟩ := triggerStop_shape s a b c; rw [h]
@[simp] theorem triggerStop_cores (s : State) (a b c : Nat) : (s.triggerStop a b c).cores = s.cores := by
  obtain ⟨_, h⟩ := triggerStop_shape s a b c; rw [h]
@[simp] theorem triggerStop_clusters (s : State) (a b c : Nat) : (s.triggerStop a b c).clusters = s.clusters := by
  obtain ⟨_, h⟩ := triggerStop_shape s a b c; rw [h]
@[simp] theorem triggerStop_walks (s : State) (a b c : Nat) : (s.triggerStop a b c).walks = s.walks := by
  obtain ⟨_, h⟩ := triggerStop_shape s a b c; rw [h]
@[simp] theorem triggerStop_parts (s : State) (a b c : Nat) : (s.triggerStop a b c).parts = s.parts := by
  obtain ⟨_, h⟩ := triggerStop_shape s a b c; rw [h]
@[simp] theorem triggerStop_mem (s : State) (a b c : Nat) : (s.triggerStop a b c).mem = s.mem := by
  obtain ⟨_, h⟩ := triggerStop_shape s a b c; rw [h]
@[simp] theorem triggerStop_full (s : State) (a b c : Nat) : (s.triggerStop a b c).full = s.full := by
  obtain ⟨_, h⟩ := triggerStop_shape s a b c; rw [h]
@[simp] theorem triggerStop_bad (s : State) (a b c : Nat) : (s.triggerStop a b c).bad = s.bad := by
  obtain ⟨_, h⟩ := triggerStop_shape s a b c; rw [h]
@[simp] theorem triggerStop_copies (s : State) (a b c : Nat) : (s.triggerStop a b c).copies = s.copies := by
  obtain ⟨_, h⟩ := triggerStop_shape s a b c; rw [h]
@[simp] theorem triggerStop_subs (s : State) (a b c : Nat) : (s.triggerStop a b c).subs = s.subs := by
  obtain ⟨_, h⟩ := triggerStop_shape s a b c; rw [h]
@[simp] theorem triggerStop_waiters (s : State) (a b c : Nat) : (s.triggerStop a b c).waiters = s.waiters := by
  obtain ⟨_, h⟩ := triggerStop_shape s a b c; rw [h]
@[simp] theorem triggerStop_pendings (s : State) (a b c : Nat) : (s.triggerStop a b c).pendings = s.pendings := by
  obtain ⟨_, h⟩ := triggerStop_shape s a b c; rw [h]
@[simp] theorem triggerStop_parked (s : State) (a b c : Nat) : (s.triggerStop a b c).parked = s.parked := by
  obtain ⟨_, h⟩ := triggerStop_shape s a b c; rw [h]
@[simp] theorem triggerStop_slices (s : State) (a b c : Nat) : (s.triggerStop a b c).slices = s.slices := by
  obtain ⟨_, h⟩ := triggerStop_shape s a b c; rw [h]
@[simp] theorem triggerStop_gangs (s : State) (a b c : Nat) : (s.triggerStop a b c).gangs = s.gangs := by
  obtain ⟨_, h⟩ := triggerStop_shape s a b c; rw [h]
@[simp] theorem triggerStop_audits (s : State) (a b c : Nat) : (s.triggerStop a b c).audits = s.audits := by
  obtain ⟨_, h⟩ := triggerStop_shape s a b c; rw [h]
@[simp] theorem triggerStop_arrivals (s : State) (a b c : Nat) : (s.triggerStop a b c).arrivals = s.arrivals := by
  obtain ⟨_, h⟩ := triggerStop_shape s a b c; rw [h]
@[simp] theorem triggerStop_tokens (s : State) (a b c : Nat) : (s.triggerStop a b c).tokens = s.tokens := by
  obtain ⟨_, h⟩ := triggerStop_shape s a b c; rw [h]
@[simp] theorem triggerStop_sachets (s : State) (a b c : Nat) : (s.triggerStop a b c).sachets = s.sachets := by
  obtain ⟨_, h⟩ := triggerStop_shape s a b c; rw [h]
@[simp] theorem triggerStop_flying (s : State) (a b c : Nat) : (s.triggerStop a b c).flying = s.flying := by
  obtain ⟨_, h⟩ := triggerStop_shape s a b c; rw [h]
@[simp] theorem triggerStop_outbox (s : State) (a b c : Nat) : (s.triggerStop a b c).outbox = s.outbox := by
  obtain ⟨_, h⟩ := triggerStop_shape s a b c; rw [h]
@[simp] theorem triggerStop_flits (s : State) (a b c : Nat) : (s.triggerStop a b c).flits = s.flits := by
  obtain ⟨_, h⟩ := triggerStop_shape s a b c; rw [h]
@[simp] theorem triggerStop_links (s : State) (a b c : Nat) : (s.triggerStop a b c).links = s.links := by
  obtain ⟨_, h⟩ := triggerStop_shape s a b c; rw [h]
@[simp] theorem triggerStop_sessions (s : State) (a b c : Nat) : (s.triggerStop a b c).sessions = s.sessions := by
  obtain ⟨_, h⟩ := triggerStop_shape s a b c; rw [h]
@[simp] theorem triggerStop_responses (s : State) (a b c : Nat) : (s.triggerStop a b c).responses = s.responses := by
  obtain ⟨_, h⟩ := triggerStop_shape s a b c; rw [h]
@[simp] theorem triggerStop_board (s : State) (a b c : Nat) : (s.triggerStop a b c).board = s.board := by
  obtain ⟨_, h⟩ := triggerStop_shape s a b c; rw [h]
@[simp] theorem triggerStop_fabric (s : State) (a b c : Nat) : (s.triggerStop a b c).fabric = s.fabric := by
  obtain ⟨_, h⟩ := triggerStop_shape s a b c; rw [h]
@[simp] theorem triggerStop_time (s : State) (a b c : Nat) : (s.triggerStop a b c).time = s.time := by
  obtain ⟨_, h⟩ := triggerStop_shape s a b c; rw [h]
@[simp] theorem triggerStop_turned (s : State) (a b c : Nat) : (s.triggerStop a b c).turned = s.turned := by
  obtain ⟨_, h⟩ := triggerStop_shape s a b c; rw [h]
@[simp] theorem triggerStop_arg (s : State) (a b c : Nat) : (s.triggerStop a b c).arg = s.arg := by
  obtain ⟨_, h⟩ := triggerStop_shape s a b c; rw [h]
@[simp] theorem triggerStop_fresh (s : State) (a b c : Nat) : (s.triggerStop a b c).fresh = s.fresh := by
  obtain ⟨_, h⟩ := triggerStop_shape s a b c; rw [h]

/-! `setCtx`. -/

theorem setCtx_shape (s : State) (c : Ctx) : ∃ x0 x1, s.setCtx c = { s with t := x0, others := x1 } := by
  unfold State.setCtx; repeat' split
  all_goals exact ⟨_, _, rfl⟩

@[simp] theorem setCtx_cores (s : State) (c : Ctx) : (s.setCtx c).cores = s.cores := by
  obtain ⟨_, _, h⟩ := setCtx_shape s c; rw [h]
@[simp] theorem setCtx_clusters (s : State) (c : Ctx) : (s.setCtx c).clusters = s.clusters := by
  obtain ⟨_, _, h⟩ := setCtx_shape s c; rw [h]
@[simp] theorem setCtx_walks (s : State) (c : Ctx) : (s.setCtx c).walks = s.walks := by
  obtain ⟨_, _, h⟩ := setCtx_shape s c; rw [h]
@[simp] theorem setCtx_parts (s : State) (c : Ctx) : (s.setCtx c).parts = s.parts := by
  obtain ⟨_, _, h⟩ := setCtx_shape s c; rw [h]
@[simp] theorem setCtx_mem (s : State) (c : Ctx) : (s.setCtx c).mem = s.mem := by
  obtain ⟨_, _, h⟩ := setCtx_shape s c; rw [h]
@[simp] theorem setCtx_full (s : State) (c : Ctx) : (s.setCtx c).full = s.full := by
  obtain ⟨_, _, h⟩ := setCtx_shape s c; rw [h]
@[simp] theorem setCtx_bad (s : State) (c : Ctx) : (s.setCtx c).bad = s.bad := by
  obtain ⟨_, _, h⟩ := setCtx_shape s c; rw [h]
@[simp] theorem setCtx_copies (s : State) (c : Ctx) : (s.setCtx c).copies = s.copies := by
  obtain ⟨_, _, h⟩ := setCtx_shape s c; rw [h]
@[simp] theorem setCtx_subs (s : State) (c : Ctx) : (s.setCtx c).subs = s.subs := by
  obtain ⟨_, _, h⟩ := setCtx_shape s c; rw [h]
@[simp] theorem setCtx_waiters (s : State) (c : Ctx) : (s.setCtx c).waiters = s.waiters := by
  obtain ⟨_, _, h⟩ := setCtx_shape s c; rw [h]
@[simp] theorem setCtx_pendings (s : State) (c : Ctx) : (s.setCtx c).pendings = s.pendings := by
  obtain ⟨_, _, h⟩ := setCtx_shape s c; rw [h]
@[simp] theorem setCtx_parked (s : State) (c : Ctx) : (s.setCtx c).parked = s.parked := by
  obtain ⟨_, _, h⟩ := setCtx_shape s c; rw [h]
@[simp] theorem setCtx_slices (s : State) (c : Ctx) : (s.setCtx c).slices = s.slices := by
  obtain ⟨_, _, h⟩ := setCtx_shape s c; rw [h]
@[simp] theorem setCtx_gangs (s : State) (c : Ctx) : (s.setCtx c).gangs = s.gangs := by
  obtain ⟨_, _, h⟩ := setCtx_shape s c; rw [h]
@[simp] theorem setCtx_audits (s : State) (c : Ctx) : (s.setCtx c).audits = s.audits := by
  obtain ⟨_, _, h⟩ := setCtx_shape s c; rw [h]
@[simp] theorem setCtx_arrivals (s : State) (c : Ctx) : (s.setCtx c).arrivals = s.arrivals := by
  obtain ⟨_, _, h⟩ := setCtx_shape s c; rw [h]
@[simp] theorem setCtx_tokens (s : State) (c : Ctx) : (s.setCtx c).tokens = s.tokens := by
  obtain ⟨_, _, h⟩ := setCtx_shape s c; rw [h]
@[simp] theorem setCtx_sachets (s : State) (c : Ctx) : (s.setCtx c).sachets = s.sachets := by
  obtain ⟨_, _, h⟩ := setCtx_shape s c; rw [h]
@[simp] theorem setCtx_flying (s : State) (c : Ctx) : (s.setCtx c).flying = s.flying := by
  obtain ⟨_, _, h⟩ := setCtx_shape s c; rw [h]
@[simp] theorem setCtx_outbox (s : State) (c : Ctx) : (s.setCtx c).outbox = s.outbox := by
  obtain ⟨_, _, h⟩ := setCtx_shape s c; rw [h]
@[simp] theorem setCtx_flits (s : State) (c : Ctx) : (s.setCtx c).flits = s.flits := by
  obtain ⟨_, _, h⟩ := setCtx_shape s c; rw [h]
@[simp] theorem setCtx_links (s : State) (c : Ctx) : (s.setCtx c).links = s.links := by
  obtain ⟨_, _, h⟩ := setCtx_shape s c; rw [h]
@[simp] theorem setCtx_sessions (s : State) (c : Ctx) : (s.setCtx c).sessions = s.sessions := by
  obtain ⟨_, _, h⟩ := setCtx_shape s c; rw [h]
@[simp] theorem setCtx_responses (s : State) (c : Ctx) : (s.setCtx c).responses = s.responses := by
  obtain ⟨_, _, h⟩ := setCtx_shape s c; rw [h]
@[simp] theorem setCtx_board (s : State) (c : Ctx) : (s.setCtx c).board = s.board := by
  obtain ⟨_, _, h⟩ := setCtx_shape s c; rw [h]
@[simp] theorem setCtx_fabric (s : State) (c : Ctx) : (s.setCtx c).fabric = s.fabric := by
  obtain ⟨_, _, h⟩ := setCtx_shape s c; rw [h]
@[simp] theorem setCtx_time (s : State) (c : Ctx) : (s.setCtx c).time = s.time := by
  obtain ⟨_, _, h⟩ := setCtx_shape s c; rw [h]
@[simp] theorem setCtx_turned (s : State) (c : Ctx) : (s.setCtx c).turned = s.turned := by
  obtain ⟨_, _, h⟩ := setCtx_shape s c; rw [h]
@[simp] theorem setCtx_agenda (s : State) (c : Ctx) : (s.setCtx c).agenda = s.agenda := by
  obtain ⟨_, _, h⟩ := setCtx_shape s c; rw [h]
@[simp] theorem setCtx_arg (s : State) (c : Ctx) : (s.setCtx c).arg = s.arg := by
  obtain ⟨_, _, h⟩ := setCtx_shape s c; rw [h]
@[simp] theorem setCtx_fresh (s : State) (c : Ctx) : (s.setCtx c).fresh = s.fresh := by
  obtain ⟨_, _, h⟩ := setCtx_shape s c; rw [h]

/-! `pushTurn`. -/

theorem pushTurn_shape (s : State) (c : Nat) : ∃ x0, s.pushTurn c = { s with agenda := x0 } := by
  unfold State.pushTurn; repeat' split
  all_goals exact ⟨_, rfl⟩

@[simp] theorem pushTurn_t (s : State) (c : Nat) : (s.pushTurn c).t = s.t := by
  obtain ⟨_, h⟩ := pushTurn_shape s c; rw [h]
@[simp] theorem pushTurn_others (s : State) (c : Nat) : (s.pushTurn c).others = s.others := by
  obtain ⟨_, h⟩ := pushTurn_shape s c; rw [h]
@[simp] theorem pushTurn_cores (s : State) (c : Nat) : (s.pushTurn c).cores = s.cores := by
  obtain ⟨_, h⟩ := pushTurn_shape s c; rw [h]
@[simp] theorem pushTurn_clusters (s : State) (c : Nat) : (s.pushTurn c).clusters = s.clusters := by
  obtain ⟨_, h⟩ := pushTurn_shape s c; rw [h]
@[simp] theorem pushTurn_walks (s : State) (c : Nat) : (s.pushTurn c).walks = s.walks := by
  obtain ⟨_, h⟩ := pushTurn_shape s c; rw [h]
@[simp] theorem pushTurn_parts (s : State) (c : Nat) : (s.pushTurn c).parts = s.parts := by
  obtain ⟨_, h⟩ := pushTurn_shape s c; rw [h]
@[simp] theorem pushTurn_mem (s : State) (c : Nat) : (s.pushTurn c).mem = s.mem := by
  obtain ⟨_, h⟩ := pushTurn_shape s c; rw [h]
@[simp] theorem pushTurn_full (s : State) (c : Nat) : (s.pushTurn c).full = s.full := by
  obtain ⟨_, h⟩ := pushTurn_shape s c; rw [h]
@[simp] theorem pushTurn_bad (s : State) (c : Nat) : (s.pushTurn c).bad = s.bad := by
  obtain ⟨_, h⟩ := pushTurn_shape s c; rw [h]
@[simp] theorem pushTurn_copies (s : State) (c : Nat) : (s.pushTurn c).copies = s.copies := by
  obtain ⟨_, h⟩ := pushTurn_shape s c; rw [h]
@[simp] theorem pushTurn_subs (s : State) (c : Nat) : (s.pushTurn c).subs = s.subs := by
  obtain ⟨_, h⟩ := pushTurn_shape s c; rw [h]
@[simp] theorem pushTurn_waiters (s : State) (c : Nat) : (s.pushTurn c).waiters = s.waiters := by
  obtain ⟨_, h⟩ := pushTurn_shape s c; rw [h]
@[simp] theorem pushTurn_pendings (s : State) (c : Nat) : (s.pushTurn c).pendings = s.pendings := by
  obtain ⟨_, h⟩ := pushTurn_shape s c; rw [h]
@[simp] theorem pushTurn_parked (s : State) (c : Nat) : (s.pushTurn c).parked = s.parked := by
  obtain ⟨_, h⟩ := pushTurn_shape s c; rw [h]
@[simp] theorem pushTurn_slices (s : State) (c : Nat) : (s.pushTurn c).slices = s.slices := by
  obtain ⟨_, h⟩ := pushTurn_shape s c; rw [h]
@[simp] theorem pushTurn_gangs (s : State) (c : Nat) : (s.pushTurn c).gangs = s.gangs := by
  obtain ⟨_, h⟩ := pushTurn_shape s c; rw [h]
@[simp] theorem pushTurn_audits (s : State) (c : Nat) : (s.pushTurn c).audits = s.audits := by
  obtain ⟨_, h⟩ := pushTurn_shape s c; rw [h]
@[simp] theorem pushTurn_arrivals (s : State) (c : Nat) : (s.pushTurn c).arrivals = s.arrivals := by
  obtain ⟨_, h⟩ := pushTurn_shape s c; rw [h]
@[simp] theorem pushTurn_tokens (s : State) (c : Nat) : (s.pushTurn c).tokens = s.tokens := by
  obtain ⟨_, h⟩ := pushTurn_shape s c; rw [h]
@[simp] theorem pushTurn_sachets (s : State) (c : Nat) : (s.pushTurn c).sachets = s.sachets := by
  obtain ⟨_, h⟩ := pushTurn_shape s c; rw [h]
@[simp] theorem pushTurn_flying (s : State) (c : Nat) : (s.pushTurn c).flying = s.flying := by
  obtain ⟨_, h⟩ := pushTurn_shape s c; rw [h]
@[simp] theorem pushTurn_outbox (s : State) (c : Nat) : (s.pushTurn c).outbox = s.outbox := by
  obtain ⟨_, h⟩ := pushTurn_shape s c; rw [h]
@[simp] theorem pushTurn_flits (s : State) (c : Nat) : (s.pushTurn c).flits = s.flits := by
  obtain ⟨_, h⟩ := pushTurn_shape s c; rw [h]
@[simp] theorem pushTurn_links (s : State) (c : Nat) : (s.pushTurn c).links = s.links := by
  obtain ⟨_, h⟩ := pushTurn_shape s c; rw [h]
@[simp] theorem pushTurn_sessions (s : State) (c : Nat) : (s.pushTurn c).sessions = s.sessions := by
  obtain ⟨_, h⟩ := pushTurn_shape s c; rw [h]
@[simp] theorem pushTurn_responses (s : State) (c : Nat) : (s.pushTurn c).responses = s.responses := by
  obtain ⟨_, h⟩ := pushTurn_shape s c; rw [h]
@[simp] theorem pushTurn_board (s : State) (c : Nat) : (s.pushTurn c).board = s.board := by
  obtain ⟨_, h⟩ := pushTurn_shape s c; rw [h]
@[simp] theorem pushTurn_fabric (s : State) (c : Nat) : (s.pushTurn c).fabric = s.fabric := by
  obtain ⟨_, h⟩ := pushTurn_shape s c; rw [h]
@[simp] theorem pushTurn_time (s : State) (c : Nat) : (s.pushTurn c).time = s.time := by
  obtain ⟨_, h⟩ := pushTurn_shape s c; rw [h]
@[simp] theorem pushTurn_turned (s : State) (c : Nat) : (s.pushTurn c).turned = s.turned := by
  obtain ⟨_, h⟩ := pushTurn_shape s c; rw [h]
@[simp] theorem pushTurn_arg (s : State) (c : Nat) : (s.pushTurn c).arg = s.arg := by
  obtain ⟨_, h⟩ := pushTurn_shape s c; rw [h]
@[simp] theorem pushTurn_fresh (s : State) (c : Nat) : (s.pushTurn c).fresh = s.fresh := by
  obtain ⟨_, h⟩ := pushTurn_shape s c; rw [h]

/-! `swapIn`. -/

theorem swapIn_shape (s : State) (c : Nat) : ∃ x0 x1, s.swapIn c = { s with t := x0, others := x1 } := by
  unfold State.swapIn; repeat' split
  all_goals exact ⟨_, _, rfl⟩

@[simp] theorem swapIn_cores (s : State) (c : Nat) : (s.swapIn c).cores = s.cores := by
  obtain ⟨_, _, h⟩ := swapIn_shape s c; rw [h]
@[simp] theorem swapIn_clusters (s : State) (c : Nat) : (s.swapIn c).clusters = s.clusters := by
  obtain ⟨_, _, h⟩ := swapIn_shape s c; rw [h]
@[simp] theorem swapIn_walks (s : State) (c : Nat) : (s.swapIn c).walks = s.walks := by
  obtain ⟨_, _, h⟩ := swapIn_shape s c; rw [h]
@[simp] theorem swapIn_parts (s : State) (c : Nat) : (s.swapIn c).parts = s.parts := by
  obtain ⟨_, _, h⟩ := swapIn_shape s c; rw [h]
@[simp] theorem swapIn_mem (s : State) (c : Nat) : (s.swapIn c).mem = s.mem := by
  obtain ⟨_, _, h⟩ := swapIn_shape s c; rw [h]
@[simp] theorem swapIn_full (s : State) (c : Nat) : (s.swapIn c).full = s.full := by
  obtain ⟨_, _, h⟩ := swapIn_shape s c; rw [h]
@[simp] theorem swapIn_bad (s : State) (c : Nat) : (s.swapIn c).bad = s.bad := by
  obtain ⟨_, _, h⟩ := swapIn_shape s c; rw [h]
@[simp] theorem swapIn_copies (s : State) (c : Nat) : (s.swapIn c).copies = s.copies := by
  obtain ⟨_, _, h⟩ := swapIn_shape s c; rw [h]
@[simp] theorem swapIn_subs (s : State) (c : Nat) : (s.swapIn c).subs = s.subs := by
  obtain ⟨_, _, h⟩ := swapIn_shape s c; rw [h]
@[simp] theorem swapIn_waiters (s : State) (c : Nat) : (s.swapIn c).waiters = s.waiters := by
  obtain ⟨_, _, h⟩ := swapIn_shape s c; rw [h]
@[simp] theorem swapIn_pendings (s : State) (c : Nat) : (s.swapIn c).pendings = s.pendings := by
  obtain ⟨_, _, h⟩ := swapIn_shape s c; rw [h]
@[simp] theorem swapIn_parked (s : State) (c : Nat) : (s.swapIn c).parked = s.parked := by
  obtain ⟨_, _, h⟩ := swapIn_shape s c; rw [h]
@[simp] theorem swapIn_slices (s : State) (c : Nat) : (s.swapIn c).slices = s.slices := by
  obtain ⟨_, _, h⟩ := swapIn_shape s c; rw [h]
@[simp] theorem swapIn_gangs (s : State) (c : Nat) : (s.swapIn c).gangs = s.gangs := by
  obtain ⟨_, _, h⟩ := swapIn_shape s c; rw [h]
@[simp] theorem swapIn_audits (s : State) (c : Nat) : (s.swapIn c).audits = s.audits := by
  obtain ⟨_, _, h⟩ := swapIn_shape s c; rw [h]
@[simp] theorem swapIn_arrivals (s : State) (c : Nat) : (s.swapIn c).arrivals = s.arrivals := by
  obtain ⟨_, _, h⟩ := swapIn_shape s c; rw [h]
@[simp] theorem swapIn_tokens (s : State) (c : Nat) : (s.swapIn c).tokens = s.tokens := by
  obtain ⟨_, _, h⟩ := swapIn_shape s c; rw [h]
@[simp] theorem swapIn_sachets (s : State) (c : Nat) : (s.swapIn c).sachets = s.sachets := by
  obtain ⟨_, _, h⟩ := swapIn_shape s c; rw [h]
@[simp] theorem swapIn_flying (s : State) (c : Nat) : (s.swapIn c).flying = s.flying := by
  obtain ⟨_, _, h⟩ := swapIn_shape s c; rw [h]
@[simp] theorem swapIn_outbox (s : State) (c : Nat) : (s.swapIn c).outbox = s.outbox := by
  obtain ⟨_, _, h⟩ := swapIn_shape s c; rw [h]
@[simp] theorem swapIn_flits (s : State) (c : Nat) : (s.swapIn c).flits = s.flits := by
  obtain ⟨_, _, h⟩ := swapIn_shape s c; rw [h]
@[simp] theorem swapIn_links (s : State) (c : Nat) : (s.swapIn c).links = s.links := by
  obtain ⟨_, _, h⟩ := swapIn_shape s c; rw [h]
@[simp] theorem swapIn_sessions (s : State) (c : Nat) : (s.swapIn c).sessions = s.sessions := by
  obtain ⟨_, _, h⟩ := swapIn_shape s c; rw [h]
@[simp] theorem swapIn_responses (s : State) (c : Nat) : (s.swapIn c).responses = s.responses := by
  obtain ⟨_, _, h⟩ := swapIn_shape s c; rw [h]
@[simp] theorem swapIn_board (s : State) (c : Nat) : (s.swapIn c).board = s.board := by
  obtain ⟨_, _, h⟩ := swapIn_shape s c; rw [h]
@[simp] theorem swapIn_fabric (s : State) (c : Nat) : (s.swapIn c).fabric = s.fabric := by
  obtain ⟨_, _, h⟩ := swapIn_shape s c; rw [h]
@[simp] theorem swapIn_time (s : State) (c : Nat) : (s.swapIn c).time = s.time := by
  obtain ⟨_, _, h⟩ := swapIn_shape s c; rw [h]
@[simp] theorem swapIn_turned (s : State) (c : Nat) : (s.swapIn c).turned = s.turned := by
  obtain ⟨_, _, h⟩ := swapIn_shape s c; rw [h]
@[simp] theorem swapIn_agenda (s : State) (c : Nat) : (s.swapIn c).agenda = s.agenda := by
  obtain ⟨_, _, h⟩ := swapIn_shape s c; rw [h]
@[simp] theorem swapIn_arg (s : State) (c : Nat) : (s.swapIn c).arg = s.arg := by
  obtain ⟨_, _, h⟩ := swapIn_shape s c; rw [h]
@[simp] theorem swapIn_fresh (s : State) (c : Nat) : (s.swapIn c).fresh = s.fresh := by
  obtain ⟨_, _, h⟩ := swapIn_shape s c; rw [h]

/-! `acquire`. -/

theorem acquire_shape (s : State) (c : Nat) : ∃ x0, s.acquire c = { s with cores := x0 } := by
  unfold State.acquire; repeat' split
  all_goals exact ⟨_, rfl⟩

@[simp] theorem acquire_t (s : State) (c : Nat) : (s.acquire c).t = s.t := by
  obtain ⟨_, h⟩ := acquire_shape s c; rw [h]
@[simp] theorem acquire_others (s : State) (c : Nat) : (s.acquire c).others = s.others := by
  obtain ⟨_, h⟩ := acquire_shape s c; rw [h]
@[simp] theorem acquire_clusters (s : State) (c : Nat) : (s.acquire c).clusters = s.clusters := by
  obtain ⟨_, h⟩ := acquire_shape s c; rw [h]
@[simp] theorem acquire_walks (s : State) (c : Nat) : (s.acquire c).walks = s.walks := by
  obtain ⟨_, h⟩ := acquire_shape s c; rw [h]
@[simp] theorem acquire_parts (s : State) (c : Nat) : (s.acquire c).parts = s.parts := by
  obtain ⟨_, h⟩ := acquire_shape s c; rw [h]
@[simp] theorem acquire_mem (s : State) (c : Nat) : (s.acquire c).mem = s.mem := by
  obtain ⟨_, h⟩ := acquire_shape s c; rw [h]
@[simp] theorem acquire_full (s : State) (c : Nat) : (s.acquire c).full = s.full := by
  obtain ⟨_, h⟩ := acquire_shape s c; rw [h]
@[simp] theorem acquire_bad (s : State) (c : Nat) : (s.acquire c).bad = s.bad := by
  obtain ⟨_, h⟩ := acquire_shape s c; rw [h]
@[simp] theorem acquire_copies (s : State) (c : Nat) : (s.acquire c).copies = s.copies := by
  obtain ⟨_, h⟩ := acquire_shape s c; rw [h]
@[simp] theorem acquire_subs (s : State) (c : Nat) : (s.acquire c).subs = s.subs := by
  obtain ⟨_, h⟩ := acquire_shape s c; rw [h]
@[simp] theorem acquire_waiters (s : State) (c : Nat) : (s.acquire c).waiters = s.waiters := by
  obtain ⟨_, h⟩ := acquire_shape s c; rw [h]
@[simp] theorem acquire_pendings (s : State) (c : Nat) : (s.acquire c).pendings = s.pendings := by
  obtain ⟨_, h⟩ := acquire_shape s c; rw [h]
@[simp] theorem acquire_parked (s : State) (c : Nat) : (s.acquire c).parked = s.parked := by
  obtain ⟨_, h⟩ := acquire_shape s c; rw [h]
@[simp] theorem acquire_slices (s : State) (c : Nat) : (s.acquire c).slices = s.slices := by
  obtain ⟨_, h⟩ := acquire_shape s c; rw [h]
@[simp] theorem acquire_gangs (s : State) (c : Nat) : (s.acquire c).gangs = s.gangs := by
  obtain ⟨_, h⟩ := acquire_shape s c; rw [h]
@[simp] theorem acquire_audits (s : State) (c : Nat) : (s.acquire c).audits = s.audits := by
  obtain ⟨_, h⟩ := acquire_shape s c; rw [h]
@[simp] theorem acquire_arrivals (s : State) (c : Nat) : (s.acquire c).arrivals = s.arrivals := by
  obtain ⟨_, h⟩ := acquire_shape s c; rw [h]
@[simp] theorem acquire_tokens (s : State) (c : Nat) : (s.acquire c).tokens = s.tokens := by
  obtain ⟨_, h⟩ := acquire_shape s c; rw [h]
@[simp] theorem acquire_sachets (s : State) (c : Nat) : (s.acquire c).sachets = s.sachets := by
  obtain ⟨_, h⟩ := acquire_shape s c; rw [h]
@[simp] theorem acquire_flying (s : State) (c : Nat) : (s.acquire c).flying = s.flying := by
  obtain ⟨_, h⟩ := acquire_shape s c; rw [h]
@[simp] theorem acquire_outbox (s : State) (c : Nat) : (s.acquire c).outbox = s.outbox := by
  obtain ⟨_, h⟩ := acquire_shape s c; rw [h]
@[simp] theorem acquire_flits (s : State) (c : Nat) : (s.acquire c).flits = s.flits := by
  obtain ⟨_, h⟩ := acquire_shape s c; rw [h]
@[simp] theorem acquire_links (s : State) (c : Nat) : (s.acquire c).links = s.links := by
  obtain ⟨_, h⟩ := acquire_shape s c; rw [h]
@[simp] theorem acquire_sessions (s : State) (c : Nat) : (s.acquire c).sessions = s.sessions := by
  obtain ⟨_, h⟩ := acquire_shape s c; rw [h]
@[simp] theorem acquire_responses (s : State) (c : Nat) : (s.acquire c).responses = s.responses := by
  obtain ⟨_, h⟩ := acquire_shape s c; rw [h]
@[simp] theorem acquire_board (s : State) (c : Nat) : (s.acquire c).board = s.board := by
  obtain ⟨_, h⟩ := acquire_shape s c; rw [h]
@[simp] theorem acquire_fabric (s : State) (c : Nat) : (s.acquire c).fabric = s.fabric := by
  obtain ⟨_, h⟩ := acquire_shape s c; rw [h]
@[simp] theorem acquire_time (s : State) (c : Nat) : (s.acquire c).time = s.time := by
  obtain ⟨_, h⟩ := acquire_shape s c; rw [h]
@[simp] theorem acquire_turned (s : State) (c : Nat) : (s.acquire c).turned = s.turned := by
  obtain ⟨_, h⟩ := acquire_shape s c; rw [h]
@[simp] theorem acquire_agenda (s : State) (c : Nat) : (s.acquire c).agenda = s.agenda := by
  obtain ⟨_, h⟩ := acquire_shape s c; rw [h]
@[simp] theorem acquire_arg (s : State) (c : Nat) : (s.acquire c).arg = s.arg := by
  obtain ⟨_, h⟩ := acquire_shape s c; rw [h]
@[simp] theorem acquire_fresh (s : State) (c : Nat) : (s.acquire c).fresh = s.fresh := by
  obtain ⟨_, h⟩ := acquire_shape s c; rw [h]

/-! `finish`. -/

theorem finish_shape (s : State) (c : Ctx) (x y : Word) : ∃ x0 x1, s.finish c x y = { s with t := x0, gangs := x1 } := by
  unfold State.finish; repeat' split
  all_goals exact ⟨_, _, rfl⟩

@[simp] theorem finish_others (s : State) (c : Ctx) (x y : Word) : (s.finish c x y).others = s.others := by
  obtain ⟨_, _, h⟩ := finish_shape s c x y; rw [h]
@[simp] theorem finish_cores (s : State) (c : Ctx) (x y : Word) : (s.finish c x y).cores = s.cores := by
  obtain ⟨_, _, h⟩ := finish_shape s c x y; rw [h]
@[simp] theorem finish_clusters (s : State) (c : Ctx) (x y : Word) : (s.finish c x y).clusters = s.clusters := by
  obtain ⟨_, _, h⟩ := finish_shape s c x y; rw [h]
@[simp] theorem finish_walks (s : State) (c : Ctx) (x y : Word) : (s.finish c x y).walks = s.walks := by
  obtain ⟨_, _, h⟩ := finish_shape s c x y; rw [h]
@[simp] theorem finish_parts (s : State) (c : Ctx) (x y : Word) : (s.finish c x y).parts = s.parts := by
  obtain ⟨_, _, h⟩ := finish_shape s c x y; rw [h]
@[simp] theorem finish_mem (s : State) (c : Ctx) (x y : Word) : (s.finish c x y).mem = s.mem := by
  obtain ⟨_, _, h⟩ := finish_shape s c x y; rw [h]
@[simp] theorem finish_full (s : State) (c : Ctx) (x y : Word) : (s.finish c x y).full = s.full := by
  obtain ⟨_, _, h⟩ := finish_shape s c x y; rw [h]
@[simp] theorem finish_bad (s : State) (c : Ctx) (x y : Word) : (s.finish c x y).bad = s.bad := by
  obtain ⟨_, _, h⟩ := finish_shape s c x y; rw [h]
@[simp] theorem finish_copies (s : State) (c : Ctx) (x y : Word) : (s.finish c x y).copies = s.copies := by
  obtain ⟨_, _, h⟩ := finish_shape s c x y; rw [h]
@[simp] theorem finish_subs (s : State) (c : Ctx) (x y : Word) : (s.finish c x y).subs = s.subs := by
  obtain ⟨_, _, h⟩ := finish_shape s c x y; rw [h]
@[simp] theorem finish_waiters (s : State) (c : Ctx) (x y : Word) : (s.finish c x y).waiters = s.waiters := by
  obtain ⟨_, _, h⟩ := finish_shape s c x y; rw [h]
@[simp] theorem finish_pendings (s : State) (c : Ctx) (x y : Word) : (s.finish c x y).pendings = s.pendings := by
  obtain ⟨_, _, h⟩ := finish_shape s c x y; rw [h]
@[simp] theorem finish_parked (s : State) (c : Ctx) (x y : Word) : (s.finish c x y).parked = s.parked := by
  obtain ⟨_, _, h⟩ := finish_shape s c x y; rw [h]
@[simp] theorem finish_slices (s : State) (c : Ctx) (x y : Word) : (s.finish c x y).slices = s.slices := by
  obtain ⟨_, _, h⟩ := finish_shape s c x y; rw [h]
@[simp] theorem finish_audits (s : State) (c : Ctx) (x y : Word) : (s.finish c x y).audits = s.audits := by
  obtain ⟨_, _, h⟩ := finish_shape s c x y; rw [h]
@[simp] theorem finish_arrivals (s : State) (c : Ctx) (x y : Word) : (s.finish c x y).arrivals = s.arrivals := by
  obtain ⟨_, _, h⟩ := finish_shape s c x y; rw [h]
@[simp] theorem finish_tokens (s : State) (c : Ctx) (x y : Word) : (s.finish c x y).tokens = s.tokens := by
  obtain ⟨_, _, h⟩ := finish_shape s c x y; rw [h]
@[simp] theorem finish_sachets (s : State) (c : Ctx) (x y : Word) : (s.finish c x y).sachets = s.sachets := by
  obtain ⟨_, _, h⟩ := finish_shape s c x y; rw [h]
@[simp] theorem finish_flying (s : State) (c : Ctx) (x y : Word) : (s.finish c x y).flying = s.flying := by
  obtain ⟨_, _, h⟩ := finish_shape s c x y; rw [h]
@[simp] theorem finish_outbox (s : State) (c : Ctx) (x y : Word) : (s.finish c x y).outbox = s.outbox := by
  obtain ⟨_, _, h⟩ := finish_shape s c x y; rw [h]
@[simp] theorem finish_flits (s : State) (c : Ctx) (x y : Word) : (s.finish c x y).flits = s.flits := by
  obtain ⟨_, _, h⟩ := finish_shape s c x y; rw [h]
@[simp] theorem finish_links (s : State) (c : Ctx) (x y : Word) : (s.finish c x y).links = s.links := by
  obtain ⟨_, _, h⟩ := finish_shape s c x y; rw [h]
@[simp] theorem finish_sessions (s : State) (c : Ctx) (x y : Word) : (s.finish c x y).sessions = s.sessions := by
  obtain ⟨_, _, h⟩ := finish_shape s c x y; rw [h]
@[simp] theorem finish_responses (s : State) (c : Ctx) (x y : Word) : (s.finish c x y).responses = s.responses := by
  obtain ⟨_, _, h⟩ := finish_shape s c x y; rw [h]
@[simp] theorem finish_board (s : State) (c : Ctx) (x y : Word) : (s.finish c x y).board = s.board := by
  obtain ⟨_, _, h⟩ := finish_shape s c x y; rw [h]
@[simp] theorem finish_fabric (s : State) (c : Ctx) (x y : Word) : (s.finish c x y).fabric = s.fabric := by
  obtain ⟨_, _, h⟩ := finish_shape s c x y; rw [h]
@[simp] theorem finish_time (s : State) (c : Ctx) (x y : Word) : (s.finish c x y).time = s.time := by
  obtain ⟨_, _, h⟩ := finish_shape s c x y; rw [h]
@[simp] theorem finish_turned (s : State) (c : Ctx) (x y : Word) : (s.finish c x y).turned = s.turned := by
  obtain ⟨_, _, h⟩ := finish_shape s c x y; rw [h]
@[simp] theorem finish_agenda (s : State) (c : Ctx) (x y : Word) : (s.finish c x y).agenda = s.agenda := by
  obtain ⟨_, _, h⟩ := finish_shape s c x y; rw [h]
@[simp] theorem finish_arg (s : State) (c : Ctx) (x y : Word) : (s.finish c x y).arg = s.arg := by
  obtain ⟨_, _, h⟩ := finish_shape s c x y; rw [h]
@[simp] theorem finish_fresh (s : State) (c : Ctx) (x y : Word) : (s.finish c x y).fresh = s.fresh := by
  obtain ⟨_, _, h⟩ := finish_shape s c x y; rw [h]

/-! `writeV`. -/

@[simp] theorem writeV_kind (c : Ctx) (n : Nat) (x : Line) : (c.writeV n x).kind = c.kind := rfl
@[simp] theorem writeV_coreid (c : Ctx) (n : Nat) (x : Line) : (c.writeV n x).coreid = c.coreid := rfl
@[simp] theorem writeV_mode (c : Ctx) (n : Nat) (x : Line) : (c.writeV n x).mode = c.mode := rfl
@[simp] theorem writeV_pc (c : Ctx) (n : Nat) (x : Line) : (c.writeV n x).pc = c.pc := rfl
@[simp] theorem writeV_s (c : Ctx) (n : Nat) (x : Line) : (c.writeV n x).s = c.s := rfl
@[simp] theorem writeV_k (c : Ctx) (n : Nat) (x : Line) : (c.writeV n x).k = c.k := rfl
@[simp] theorem writeV_q (c : Ctx) (n : Nat) (x : Line) : (c.writeV n x).q = c.q := rfl
@[simp] theorem writeV_h (c : Ctx) (n : Nat) (x : Line) : (c.writeV n x).h = c.h := rfl
@[simp] theorem writeV_lc (c : Ctx) (n : Nat) (x : Line) : (c.writeV n x).lc = c.lc := rfl
@[simp] theorem writeV_lbeg (c : Ctx) (n : Nat) (x : Line) : (c.writeV n x).lbeg = c.lbeg := rfl
@[simp] theorem writeV_lend (c : Ctx) (n : Nat) (x : Line) : (c.writeV n x).lend = c.lend := rfl
@[simp] theorem writeV_eo (c : Ctx) (n : Nat) (x : Line) : (c.writeV n x).eo = c.eo := rfl
@[simp] theorem writeV_wo (c : Ctx) (n : Nat) (x : Line) : (c.writeV n x).wo = c.wo := rfl
@[simp] theorem writeV_eoPrev (c : Ctx) (n : Nat) (x : Line) : (c.writeV n x).eoPrev = c.eoPrev := rfl
@[simp] theorem writeV_woPrev (c : Ctx) (n : Nat) (x : Line) : (c.writeV n x).woPrev = c.woPrev := rfl
@[simp] theorem writeV_eoMark (c : Ctx) (n : Nat) (x : Line) : (c.writeV n x).eoMark = c.eoMark := rfl
@[simp] theorem writeV_woMark (c : Ctx) (n : Nat) (x : Line) : (c.writeV n x).woMark = c.woMark := rfl
@[simp] theorem writeV_eoOld (c : Ctx) (n : Nat) (x : Line) : (c.writeV n x).eoOld = c.eoOld := rfl
@[simp] theorem writeV_woOld (c : Ctx) (n : Nat) (x : Line) : (c.writeV n x).woOld = c.woOld := rfl
@[simp] theorem writeV_vtype (c : Ctx) (n : Nat) (x : Line) : (c.writeV n x).vtype = c.vtype := rfl
@[simp] theorem writeV_vround (c : Ctx) (n : Nat) (x : Line) : (c.writeV n x).vround = c.vround := rfl
@[simp] theorem writeV_vflags (c : Ctx) (n : Nat) (x : Line) : (c.writeV n x).vflags = c.vflags := rfl
@[simp] theorem writeV_vmask (c : Ctx) (n : Nat) (x : Line) : (c.writeV n x).vmask = c.vmask := rfl
@[simp] theorem writeV_vprog (c : Ctx) (n : Nat) (x : Line) : (c.writeV n x).vprog = c.vprog := rfl
@[simp] theorem writeV_repcnt (c : Ctx) (n : Nat) (x : Line) : (c.writeV n x).repcnt = c.repcnt := rfl
@[simp] theorem writeV_qscale (c : Ctx) (n : Nat) (x : Line) : (c.writeV n x).qscale = c.qscale := rfl
@[simp] theorem writeV_acscale (c : Ctx) (n : Nat) (x : Line) : (c.writeV n x).acscale = c.acscale := rfl
@[simp] theorem writeV_lastjob (c : Ctx) (n : Nat) (x : Line) : (c.writeV n x).lastjob = c.lastjob := rfl
@[simp] theorem writeV_rstep (c : Ctx) (n : Nat) (x : Line) : (c.writeV n x).rstep = c.rstep := rfl
@[simp] theorem writeV_budget (c : Ctx) (n : Nat) (x : Line) : (c.writeV n x).budget = c.budget := rfl
@[simp] theorem writeV_deadline (c : Ctx) (n : Nat) (x : Line) : (c.writeV n x).deadline = c.deadline := rfl
@[simp] theorem writeV_prio (c : Ctx) (n : Nat) (x : Line) : (c.writeV n x).prio = c.prio := rfl
@[simp] theorem writeV_sliceid (c : Ctx) (n : Nat) (x : Line) : (c.writeV n x).sliceid = c.sliceid := rfl
@[simp] theorem writeV_tagrdy (c : Ctx) (n : Nat) (x : Line) : (c.writeV n x).tagrdy = c.tagrdy := rfl
@[simp] theorem writeV_tagrank (c : Ctx) (n : Nat) (x : Line) : (c.writeV n x).tagrank = c.tagrank := rfl
@[simp] theorem writeV_gangpos (c : Ctx) (n : Nat) (x : Line) : (c.writeV n x).gangpos = c.gangpos := rfl
@[simp] theorem writeV_peers (c : Ctx) (n : Nat) (x : Line) : (c.writeV n x).peers = c.peers := rfl
@[simp] theorem writeV_tvec (c : Ctx) (n : Nat) (x : Line) : (c.writeV n x).tvec = c.tvec := rfl
@[simp] theorem writeV_tcause (c : Ctx) (n : Nat) (x : Line) : (c.writeV n x).tcause = c.tcause := rfl
@[simp] theorem writeV_tval (c : Ctx) (n : Nat) (x : Line) : (c.writeV n x).tval = c.tval := rfl
@[simp] theorem writeV_tpc (c : Ctx) (n : Nat) (x : Line) : (c.writeV n x).tpc = c.tpc := rfl
@[simp] theorem writeV_tstat (c : Ctx) (n : Nat) (x : Line) : (c.writeV n x).tstat = c.tstat := rfl
@[simp] theorem writeV_stepctl (c : Ctx) (n : Nat) (x : Line) : (c.writeV n x).stepctl = c.stepctl := rfl
@[simp] theorem writeV_obls (c : Ctx) (n : Nat) (x : Line) : (c.writeV n x).obls = c.obls := rfl
@[simp] theorem writeV_sticky (c : Ctx) (n : Nat) (x : Line) : (c.writeV n x).sticky = c.sticky := rfl
@[simp] theorem writeV_outstanding (c : Ctx) (n : Nat) (x : Line) : (c.writeV n x).outstanding = c.outstanding := rfl
@[simp] theorem writeV_rep (c : Ctx) (n : Nat) (x : Line) : (c.writeV n x).rep = c.rep := rfl
@[simp] theorem writeV_issued (c : Ctx) (n : Nat) (x : Line) : (c.writeV n x).issued = c.issued := rfl
@[simp] theorem writeV_grace (c : Ctx) (n : Nat) (x : Line) : (c.writeV n x).grace = c.grace := rfl
@[simp] theorem writeV_remoteDue (c : Ctx) (n : Nat) (x : Line) : (c.writeV n x).remoteDue = c.remoteDue := rfl
@[simp] theorem writeV_watchDue (c : Ctx) (n : Nat) (x : Line) : (c.writeV n x).watchDue = c.watchDue := rfl
@[simp] theorem writeV_watchMet (c : Ctx) (n : Nat) (x : Line) : (c.writeV n x).watchMet = c.watchMet := rfl
@[simp] theorem writeV_arriveDue (c : Ctx) (n : Nat) (x : Line) : (c.writeV n x).arriveDue = c.arriveDue := rfl
@[simp] theorem writeV_ringTrap (c : Ctx) (n : Nat) (x : Line) : (c.writeV n x).ringTrap = c.ringTrap := rfl
@[simp] theorem writeV_late (c : Ctx) (n : Nat) (x : Line) : (c.writeV n x).late = c.late := rfl
@[simp] theorem writeV_skid (c : Ctx) (n : Nat) (x : Line) : (c.writeV n x).skid = c.skid := rfl
@[simp] theorem writeV_result (c : Ctx) (n : Nat) (x : Line) : (c.writeV n x).result = c.result := rfl
@[simp] theorem writeV_access (c : Ctx) (n : Nat) (x : Line) : (c.writeV n x).access = c.access := rfl
@[simp] theorem writeV_accessVa (c : Ctx) (n : Nat) (x : Line) : (c.writeV n x).accessVa = c.accessVa := rfl
@[simp] theorem writeV_dest (c : Ctx) (n : Nat) (x : Line) : (c.writeV n x).dest = c.dest := rfl
@[simp] theorem writeV_len (c : Ctx) (n : Nat) (x : Line) : (c.writeV n x).len = c.len := rfl

/-! `done`. -/

@[simp] theorem done_kind (c : Ctx) : (c.done).kind = c.kind := rfl
@[simp] theorem done_coreid (c : Ctx) : (c.done).coreid = c.coreid := rfl
@[simp] theorem done_pc (c : Ctx) : (c.done).pc = c.pc := rfl
@[simp] theorem done_s (c : Ctx) : (c.done).s = c.s := rfl
@[simp] theorem done_k (c : Ctx) : (c.done).k = c.k := rfl
@[simp] theorem done_v (c : Ctx) : (c.done).v = c.v := rfl
@[simp] theorem done_q (c : Ctx) : (c.done).q = c.q := rfl
@[simp] theorem done_h (c : Ctx) : (c.done).h = c.h := rfl
@[simp] theorem done_lc (c : Ctx) : (c.done).lc = c.lc := rfl
@[simp] theorem done_lbeg (c : Ctx) : (c.done).lbeg = c.lbeg := rfl
@[simp] theorem done_lend (c : Ctx) : (c.done).lend = c.lend := rfl
@[simp] theorem done_eo (c : Ctx) : (c.done).eo = c.eo := rfl
@[simp] theorem done_wo (c : Ctx) : (c.done).wo = c.wo := rfl
@[simp] theorem done_eoPrev (c : Ctx) : (c.done).eoPrev = c.eoPrev := rfl
@[simp] theorem done_woPrev (c : Ctx) : (c.done).woPrev = c.woPrev := rfl
@[simp] theorem done_eoMark (c : Ctx) : (c.done).eoMark = c.eoMark := rfl
@[simp] theorem done_woMark (c : Ctx) : (c.done).woMark = c.woMark := rfl
@[simp] theorem done_eoOld (c : Ctx) : (c.done).eoOld = c.eoOld := rfl
@[simp] theorem done_woOld (c : Ctx) : (c.done).woOld = c.woOld := rfl
@[simp] theorem done_vtype (c : Ctx) : (c.done).vtype = c.vtype := rfl
@[simp] theorem done_vround (c : Ctx) : (c.done).vround = c.vround := rfl
@[simp] theorem done_vflags (c : Ctx) : (c.done).vflags = c.vflags := rfl
@[simp] theorem done_vmask (c : Ctx) : (c.done).vmask = c.vmask := rfl
@[simp] theorem done_vprog (c : Ctx) : (c.done).vprog = c.vprog := rfl
@[simp] theorem done_repcnt (c : Ctx) : (c.done).repcnt = c.repcnt := rfl
@[simp] theorem done_qscale (c : Ctx) : (c.done).qscale = c.qscale := rfl
@[simp] theorem done_acscale (c : Ctx) : (c.done).acscale = c.acscale := rfl
@[simp] theorem done_lastjob (c : Ctx) : (c.done).lastjob = c.lastjob := rfl
@[simp] theorem done_rstep (c : Ctx) : (c.done).rstep = c.rstep := rfl
@[simp] theorem done_budget (c : Ctx) : (c.done).budget = c.budget := rfl
@[simp] theorem done_deadline (c : Ctx) : (c.done).deadline = c.deadline := rfl
@[simp] theorem done_prio (c : Ctx) : (c.done).prio = c.prio := rfl
@[simp] theorem done_sliceid (c : Ctx) : (c.done).sliceid = c.sliceid := rfl
@[simp] theorem done_tagrdy (c : Ctx) : (c.done).tagrdy = c.tagrdy := rfl
@[simp] theorem done_tagrank (c : Ctx) : (c.done).tagrank = c.tagrank := rfl
@[simp] theorem done_gangpos (c : Ctx) : (c.done).gangpos = c.gangpos := rfl
@[simp] theorem done_peers (c : Ctx) : (c.done).peers = c.peers := rfl
@[simp] theorem done_tvec (c : Ctx) : (c.done).tvec = c.tvec := rfl
@[simp] theorem done_tcause (c : Ctx) : (c.done).tcause = c.tcause := rfl
@[simp] theorem done_tval (c : Ctx) : (c.done).tval = c.tval := rfl
@[simp] theorem done_tpc (c : Ctx) : (c.done).tpc = c.tpc := rfl
@[simp] theorem done_tstat (c : Ctx) : (c.done).tstat = c.tstat := rfl
@[simp] theorem done_stepctl (c : Ctx) : (c.done).stepctl = c.stepctl := rfl
@[simp] theorem done_obls (c : Ctx) : (c.done).obls = c.obls := rfl
@[simp] theorem done_sticky (c : Ctx) : (c.done).sticky = c.sticky := rfl
@[simp] theorem done_outstanding (c : Ctx) : (c.done).outstanding = c.outstanding := rfl
@[simp] theorem done_grace (c : Ctx) : (c.done).grace = c.grace := rfl
@[simp] theorem done_remoteDue (c : Ctx) : (c.done).remoteDue = c.remoteDue := rfl
@[simp] theorem done_watchDue (c : Ctx) : (c.done).watchDue = c.watchDue := rfl
@[simp] theorem done_arriveDue (c : Ctx) : (c.done).arriveDue = c.arriveDue := rfl
@[simp] theorem done_ringTrap (c : Ctx) : (c.done).ringTrap = c.ringTrap := rfl
@[simp] theorem done_badRegs (c : Ctx) : (c.done).badRegs = c.badRegs := rfl
@[simp] theorem done_late (c : Ctx) : (c.done).late = c.late := rfl
@[simp] theorem done_skid (c : Ctx) : (c.done).skid = c.skid := rfl
@[simp] theorem done_result (c : Ctx) : (c.done).result = c.result := rfl
@[simp] theorem done_access (c : Ctx) : (c.done).access = c.access := rfl
@[simp] theorem done_accessVa (c : Ctx) : (c.done).accessVa = c.accessVa := rfl
@[simp] theorem done_dest (c : Ctx) : (c.done).dest = c.dest := rfl
@[simp] theorem done_len (c : Ctx) : (c.done).len = c.len := rfl

/-! `portsOn`. -/

@[simp] theorem portsOn_kind (c : Ctx) : (c.portsOn).kind = c.kind := rfl
@[simp] theorem portsOn_coreid (c : Ctx) : (c.portsOn).coreid = c.coreid := rfl
@[simp] theorem portsOn_mode (c : Ctx) : (c.portsOn).mode = c.mode := rfl
@[simp] theorem portsOn_pc (c : Ctx) : (c.portsOn).pc = c.pc := rfl
@[simp] theorem portsOn_s (c : Ctx) : (c.portsOn).s = c.s := rfl
@[simp] theorem portsOn_k (c : Ctx) : (c.portsOn).k = c.k := rfl
@[simp] theorem portsOn_v (c : Ctx) : (c.portsOn).v = c.v := rfl
@[simp] theorem portsOn_q (c : Ctx) : (c.portsOn).q = c.q := rfl
@[simp] theorem portsOn_h (c : Ctx) : (c.portsOn).h = c.h := rfl
@[simp] theorem portsOn_lc (c : Ctx) : (c.portsOn).lc = c.lc := rfl
@[simp] theorem portsOn_lbeg (c : Ctx) : (c.portsOn).lbeg = c.lbeg := rfl
@[simp] theorem portsOn_lend (c : Ctx) : (c.portsOn).lend = c.lend := rfl
@[simp] theorem portsOn_eo (c : Ctx) : (c.portsOn).eo = c.eo := rfl
@[simp] theorem portsOn_wo (c : Ctx) : (c.portsOn).wo = c.wo := rfl
@[simp] theorem portsOn_vtype (c : Ctx) : (c.portsOn).vtype = c.vtype := rfl
@[simp] theorem portsOn_vround (c : Ctx) : (c.portsOn).vround = c.vround := rfl
@[simp] theorem portsOn_vflags (c : Ctx) : (c.portsOn).vflags = c.vflags := rfl
@[simp] theorem portsOn_vmask (c : Ctx) : (c.portsOn).vmask = c.vmask := rfl
@[simp] theorem portsOn_vprog (c : Ctx) : (c.portsOn).vprog = c.vprog := rfl
@[simp] theorem portsOn_repcnt (c : Ctx) : (c.portsOn).repcnt = c.repcnt := rfl
@[simp] theorem portsOn_qscale (c : Ctx) : (c.portsOn).qscale = c.qscale := rfl
@[simp] theorem portsOn_acscale (c : Ctx) : (c.portsOn).acscale = c.acscale := rfl
@[simp] theorem portsOn_lastjob (c : Ctx) : (c.portsOn).lastjob = c.lastjob := rfl
@[simp] theorem portsOn_rstep (c : Ctx) : (c.portsOn).rstep = c.rstep := rfl
@[simp] theorem portsOn_budget (c : Ctx) : (c.portsOn).budget = c.budget := rfl
@[simp] theorem portsOn_deadline (c : Ctx) : (c.portsOn).deadline = c.deadline := rfl
@[simp] theorem portsOn_prio (c : Ctx) : (c.portsOn).prio = c.prio := rfl
@[simp] theorem portsOn_sliceid (c : Ctx) : (c.portsOn).sliceid = c.sliceid := rfl
@[simp] theorem portsOn_tagrdy (c : Ctx) : (c.portsOn).tagrdy = c.tagrdy := rfl
@[simp] theorem portsOn_tagrank (c : Ctx) : (c.portsOn).tagrank = c.tagrank := rfl
@[simp] theorem portsOn_gangpos (c : Ctx) : (c.portsOn).gangpos = c.gangpos := rfl
@[simp] theorem portsOn_peers (c : Ctx) : (c.portsOn).peers = c.peers := rfl
@[simp] theorem portsOn_tvec (c : Ctx) : (c.portsOn).tvec = c.tvec := rfl
@[simp] theorem portsOn_tcause (c : Ctx) : (c.portsOn).tcause = c.tcause := rfl
@[simp] theorem portsOn_tval (c : Ctx) : (c.portsOn).tval = c.tval := rfl
@[simp] theorem portsOn_tpc (c : Ctx) : (c.portsOn).tpc = c.tpc := rfl
@[simp] theorem portsOn_tstat (c : Ctx) : (c.portsOn).tstat = c.tstat := rfl
@[simp] theorem portsOn_stepctl (c : Ctx) : (c.portsOn).stepctl = c.stepctl := rfl
@[simp] theorem portsOn_obls (c : Ctx) : (c.portsOn).obls = c.obls := rfl
@[simp] theorem portsOn_sticky (c : Ctx) : (c.portsOn).sticky = c.sticky := rfl
@[simp] theorem portsOn_outstanding (c : Ctx) : (c.portsOn).outstanding = c.outstanding := rfl
@[simp] theorem portsOn_rep (c : Ctx) : (c.portsOn).rep = c.rep := rfl
@[simp] theorem portsOn_issued (c : Ctx) : (c.portsOn).issued = c.issued := rfl
@[simp] theorem portsOn_grace (c : Ctx) : (c.portsOn).grace = c.grace := rfl
@[simp] theorem portsOn_remoteDue (c : Ctx) : (c.portsOn).remoteDue = c.remoteDue := rfl
@[simp] theorem portsOn_watchDue (c : Ctx) : (c.portsOn).watchDue = c.watchDue := rfl
@[simp] theorem portsOn_watchMet (c : Ctx) : (c.portsOn).watchMet = c.watchMet := rfl
@[simp] theorem portsOn_arriveDue (c : Ctx) : (c.portsOn).arriveDue = c.arriveDue := rfl
@[simp] theorem portsOn_ringTrap (c : Ctx) : (c.portsOn).ringTrap = c.ringTrap := rfl
@[simp] theorem portsOn_badRegs (c : Ctx) : (c.portsOn).badRegs = c.badRegs := rfl
@[simp] theorem portsOn_late (c : Ctx) : (c.portsOn).late = c.late := rfl
@[simp] theorem portsOn_skid (c : Ctx) : (c.portsOn).skid = c.skid := rfl
@[simp] theorem portsOn_result (c : Ctx) : (c.portsOn).result = c.result := rfl
@[simp] theorem portsOn_access (c : Ctx) : (c.portsOn).access = c.access := rfl
@[simp] theorem portsOn_accessVa (c : Ctx) : (c.portsOn).accessVa = c.accessVa := rfl
@[simp] theorem portsOn_dest (c : Ctx) : (c.portsOn).dest = c.dest := rfl
@[simp] theorem portsOn_len (c : Ctx) : (c.portsOn).len = c.len := rfl

/-! `advance`. -/

theorem advance_shape (c : Ctx) (x : Word) : ∃ x0 x1, c.advance x = { c with lc := x0, pc := x1 } := by
  unfold Ctx.advance; repeat' split
  all_goals exact ⟨_, _, rfl⟩

@[simp] theorem advance_kind (c : Ctx) (x : Word) : (c.advance x).kind = c.kind := by
  obtain ⟨_, _, h⟩ := advance_shape c x; rw [h]
@[simp] theorem advance_coreid (c : Ctx) (x : Word) : (c.advance x).coreid = c.coreid := by
  obtain ⟨_, _, h⟩ := advance_shape c x; rw [h]
@[simp] theorem advance_mode (c : Ctx) (x : Word) : (c.advance x).mode = c.mode := by
  obtain ⟨_, _, h⟩ := advance_shape c x; rw [h]
@[simp] theorem advance_s (c : Ctx) (x : Word) : (c.advance x).s = c.s := by
  obtain ⟨_, _, h⟩ := advance_shape c x; rw [h]
@[simp] theorem advance_k (c : Ctx) (x : Word) : (c.advance x).k = c.k := by
  obtain ⟨_, _, h⟩ := advance_shape c x; rw [h]
@[simp] theorem advance_v (c : Ctx) (x : Word) : (c.advance x).v = c.v := by
  obtain ⟨_, _, h⟩ := advance_shape c x; rw [h]
@[simp] theorem advance_q (c : Ctx) (x : Word) : (c.advance x).q = c.q := by
  obtain ⟨_, _, h⟩ := advance_shape c x; rw [h]
@[simp] theorem advance_h (c : Ctx) (x : Word) : (c.advance x).h = c.h := by
  obtain ⟨_, _, h⟩ := advance_shape c x; rw [h]
@[simp] theorem advance_lbeg (c : Ctx) (x : Word) : (c.advance x).lbeg = c.lbeg := by
  obtain ⟨_, _, h⟩ := advance_shape c x; rw [h]
@[simp] theorem advance_lend (c : Ctx) (x : Word) : (c.advance x).lend = c.lend := by
  obtain ⟨_, _, h⟩ := advance_shape c x; rw [h]
@[simp] theorem advance_eo (c : Ctx) (x : Word) : (c.advance x).eo = c.eo := by
  obtain ⟨_, _, h⟩ := advance_shape c x; rw [h]
@[simp] theorem advance_wo (c : Ctx) (x : Word) : (c.advance x).wo = c.wo := by
  obtain ⟨_, _, h⟩ := advance_shape c x; rw [h]
@[simp] theorem advance_eoPrev (c : Ctx) (x : Word) : (c.advance x).eoPrev = c.eoPrev := by
  obtain ⟨_, _, h⟩ := advance_shape c x; rw [h]
@[simp] theorem advance_woPrev (c : Ctx) (x : Word) : (c.advance x).woPrev = c.woPrev := by
  obtain ⟨_, _, h⟩ := advance_shape c x; rw [h]
@[simp] theorem advance_eoMark (c : Ctx) (x : Word) : (c.advance x).eoMark = c.eoMark := by
  obtain ⟨_, _, h⟩ := advance_shape c x; rw [h]
@[simp] theorem advance_woMark (c : Ctx) (x : Word) : (c.advance x).woMark = c.woMark := by
  obtain ⟨_, _, h⟩ := advance_shape c x; rw [h]
@[simp] theorem advance_eoOld (c : Ctx) (x : Word) : (c.advance x).eoOld = c.eoOld := by
  obtain ⟨_, _, h⟩ := advance_shape c x; rw [h]
@[simp] theorem advance_woOld (c : Ctx) (x : Word) : (c.advance x).woOld = c.woOld := by
  obtain ⟨_, _, h⟩ := advance_shape c x; rw [h]
@[simp] theorem advance_vtype (c : Ctx) (x : Word) : (c.advance x).vtype = c.vtype := by
  obtain ⟨_, _, h⟩ := advance_shape c x; rw [h]
@[simp] theorem advance_vround (c : Ctx) (x : Word) : (c.advance x).vround = c.vround := by
  obtain ⟨_, _, h⟩ := advance_shape c x; rw [h]
@[simp] theorem advance_vflags (c : Ctx) (x : Word) : (c.advance x).vflags = c.vflags := by
  obtain ⟨_, _, h⟩ := advance_shape c x; rw [h]
@[simp] theorem advance_vmask (c : Ctx) (x : Word) : (c.advance x).vmask = c.vmask := by
  obtain ⟨_, _, h⟩ := advance_shape c x; rw [h]
@[simp] theorem advance_vprog (c : Ctx) (x : Word) : (c.advance x).vprog = c.vprog := by
  obtain ⟨_, _, h⟩ := advance_shape c x; rw [h]
@[simp] theorem advance_repcnt (c : Ctx) (x : Word) : (c.advance x).repcnt = c.repcnt := by
  obtain ⟨_, _, h⟩ := advance_shape c x; rw [h]
@[simp] theorem advance_qscale (c : Ctx) (x : Word) : (c.advance x).qscale = c.qscale := by
  obtain ⟨_, _, h⟩ := advance_shape c x; rw [h]
@[simp] theorem advance_acscale (c : Ctx) (x : Word) : (c.advance x).acscale = c.acscale := by
  obtain ⟨_, _, h⟩ := advance_shape c x; rw [h]
@[simp] theorem advance_lastjob (c : Ctx) (x : Word) : (c.advance x).lastjob = c.lastjob := by
  obtain ⟨_, _, h⟩ := advance_shape c x; rw [h]
@[simp] theorem advance_rstep (c : Ctx) (x : Word) : (c.advance x).rstep = c.rstep := by
  obtain ⟨_, _, h⟩ := advance_shape c x; rw [h]
@[simp] theorem advance_budget (c : Ctx) (x : Word) : (c.advance x).budget = c.budget := by
  obtain ⟨_, _, h⟩ := advance_shape c x; rw [h]
@[simp] theorem advance_deadline (c : Ctx) (x : Word) : (c.advance x).deadline = c.deadline := by
  obtain ⟨_, _, h⟩ := advance_shape c x; rw [h]
@[simp] theorem advance_prio (c : Ctx) (x : Word) : (c.advance x).prio = c.prio := by
  obtain ⟨_, _, h⟩ := advance_shape c x; rw [h]
@[simp] theorem advance_sliceid (c : Ctx) (x : Word) : (c.advance x).sliceid = c.sliceid := by
  obtain ⟨_, _, h⟩ := advance_shape c x; rw [h]
@[simp] theorem advance_tagrdy (c : Ctx) (x : Word) : (c.advance x).tagrdy = c.tagrdy := by
  obtain ⟨_, _, h⟩ := advance_shape c x; rw [h]
@[simp] theorem advance_tagrank (c : Ctx) (x : Word) : (c.advance x).tagrank = c.tagrank := by
  obtain ⟨_, _, h⟩ := advance_shape c x; rw [h]
@[simp] theorem advance_gangpos (c : Ctx) (x : Word) : (c.advance x).gangpos = c.gangpos := by
  obtain ⟨_, _, h⟩ := advance_shape c x; rw [h]
@[simp] theorem advance_peers (c : Ctx) (x : Word) : (c.advance x).peers = c.peers := by
  obtain ⟨_, _, h⟩ := advance_shape c x; rw [h]
@[simp] theorem advance_tvec (c : Ctx) (x : Word) : (c.advance x).tvec = c.tvec := by
  obtain ⟨_, _, h⟩ := advance_shape c x; rw [h]
@[simp] theorem advance_tcause (c : Ctx) (x : Word) : (c.advance x).tcause = c.tcause := by
  obtain ⟨_, _, h⟩ := advance_shape c x; rw [h]
@[simp] theorem advance_tval (c : Ctx) (x : Word) : (c.advance x).tval = c.tval := by
  obtain ⟨_, _, h⟩ := advance_shape c x; rw [h]
@[simp] theorem advance_tpc (c : Ctx) (x : Word) : (c.advance x).tpc = c.tpc := by
  obtain ⟨_, _, h⟩ := advance_shape c x; rw [h]
@[simp] theorem advance_tstat (c : Ctx) (x : Word) : (c.advance x).tstat = c.tstat := by
  obtain ⟨_, _, h⟩ := advance_shape c x; rw [h]
@[simp] theorem advance_stepctl (c : Ctx) (x : Word) : (c.advance x).stepctl = c.stepctl := by
  obtain ⟨_, _, h⟩ := advance_shape c x; rw [h]
@[simp] theorem advance_obls (c : Ctx) (x : Word) : (c.advance x).obls = c.obls := by
  obtain ⟨_, _, h⟩ := advance_shape c x; rw [h]
@[simp] theorem advance_sticky (c : Ctx) (x : Word) : (c.advance x).sticky = c.sticky := by
  obtain ⟨_, _, h⟩ := advance_shape c x; rw [h]
@[simp] theorem advance_outstanding (c : Ctx) (x : Word) : (c.advance x).outstanding = c.outstanding := by
  obtain ⟨_, _, h⟩ := advance_shape c x; rw [h]
@[simp] theorem advance_rep (c : Ctx) (x : Word) : (c.advance x).rep = c.rep := by
  obtain ⟨_, _, h⟩ := advance_shape c x; rw [h]
@[simp] theorem advance_issued (c : Ctx) (x : Word) : (c.advance x).issued = c.issued := by
  obtain ⟨_, _, h⟩ := advance_shape c x; rw [h]
@[simp] theorem advance_grace (c : Ctx) (x : Word) : (c.advance x).grace = c.grace := by
  obtain ⟨_, _, h⟩ := advance_shape c x; rw [h]
@[simp] theorem advance_remoteDue (c : Ctx) (x : Word) : (c.advance x).remoteDue = c.remoteDue := by
  obtain ⟨_, _, h⟩ := advance_shape c x; rw [h]
@[simp] theorem advance_watchDue (c : Ctx) (x : Word) : (c.advance x).watchDue = c.watchDue := by
  obtain ⟨_, _, h⟩ := advance_shape c x; rw [h]
@[simp] theorem advance_watchMet (c : Ctx) (x : Word) : (c.advance x).watchMet = c.watchMet := by
  obtain ⟨_, _, h⟩ := advance_shape c x; rw [h]
@[simp] theorem advance_arriveDue (c : Ctx) (x : Word) : (c.advance x).arriveDue = c.arriveDue := by
  obtain ⟨_, _, h⟩ := advance_shape c x; rw [h]
@[simp] theorem advance_ringTrap (c : Ctx) (x : Word) : (c.advance x).ringTrap = c.ringTrap := by
  obtain ⟨_, _, h⟩ := advance_shape c x; rw [h]
@[simp] theorem advance_badRegs (c : Ctx) (x : Word) : (c.advance x).badRegs = c.badRegs := by
  obtain ⟨_, _, h⟩ := advance_shape c x; rw [h]
@[simp] theorem advance_late (c : Ctx) (x : Word) : (c.advance x).late = c.late := by
  obtain ⟨_, _, h⟩ := advance_shape c x; rw [h]
@[simp] theorem advance_skid (c : Ctx) (x : Word) : (c.advance x).skid = c.skid := by
  obtain ⟨_, _, h⟩ := advance_shape c x; rw [h]
@[simp] theorem advance_result (c : Ctx) (x : Word) : (c.advance x).result = c.result := by
  obtain ⟨_, _, h⟩ := advance_shape c x; rw [h]
@[simp] theorem advance_access (c : Ctx) (x : Word) : (c.advance x).access = c.access := by
  obtain ⟨_, _, h⟩ := advance_shape c x; rw [h]
@[simp] theorem advance_accessVa (c : Ctx) (x : Word) : (c.advance x).accessVa = c.accessVa := by
  obtain ⟨_, _, h⟩ := advance_shape c x; rw [h]
@[simp] theorem advance_dest (c : Ctx) (x : Word) : (c.advance x).dest = c.dest := by
  obtain ⟨_, _, h⟩ := advance_shape c x; rw [h]
@[simp] theorem advance_len (c : Ctx) (x : Word) : (c.advance x).len = c.len := by
  obtain ⟨_, _, h⟩ := advance_shape c x; rw [h]

/-! `writeDest`. -/

theorem writeDest_shape (c : Ctx) (d : Nat) (v : Word) : ∃ x0 x1 x2 x3 x4 x5 x6 x7 x8 x9, c.writeDest d v = { c with s := x0, badRegs := x1, eo := x2, eoPrev := x3, eoMark := x4, eoOld := x5, wo := x6, woPrev := x7, woMark := x8, woOld := x9 } := by
  unfold Ctx.writeDest; repeat' split
  all_goals exact ⟨_, _, _, _, _, _, _, _, _, _, rfl⟩

@[simp] theorem writeDest_kind (c : Ctx) (d : Nat) (v : Word) : (c.writeDest d v).kind = c.kind := by
  obtain ⟨_, _, _, _, _, _, _, _, _, _, h⟩ := writeDest_shape c d v; rw [h]
@[simp] theorem writeDest_coreid (c : Ctx) (d : Nat) (v : Word) : (c.writeDest d v).coreid = c.coreid := by
  obtain ⟨_, _, _, _, _, _, _, _, _, _, h⟩ := writeDest_shape c d v; rw [h]
@[simp] theorem writeDest_mode (c : Ctx) (d : Nat) (v : Word) : (c.writeDest d v).mode = c.mode := by
  obtain ⟨_, _, _, _, _, _, _, _, _, _, h⟩ := writeDest_shape c d v; rw [h]
@[simp] theorem writeDest_pc (c : Ctx) (d : Nat) (v : Word) : (c.writeDest d v).pc = c.pc := by
  obtain ⟨_, _, _, _, _, _, _, _, _, _, h⟩ := writeDest_shape c d v; rw [h]
@[simp] theorem writeDest_k (c : Ctx) (d : Nat) (v : Word) : (c.writeDest d v).k = c.k := by
  obtain ⟨_, _, _, _, _, _, _, _, _, _, h⟩ := writeDest_shape c d v; rw [h]
@[simp] theorem writeDest_v (c : Ctx) (d : Nat) (v : Word) : (c.writeDest d v).v = c.v := by
  obtain ⟨_, _, _, _, _, _, _, _, _, _, h⟩ := writeDest_shape c d v; rw [h]
@[simp] theorem writeDest_q (c : Ctx) (d : Nat) (v : Word) : (c.writeDest d v).q = c.q := by
  obtain ⟨_, _, _, _, _, _, _, _, _, _, h⟩ := writeDest_shape c d v; rw [h]
@[simp] theorem writeDest_h (c : Ctx) (d : Nat) (v : Word) : (c.writeDest d v).h = c.h := by
  obtain ⟨_, _, _, _, _, _, _, _, _, _, h⟩ := writeDest_shape c d v; rw [h]
@[simp] theorem writeDest_lc (c : Ctx) (d : Nat) (v : Word) : (c.writeDest d v).lc = c.lc := by
  obtain ⟨_, _, _, _, _, _, _, _, _, _, h⟩ := writeDest_shape c d v; rw [h]
@[simp] theorem writeDest_lbeg (c : Ctx) (d : Nat) (v : Word) : (c.writeDest d v).lbeg = c.lbeg := by
  obtain ⟨_, _, _, _, _, _, _, _, _, _, h⟩ := writeDest_shape c d v; rw [h]
@[simp] theorem writeDest_lend (c : Ctx) (d : Nat) (v : Word) : (c.writeDest d v).lend = c.lend := by
  obtain ⟨_, _, _, _, _, _, _, _, _, _, h⟩ := writeDest_shape c d v; rw [h]
@[simp] theorem writeDest_vtype (c : Ctx) (d : Nat) (v : Word) : (c.writeDest d v).vtype = c.vtype := by
  obtain ⟨_, _, _, _, _, _, _, _, _, _, h⟩ := writeDest_shape c d v; rw [h]
@[simp] theorem writeDest_vround (c : Ctx) (d : Nat) (v : Word) : (c.writeDest d v).vround = c.vround := by
  obtain ⟨_, _, _, _, _, _, _, _, _, _, h⟩ := writeDest_shape c d v; rw [h]
@[simp] theorem writeDest_vflags (c : Ctx) (d : Nat) (v : Word) : (c.writeDest d v).vflags = c.vflags := by
  obtain ⟨_, _, _, _, _, _, _, _, _, _, h⟩ := writeDest_shape c d v; rw [h]
@[simp] theorem writeDest_vmask (c : Ctx) (d : Nat) (v : Word) : (c.writeDest d v).vmask = c.vmask := by
  obtain ⟨_, _, _, _, _, _, _, _, _, _, h⟩ := writeDest_shape c d v; rw [h]
@[simp] theorem writeDest_vprog (c : Ctx) (d : Nat) (v : Word) : (c.writeDest d v).vprog = c.vprog := by
  obtain ⟨_, _, _, _, _, _, _, _, _, _, h⟩ := writeDest_shape c d v; rw [h]
@[simp] theorem writeDest_repcnt (c : Ctx) (d : Nat) (v : Word) : (c.writeDest d v).repcnt = c.repcnt := by
  obtain ⟨_, _, _, _, _, _, _, _, _, _, h⟩ := writeDest_shape c d v; rw [h]
@[simp] theorem writeDest_qscale (c : Ctx) (d : Nat) (v : Word) : (c.writeDest d v).qscale = c.qscale := by
  obtain ⟨_, _, _, _, _, _, _, _, _, _, h⟩ := writeDest_shape c d v; rw [h]
@[simp] theorem writeDest_acscale (c : Ctx) (d : Nat) (v : Word) : (c.writeDest d v).acscale = c.acscale := by
  obtain ⟨_, _, _, _, _, _, _, _, _, _, h⟩ := writeDest_shape c d v; rw [h]
@[simp] theorem writeDest_lastjob (c : Ctx) (d : Nat) (v : Word) : (c.writeDest d v).lastjob = c.lastjob := by
  obtain ⟨_, _, _, _, _, _, _, _, _, _, h⟩ := writeDest_shape c d v; rw [h]
@[simp] theorem writeDest_rstep (c : Ctx) (d : Nat) (v : Word) : (c.writeDest d v).rstep = c.rstep := by
  obtain ⟨_, _, _, _, _, _, _, _, _, _, h⟩ := writeDest_shape c d v; rw [h]
@[simp] theorem writeDest_budget (c : Ctx) (d : Nat) (v : Word) : (c.writeDest d v).budget = c.budget := by
  obtain ⟨_, _, _, _, _, _, _, _, _, _, h⟩ := writeDest_shape c d v; rw [h]
@[simp] theorem writeDest_deadline (c : Ctx) (d : Nat) (v : Word) : (c.writeDest d v).deadline = c.deadline := by
  obtain ⟨_, _, _, _, _, _, _, _, _, _, h⟩ := writeDest_shape c d v; rw [h]
@[simp] theorem writeDest_prio (c : Ctx) (d : Nat) (v : Word) : (c.writeDest d v).prio = c.prio := by
  obtain ⟨_, _, _, _, _, _, _, _, _, _, h⟩ := writeDest_shape c d v; rw [h]
@[simp] theorem writeDest_sliceid (c : Ctx) (d : Nat) (v : Word) : (c.writeDest d v).sliceid = c.sliceid := by
  obtain ⟨_, _, _, _, _, _, _, _, _, _, h⟩ := writeDest_shape c d v; rw [h]
@[simp] theorem writeDest_tagrdy (c : Ctx) (d : Nat) (v : Word) : (c.writeDest d v).tagrdy = c.tagrdy := by
  obtain ⟨_, _, _, _, _, _, _, _, _, _, h⟩ := writeDest_shape c d v; rw [h]
@[simp] theorem writeDest_tagrank (c : Ctx) (d : Nat) (v : Word) : (c.writeDest d v).tagrank = c.tagrank := by
  obtain ⟨_, _, _, _, _, _, _, _, _, _, h⟩ := writeDest_shape c d v; rw [h]
@[simp] theorem writeDest_gangpos (c : Ctx) (d : Nat) (v : Word) : (c.writeDest d v).gangpos = c.gangpos := by
  obtain ⟨_, _, _, _, _, _, _, _, _, _, h⟩ := writeDest_shape c d v; rw [h]
@[simp] theorem writeDest_peers (c : Ctx) (d : Nat) (v : Word) : (c.writeDest d v).peers = c.peers := by
  obtain ⟨_, _, _, _, _, _, _, _, _, _, h⟩ := writeDest_shape c d v; rw [h]
@[simp] theorem writeDest_tvec (c : Ctx) (d : Nat) (v : Word) : (c.writeDest d v).tvec = c.tvec := by
  obtain ⟨_, _, _, _, _, _, _, _, _, _, h⟩ := writeDest_shape c d v; rw [h]
@[simp] theorem writeDest_tcause (c : Ctx) (d : Nat) (v : Word) : (c.writeDest d v).tcause = c.tcause := by
  obtain ⟨_, _, _, _, _, _, _, _, _, _, h⟩ := writeDest_shape c d v; rw [h]
@[simp] theorem writeDest_tval (c : Ctx) (d : Nat) (v : Word) : (c.writeDest d v).tval = c.tval := by
  obtain ⟨_, _, _, _, _, _, _, _, _, _, h⟩ := writeDest_shape c d v; rw [h]
@[simp] theorem writeDest_tpc (c : Ctx) (d : Nat) (v : Word) : (c.writeDest d v).tpc = c.tpc := by
  obtain ⟨_, _, _, _, _, _, _, _, _, _, h⟩ := writeDest_shape c d v; rw [h]
@[simp] theorem writeDest_tstat (c : Ctx) (d : Nat) (v : Word) : (c.writeDest d v).tstat = c.tstat := by
  obtain ⟨_, _, _, _, _, _, _, _, _, _, h⟩ := writeDest_shape c d v; rw [h]
@[simp] theorem writeDest_stepctl (c : Ctx) (d : Nat) (v : Word) : (c.writeDest d v).stepctl = c.stepctl := by
  obtain ⟨_, _, _, _, _, _, _, _, _, _, h⟩ := writeDest_shape c d v; rw [h]
@[simp] theorem writeDest_obls (c : Ctx) (d : Nat) (v : Word) : (c.writeDest d v).obls = c.obls := by
  obtain ⟨_, _, _, _, _, _, _, _, _, _, h⟩ := writeDest_shape c d v; rw [h]
@[simp] theorem writeDest_sticky (c : Ctx) (d : Nat) (v : Word) : (c.writeDest d v).sticky = c.sticky := by
  obtain ⟨_, _, _, _, _, _, _, _, _, _, h⟩ := writeDest_shape c d v; rw [h]
@[simp] theorem writeDest_outstanding (c : Ctx) (d : Nat) (v : Word) : (c.writeDest d v).outstanding = c.outstanding := by
  obtain ⟨_, _, _, _, _, _, _, _, _, _, h⟩ := writeDest_shape c d v; rw [h]
@[simp] theorem writeDest_rep (c : Ctx) (d : Nat) (v : Word) : (c.writeDest d v).rep = c.rep := by
  obtain ⟨_, _, _, _, _, _, _, _, _, _, h⟩ := writeDest_shape c d v; rw [h]
@[simp] theorem writeDest_issued (c : Ctx) (d : Nat) (v : Word) : (c.writeDest d v).issued = c.issued := by
  obtain ⟨_, _, _, _, _, _, _, _, _, _, h⟩ := writeDest_shape c d v; rw [h]
@[simp] theorem writeDest_grace (c : Ctx) (d : Nat) (v : Word) : (c.writeDest d v).grace = c.grace := by
  obtain ⟨_, _, _, _, _, _, _, _, _, _, h⟩ := writeDest_shape c d v; rw [h]
@[simp] theorem writeDest_remoteDue (c : Ctx) (d : Nat) (v : Word) : (c.writeDest d v).remoteDue = c.remoteDue := by
  obtain ⟨_, _, _, _, _, _, _, _, _, _, h⟩ := writeDest_shape c d v; rw [h]
@[simp] theorem writeDest_watchDue (c : Ctx) (d : Nat) (v : Word) : (c.writeDest d v).watchDue = c.watchDue := by
  obtain ⟨_, _, _, _, _, _, _, _, _, _, h⟩ := writeDest_shape c d v; rw [h]
@[simp] theorem writeDest_watchMet (c : Ctx) (d : Nat) (v : Word) : (c.writeDest d v).watchMet = c.watchMet := by
  obtain ⟨_, _, _, _, _, _, _, _, _, _, h⟩ := writeDest_shape c d v; rw [h]
@[simp] theorem writeDest_arriveDue (c : Ctx) (d : Nat) (v : Word) : (c.writeDest d v).arriveDue = c.arriveDue := by
  obtain ⟨_, _, _, _, _, _, _, _, _, _, h⟩ := writeDest_shape c d v; rw [h]
@[simp] theorem writeDest_ringTrap (c : Ctx) (d : Nat) (v : Word) : (c.writeDest d v).ringTrap = c.ringTrap := by
  obtain ⟨_, _, _, _, _, _, _, _, _, _, h⟩ := writeDest_shape c d v; rw [h]
@[simp] theorem writeDest_late (c : Ctx) (d : Nat) (v : Word) : (c.writeDest d v).late = c.late := by
  obtain ⟨_, _, _, _, _, _, _, _, _, _, h⟩ := writeDest_shape c d v; rw [h]
@[simp] theorem writeDest_skid (c : Ctx) (d : Nat) (v : Word) : (c.writeDest d v).skid = c.skid := by
  obtain ⟨_, _, _, _, _, _, _, _, _, _, h⟩ := writeDest_shape c d v; rw [h]
@[simp] theorem writeDest_result (c : Ctx) (d : Nat) (v : Word) : (c.writeDest d v).result = c.result := by
  obtain ⟨_, _, _, _, _, _, _, _, _, _, h⟩ := writeDest_shape c d v; rw [h]
@[simp] theorem writeDest_access (c : Ctx) (d : Nat) (v : Word) : (c.writeDest d v).access = c.access := by
  obtain ⟨_, _, _, _, _, _, _, _, _, _, h⟩ := writeDest_shape c d v; rw [h]
@[simp] theorem writeDest_accessVa (c : Ctx) (d : Nat) (v : Word) : (c.writeDest d v).accessVa = c.accessVa := by
  obtain ⟨_, _, _, _, _, _, _, _, _, _, h⟩ := writeDest_shape c d v; rw [h]
@[simp] theorem writeDest_dest (c : Ctx) (d : Nat) (v : Word) : (c.writeDest d v).dest = c.dest := by
  obtain ⟨_, _, _, _, _, _, _, _, _, _, h⟩ := writeDest_shape c d v; rw [h]
@[simp] theorem writeDest_len (c : Ctx) (d : Nat) (v : Word) : (c.writeDest d v).len = c.len := by
  obtain ⟨_, _, _, _, _, _, _, _, _, _, h⟩ := writeDest_shape c d v; rw [h]

/-! `writeK`. -/

theorem writeK_shape (c : Ctx) (n : Nat) (v : Word) : ∃ x0 x1, c.writeK n v = { c with k := x0, badRegs := x1 } := by
  unfold Ctx.writeK; repeat' split
  all_goals exact ⟨_, _, rfl⟩

@[simp] theorem writeK_kind (c : Ctx) (n : Nat) (v : Word) : (c.writeK n v).kind = c.kind := by
  obtain ⟨_, _, h⟩ := writeK_shape c n v; rw [h]
@[simp] theorem writeK_coreid (c : Ctx) (n : Nat) (v : Word) : (c.writeK n v).coreid = c.coreid := by
  obtain ⟨_, _, h⟩ := writeK_shape c n v; rw [h]
@[simp] theorem writeK_mode (c : Ctx) (n : Nat) (v : Word) : (c.writeK n v).mode = c.mode := by
  obtain ⟨_, _, h⟩ := writeK_shape c n v; rw [h]
@[simp] theorem writeK_pc (c : Ctx) (n : Nat) (v : Word) : (c.writeK n v).pc = c.pc := by
  obtain ⟨_, _, h⟩ := writeK_shape c n v; rw [h]
@[simp] theorem writeK_s (c : Ctx) (n : Nat) (v : Word) : (c.writeK n v).s = c.s := by
  obtain ⟨_, _, h⟩ := writeK_shape c n v; rw [h]
@[simp] theorem writeK_v (c : Ctx) (n : Nat) (v : Word) : (c.writeK n v).v = c.v := by
  obtain ⟨_, _, h⟩ := writeK_shape c n v; rw [h]
@[simp] theorem writeK_q (c : Ctx) (n : Nat) (v : Word) : (c.writeK n v).q = c.q := by
  obtain ⟨_, _, h⟩ := writeK_shape c n v; rw [h]
@[simp] theorem writeK_h (c : Ctx) (n : Nat) (v : Word) : (c.writeK n v).h = c.h := by
  obtain ⟨_, _, h⟩ := writeK_shape c n v; rw [h]
@[simp] theorem writeK_lc (c : Ctx) (n : Nat) (v : Word) : (c.writeK n v).lc = c.lc := by
  obtain ⟨_, _, h⟩ := writeK_shape c n v; rw [h]
@[simp] theorem writeK_lbeg (c : Ctx) (n : Nat) (v : Word) : (c.writeK n v).lbeg = c.lbeg := by
  obtain ⟨_, _, h⟩ := writeK_shape c n v; rw [h]
@[simp] theorem writeK_lend (c : Ctx) (n : Nat) (v : Word) : (c.writeK n v).lend = c.lend := by
  obtain ⟨_, _, h⟩ := writeK_shape c n v; rw [h]
@[simp] theorem writeK_eo (c : Ctx) (n : Nat) (v : Word) : (c.writeK n v).eo = c.eo := by
  obtain ⟨_, _, h⟩ := writeK_shape c n v; rw [h]
@[simp] theorem writeK_wo (c : Ctx) (n : Nat) (v : Word) : (c.writeK n v).wo = c.wo := by
  obtain ⟨_, _, h⟩ := writeK_shape c n v; rw [h]
@[simp] theorem writeK_eoPrev (c : Ctx) (n : Nat) (v : Word) : (c.writeK n v).eoPrev = c.eoPrev := by
  obtain ⟨_, _, h⟩ := writeK_shape c n v; rw [h]
@[simp] theorem writeK_woPrev (c : Ctx) (n : Nat) (v : Word) : (c.writeK n v).woPrev = c.woPrev := by
  obtain ⟨_, _, h⟩ := writeK_shape c n v; rw [h]
@[simp] theorem writeK_eoMark (c : Ctx) (n : Nat) (v : Word) : (c.writeK n v).eoMark = c.eoMark := by
  obtain ⟨_, _, h⟩ := writeK_shape c n v; rw [h]
@[simp] theorem writeK_woMark (c : Ctx) (n : Nat) (v : Word) : (c.writeK n v).woMark = c.woMark := by
  obtain ⟨_, _, h⟩ := writeK_shape c n v; rw [h]
@[simp] theorem writeK_eoOld (c : Ctx) (n : Nat) (v : Word) : (c.writeK n v).eoOld = c.eoOld := by
  obtain ⟨_, _, h⟩ := writeK_shape c n v; rw [h]
@[simp] theorem writeK_woOld (c : Ctx) (n : Nat) (v : Word) : (c.writeK n v).woOld = c.woOld := by
  obtain ⟨_, _, h⟩ := writeK_shape c n v; rw [h]
@[simp] theorem writeK_vtype (c : Ctx) (n : Nat) (v : Word) : (c.writeK n v).vtype = c.vtype := by
  obtain ⟨_, _, h⟩ := writeK_shape c n v; rw [h]
@[simp] theorem writeK_vround (c : Ctx) (n : Nat) (v : Word) : (c.writeK n v).vround = c.vround := by
  obtain ⟨_, _, h⟩ := writeK_shape c n v; rw [h]
@[simp] theorem writeK_vflags (c : Ctx) (n : Nat) (v : Word) : (c.writeK n v).vflags = c.vflags := by
  obtain ⟨_, _, h⟩ := writeK_shape c n v; rw [h]
@[simp] theorem writeK_vmask (c : Ctx) (n : Nat) (v : Word) : (c.writeK n v).vmask = c.vmask := by
  obtain ⟨_, _, h⟩ := writeK_shape c n v; rw [h]
@[simp] theorem writeK_vprog (c : Ctx) (n : Nat) (v : Word) : (c.writeK n v).vprog = c.vprog := by
  obtain ⟨_, _, h⟩ := writeK_shape c n v; rw [h]
@[simp] theorem writeK_repcnt (c : Ctx) (n : Nat) (v : Word) : (c.writeK n v).repcnt = c.repcnt := by
  obtain ⟨_, _, h⟩ := writeK_shape c n v; rw [h]
@[simp] theorem writeK_qscale (c : Ctx) (n : Nat) (v : Word) : (c.writeK n v).qscale = c.qscale := by
  obtain ⟨_, _, h⟩ := writeK_shape c n v; rw [h]
@[simp] theorem writeK_acscale (c : Ctx) (n : Nat) (v : Word) : (c.writeK n v).acscale = c.acscale := by
  obtain ⟨_, _, h⟩ := writeK_shape c n v; rw [h]
@[simp] theorem writeK_lastjob (c : Ctx) (n : Nat) (v : Word) : (c.writeK n v).lastjob = c.lastjob := by
  obtain ⟨_, _, h⟩ := writeK_shape c n v; rw [h]
@[simp] theorem writeK_rstep (c : Ctx) (n : Nat) (v : Word) : (c.writeK n v).rstep = c.rstep := by
  obtain ⟨_, _, h⟩ := writeK_shape c n v; rw [h]
@[simp] theorem writeK_budget (c : Ctx) (n : Nat) (v : Word) : (c.writeK n v).budget = c.budget := by
  obtain ⟨_, _, h⟩ := writeK_shape c n v; rw [h]
@[simp] theorem writeK_deadline (c : Ctx) (n : Nat) (v : Word) : (c.writeK n v).deadline = c.deadline := by
  obtain ⟨_, _, h⟩ := writeK_shape c n v; rw [h]
@[simp] theorem writeK_prio (c : Ctx) (n : Nat) (v : Word) : (c.writeK n v).prio = c.prio := by
  obtain ⟨_, _, h⟩ := writeK_shape c n v; rw [h]
@[simp] theorem writeK_sliceid (c : Ctx) (n : Nat) (v : Word) : (c.writeK n v).sliceid = c.sliceid := by
  obtain ⟨_, _, h⟩ := writeK_shape c n v; rw [h]
@[simp] theorem writeK_tagrdy (c : Ctx) (n : Nat) (v : Word) : (c.writeK n v).tagrdy = c.tagrdy := by
  obtain ⟨_, _, h⟩ := writeK_shape c n v; rw [h]
@[simp] theorem writeK_tagrank (c : Ctx) (n : Nat) (v : Word) : (c.writeK n v).tagrank = c.tagrank := by
  obtain ⟨_, _, h⟩ := writeK_shape c n v; rw [h]
@[simp] theorem writeK_gangpos (c : Ctx) (n : Nat) (v : Word) : (c.writeK n v).gangpos = c.gangpos := by
  obtain ⟨_, _, h⟩ := writeK_shape c n v; rw [h]
@[simp] theorem writeK_peers (c : Ctx) (n : Nat) (v : Word) : (c.writeK n v).peers = c.peers := by
  obtain ⟨_, _, h⟩ := writeK_shape c n v; rw [h]
@[simp] theorem writeK_tvec (c : Ctx) (n : Nat) (v : Word) : (c.writeK n v).tvec = c.tvec := by
  obtain ⟨_, _, h⟩ := writeK_shape c n v; rw [h]
@[simp] theorem writeK_tcause (c : Ctx) (n : Nat) (v : Word) : (c.writeK n v).tcause = c.tcause := by
  obtain ⟨_, _, h⟩ := writeK_shape c n v; rw [h]
@[simp] theorem writeK_tval (c : Ctx) (n : Nat) (v : Word) : (c.writeK n v).tval = c.tval := by
  obtain ⟨_, _, h⟩ := writeK_shape c n v; rw [h]
@[simp] theorem writeK_tpc (c : Ctx) (n : Nat) (v : Word) : (c.writeK n v).tpc = c.tpc := by
  obtain ⟨_, _, h⟩ := writeK_shape c n v; rw [h]
@[simp] theorem writeK_tstat (c : Ctx) (n : Nat) (v : Word) : (c.writeK n v).tstat = c.tstat := by
  obtain ⟨_, _, h⟩ := writeK_shape c n v; rw [h]
@[simp] theorem writeK_stepctl (c : Ctx) (n : Nat) (v : Word) : (c.writeK n v).stepctl = c.stepctl := by
  obtain ⟨_, _, h⟩ := writeK_shape c n v; rw [h]
@[simp] theorem writeK_obls (c : Ctx) (n : Nat) (v : Word) : (c.writeK n v).obls = c.obls := by
  obtain ⟨_, _, h⟩ := writeK_shape c n v; rw [h]
@[simp] theorem writeK_sticky (c : Ctx) (n : Nat) (v : Word) : (c.writeK n v).sticky = c.sticky := by
  obtain ⟨_, _, h⟩ := writeK_shape c n v; rw [h]
@[simp] theorem writeK_outstanding (c : Ctx) (n : Nat) (v : Word) : (c.writeK n v).outstanding = c.outstanding := by
  obtain ⟨_, _, h⟩ := writeK_shape c n v; rw [h]
@[simp] theorem writeK_rep (c : Ctx) (n : Nat) (v : Word) : (c.writeK n v).rep = c.rep := by
  obtain ⟨_, _, h⟩ := writeK_shape c n v; rw [h]
@[simp] theorem writeK_issued (c : Ctx) (n : Nat) (v : Word) : (c.writeK n v).issued = c.issued := by
  obtain ⟨_, _, h⟩ := writeK_shape c n v; rw [h]
@[simp] theorem writeK_grace (c : Ctx) (n : Nat) (v : Word) : (c.writeK n v).grace = c.grace := by
  obtain ⟨_, _, h⟩ := writeK_shape c n v; rw [h]
@[simp] theorem writeK_remoteDue (c : Ctx) (n : Nat) (v : Word) : (c.writeK n v).remoteDue = c.remoteDue := by
  obtain ⟨_, _, h⟩ := writeK_shape c n v; rw [h]
@[simp] theorem writeK_watchDue (c : Ctx) (n : Nat) (v : Word) : (c.writeK n v).watchDue = c.watchDue := by
  obtain ⟨_, _, h⟩ := writeK_shape c n v; rw [h]
@[simp] theorem writeK_watchMet (c : Ctx) (n : Nat) (v : Word) : (c.writeK n v).watchMet = c.watchMet := by
  obtain ⟨_, _, h⟩ := writeK_shape c n v; rw [h]
@[simp] theorem writeK_arriveDue (c : Ctx) (n : Nat) (v : Word) : (c.writeK n v).arriveDue = c.arriveDue := by
  obtain ⟨_, _, h⟩ := writeK_shape c n v; rw [h]
@[simp] theorem writeK_ringTrap (c : Ctx) (n : Nat) (v : Word) : (c.writeK n v).ringTrap = c.ringTrap := by
  obtain ⟨_, _, h⟩ := writeK_shape c n v; rw [h]
@[simp] theorem writeK_late (c : Ctx) (n : Nat) (v : Word) : (c.writeK n v).late = c.late := by
  obtain ⟨_, _, h⟩ := writeK_shape c n v; rw [h]
@[simp] theorem writeK_skid (c : Ctx) (n : Nat) (v : Word) : (c.writeK n v).skid = c.skid := by
  obtain ⟨_, _, h⟩ := writeK_shape c n v; rw [h]
@[simp] theorem writeK_result (c : Ctx) (n : Nat) (v : Word) : (c.writeK n v).result = c.result := by
  obtain ⟨_, _, h⟩ := writeK_shape c n v; rw [h]
@[simp] theorem writeK_access (c : Ctx) (n : Nat) (v : Word) : (c.writeK n v).access = c.access := by
  obtain ⟨_, _, h⟩ := writeK_shape c n v; rw [h]
@[simp] theorem writeK_accessVa (c : Ctx) (n : Nat) (v : Word) : (c.writeK n v).accessVa = c.accessVa := by
  obtain ⟨_, _, h⟩ := writeK_shape c n v; rw [h]
@[simp] theorem writeK_dest (c : Ctx) (n : Nat) (v : Word) : (c.writeK n v).dest = c.dest := by
  obtain ⟨_, _, h⟩ := writeK_shape c n v; rw [h]
@[simp] theorem writeK_len (c : Ctx) (n : Nat) (v : Word) : (c.writeK n v).len = c.len := by
  obtain ⟨_, _, h⟩ := writeK_shape c n v; rw [h]

/-! `stopRep`. -/

theorem stopRep_shape (c : Ctx) : ∃ x0 x1 x2, c.stopRep = { c with repcnt := x0, rep := x1, issued := x2 } := by
  unfold Ctx.stopRep; repeat' split
  all_goals exact ⟨_, _, _, rfl⟩

@[simp] theorem stopRep_kind (c : Ctx) : (c.stopRep).kind = c.kind := by
  obtain ⟨_, _, _, h⟩ := stopRep_shape c; rw [h]
@[simp] theorem stopRep_coreid (c : Ctx) : (c.stopRep).coreid = c.coreid := by
  obtain ⟨_, _, _, h⟩ := stopRep_shape c; rw [h]
@[simp] theorem stopRep_mode (c : Ctx) : (c.stopRep).mode = c.mode := by
  obtain ⟨_, _, _, h⟩ := stopRep_shape c; rw [h]
@[simp] theorem stopRep_pc (c : Ctx) : (c.stopRep).pc = c.pc := by
  obtain ⟨_, _, _, h⟩ := stopRep_shape c; rw [h]
@[simp] theorem stopRep_s (c : Ctx) : (c.stopRep).s = c.s := by
  obtain ⟨_, _, _, h⟩ := stopRep_shape c; rw [h]
@[simp] theorem stopRep_k (c : Ctx) : (c.stopRep).k = c.k := by
  obtain ⟨_, _, _, h⟩ := stopRep_shape c; rw [h]
@[simp] theorem stopRep_v (c : Ctx) : (c.stopRep).v = c.v := by
  obtain ⟨_, _, _, h⟩ := stopRep_shape c; rw [h]
@[simp] theorem stopRep_q (c : Ctx) : (c.stopRep).q = c.q := by
  obtain ⟨_, _, _, h⟩ := stopRep_shape c; rw [h]
@[simp] theorem stopRep_h (c : Ctx) : (c.stopRep).h = c.h := by
  obtain ⟨_, _, _, h⟩ := stopRep_shape c; rw [h]
@[simp] theorem stopRep_lc (c : Ctx) : (c.stopRep).lc = c.lc := by
  obtain ⟨_, _, _, h⟩ := stopRep_shape c; rw [h]
@[simp] theorem stopRep_lbeg (c : Ctx) : (c.stopRep).lbeg = c.lbeg := by
  obtain ⟨_, _, _, h⟩ := stopRep_shape c; rw [h]
@[simp] theorem stopRep_lend (c : Ctx) : (c.stopRep).lend = c.lend := by
  obtain ⟨_, _, _, h⟩ := stopRep_shape c; rw [h]
@[simp] theorem stopRep_eo (c : Ctx) : (c.stopRep).eo = c.eo := by
  obtain ⟨_, _, _, h⟩ := stopRep_shape c; rw [h]
@[simp] theorem stopRep_wo (c : Ctx) : (c.stopRep).wo = c.wo := by
  obtain ⟨_, _, _, h⟩ := stopRep_shape c; rw [h]
@[simp] theorem stopRep_eoPrev (c : Ctx) : (c.stopRep).eoPrev = c.eoPrev := by
  obtain ⟨_, _, _, h⟩ := stopRep_shape c; rw [h]
@[simp] theorem stopRep_woPrev (c : Ctx) : (c.stopRep).woPrev = c.woPrev := by
  obtain ⟨_, _, _, h⟩ := stopRep_shape c; rw [h]
@[simp] theorem stopRep_eoMark (c : Ctx) : (c.stopRep).eoMark = c.eoMark := by
  obtain ⟨_, _, _, h⟩ := stopRep_shape c; rw [h]
@[simp] theorem stopRep_woMark (c : Ctx) : (c.stopRep).woMark = c.woMark := by
  obtain ⟨_, _, _, h⟩ := stopRep_shape c; rw [h]
@[simp] theorem stopRep_eoOld (c : Ctx) : (c.stopRep).eoOld = c.eoOld := by
  obtain ⟨_, _, _, h⟩ := stopRep_shape c; rw [h]
@[simp] theorem stopRep_woOld (c : Ctx) : (c.stopRep).woOld = c.woOld := by
  obtain ⟨_, _, _, h⟩ := stopRep_shape c; rw [h]
@[simp] theorem stopRep_vtype (c : Ctx) : (c.stopRep).vtype = c.vtype := by
  obtain ⟨_, _, _, h⟩ := stopRep_shape c; rw [h]
@[simp] theorem stopRep_vround (c : Ctx) : (c.stopRep).vround = c.vround := by
  obtain ⟨_, _, _, h⟩ := stopRep_shape c; rw [h]
@[simp] theorem stopRep_vflags (c : Ctx) : (c.stopRep).vflags = c.vflags := by
  obtain ⟨_, _, _, h⟩ := stopRep_shape c; rw [h]
@[simp] theorem stopRep_vmask (c : Ctx) : (c.stopRep).vmask = c.vmask := by
  obtain ⟨_, _, _, h⟩ := stopRep_shape c; rw [h]
@[simp] theorem stopRep_vprog (c : Ctx) : (c.stopRep).vprog = c.vprog := by
  obtain ⟨_, _, _, h⟩ := stopRep_shape c; rw [h]
@[simp] theorem stopRep_qscale (c : Ctx) : (c.stopRep).qscale = c.qscale := by
  obtain ⟨_, _, _, h⟩ := stopRep_shape c; rw [h]
@[simp] theorem stopRep_acscale (c : Ctx) : (c.stopRep).acscale = c.acscale := by
  obtain ⟨_, _, _, h⟩ := stopRep_shape c; rw [h]
@[simp] theorem stopRep_lastjob (c : Ctx) : (c.stopRep).lastjob = c.lastjob := by
  obtain ⟨_, _, _, h⟩ := stopRep_shape c; rw [h]
@[simp] theorem stopRep_rstep (c : Ctx) : (c.stopRep).rstep = c.rstep := by
  obtain ⟨_, _, _, h⟩ := stopRep_shape c; rw [h]
@[simp] theorem stopRep_budget (c : Ctx) : (c.stopRep).budget = c.budget := by
  obtain ⟨_, _, _, h⟩ := stopRep_shape c; rw [h]
@[simp] theorem stopRep_deadline (c : Ctx) : (c.stopRep).deadline = c.deadline := by
  obtain ⟨_, _, _, h⟩ := stopRep_shape c; rw [h]
@[simp] theorem stopRep_prio (c : Ctx) : (c.stopRep).prio = c.prio := by
  obtain ⟨_, _, _, h⟩ := stopRep_shape c; rw [h]
@[simp] theorem stopRep_sliceid (c : Ctx) : (c.stopRep).sliceid = c.sliceid := by
  obtain ⟨_, _, _, h⟩ := stopRep_shape c; rw [h]
@[simp] theorem stopRep_tagrdy (c : Ctx) : (c.stopRep).tagrdy = c.tagrdy := by
  obtain ⟨_, _, _, h⟩ := stopRep_shape c; rw [h]
@[simp] theorem stopRep_tagrank (c : Ctx) : (c.stopRep).tagrank = c.tagrank := by
  obtain ⟨_, _, _, h⟩ := stopRep_shape c; rw [h]
@[simp] theorem stopRep_gangpos (c : Ctx) : (c.stopRep).gangpos = c.gangpos := by
  obtain ⟨_, _, _, h⟩ := stopRep_shape c; rw [h]
@[simp] theorem stopRep_peers (c : Ctx) : (c.stopRep).peers = c.peers := by
  obtain ⟨_, _, _, h⟩ := stopRep_shape c; rw [h]
@[simp] theorem stopRep_tvec (c : Ctx) : (c.stopRep).tvec = c.tvec := by
  obtain ⟨_, _, _, h⟩ := stopRep_shape c; rw [h]
@[simp] theorem stopRep_tcause (c : Ctx) : (c.stopRep).tcause = c.tcause := by
  obtain ⟨_, _, _, h⟩ := stopRep_shape c; rw [h]
@[simp] theorem stopRep_tval (c : Ctx) : (c.stopRep).tval = c.tval := by
  obtain ⟨_, _, _, h⟩ := stopRep_shape c; rw [h]
@[simp] theorem stopRep_tpc (c : Ctx) : (c.stopRep).tpc = c.tpc := by
  obtain ⟨_, _, _, h⟩ := stopRep_shape c; rw [h]
@[simp] theorem stopRep_tstat (c : Ctx) : (c.stopRep).tstat = c.tstat := by
  obtain ⟨_, _, _, h⟩ := stopRep_shape c; rw [h]
@[simp] theorem stopRep_stepctl (c : Ctx) : (c.stopRep).stepctl = c.stepctl := by
  obtain ⟨_, _, _, h⟩ := stopRep_shape c; rw [h]
@[simp] theorem stopRep_obls (c : Ctx) : (c.stopRep).obls = c.obls := by
  obtain ⟨_, _, _, h⟩ := stopRep_shape c; rw [h]
@[simp] theorem stopRep_sticky (c : Ctx) : (c.stopRep).sticky = c.sticky := by
  obtain ⟨_, _, _, h⟩ := stopRep_shape c; rw [h]
@[simp] theorem stopRep_outstanding (c : Ctx) : (c.stopRep).outstanding = c.outstanding := by
  obtain ⟨_, _, _, h⟩ := stopRep_shape c; rw [h]
@[simp] theorem stopRep_grace (c : Ctx) : (c.stopRep).grace = c.grace := by
  obtain ⟨_, _, _, h⟩ := stopRep_shape c; rw [h]
@[simp] theorem stopRep_remoteDue (c : Ctx) : (c.stopRep).remoteDue = c.remoteDue := by
  obtain ⟨_, _, _, h⟩ := stopRep_shape c; rw [h]
@[simp] theorem stopRep_watchDue (c : Ctx) : (c.stopRep).watchDue = c.watchDue := by
  obtain ⟨_, _, _, h⟩ := stopRep_shape c; rw [h]
@[simp] theorem stopRep_watchMet (c : Ctx) : (c.stopRep).watchMet = c.watchMet := by
  obtain ⟨_, _, _, h⟩ := stopRep_shape c; rw [h]
@[simp] theorem stopRep_arriveDue (c : Ctx) : (c.stopRep).arriveDue = c.arriveDue := by
  obtain ⟨_, _, _, h⟩ := stopRep_shape c; rw [h]
@[simp] theorem stopRep_ringTrap (c : Ctx) : (c.stopRep).ringTrap = c.ringTrap := by
  obtain ⟨_, _, _, h⟩ := stopRep_shape c; rw [h]
@[simp] theorem stopRep_badRegs (c : Ctx) : (c.stopRep).badRegs = c.badRegs := by
  obtain ⟨_, _, _, h⟩ := stopRep_shape c; rw [h]
@[simp] theorem stopRep_late (c : Ctx) : (c.stopRep).late = c.late := by
  obtain ⟨_, _, _, h⟩ := stopRep_shape c; rw [h]
@[simp] theorem stopRep_skid (c : Ctx) : (c.stopRep).skid = c.skid := by
  obtain ⟨_, _, _, h⟩ := stopRep_shape c; rw [h]
@[simp] theorem stopRep_result (c : Ctx) : (c.stopRep).result = c.result := by
  obtain ⟨_, _, _, h⟩ := stopRep_shape c; rw [h]
@[simp] theorem stopRep_access (c : Ctx) : (c.stopRep).access = c.access := by
  obtain ⟨_, _, _, h⟩ := stopRep_shape c; rw [h]
@[simp] theorem stopRep_accessVa (c : Ctx) : (c.stopRep).accessVa = c.accessVa := by
  obtain ⟨_, _, _, h⟩ := stopRep_shape c; rw [h]
@[simp] theorem stopRep_dest (c : Ctx) : (c.stopRep).dest = c.dest := by
  obtain ⟨_, _, _, h⟩ := stopRep_shape c; rw [h]
@[simp] theorem stopRep_len (c : Ctx) : (c.stopRep).len = c.len := by
  obtain ⟨_, _, _, h⟩ := stopRep_shape c; rw [h]

/-! `complete`. -/

theorem complete_shape (s : State) (n : Nat) (x y : Word) : ∃ c g, s.complete n x y = { s with t := c, gangs := g } := by
  unfold State.complete; split
  · split
    · exact ⟨_, _, rfl⟩
    · exact finish_shape s _ _ _
  · exact finish_shape s _ _ _

@[simp] theorem complete_others (s : State) (n : Nat) (x y : Word) : (s.complete n x y).others = s.others := by
  obtain ⟨_, _, h⟩ := complete_shape s n x y; rw [h]
@[simp] theorem complete_cores (s : State) (n : Nat) (x y : Word) : (s.complete n x y).cores = s.cores := by
  obtain ⟨_, _, h⟩ := complete_shape s n x y; rw [h]
@[simp] theorem complete_clusters (s : State) (n : Nat) (x y : Word) : (s.complete n x y).clusters = s.clusters := by
  obtain ⟨_, _, h⟩ := complete_shape s n x y; rw [h]
@[simp] theorem complete_walks (s : State) (n : Nat) (x y : Word) : (s.complete n x y).walks = s.walks := by
  obtain ⟨_, _, h⟩ := complete_shape s n x y; rw [h]
@[simp] theorem complete_parts (s : State) (n : Nat) (x y : Word) : (s.complete n x y).parts = s.parts := by
  obtain ⟨_, _, h⟩ := complete_shape s n x y; rw [h]
@[simp] theorem complete_mem (s : State) (n : Nat) (x y : Word) : (s.complete n x y).mem = s.mem := by
  obtain ⟨_, _, h⟩ := complete_shape s n x y; rw [h]
@[simp] theorem complete_full (s : State) (n : Nat) (x y : Word) : (s.complete n x y).full = s.full := by
  obtain ⟨_, _, h⟩ := complete_shape s n x y; rw [h]
@[simp] theorem complete_bad (s : State) (n : Nat) (x y : Word) : (s.complete n x y).bad = s.bad := by
  obtain ⟨_, _, h⟩ := complete_shape s n x y; rw [h]
@[simp] theorem complete_copies (s : State) (n : Nat) (x y : Word) : (s.complete n x y).copies = s.copies := by
  obtain ⟨_, _, h⟩ := complete_shape s n x y; rw [h]
@[simp] theorem complete_subs (s : State) (n : Nat) (x y : Word) : (s.complete n x y).subs = s.subs := by
  obtain ⟨_, _, h⟩ := complete_shape s n x y; rw [h]
@[simp] theorem complete_waiters (s : State) (n : Nat) (x y : Word) : (s.complete n x y).waiters = s.waiters := by
  obtain ⟨_, _, h⟩ := complete_shape s n x y; rw [h]
@[simp] theorem complete_pendings (s : State) (n : Nat) (x y : Word) : (s.complete n x y).pendings = s.pendings := by
  obtain ⟨_, _, h⟩ := complete_shape s n x y; rw [h]
@[simp] theorem complete_parked (s : State) (n : Nat) (x y : Word) : (s.complete n x y).parked = s.parked := by
  obtain ⟨_, _, h⟩ := complete_shape s n x y; rw [h]
@[simp] theorem complete_slices (s : State) (n : Nat) (x y : Word) : (s.complete n x y).slices = s.slices := by
  obtain ⟨_, _, h⟩ := complete_shape s n x y; rw [h]
@[simp] theorem complete_audits (s : State) (n : Nat) (x y : Word) : (s.complete n x y).audits = s.audits := by
  obtain ⟨_, _, h⟩ := complete_shape s n x y; rw [h]
@[simp] theorem complete_arrivals (s : State) (n : Nat) (x y : Word) : (s.complete n x y).arrivals = s.arrivals := by
  obtain ⟨_, _, h⟩ := complete_shape s n x y; rw [h]
@[simp] theorem complete_tokens (s : State) (n : Nat) (x y : Word) : (s.complete n x y).tokens = s.tokens := by
  obtain ⟨_, _, h⟩ := complete_shape s n x y; rw [h]
@[simp] theorem complete_sachets (s : State) (n : Nat) (x y : Word) : (s.complete n x y).sachets = s.sachets := by
  obtain ⟨_, _, h⟩ := complete_shape s n x y; rw [h]
@[simp] theorem complete_flying (s : State) (n : Nat) (x y : Word) : (s.complete n x y).flying = s.flying := by
  obtain ⟨_, _, h⟩ := complete_shape s n x y; rw [h]
@[simp] theorem complete_outbox (s : State) (n : Nat) (x y : Word) : (s.complete n x y).outbox = s.outbox := by
  obtain ⟨_, _, h⟩ := complete_shape s n x y; rw [h]
@[simp] theorem complete_flits (s : State) (n : Nat) (x y : Word) : (s.complete n x y).flits = s.flits := by
  obtain ⟨_, _, h⟩ := complete_shape s n x y; rw [h]
@[simp] theorem complete_links (s : State) (n : Nat) (x y : Word) : (s.complete n x y).links = s.links := by
  obtain ⟨_, _, h⟩ := complete_shape s n x y; rw [h]
@[simp] theorem complete_sessions (s : State) (n : Nat) (x y : Word) : (s.complete n x y).sessions = s.sessions := by
  obtain ⟨_, _, h⟩ := complete_shape s n x y; rw [h]
@[simp] theorem complete_responses (s : State) (n : Nat) (x y : Word) : (s.complete n x y).responses = s.responses := by
  obtain ⟨_, _, h⟩ := complete_shape s n x y; rw [h]
@[simp] theorem complete_board (s : State) (n : Nat) (x y : Word) : (s.complete n x y).board = s.board := by
  obtain ⟨_, _, h⟩ := complete_shape s n x y; rw [h]
@[simp] theorem complete_fabric (s : State) (n : Nat) (x y : Word) : (s.complete n x y).fabric = s.fabric := by
  obtain ⟨_, _, h⟩ := complete_shape s n x y; rw [h]
@[simp] theorem complete_time (s : State) (n : Nat) (x y : Word) : (s.complete n x y).time = s.time := by
  obtain ⟨_, _, h⟩ := complete_shape s n x y; rw [h]
@[simp] theorem complete_turned (s : State) (n : Nat) (x y : Word) : (s.complete n x y).turned = s.turned := by
  obtain ⟨_, _, h⟩ := complete_shape s n x y; rw [h]
@[simp] theorem complete_agenda (s : State) (n : Nat) (x y : Word) : (s.complete n x y).agenda = s.agenda := by
  obtain ⟨_, _, h⟩ := complete_shape s n x y; rw [h]
@[simp] theorem complete_arg (s : State) (n : Nat) (x y : Word) : (s.complete n x y).arg = s.arg := by
  obtain ⟨_, _, h⟩ := complete_shape s n x y; rw [h]
@[simp] theorem complete_fresh (s : State) (n : Nat) (x y : Word) : (s.complete n x y).fresh = s.fresh := by
  obtain ⟨_, _, h⟩ := complete_shape s n x y; rw [h]

end Sys2Proof.Laws
end

