-- ==== Sys2Proof/Laws/Shared.lean ====
section
/-! SUPPORT. One lemma for each shared operation: what it answers when its conditions hold. -/

namespace Sys2Proof.Laws

open Sys2Proof Sys2Proof.Machine

/-! The monad of meanings. -/

theorem bind_passes {α β : Type} {m : M α} {f : α → M β} {s t : State} {a : α} (h : Passes m s a t) :
    (m >>= f) s = f a t := by
  unfold Passes at h
  simp [bind, StateT.bind, Except.bind, h]

theorem seq_passes {β : Type} {m : M PUnit} {f : PUnit → M β} {s t : State} (h : Passes m s () t) :
    (m >>= f) s = f () t := bind_passes h

theorem pure_passes {α : Type} (a : α) (s : State) : Passes (pure a) s a s := rfl
theorem get_passes (s : State) : Passes get s s s := rfl
theorem set_passes (s t : State) : Passes (set t) s () t := rfl
theorem readT_passes {α : Type} (f : Ctx → α) (s : State) : Passes (readT f) s (f s.t) s := rfl
theorem readS_passes {α : Type} (f : State → α) (s : State) : Passes (readS f) s (f s) s := rfl
theorem modS_passes (f : State → State) (s : State) : Passes (modS f) s () (f s) := rfl
theorem modT_passes (f : Ctx → Ctx) (s : State) : Passes (modT f) s () { s with t := f s.t } := rfl

@[simp] theorem bind_pure_run {α β : Type} (a : α) (f : α → M β) (s : State) : ((pure a : M α) >>= f) s = f a s := rfl
@[simp] theorem bind_get (f : State → M β) (s : State) : ((get : M State) >>= f) s = f s s := rfl
@[simp] theorem bind_set (t : State) (f : PUnit → M β) (s : State) : ((set t : M PUnit) >>= f) s = f () t := rfl
@[simp] theorem bind_readT {α β : Type} (g : Ctx → α) (f : α → M β) (s : State) : (readT g >>= f) s = f (g s.t) s := rfl
@[simp] theorem bind_readS {α β : Type} (g : State → α) (f : α → M β) (s : State) : (readS g >>= f) s = f (g s) s := rfl
@[simp] theorem bind_modS {β : Type} (g : State → State) (f : Unit → M β) (s : State) : (modS g >>= f) s = f () (g s) := rfl
@[simp] theorem bind_modT {β : Type} (g : Ctx → Ctx) (f : Unit → M β) (s : State) :
    (modT g >>= f) s = f () { s with t := g s.t } := rfl
@[simp] theorem bind_require {β : Type} (p : Bool) (c : Cause) (v : Word) (f : Unit → M β) (s : State) :
    (require p c v >>= f) s = if p then f () s else .error (.trap c v .before s) := by
  cases p <;> rfl
@[simp] theorem pure_run {α : Type} (a : α) (s : State) : (pure a : M α) s = .ok (a, s) := rfl

/-- A meaning that ends at `t` answers `t`. -/
theorem runM_ok {m : M Unit} {s t : State} (h : m s = .ok ((), t)) : runM m s = .next t := by
  simp [runM, h]

/-- A meaning that traps answers the state after the trap. -/
theorem runM_trap {m : M Unit} {s t : State} {c : Cause} {v : Word} {k : TrapClass} (h : m s = .error (.trap c v k t)) :
    runM m s = .next (t.takeTrap c v k) := by
  simp [runM, h]

/-- A meaning that holds answers the state it holds in. -/
theorem runM_stay {m : M Unit} {s t : State} (h : m s = .error (.stay t)) : runM m s = .next t := by
  simp [runM, h]

/-! The checks before a meaning. -/

@[simp] theorem bind_decodeRequire_true {β : Type} (c : Cause) (v : Word) (f : Unit → M β) (s : State) :
    (decodeRequire true c v >>= f) s = f () s := rfl

theorem gate_passes {i : Instr} {s : State} (h : admits i s = true) : Passes (gate i) s () s := by
  simp only [admits, Bool.and_eq_true] at h
  obtain ⟨⟨⟨⟨⟨⟨hf, hc⟩, hm⟩, hn⟩, hp⟩, hb⟩, ht⟩ := h
  have e1 : Passes (gateContext i (imageOf i)) s () s := by
    simp only [Passes, gateContext, bind_get, hf, hc, hm, bind_decodeRequire_true, hn]
    rfl
  have e2 : Passes (gatePorts i) s () s := by
    unfold Passes gatePorts
    cases h : portOf i <;> simp_all [require]
  have e3 : Passes (gateMarks i) s () s := by
    simp_all [Passes, gateMarks, require]
  unfold Passes gate
  rw [bind_passes e1, bind_passes e2]
  exact e3

/-! Operands. -/

theorem regOk_passes {s : State} {n : Nat} (h : regReadable s n = true) : Passes (regOk n) s () s := by
  simp_all [Passes, regOk, regReadable, require]

theorem readSrc_passes {s : State} {a : Src} (h : readable s a = true) : Passes (readSrc a) s (srcVal s a) s := by
  cases a with
  | lit32 x => rfl
  | lit64 x => rfl
  | code c =>
    unfold Passes readSrc srcVal
    by_cases h1 : c.toNat < 32
    · have hr : regReadable s c.toNat = true := by simpa [readable, h1] using h
      simp only [bind_get, if_pos h1]
      rw [bind_passes (regOk_passes hr)]
      by_cases h0 : c = 0 <;> simp [h0]
    · have h0 : c ≠ 0 := by intro e; subst e; exact h1 (by decide)
      by_cases h2 : c.toNat = 48 <;> by_cases h3 : c.toNat = 50 <;> simp only [bind_get, h1, h2, h3, h0, if_true, if_false] <;>
        rfl

theorem readK_passes {s : State} {k : BitVec 3} (h : regReadable s (64 + k.toNat) = true) :
    Passes (readK k.toNat) s (predVal s k) s := by
  unfold Passes readK predVal
  rw [bind_passes (regOk_passes h)]
  have e : (k.toNat = 0) ↔ k = 0 := by
    constructor
    · intro h; exact BitVec.eq_of_toNat_eq (by simpa using h)
    · intro h; simp [h]
  simp only [readT, e]

theorem writeD_passes (s : State) (d : Code) (v : Word) : Passes (writeD d v) s () (setDest s d v) := rfl
theorem writeK_passes (s : State) (k : BitVec 3) (v : Word) : Passes (writeK k.toNat v) s () (setPred s k v) := rfl

/-! Completing. -/

theorem writeDest_due (c : Ctx) (d : Nat) (v : Word) : (c.writeDest d v).watchDue = c.watchDue ∧
    (c.writeDest d v).arriveDue = c.arriveDue ∧ (c.writeDest d v).stepctl = c.stepctl ∧ (c.writeDest d v).tstat = c.tstat ∧
    (c.writeDest d v).lc = c.lc := by
  unfold Ctx.writeDest
  split <;> [skip; split] <;> [skip; skip; split] <;> [skip; skip; skip; split] <;> exact ⟨rfl, rfl, rfl, rfl, rfl⟩

@[simp] theorem quiet_setDest (s : State) (d : Code) (v : Word) : quiet (setDest s d v) = quiet s := by
  have h := writeDest_due s.t d.toNat v
  simp only [quiet, setDest, h]
@[simp] theorem quiet_setPred (s : State) (k : BitVec 3) (v : Word) : quiet (setPred s k v) = quiet s := by
  unfold setPred Ctx.writeK quiet
  split <;> rfl

/-- Two contexts have the same traps of the After class due. -/
def SameDue (c t : Ctx) : Prop :=
  c.watchDue = t.watchDue ∧ c.arriveDue = t.arriveDue ∧ c.stepctl = t.stepctl ∧ c.tstat = t.tstat

theorem quiet_finish {s : State} {c : Ctx} (e : SameDue c s.t) (x y : Word) : quiet (s.finish c x y) = quiet s := by
  obtain ⟨e1, e2, e3, e4⟩ := e
  unfold State.finish quiet
  split
  · simp [Ctx.done, e1, e2, e3, e4]
  · split <;> simp [Ctx.done, Ctx.portsOn, e1, e2, e3, e4]

theorem advance_fields (c : Ctx) (n : Word) : ∃ lc pc, c.advance n = { c with lc := lc, pc := pc } := ⟨_, _, rfl⟩

theorem quiet_complete (s : State) (n : Nat) (x y : Word) : quiet (s.complete n x y) = quiet s := by
  unfold State.complete
  split
  · split
    · rfl
    · exact quiet_finish (by exact ⟨rfl, rfl, rfl, rfl⟩) _ _
  · exact quiet_finish (by exact ⟨rfl, rfl, rfl, rfl⟩) _ _

theorem afterTrap_quiet {s : State} (h : quiet s = true) : s.t.afterTrap = none := by
  simp only [quiet, Bool.and_eq_true, Option.isNone_iff_eq_none] at h
  unfold Ctx.afterTrap
  split
  · rfl
  · simp only [h.1.1, h.1.2, Option.map_none, Option.orElse_none]
    have := h.2
    revert this
    cases bitOf s.t.stepctl.toNat 1 <;> cases flagOf s.t.tstat 0 <;> simp

theorem afterInstr_passes {s : State} (h : quiet s = true) : Passes afterInstr s () s := by
  unfold Passes afterInstr
  rw [bind_readT, afterTrap_quiet h]
  rfl

theorem retireWith_passes {s : State} (h : quiet s = true) (i : Instr) (x y : Word) :
    Passes (retireWith i x y) s () (s.complete i.len x y) := by
  unfold Passes retireWith
  rw [bind_modS]
  exact afterInstr_passes (by rw [quiet_complete]; exact h)

theorem retire_passes {s : State} (h : quiet s = true) (i : Instr) : Passes (retire i) s () (advanced s i) :=
  retireWith_passes h i 0 0

theorem jumpTo_passes {s : State} (h : quiet s = true) {f : Ctx → Ctx} (e : SameDue (f s.t) s.t) (x : Word) :
    Passes (jumpTo x f) s () (s.finish { f s.t with pc := x } 0 0) := by
  unfold Passes jumpTo
  rw [bind_modS]
  exact afterInstr_passes (by rw [quiet_finish (by exact e)]; exact h)

/-! Whole meanings of the scalar families. -/

theorem ready_iff {i : Instr} {s : State} : ready i s = true ↔ admits i s = true ∧ quiet s = true := by
  simp [ready, Bool.and_eq_true]

theorem alu2_ok {i : Instr} {b a : Src} {d : Code} {f : Word → Word → Word} {s : State} (ha : readable s a = true)
    (hb : readable s b = true) (h : ready i s = true) :
    runM (alu2 i b a d f) s = .next (advanced (setDest s d (f (srcVal s a) (srcVal s b))) i) := by
  obtain ⟨h1, h2⟩ := ready_iff.1 h
  apply runM_ok
  unfold alu2
  rw [bind_passes (gate_passes h1), bind_passes (readSrc_passes ha), bind_passes (readSrc_passes hb), bind_passes (writeD_passes ..)]
  exact retire_passes (by simpa using h2) i

theorem alu1_ok {i : Instr} {a : Src} {d : Code} {f : Word → Word} {s : State} (ha : readable s a = true)
    (h : ready i s = true) :
    runM (alu1 i a d f) s = .next (advanced (setDest s d (f (srcVal s a))) i) := by
  obtain ⟨h1, h2⟩ := ready_iff.1 h
  apply runM_ok
  unfold alu1
  rw [bind_passes (gate_passes h1), bind_passes (readSrc_passes ha), bind_passes (writeD_passes ..)]
  exact retire_passes (by simpa using h2) i

theorem alu3_ok {i : Instr} {b a : Src} {d : Code} {f : Word → Word → Word → Word} {s : State} (ha : readable s a = true)
    (hb : readable s b = true) (hd : readable s (.code d) = true) (h : ready i s = true) :
    runM (alu3 i b a d f) s = .next (advanced (setDest s d (f (srcVal s (.code d)) (srcVal s a) (srcVal s b))) i) := by
  obtain ⟨h1, h2⟩ := ready_iff.1 h
  apply runM_ok
  unfold alu3
  rw [bind_passes (gate_passes h1), bind_passes (readSrc_passes ha), bind_passes (readSrc_passes hb)]
  rw [readDest, bind_passes (readSrc_passes hd), bind_passes (writeD_passes ..)]
  exact retire_passes (by simpa using h2) i

theorem kop2_ok {i : Instr} {b a d : BitVec 3} {f : Word → Word → Word} {s : State} (ha : regReadable s (64 + a.toNat) = true)
    (hb : regReadable s (64 + b.toNat) = true) (h : ready i s = true) :
    runM (kop2 i b a d f) s = .next (advanced (setPred s d (f (predVal s a) (predVal s b))) i) := by
  obtain ⟨h1, h2⟩ := ready_iff.1 h
  apply runM_ok
  unfold kop2
  rw [bind_passes (gate_passes h1), bind_passes (readK_passes ha), bind_passes (readK_passes hb), bind_passes (writeK_passes ..)]
  exact retire_passes (by simpa using h2) i

theorem kop1_ok {i : Instr} {a d : BitVec 3} {f : Word → Word} {s : State} (ha : regReadable s (64 + a.toNat) = true)
    (h : ready i s = true) :
    runM (kop1 i a d f) s = .next (advanced (setPred s d (f (predVal s a))) i) := by
  obtain ⟨h1, h2⟩ := ready_iff.1 h
  apply runM_ok
  unfold kop1
  rw [bind_passes (gate_passes h1), bind_passes (readK_passes ha), bind_passes (writeK_passes ..)]
  exact retire_passes (by simpa using h2) i

/-- A jump whose target is even, or a follower's. -/
theorem jumpTo_ok {s : State} (h : quiet s = true) {f : Ctx → Ctx} (e : SameDue (f s.t) s.t) (x : Word) :
    jumpTo x f s = .ok ((), jumped s f x) := jumpTo_passes h e x

theorem jumpReg_ok {m : M Word} {f : Ctx → Ctx} {s : State} {x : Word} (h : quiet s = true) (hl : s.leaderEntry = none)
    (hm : Passes m s x s) (hx : flagOf x 0 = false) (e : SameDue (f s.t) s.t) :
    jumpReg m f s = .ok ((), jumped s f x) := by
  unfold jumpReg
  rw [bind_readS, hl]
  dsimp only
  rw [bind_passes hm, bind_require, hx]
  exact jumpTo_ok h e x

theorem jumpReg_follower {m : M Word} {f : Ctx → Ctx} {s : State} {e : Skew} (h : quiet s = true) (hl : s.leaderEntry = some e)
    (ed : SameDue (f s.t) s.t) :
    jumpReg m f s = .ok ((), jumped s f e.next) := by
  unfold jumpReg
  rw [bind_readS, hl]
  exact jumpTo_ok h ed _

theorem branch_ok {i : Instr} {off : BitVec 21} {k : BitVec 3} {b : Bool} {s : State} (h : ready i s = true)
    (hl : s.leaderEntry = none) (hk : regReadable s (64 + k.toNat) = true) :
    runM (branch i off k b) s = .next (if (predVal s k != 0) = b then jumped s id (branchTarget s.t.pc off) else advanced s i) := by
  obtain ⟨h1, h2⟩ := ready_iff.1 h
  unfold branch
  apply runM_ok
  rw [bind_passes (gate_passes h1), bind_readS, hl]
  dsimp only
  rw [bind_passes (readK_passes hk), bind_readT]
  by_cases e : ((predVal s k != 0) == b) = true
  · rw [if_pos e, if_pos (by simpa using e)]; exact jumpTo_ok (f := id) h2 ⟨rfl, rfl, rfl, rfl⟩ _
  · rw [if_neg e, if_neg (by simpa using e)]; exact retire_passes h2 i

theorem completesVia_of {i : Instr} {s s1 t : State} {m : M Unit} (e : exec i s = runM m s)
    (h : admits i s = true → quiet s1 = true → m s = .ok ((), t)) : CompletesVia i s s1 t := by
  intro h1 h2; rw [e]; exact runM_ok (h h1 h2)

theorem afterInstr_ok {s : State} (h : quiet s = true) : afterInstr s = .ok ((), s) := afterInstr_passes h

theorem gatePorts_passes {i : Instr} {s : State} (h : portOf i = none ∨ (s.formedGang s.t.coreid).isSome = true) : Passes (gatePorts i) s () s := by
    unfold Passes gatePorts
    cases hp : portOf i <;> simp_all [require]

@[simp] theorem quiet_acquire (s : State) (c : Nat) : quiet (s.acquire c) = quiet s := by simp [quiet]

theorem acquire_passes (s : State) : Passes acquire s () (s.acquire s.t.coreid) := rfl

theorem release_passes (s : State) : Passes release s () s := rfl

@[simp] theorem bind_readT_id {β : Type} (f : Ctx → M β) (s : State) : (readT id >>= f) s = f s.t s := rfl

theorem quiet_of_t {s t : State} (h : t.t = s.t) : quiet t = quiet s := by simp [quiet, h]

theorem finish_coreid (s : State) (c : Ctx) (x y : Word) : (s.finish c x y).t.coreid = c.coreid := by
  unfold State.finish
  split
  · rfl
  · split <;> rfl

theorem complete_coreid (s : State) (n : Nat) (x y : Word) : (s.complete n x y).t.coreid = s.t.coreid := by
  unfold State.complete
  split
  · split
    · rfl
    · exact finish_coreid ..
  · exact finish_coreid ..

/-! Registers and scalar accesses. -/

@[simp] theorem quiet_upd_badRegs (s : State) (b : List Nat) : quiet { s with t := { s.t with badRegs := b } } = quiet s := rfl

theorem csrChange_ok {i : Instr} {c : BitVec 11} {a : Src} {d : Code} {f : Word → Word → Word} {s : State}
    (ha : readable s a = true) (hf : (isLoopCsr c.toNat && s.follower s.t.coreid) = false)
    (hl : s.csrLegal c.toNat (f (s.csrNow c.toNat) (srcVal s a)) = true) (h1 : admits i s = true)
    (t : State) (ht : t = s.csrStore c.toNat (f (s.csrNow c.toNat) (srcVal s a)))
    (h2 : quiet t = true) :
    csrChange i c a d f s = .ok ((), advanced (setDest { t with t := { t.t with badRegs := setDrop t.t.badRegs (128 + c.toNat) } } d (s.csr c.toNat)) i) := by
  subst ht
  unfold csrChange
  rw [bind_passes (gate_passes h1), bind_passes (readSrc_passes ha), bind_get, hf]
  simp only [Bool.false_eq_true, if_false, bind_require, bind_modS, bind_modT]
  rw [if_pos hl, bind_passes (writeD_passes ..)]
  exact retire_passes (by simpa using h2) i

theorem watch_passes {s : State} {bit : Nat} {va : Word} {n : Nat} (h : unwatched s bit va n = true) : Passes (watch bit va n) s () s := by
  unfold Passes watch
  simp only [bind_get]
  have : s.wpMatches s.t.coreid bit (watchAddr s.t.coreid va) n = [] := by simpa [unwatched] using h
  rw [this]; rfl

theorem dataOk_passes {s : State} {va : Word} {k n : Nat} (h : s.poisoned k n = false) : Passes (dataOk va k n) s () s := by
  unfold Passes dataOk
  simp [h]

theorem readPlain_passes {s : State} {bit : Nat} {va : Word} {k n : Nat} {acq : Bool} (h : s.poisoned k n = false)
    (hw : unwatched s bit va n = true) :
    let x := if acq then s.acquire s.t.coreid else s
    Passes (readPlain bit va k n acq) s (leNat (x.loadVia s.t.coreid k n).2) (x.loadVia s.t.coreid k n).1 := by
  unfold Passes readPlain
  rw [bind_passes (dataOk_passes h), bind_passes (watch_passes hw)]
  cases acq
  · rfl
  · simp only [if_true]
    rw [bind_passes (acquire_passes _), bind_get, acquire_t]
    rfl

theorem writePlain_passes {s : State} {va : Word} {k : Nat} {bs : List Byte} (hw : unwatched s 2 va bs.length = true) :
    Passes (writePlain va k bs) s () (s.storeBy k bs) := by
  unfold Passes writePlain
  rw [bind_passes (watch_passes hw)]
  rfl

theorem load_ok {i : Instr} {imm : BitVec 10} {f : BitVec 3} {a : Src} {d : Code} {acq : Bool} {s s1 s2 : State} {p : Place} {v : Word}
    (ha : readable s a = true) (hp : Passes (resolve (dispAddr (srcVal s a) imm f) (sizeOf3 f) Acc.load) s p s1)
    (hv : Passes (loadFrom f (dispAddr (srcVal s a) imm f) (sizeOf3 f) acq p) s1 v s2) (h1 : admits i s = true) (h2 : quiet s2 = true) :
    load i imm f a d acq s = .ok ((), advanced (setDest s2 d v) i) := by
  unfold load
  rw [bind_passes (gate_passes h1), bind_passes (readSrc_passes ha)]
  rw [bind_passes hp, bind_passes hv, bind_passes (writeD_passes ..)]
  exact retire_passes (by simpa using h2) i

theorem store_ok {i : Instr} {imm : BitVec 10} {f : BitVec 3} {a d : Src} {rel : Bool} {s s1 s2 : State} {p : Place}
    (ha : readable s a = true) (hd : readable s d = true)
    (hp : Passes (resolve (dispAddr (srcVal s a) imm f) (sizeOf3 f) Acc.store) s p s1)
    (hv : Passes (storeTo i (dispAddr (srcVal s a) imm f) (sizeOf3 f) (srcVal s d) p) s1 () s2) (h1 : admits i s = true) (h2 : quiet s2 = true) :
    store i imm f a d rel s = .ok ((), advanced s2 i) := by
  unfold store
  rw [bind_passes (gate_passes h1), bind_passes (readSrc_passes ha), bind_passes (readSrc_passes hd)]
  dsimp only
  cases rel
  · simp only [Bool.false_eq_true, if_false]
    rw [bind_passes hp, bind_passes hv]
    exact retire_passes h2 i
  · simp only [if_true]
    rw [bind_passes (release_passes _), bind_passes hp, bind_passes hv]
    exact retire_passes h2 i

@[simp] theorem length_leBytes (n x : Nat) : (leBytes n x).length = n := by
  induction n generalizing x with
  | zero => rfl
  | succ n ih => simp [leBytes, ih]

theorem acquire_bind {β : Type} (m : Unit → M β) (x : State) : (acquire >>= m) x = m () (x.acquire x.t.coreid) := rfl

theorem finishWith {t : State} {i : Instr} {d : Code} {v : Word} (h : quiet t = true) :
    (writeD d v >>= fun _ => retire i) t = .ok ((), advanced (setDest t d v) i) := by
  rw [bind_passes (writeD_passes ..)]
  exact retire_passes (by simpa using h) i

theorem notInTransfer_passes {s : State} {i : Instr} (h : s.transferOf s.t.coreid = none) : Passes (notInTransfer i) s () s := by
  unfold Passes notInTransfer
  simp [h]

end Sys2Proof.Laws
end

