-- ==== Sys2Proof/Tests/Slice0.lean ====
section
/-! SUPPORT. Tests of this package: small states, one step or one check each. The expected values come from the spec's rules
and tables, by hand. Where a test names an obligation (O1, O2, ...), it shows a state and operands that meet the
hypotheses of that statement's clauses; what a hypothesis asks of a state reached through checks is asked of the state
that the checks reach. -/

namespace Sys2Proof.Tests

open Sys2Proof Sys2Proof.Machine

set_option Elab.async false

/-! States. -/

/-- A lane thread of cluster 0 about to execute, with the tables of log entry 16. -/
def lane : State := State.reset.withProgram 0

/-- Scalar registers of the current context. -/
def regs (xs : List (Nat × Word)) (s : State) : State :=
  { s with t := { s.t with s := xs.foldl (fun v x => v.set! x.1 x.2) s.t.s } }

/-- The current context changed. -/
def onCtx (f : Ctx → Ctx) (s : State) : State := { s with t := f s.t }

/-- A thread with 7 in `s2` and 0xFFFFFFFFFFFFFFFD in `s3`. -/
def two : State := regs [(2, 7), (3, 0xFFFFFFFFFFFFFFFD)] lane

/-- A formed gang of two. -/
def gang2 (queue : List Skew) : Gang :=
  { members := [0, coreAt 0 1], formed := true, stopped := false, counts := [1, 0], base := 0, queue := queue, ended := []
    rowmax := none, rowdest := 0, closing := [], trapped := [], runner := none, code := [], front := 0, exiting := false, notice := false }

/-- The entry that its leader has left. -/
def entry : Skew := ⟨0x10040, 2, 99, 0x10000, []⟩

/-- Member 1 of a formed gang, behind its leader. -/
def follower : State :=
  let s := State.reset.withProgram 40
  { s with
    t := { programCtx .lane (coreAt 0 1) with gangpos := 0x201 }
    others := [(0, { programCtx .lane 0 with gangpos := 0x200 })]
    gangs := [(2 ^ 32 + 1, gang2 [entry])] }

/-- A thread whose `s2` is a code address and `k1` has a bit set. -/
def jumper : State := onCtx (fun t => { t with k := t.k.set! 1 8 }) (regs [(2, 0x10200), (31, 0x10300)] lane)

/-- A thread within loop levels 0 and 1. -/
def inLoop : State :=
  onCtx (fun t => { t with
    lc := #v[3, 2, 0], lbeg := #v[0x0FF00, 0x0FF80, 0], lend := #v[0x10100, 0x10080, 0] }) (regs [(2, 5), (3, 0)] lane)

/-- Bytes placed in memory. -/
def stored (xs : List (Nat × Nat × Nat)) (s : State) : State :=
  { s with mem := xs.foldl (fun m x => m.writeNat x.1 x.2.1 x.2.2) s.mem }

/-- A REP with ADD s4, s2, s3 after it. -/
def atRep : State :=
  stored [(0x10004, 4, encodeWord (.add false (.code 3) (.code 2) 4))] (regs [(2, 3), (5, 0)] lane)

/-- A pointer into the thread's own pad, and a pointer into the mapped memory. -/
def padPtr (off : Nat) : Word := selfAlias off
def mem20 : Word := 0x20000

/-- A thread with pointers and data. -/
def pointing : State :=
  stored [(padBase + 0x100, 8, 0xFFEEDDCCBBAA9988), (0x20000, 8, 0x8899AABBCCDDEEFF)]
    (regs [(2, padPtr 0x100), (3, mem20), (4, 0x1122334455667788), (5, 2), (6, padPtr 0x101)] lane)

/-- Vector data of 32-bit floats: 1.0, 2.0, 3.0 and so on in v1, and 0.5 throughout v2. -/
def floats : State :=
  onCtx (fun t => { t with
    vtype := 10
    v := (t.v.set! 1 (BitVec.ofNat 512 (packElems 32 [0x3F800000, 0x40000000, 0x40400000, 0x40800000]))).set! 2
      (BitVec.ofNat 512 (packElems 32 (List.replicate 16 0x3F000000))) }) pointing

/-- A shape record: base, extents of four dimensions, type; contiguous. -/
def shape (base e0 e1 e2 e3 type : Nat) : BitVec 256 :=
  BitVec.ofNat 256 (base + e0 * 2 ^ 64 + e1 * 2 ^ 80 + e2 * 2 ^ 96 + e3 * 2 ^ 112 + e0 * 2 ^ 128 + type * 2 ^ 224)

/-- Two steps over 20 floats in slot 1, its second step to come where `j` is 1; slot 2 holds 8-bit codes. -/
def shaped (j e0 : Nat) : State :=
  onCtx (fun t => { t with
    q := (t.q.set! 0 (shape 0 e0 1 1 1 10)).set! 1 (shape 0 16 1 1 1 7), vprog := BitVec.ofNat 32 j })
    (regs [(2, padPtr 0x200)] floats)

/-- A formed gang's leader, nothing executed yet, with float data. -/
def leader : State :=
  let s := State.reset.withProgram 40
  { s with
    t := { s.t with vtype := 10, v := floats.t.v, s := floats.t.s }
    gangs := [(2 ^ 32 + 1, { gang2 [] with counts := [0, 0] })], mem := floats.mem }

/-- An object's record as OBNEW leaves it: words 0 to 3 of 09 R180. -/
def object (rank kind expected arrived : Nat) : Obj :=
  { rank := rank, kind := kind, flags := 0, phase := 0, expected := expected, arrived := arrived, aux := 0, status := 0 }

/-- The pad location 0x400 of core 0, as a reference, with a value. -/
def ref (value : Nat) : Word := word (2 ^ 32 + 0x400 + value * 2 ^ 48)
def key400 : Nat := padBase + 0x400

/-- A thread with an object at pad location 0x400, owed duties, and its reference in `s2`. -/
def withObj (o : Obj) (os : List Oblig) (s : State) : State :=
  regs [(2, ref 0)] ((s.setObj s.t.coreid key400 o).setTable s.t.coreid os)

/-- The location of the object that `ref` names. -/
def loc400 : Nat := 2 ^ 32 + 0x400

/-- A unit of duty on it. -/
def owes (k : Duty) (count share due : Nat) : Oblig := ⟨loc400, k, count, share, BitVec.ofNat 16 due, false, false, false⟩

/-- A ring of two slots of 64 bytes at pad offset 0x800 with `n` full slots. -/
def ring (n : Nat) (flags : Nat) : Obj :=
  { object 7 Obj.ring 2 n with aux := 0x80000800 + 64 * 2 ^ 32 + n % 2 * 2 ^ 48, flags := flags }

/-- A thread with that ring, and `h0` bound to it in a role, with the duty. -/
def bound (r : Role) (n : Nat) : State :=
  onCtx (fun t => { t with h := t.h.set! 0 ⟨word (2 ^ 32 + 0x400), 1, 0, r⟩ })
    (withObj (ring n (match r with | .consumer => 4 | .producer => 8 | .unbound => 0))
      (match r with | .consumer => [owes .drain 1 0 0] | .producer => [owes .fill 1 0 0] | .unbound => []) lane)

/-- A cluster with tiles 0 and 1 of 4 rows of 32 elements of one type (and tile 2 of another), and some jobs. -/
def tiled (ta tb : Nat) (jobs : List Job) (s : State) : State :=
  s.modCluster 0 fun c => { c with
    tcfg := (c.tcfg.set! 0 (BitVec.ofNat 32 (4 + 32 * 256 + ta * 65536))).set! 1 (BitVec.ofNat 32 (4 + 32 * 256 + tb * 65536))
    jobs := jobs }

/-- A job without objects. -/
def job (op : JobOp) (running : Bool) : Job :=
  { id := 5, op := op, wait := none, done := none, cfgA := BitVec.ofNat 32 (4 + 32 * 256), cfgB := BitVec.ofNat 32 (4 + 32 * 256)
    acscale := 127, rank := none, duty := none, due := 0, brk := false, running := running, core := 0, slice := 0x100000001 }

/-- An event's operands. -/
def ev (a : EventArg) (s : State) : State := { s with arg := a }

/-- A copy channel that runs its program: 64 bytes from 0x20000 to 0x21000. -/
def channel : State := regs [(2, 0x20000), (3, 0x21000), (4, 16), (5, 2)] (State.reset.withProgram 35)

/-- A lane thread whose pad has a kick's arguments at 0x500 (a copy of 64 bytes to 0x21000), template 1 of its cluster set. -/
def kicker : State :=
  let s := stored [(padBase + 0x500, 8, 0x20000), (padBase + 0x508, 8, 0x21000), (padBase + 0x510, 4, 64), (padBase + 0x518, 8, 0)] lane
  s.modCluster 0 fun c => { c with templates := [(1, 0x10000)] }

/-- A subscription to the ring at pad offset 0x400: 16 floats at 0x20000. -/
def sub (loader : Bool) (base : Nat) : Subscription :=
  { loc := loc400, loader := loader, shape := shape base 16 1 1 1 10, part := 0, cluster := 0, done := 0, faulted := false
    ending := false, early := false, core := 0 }

/-- A slice record: entry, budget, queue 0, counter reference 0; obligation slots none. -/
def record (kind : Nat) (counter : Nat) : Nat :=
  0x10000 + 1000 * 2 ^ 192 + kind * 2 ^ 232 + counter * 2 ^ 320

/-- A thread whose `s2` points to a record in memory; its partition has a queue 0 of 4 places. -/
def spawner (counter : Nat) : State :=
  let s := regs [(2, 0x20000)] (stored [(0x20000, 256, record 0 counter)] lane)
  s.modPart 0 fun x => { x with queues := [(0, ⟨true, 0, 4, 0⟩)] }

/-- A domain of level 0 over some threads of cluster 0, with a slot table of period 4 whose link entries belong to lane 0. -/
def domain (regs : Nat) (transfer : Bool) : Domain :=
  { level := 0, number := 0, parent := none, rank := 50, snapen := false, period := 4, image := 0, tables := List.replicate 20 1
    members := [(0, regs)], phase := 3, left := [], broken := false, transfer := transfer, start := 90, log := []
    undoLog := none, snapshot := false, repeatable := false, rolledBack := false, undo := [], undoCtx := [], undoGangs := [] }

/-- A thread of a partition with that domain, at device time 100. -/
def synced (d : Domain) : State :=
  { regs [(2, 0), (3, 10), (4, 12), (5, 8)] (lane.modPart 0 fun x => { x with domains := [d] }) with time := 100 }

/-- A thread whose peer slot 1 names partition 0 of this module, with a remote address of it in `s2`. -/
def peering : State :=
  onCtx (fun t => { t with peers := t.peers.set! 1 (word (2 ^ 63)) })
    (regs [(2, word (2 ^ 58 + 0x20000)), (3, 0x20000), (4, 2), (5, 99)]
      (lane.modPart 0 fun x => { x with peers := x.peers.set! 1 (word (2 ^ 63)) }))

/-- Tables down to level 5 at 0x40000000: a reserved page, then a committed one; a page in the pool of stack 0. -/
def paged : State :=
  let s := regs [(2, 0x40000000), (3, 0x40001000), (4, 0x20000), (5, 0)]
    (stored [(0x3008, 8, 0x4003), (0x4000, 8, 0x5003), (0x5000, 8, 0xBC), (0x5008, 8, 0x603D)] lane)
  s.modPart 0 fun x => { x with pools := [(0, [0x70000])] }

/-- The same without a page in any pool. -/
def unpaged : State := paged.modPart 0 fun x => { x with pools := [] }

/-- An element of 8 bytes stored at 0x20000, from this module. -/
def element : Element :=
  { major := 20, f7 := 3, addr := 0x20000, size := 8, payload := 77, compare := 0, bytes := [], counter := 0, slice := 0x100000001
    core := 0, slot := 1, parts := 1, multicast := false, accepted := 5, bad := [] }

/-- A full/empty load of 8 bytes at 0x20000 by a context of this module. -/
def feReq : FeReq :=
  { store := false, addr := 0x20000, size := 8, cond := 1, after := 2, data := 0, part := 0, core := 0, limit := 1000, src := 0, slot := 1 }

/-- A command in the configuration window of partition 0: code, index, and its argument bytes as a number. -/
def commandOf (code index args : Nat) (s : State) : State :=
  ev { x := 0 } (s.modPart 0 fun x => { x with
    cfg := BitVec.ofNat 448 (code + index * 2 ^ 16 + args * 2 ^ 64), cfgStatus := 1 })

/-- A header of a message from the host in a session, for a partition, with a payload of `n` bytes. -/
def header (opcode session partition n : Nat) : HostHeader :=
  ⟨0x5C4D, 1, session, 1, partition, 0, n, 9, opcode, 49440, List.replicate 16 0, List.replicate 18 0⟩

/-- A host request in the session bound to partition 0. -/
def host (opcode : Nat) (bs : List Byte) (s : State) : State :=
  { ev { host := header opcode 3 0 bs.length, bytes := bs } s with sessions := s.sessions.put 3 ⟨0, 0, 1, [], [], 0⟩ }

/-- A signed command in session 0, signed with the first host key. -/
def signed (command : Nat) (bs : List Byte) (s : State) : State :=
  let s1 := ev { host := header 6 0 255 (16 + bs.length), signed := ⟨command, 0, 0, 0, bs.length, 0, bs, []⟩ } s
  { s1 with board := { s1.board with records := [(4, 1, List.replicate 32 0 ++ leBytes 8 1 ++ List.replicate 1952 7)] } }

/-- A report of a kind on the slice that runs, in entry 0 of the report ring with a disposition written. -/
def reported (kind disposition : Nat) (s : State) : State :=
  let r : Report := { kind := kind, cause := 0, slice := 2 ^ 32 + 1, position := 0, resume := 0, tval := 0, core := 0, slot := 1 }
  stored [(padBase + 8 * 2 ^ 17 + 0xF040 + 56, 8, disposition)] (s.modPart 0 fun x => { x with undisposed := [(0, r)] })

/-- The slice of the program in a state of its life; its threads as given. -/
def sliced (f : Slice → Slice) (s : State) : State :=
  ev { x := 2 ^ 32 + 1 } { s with slices := s.slices.map f }


/-- A partition with a queue, its slice PENDING and no thread running. -/
def pendingSlice : State :=
  sliced (fun x => { x with state := .pending, threads := [] }) (onCtx (fun t => { t with mode := .idle, sliceid := 0 }) (spawner 0))

/-- An audit of the program's slice. -/
def audit (runs : List (Nat × Nat)) : Audit :=
  { id := 2 ^ 32 + 1, part := 0, record := programRecord false, base := 0x200000, size := 0x1000, runs := runs, since := some 5 }
def audited (runs : List (Nat × Nat)) : State :=
  { ev { x := 2 ^ 32 + 1 } lane with audits := [audit runs], time := 20000000000 }

/-! What a test asks. -/

/-- Whether an operation of the machine passes, with an answer and a state after it that meet a condition. -/
def passes {α : Type} (m : M α) (s : State) (k : α → State → Bool) : Bool :=
  match m s with
  | .ok (a, t) => k a t
  | .error _ => false

/-- The scalar register that an instruction leaves. -/
def leaves (i : Instr) (s : State) (n : Nat) : Word :=
  match exec i s with
  | .next t => t.t.s[n]!
  | _ => 0

/-- Whether an instruction answers a next state that meets a condition. -/
def answers (i : Instr) (s : State) (k : State → Bool) : Bool :=
  match exec i s with
  | .next t => k t
  | _ => false

/-- The element of a vector register that an instruction leaves. -/
def leavesElem (i : Instr) (s : State) (v w e : Nat) : Nat :=
  match exec i s with
  | .next t => (elems w t.t.v[v]!).getD e 0
  | _ => 0

/-- A thread with a trap handler. -/
def handled : State := onCtx (fun t => { t with tvec := 0x30000 }) two

/-! Scalar instructions: 7 and -3. Expected values by hand, from 05 R59 to R67. -/

/-- O1: the hypotheses hold of every member at once. -/
theorem test_alu_ready : readable two (.code 2) = true ∧ readable two (.code 3) = true ∧ readable two (.code 5) = true ∧
    [false, true].all (fun w => [Instr.add w (.code 3) (.code 2) 5, .mulh w (.code 3) (.code 2) 5, .remn w (.code 3) (.code 2) 5,
      .lea 3 (.code 3) (.code 2) 5, .bfx (.code 3) (.code 2) 5, .sel w (.code 3) (.code 2) 5, .bfi (.code 3) (.code 2) 5,
      .clz w (.code 2) 5, .addi (-1) (.code 2) 5].all fun i => ready i two) = true := by decide +kernel

theorem test_alu_values : [(Instr.add false (.code 3) (.code 2) 5, (4 : Word)), (.sub false (.code 3) (.code 2) 5, 10),
    (.and false (.code 3) (.code 2) 5, 5), (.or false (.code 3) (.code 2) 5, -1), (.xor false (.code 3) (.code 2) 5, -6),
    (.andn false (.code 3) (.code 2) 5, 2), (.orn false (.code 3) (.code 2) 5, 7), (.shl false (.code 3) (.code 2) 5, 0),
    (.shr false (.code 3) (.code 2) 5, 0), (.sra false (.code 2) (.code 3) 5, -1),
    (.rol false (.code 3) (.code 2) 5, 0xE000000000000000), (.ror false (.code 3) (.code 2) 5, 56),
    (.mul false (.code 3) (.code 2) 5, -21), (.mulh false (.code 3) (.code 2) 5, -1),
    (.mulhn false (.code 3) (.code 2) 5, 6), (.div false (.code 3) (.code 2) 5, -2), (.divn false (.code 3) (.code 2) 5, 0),
    (.rem false (.code 3) (.code 2) 5, 1), (.remn false (.code 3) (.code 2) 5, 7), (.min false (.code 3) (.code 2) 5, -3),
    (.max false (.code 3) (.code 2) 5, 7), (.minn false (.code 3) (.code 2) 5, 7), (.maxn false (.code 3) (.code 2) 5, -3),
    (.slt false (.code 3) (.code 2) 5, 0), (.sltn false (.code 3) (.code 2) 5, 1), (.seq false (.code 3) (.code 2) 5, 0),
    (.sne false (.code 3) (.code 2) 5, 1)].all (fun x => leaves x.1 two 5 == x.2) = true := by decide +kernel

/-- Word forms sign-extend; ADDR, the one-operand members and ADDI. -/
theorem test_more_values : [(Instr.divn true (.code 2) (.code 3) 5, (0x24924924 : Word)), (.shl true (.lit32 29) (.code 2) 5, 0xFFFFFFFFE0000000),
    (.lea 3 (.code 3) (.code 2) 5, -17), (.bfx (.lit32 0x301) (.code 2) 5, 3), (.bfxz (.lit32 0x201) (.code 3) 5, 254),
    (.sel false (.code 3) (.code 2) 5, -3), (.clz false (.code 2) 5, 61), (.ctz false (.code 3) 5, 0), (.popc true (.code 2) 5, 3),
    (.brev false (.code 2) 5, 0xE000000000000000), (.bswap true (.code 2) 5, 0x07000000), (.addi (-1) (.code 2) 5, 6)].all
    (fun x => leaves x.1 two 5 == x.2) = true := by decide +kernel

/-- O1: values bit by bit, by hand: the least and the greatest operands (05 R59, R60). -/
theorem test_bit_values : opMulh (-1 : Word) (-1) = 0 ∧ opMulh (0x80000000 : BitVec 32) 2 = -1 ∧ opMulhn (-1 : Word) (-1) = -2 ∧
    opClz (0 : Word) = 64 ∧ opClz (1 : BitVec 32) = 31 ∧ opClz (-1 : Word) = 0 ∧ opCtz (0 : BitVec 32) = 32 ∧ opCtz (8 : Word) = 3 ∧
    opPopc (-1 : Word) = 64 ∧ opBrev (1 : Word) = 0x8000000000000000 ∧ opBswap (0x11223344 : BitVec 32) = 0x44332211 := by decide +kernel

/-- O1: fields that end at bit 63, that run past it, and of width 0 (05 R64). -/
theorem test_field_values : opBfx 0xF000000000000000 (60 + 4 * 64) = -1 ∧ opBfxz 0xF000000000000000 (60 + 127 * 64) = 15 ∧
    opBfx (-1) 5 = 0 ∧ opBfxz (-1) 5 = 0 ∧ opBfi 1 0x15 (60 + 4 * 64) = 0x5000000000000001 ∧ opBfi 1 (-1) 5 = 1 ∧
    opBfx 8 (64 * 64) = 8 := by decide +kernel

/-- O2. -/
theorem test_predicates : regReadable two 65 = true ∧ [Instr.cmp 1 (.code 3) (.code 2) 2, .knot 1 2, .kmov 0 2, .kand 1 0 2,
    .kor 1 0 2, .kxor 1 0 2].all (fun i => ready i two) = true ∧
    answers (.cmp 0 (.code 2) (.code 2) 2) two (fun t => t.t.k[2]! == BitVec.allOnes 64) = true ∧
    answers (.kmov 0 2) two (fun t => t.t.k[2]! == BitVec.allOnes 64) = true := by decide +kernel

/-- O3, O4: the jumps outside a gang, and a follower's transfers and loops, which go where its leader went. -/
theorem test_jumps : jumper.leaderEntry = none ∧ readable jumper (.code 2) = true ∧ flagOf (srcVal jumper (.code 2)) 0 = false ∧
    readable jumper (.code 31) = true ∧ flagOf (srcVal jumper (.code 31)) 0 = false ∧
    [Instr.j (-4), .jal (-4), .jr (.code 2), .jalr (.code 2) 5, .ret].all (fun i => ready i jumper) = true ∧
    answers (.j (-4)) jumper (fun t => t.t.pc == jumper.t.pc - 8) = true ∧
    follower.leaderEntry = some entry ∧ follower.t.rep = none ∧
    [Instr.jr (.code 2), .jalr (.code 2) 5, .ret, .bt (-4) 1, .bf (-4) 1, .loop 6 (.code 2) 2, .lnext 1, .lbrk 1].all
      (fun i => ready i follower) = true ∧ answers (.bt (-4) 1) follower (fun t => t.t.pc == 0x10040) = true := by
  decide +kernel

/-- O3: a branch taken and one not taken, each way. -/
theorem test_branches : regReadable jumper 65 = true ∧ regReadable jumper 66 = true ∧ predVal jumper 1 ≠ 0 ∧ predVal jumper 2 = 0 ∧
    [Instr.bt (-4) 1, .bf (-4) 1, .bt (-4) 2, .bf (-4) 2].all (fun i => ready i jumper) = true ∧
    answers (.bt (-4) 1) jumper (fun t => t.t.pc == jumper.t.pc - 8) = true ∧
    answers (.bf (-4) 1) jumper (fun t => t.t.pc == jumper.t.pc + 4) = true := by decide +kernel

/-- O4: LOOP of level 2 within levels 0 and 1, its body in theirs; a count of 0; the end of level 1's body. -/
theorem test_loops : inLoop.leaderEntry = none ∧ readable inLoop (.code 2) = true ∧ srcVal inLoop (.code 2) ≠ 0 ∧
    srcVal inLoop (.code 3) = 0 ∧ (∀ m, m < 2 → m < 3 → inLoop.t.lc[m]! = 0 ∨ 0x10010 ≤ (inLoop.t.lend[m]!).toNat) ∧
    inLoop.t.lc[1]! ≠ 0 ∧ [Instr.loop 6 (.code 2) 2, .lnext 1, .lbrk 1].all (fun i => ready i inLoop) = true ∧
    answers (.loop 6 (.code 2) 2) inLoop (fun t => t.t.lc[2]! == 5 && t.t.lend[2]! == 0x10010) = true ∧
    answers (.lnext 1) inLoop (fun t => t.t.lc[1]! == 1 && t.t.pc == 0xFF80) = true := by decide +kernel

/-- O5: a count of 3, and one of 0. -/
theorem test_rep : [(Src.code 2, false), (.code 5, true)].all (fun x =>
    let i := Instr.rep 1 2 1 x.1
    passes (repChecks (stride 1) (stride 2) (stride 1) (imageOf i) i.len) atRep fun r t =>
      t.leaderEntry.isNone && readable t x.1 && admits i atRep && quiet t && ((srcVal t x.1 == 0) == x.2) &&
      passes (repRange r.1 r.2 (stride 1) (stride 2) (stride 1) (srcVal t x.1).toNat) t (fun _ _ => true) &&
      portOf r.1 == none && decide (t.t.repcnt.toNat ≤ 3)) = true := by decide +kernel

/-- A follower of a gang at a REP whose count its leader took as 2. -/
def followerRep : State :=
  stored [(0x10000, 4, encodeWord (.rep 1 2 1 (.code 2))), (0x10004, 4, encodeWord (.add false (.code 3) (.code 2) 4))] follower

/-- O5: a follower takes its leader's count. -/
theorem test_rep_follower : (let i := Instr.rep 1 2 1 (.code 2)
    passes (repChecks (stride 1) (stride 2) (stride 1) (imageOf i) i.len) followerRep fun r t =>
      (match t.leaderEntry with | some e => e.decision == 2 | none => false) && admits i followerRep && quiet t &&
      passes (repRange r.1 r.2 (stride 1) (stride 2) (stride 1) 2) t (fun _ _ => true) && portOf r.1 == none &&
      decide (t.t.repcnt.toNat ≤ 2)) = true := by decide +kernel

/-- A thread that may halt its cluster. -/
def halting : State := onCtx (fun t => { t with stepctl := 1 }) lane

/-- O6: HALT stops the cluster where HEN is set, and otherwise traps. -/
theorem test_system : [Instr.nop, .ifence, .rel, .acq, .fence, .halt, .trap (.code 2), .svc (.code 2), .brkpt].all (fun i => ready i lane) = true ∧
    ready .halt halting = true ∧ bitOf halting.t.stepctl.toNat 0 = true ∧ bitOf lane.t.stepctl.toNat 0 = false ∧ readable two (.code 2) = true ∧
    answers (.trap (.code 2)) handled (fun t => t.t.tcause == 25 && t.t.tval == 7 && t.t.tpc == two.t.pc + 4 && t.t.pc == 0x30000) = true ∧
    answers .brkpt handled (fun t => t.t.tcause == 23 && t.t.tpc == two.t.pc) = true := by decide +kernel

/-- O7: the progress register, and a loop register outside a gang; the old value goes to d. -/
theorem test_csrs : [4, 16].all (fun n => let c := BitVec.ofNat 11 n
    inLoop.leaderEntry.isNone && !inLoop.follower inLoop.t.coreid && readable inLoop (.code 2) && inLoop.csrLegal n 5 &&
    inLoop.csrLegal n (inLoop.csr n ||| 5) && inLoop.csrLegal n (inLoop.csr n &&& ~~~5) &&
    [Instr.csrr c 5, .csrw c (.code 2) 5, .csrs c (.code 2) 5, .csrc c (.code 2) 5].all (fun i => admits i inLoop) &&
    quiet inLoop && quiet (inLoop.csrStore n 5)) = true ∧ (isLoopCsr 16 && ready (.csrr 16 9) follower) = true ∧
    answers (.csrs 16 (.code 2) 5) inLoop (fun t => t.t.s[5]! == 3 && t.t.lc[0]! == 7) = true := by decide +kernel

/-! Scalar memory accesses. The pad holds 0xFFEEDDCCBBAA9988 at 0x100, memory 0x8899AABBCCDDEEFF at 0x20000. -/



/-- O8, O60: a load of the pad and one of memory, its checks and its read. -/
theorem test_loads : Inv pointing ∧ [(Src.code 2, (2 : BitVec 3)), (.code 3, 1)].all (fun x =>
    let va := srcVal pointing x.1 + 1 * word (sizeOf3 x.2)
    readable pointing x.1 && admits (.ld 1 x.2 x.1 9) pointing && admits (.lda 1 x.2 x.1 9) pointing &&
    passes (resolve va (sizeOf3 x.2) Acc.load) pointing (fun p s1 => quiet s1 &&
      [false, true].all (fun acq => passes (loadFrom x.2 va (sizeOf3 x.2) acq p) s1 fun _ s2 => quiet s2) &&
      match p with | .mem k => !s1.poisoned k (sizeOf3 x.2) && unwatched s1 1 va (sizeOf3 x.2) | _ => false)) = true := by
  unfold Inv; decide +kernel

/-- Sign and zero extension (06 R100), by hand. -/
theorem test_load_values : leaves (.ld 1 2 (.code 2) 9) pointing 9 = 0xFFFFFFFFFFEEDDCC ∧
    leaves (.ld 1 6 (.code 2) 9) pointing 9 = 0xFFEEDDCC ∧ leaves (.lda 1 1 (.code 3) 9) pointing 9 = 0xFFFFFFFFFFFFCCDD ∧
    leaves (.ld 0 3 (.code 3) 9) pointing 9 = 0x8899AABBCCDDEEFF := by decide +kernel

/-- O8, O60: a store to the pad and one to memory. -/
theorem test_stores : [(Src.code 2, (2 : BitVec 3)), (.code 3, 3)].all (fun x =>
    let va := srcVal pointing x.1 + 1 * word (sizeOf3 x.2)
    let v := srcVal pointing (.code 4)
    readable pointing x.1 && readable pointing (.code 4) && admits (.st 1 x.2 x.1 (.code 4)) pointing &&
    admits (.stl 1 x.2 x.1 (.code 4)) pointing &&
    passes (resolve va (sizeOf3 x.2) Acc.store) pointing (fun p s1 => quiet s1 && unwatched s1 2 va (sizeOf3 x.2) &&
      passes (storeTo (.st 1 x.2 x.1 (.code 4)) va (sizeOf3 x.2) v p) s1 (fun _ s2 => quiet s2) &&
      passes (storeTo (.stl 1 x.2 x.1 (.code 4)) va (sizeOf3 x.2) v p) s1 (fun _ s2 => quiet s2) &&
      match p with | .mem _ => true | _ => false)) = true := by decide +kernel

/-- The low bytes of d, in little-endian order (06 R100), and the bytes around them. -/
theorem test_store_bytes : answers (.st 1 2 (.code 2) (.code 4)) pointing (fun t =>
      t.mem.readNat (padBase + 0x100) 8 == 0x55667788BBAA9988) = true ∧
    answers (.stl 1 1 (.code 3) (.code 4)) pointing (fun t => t.mem.readNat 0x20000 8 == 0x8899AABB7788EEFF) = true := by
  decide +kernel

/-- O9: each size, in the pad and in memory. -/
theorem test_atomics : [(true, Src.code 2), (false, .code 3)].all (fun x =>
    let n := if x.1 then 8 else 4
    readable pointing x.2 && readable pointing (.code 4) && readable pointing (.code 9) &&
    passes (resolveMem (srcVal pointing x.2) n Acc.amo) pointing (fun k s1 => !s1.poisoned k n && unwatched s1 3 (srcVal pointing x.2) n &&
      quiet (amoState 0 n true k (srcVal pointing (.code 4)) 0 s1)) &&
    [Instr.amoAdd x.1 true false (.code 4) x.2 9, .amoCas x.1 true false (.code 4) x.2 9, .amoFadd true false (.code 4) x.2 9,
      .amoBfadd2 true false (.code 4) x.2 9].all (fun i => admits i pointing)) = true := by decide +kernel

/-- 06 R106 to R109: the old value to d, the new one to memory; a word's old value is sign-extended. -/
theorem test_atomic_values : answers (.amoAdd true false false (.code 5) (.code 3) 9) pointing (fun t =>
      t.t.s[9]! == 0x8899AABBCCDDEEFF && t.mem.readNat 0x20000 8 == 0x8899AABBCCDDEF01) = true ∧
    answers (.amoMinn false false false (.code 5) (.code 3) 9) pointing (fun t =>
      t.t.s[9]! == 0xFFFFFFFFCCDDEEFF && t.mem.readNat 0x20000 4 == 2) = true ∧
    answers (.amoCas true false false (.code 5) (.code 3) 9) pointing (fun t => t.mem.readNat 0x20000 8 == 0x8899AABBCCDDEEFF) = true := by
  decide +kernel

/-- Pointing, with the pad's doubleword full. -/
def fullWord : State := { pointing with full := [padBase + 0x100] }

/-- O9: a condition on an empty and on a full word, and none. -/
theorem test_full_empty : [(pointing, (2 : BitVec 2), (0 : BitVec 2)), (pointing, 0, 2), (fullWord, 1, 1)].all (fun x =>
    let s := x.1
    readable s (.code 2) && readable s (.code 4) && classOf (srcVal s (.code 2)) != .remote &&
    [(Instr.ldx 3 x.2.1 x.2.2 (.code 2) 9, Acc.ldx (x.2.2 != 0)), (.stx 3 x.2.1 x.2.2 (.code 2) (.code 4), Acc.stx)].all (fun y =>
      admits y.1 s && passes (resolveMem (srcVal s (.code 2)) 8 y.2) s (fun k s1 => !s1.poisoned k 8 &&
        s1.transferOf s1.t.coreid == none && unwatched s1 3 (srcVal s (.code 2)) 8 &&
        feMet x.2.1.toNat (s1.full.contains (k / 8 * 8))))) = true := by decide +kernel

/-- O60: an atomic, an LDX and an STX with no request parked, nothing due after them. -/
theorem test_atomic_frames : Inv pointing ∧ passes (resolveMem (srcVal pointing (.code 3)) 8 Acc.amo) pointing (fun k s1 =>
      quiet (amoState 9 8 false k (srcVal pointing (.code 4)) (srcVal pointing (.code 9)) s1)) = true ∧
    [(Instr.ldx 3 1 2 (.code 2) 9, false, (9 : Code), (0 : Word)), (.stx 3 1 2 (.code 2) (.code 4), true, 0, 5)].all (fun x =>
      let r := fullWord.feRequest x.2.1 (srcVal fullWord (.code 2)) 8 1 2 x.2.2.2
      passes (resolveMem (srcVal fullWord (.code 2)) 8 (if x.2.1 then Acc.stx else Acc.ldx true)) fullWord fun k s1 =>
        s1.parked.isEmpty && admits x.1 fullWord &&
        quiet (State.feStep { s1 with t := { s1.t with dest := x.2.2.1, len := x.1.len, mode := .waiting .fe } } false r k).1) = true := by
  unfold Inv; decide +kernel

/-- 06 R112: LDX of a full word takes the value and leaves it empty. -/
theorem test_full_empty_values : answers (.ldx 3 1 2 (.code 2) 9) fullWord (fun t =>
    t.t.s[9]! == 0xFFEEDDCCBBAA9988 && t.full.isEmpty) = true := by decide +kernel

/-! Vector instructions: 1.0, 2.0, 3.0, 4.0 in v1 and 0.5 throughout v2, as f32. -/

/-- The accesses of an unshaped element-wise member, up to its last. -/
def elementwise (i : Instr) (s : State) (k : State → Bool) : Bool :=
  match memberOfInstr i with
  | some m =>
    let ty := workType s.t.elemType
    let w := typeBits ty
    let on := s.t.actives w
    m.q == 0 && m.acc.ok s.t.elemType && admits i s && passes (laneSources i w on m.a m.b m.d m.useD) s fun x s1 =>
      let rs := map3 (m.f ty s.t.rounding) x.2.1 x.2.2.1 x.2.2.2
      let fl := flagsOf on rs
      enabledFlags s1.t.vround fl == 0 && passes (writeVec m.d w x.1 on (rs.map (·.1))) (flagged s1 fl) fun _ s2 =>
        passes (moveFields (srcHandle m.a) (m.b.bind srcHandle) (handleOf m.d) 64 64 64) s2 fun _ s3 => quiet s3 && k s3
  | none => false

/-- O10, O11: registers; a literal and an old d. -/
theorem test_elementwise : elementwise (.vadd 0 (.code 2) (.code 1) 5) floats (fun _ => true) = true ∧
    elementwise (.vfma 0 (.lit32 0x3F000000) (.code 1) 5) floats (fun _ => true) = true ∧
    elementwise (.cVmac 1 2) floats (fun _ => true) = true ∧ floats.t.vmask = BitVec.allOnes 64 ∧
    [33, 34, 37].all (fun n => regReadable floats n) = true ∧ ready (.vadd 0 (.code 2) (.code 1) 5) floats = true := by decide +kernel

/-- 07 R124: by hand in f32. -/
theorem test_elementwise_values : leavesElem (.vadd 0 (.code 2) (.code 1) 5) floats 5 32 2 = 0x40600000 ∧
    leavesElem (.vsub 0 (.code 1) (.code 2) 5) floats 5 32 1 = 0xBFC00000 ∧ leavesElem (.vmul 0 (.code 2) (.code 1) 5) floats 5 32 3 = 0x40000000 ∧
    leavesElem (.vfms 0 (.code 2) (.code 1) 1) floats 1 32 0 = 0xBF000000 ∧ leavesElem (.vmax 0 (.code 2) (.code 1) 5) floats 5 32 9 = 0x3F000000 ∧
    leavesElem (.vneg 0 (.code 2) 5) floats 5 32 0 = 0xBF000000 ∧ leavesElem (.vgetexp 0 (.code 1) 5) floats 5 32 3 = 0x40000000 ∧
    leavesElem (.vclz 0 (.code 2) 5) (onCtx (fun t => { t with vtype := 4 }) floats) 5 32 0 = 2 := by decide +kernel

/-- One step of a shaped instruction, its accesses up to its write. -/
def shapedStep (i : Instr) (q : BitVec 3) (z : Nat) (a : Tensor) (b : Option Tensor) (d : Tensor) (useD : Bool)
    (f : Nat → Nat → Nat → Nat → Nat × Nat) (s : State) : Bool :=
  let r := s.t.shape q.toNat
  let zz := typeBits z / 8
  let p := stepElems a b d
  let st := stepAt r p s.t.vprog.toNat
  !s.inExchange && stridesFit r zz a b d && admits i s &&
  if s.t.vprog.toNat < shapeSteps r p then
    passes (shapedRead i r zz st a b d useD) s fun x s1 =>
      let rs := map3 (f s.t.rounding) x.2.2.1 x.2.2.2.1 x.2.2.2.2
      let fl := flagsOf (List.replicate st.2.1 true) rs
      enabledFlags s1.t.vround fl == 0 &&
        passes (shapedWrite st.2.1 x.1 x.2.1 a b d (rs.map (·.1))) (flagged s1 fl) fun _ s2 => quiet s2
  else quiet s

/-- O11: the first and the last of two steps, the completion, and a shape of no elements. -/
theorem test_shaped : [shaped 0 20, shaped 1 20, shaped 2 20, shaped 0 0].all (fun s =>
    shapedStep (.vadd 1 (.code 2) (.code 3) 2) 1 10 ⟨.code 3, 10⟩ (some ⟨.code 2, 10⟩) ⟨.code 2, 10⟩ false (addElem 10) s) = true := by
  decide +kernel

/-- 07 R136, R138: the last step of 20 elements is the 17th to the 20th. -/
theorem test_shaped_values : answers (.vadd 1 (.lit32 0x3F800000) (.code 3) 2) (shaped 0 20) (fun t =>
      t.t.vprog == 1 && t.t.pc == (shaped 0 20).t.pc && t.mem.readNat (padBase + 0x200) 4 != 0) = true ∧
    answers (.vadd 1 (.lit32 0x3F800000) (.code 3) 2) (shaped 1 20) (fun t =>
      t.t.vprog == 0 && t.t.pc == (shaped 0 20).t.pc + 8 && t.mem.readNat (padBase + 0x24C) 4 == 0x3F800000 &&
      t.mem.readNat (padBase + 0x250) 4 == 0) = true := by decide +kernel

/-- The accesses of an unshaped conversion. -/
def converts (i : Instr) (a : Src) (d : Code) (wide w : Nat) (used marks : List Bool) (fl : List Nat → Nat)
    (rs : List Nat → List (Nat × Nat)) (f : Ctx → Ctx) (s : State) : Bool :=
  admits i s && passes (touchFields i (srcHandle a) none (handleOf d) 64 0 64) s fun x s1 =>
    passes (readElems wide used x.1 a) s1 fun xs s2 =>
      enabledFlags s2.t.vround (fl xs) == 0 && passes (writeVec d w x.2.2 marks ((rs xs).map (·.1))) (flagged s2 (fl xs)) fun _ s3 =>
        passes (moveFields (srcHandle a) none (handleOf d) 64 0 64) { s3 with t := f s3.t } fun _ s4 => quiet s4

/-- Floats, with a scale in `qscale`. -/
def scaled : State := onCtx (fun t => { t with qscale := 0x7F }) floats

/-- O12: VCVT from bf16, VQNT with the block's bound 1.0 and VDQ under a scale of 1. -/
theorem test_conversions : let s := scaled
    let w := typeBits (workType s.t.elemType)
    let on := s.t.actives w
    let plan := quantPlan s.t.quantType (elemVal 10 0x3F800000).abs
    let cvt (xs : List Nat) := (List.range 16).map fun k => convert s.t.rounding 8 10 (xs.getD k 0)
    let codes (xs : List Nat) := (List.range 64).map fun k =>
      if k < 16 && s.t.active w k then plan.code s.t.quantType 10 (xs.getD k 0) else (0, 0)
    let dq (xs : List Nat) := (List.range 16).map fun k => dequant s.t.rounding s.t.quantType 0x7F 10 (xs.getD k 0)
    let all := List.replicate 64 true
    (workType s.t.elemType == 10 && isFloatT s.t.elemType &&
    converts (.vcvt 0 8 (.code 1) 5) (.code 1) 5 16 w (on.take 16) on (fun xs => flagsOf on (cvt xs)) cvt id s &&
    converts (.vqnt 0 (.lit64 0x3F800000) (.code 1) 5) (.code 1) 5 w 8 on all (fun xs => plan.flags ||| flagsOf all (codes xs)) codes
      (fun t => { t with qscale := BitVec.ofNat 8 plan.byte }) s &&
    converts (.vdq 0 (.lit64 0x7F) (.code 1) 5) (.code 1) 5 8 w on on (fun xs => flagsOf on (dq xs)) dq id s) = true := by decide +kernel

/-- A shape of 16 elements of the codes' type, with a scale's source in `s5`. -/
def quantized : State :=
  let s := onCtx (fun t => { t with vtype := 0x2A }) (shaped 0 16)
  onCtx (fun t => { t with q := t.q.set! 0 (shape 0 16 1 1 1 s.t.quantType) }) s

/-- O12: the conversions over a shape. -/
theorem test_shaped_conversions :
    shapedStep (.vcvt 1 8 (.code 3) 2) 1 10 ⟨.code 3, 8⟩ none ⟨.code 2, 10⟩ false (fun m x _ _ => convert m 8 10 x) (shaped 0 16) = true ∧
    shapedStep (.vqnt 1 (.code 5) (.code 3) 2) 1 quantized.t.quantType ⟨.code 3, 10⟩ none ⟨.code 2, quantized.t.quantType⟩ false
      (fun _ x _ _ => (quantPlan quantized.t.quantType (elemVal 10 2).abs).code quantized.t.quantType 10 x) quantized = true ∧
    shapedStep (.vdq 1 (.code 5) (.code 3) 2) 1 10 ⟨.code 3, (shaped 0 16).t.quantType⟩ none ⟨.code 2, 10⟩ false
      (fun m x _ _ => dequant m (shaped 0 16).t.quantType 2 10 x) (shaped 0 16) = true ∧
    shapeType (quantized.t.shape 1) = quantized.t.quantType ∧ isFloatT quantized.t.elemType = true := by decide +kernel

/-! Group members, reductions, the exact accumulator, vector memory accesses and shape slots. -/

/-- The accesses of a member of whole vectors. -/
def wholeMember (i : Instr) (acc : Accepts) (a : Src) (b : Option Src) (d : Code) (ok : State → Bool)
    (used : State → Nat → List Bool → List Nat → List Bool) (f : State → Nat → List Nat → List Nat → List Nat) (s : State) : Bool :=
  let w := typeBits (workType s.t.elemType)
  let on := s.t.actives w
  acc.ok s.t.elemType && admits i s && passes (touchFields i (srcHandle a) (b.bind srcHandle) (handleOf d) 64 64 64) s fun x s1 =>
    let go (ys : List Nat) (s2 : State) : Bool := ok s2 && passes (readElems w (used s2 w on ys) x.1 a) s2 fun xs s3 => ok s3 &&
      passes (writeVec d w x.2.2 on (f s3 w xs ys)) s3 fun _ s4 =>
        passes (moveFields (srcHandle a) (b.bind srcHandle) (handleOf d) 64 64 64) s4 fun _ s5 => quiet s5
    match b with
    | some y => passes (readElems w on x.2.1 y) s1 go
    | none => go [] s1

/-- O13: VSEL, VPERM and VSLIDE; VBCAST, VINS, VEXT and VCMP; VZERO. -/
theorem test_groups : wholeMember (.vsel 1 (.code 2) (.code 1) 5) .bytes (.code 1) (some (.code 2)) 5
      (fun x => regReadable x 65) (fun _ _ m _ => m) (fun x w xs ys =>
        (List.range (512 / w)).map fun i => selBytes (predVal x 1) (i * (w / 8)) (w / 8) (xs.getD i 0) (ys.getD i 0)) floats = true ∧
    wholeMember (.vperm (.code 2) (.code 1) 5) .bits (.code 1) (some (.code 2)) 5 (fun _ => true)
      (fun _ w m ys => namedElems (512 / w) m ys) (fun _ w xs ys => ys.map fun j => xs.getD (j % (512 / w)) 0) floats = true ∧
    wholeMember (.vslide (.lit32 1) (.code 1) 5) .bits (.code 1) none 5 (fun x => readable x (.lit32 1))
      (fun _ _ m _ => m.drop 1 ++ [false]) (fun _ w xs _ => (List.range (512 / w)).map fun i => if i = 0 then 0 else xs.getD (i - 1) 0) floats = true ∧
    (floats.t.elemType ≤ 12 ∧ Accepts.arith.ok floats.t.elemType = true ∧ isIntT (workType floats.t.elemType) = false) ∧
    [Instr.vbcast (.code 3) 5, .vins (.code 5) (.code 3) 5, .vext (.code 5) (.code 1) 9, .vcmp 0 (.code 2) (.code 1) 1, .cVzero 4].all
      (fun i => ready i floats) = true := by decide +kernel

/-- O13: the accesses of the members that mix scalars, vectors and predicates. -/
theorem test_group_accesses : let on := floats.t.actives 32
    (passes (touchFields (.vbcast (.code 3) 5) none none (handleOf 5) 0 0 64) floats (fun x s1 =>
      passes (writeVec 5 32 x.2.2 on (List.replicate 16 ((srcVal s1 (.code 3)).toNat % 2 ^ 32))) s1 fun _ s2 =>
        passes (moveFields none none (handleOf 5) 0 0 64) s2 fun _ s3 => quiet s3) &&
    passes (touchFields (.vext (.code 5) (.code 1) 9) (srcHandle (.code 1)) none none 64 0 0) floats (fun x s1 =>
      readable s1 (.code 5) && passes (readElems 32 ((List.range 16).map (· == 2)) x.1 (.code 1)) s1 fun _ s2 => quiet s2) &&
    passes (touchFields (.vcmp 0 (.code 2) (.code 1) 1) (srcHandle (.code 1)) (srcHandle (.code 2)) none 64 64 0) floats (fun x s1 =>
      passes (readElems 32 on x.1 (.code 1)) s1 fun xs s2 => passes (readElems 32 on x.2.1 (.code 2)) s2 fun ys s3 =>
        enabledFlags s3.t.vround (flagsOf on ((xs.zip ys).map fun p => (0, (vcmpHolds 0 10 p.1 p.2).2))) == 0) &&
    passes (writeVec 4 32 [] on (List.replicate 16 0)) floats (fun _ s1 => quiet s1)) = true := by decide +kernel

/-- 07 R126: by hand. A slide by 1 moves element 0 to 1; element 2 is 3.0. -/
theorem test_group_values : leavesElem (.vslide (.lit32 1) (.code 1) 5) floats 5 32 1 = 0x3F800000 ∧
    leavesElem (.vslide (.lit32 1) (.code 1) 5) floats 5 32 0 = 0 ∧ leaves (.vext (.lit32 2) (.code 1) 9) floats 9 = 0x40400000 ∧
    leavesElem (.vins (.lit32 3) (.lit32 7) 5) floats 5 32 3 = 7 ∧ leavesElem (.vbcast (.lit32 7) 5) floats 5 32 15 = 7 ∧
    leavesElem (.vperm (.lit32 2) (.code 1) 5) floats 5 32 9 = 0x40400000 ∧
    answers (.vcmp 1 (.code 2) (.code 1) 1) floats (fun t => t.t.k[1]!.toNat % 2 ^ 16 != 0) = true := by decide +kernel

/-- O14: the reductions of four elements and zeros, and VROWMAX by the first member of a gang. -/
theorem test_reductions : [Instr.vredsum (.code 1) 5, .vredmax (.code 1) 5, .vredmin (.code 1) 5, .vredamax (.code 1) 5].all (fun i =>
      admits i floats && passes (activeElems i .arith (.code 1)) floats fun x s1 =>
        [redSum x.1 s1.t.rounding x.2, redPick true x.1 x.2, redPick false x.1 x.2, redAmax x.1 x.2].all fun r =>
          enabledFlags s1.t.vround r.2 == 0 && passes (writeFirst 5 r.1) (flagged s1 r.2) fun _ s2 => quiet s2) = true ∧
    (Accepts.floats.ok leader.t.elemType && (leader.formedGang leader.t.coreid).isSome && !leader.inExchange &&
      admits (.vrowmax (.code 1) 5) leader && quiet leader &&
      passes (activeElems (.vrowmax (.code 1) 5) .floats (.code 1)) leader fun x s1 =>
        enabledFlags s1.t.vround (redAmax x.1 x.2).2 == 0) = true := by decide +kernel

/-- 07 R131: 1 + 2 + 3 + 4 is 10; the greatest is 4. -/
theorem test_reduction_values : leavesElem (.vredsum (.code 1) 5) floats 5 32 0 = 0x41200000 ∧
    leavesElem (.vredmax (.code 1) 5) floats 5 32 0 = 0x40800000 ∧ leavesElem (.vredamax (.code 1) 5) floats 5 32 0 = 0x40800000 := by
  decide +kernel

/-- A thread with ten words for an exact sum at pad offset 0x240. -/
def summing : State := regs [(2, padPtr 0x240)] floats

/-- O15: numbers, a source that is none, the read and the clearing. -/
theorem test_accumulator : [(Src.code 1, false), (.lit32 0x7FC00000, true)].all (fun x =>
      readable summing (.code 2) && admits (.vxadd x.1 (.code 2)) summing && passes (readElems 32 [] [] x.1) summing fun ys s1 =>
        passes (accumulator (srcVal summing (.code 2)) true) s1 fun k s2 =>
          let xs := ((summing.t.actives 32).zip ys).filterMap fun (m, y) => if m then some y else none
          unwatched s2 3 (srcVal summing (.code 2)) 80 && (xs.any (fun y => (exactAdd y 0).2 != 0) == x.2) &&
          enabledFlags s2.t.vround flNv == 0 && quiet s2 &&
          (x.2 || passes (writeWords k (s2.mem.readNat k 80) (xs.foldl (fun acc y => (exactAdd y acc).1) (s2.mem.readNat k 80)) 10) s2
            fun _ s3 => quiet (s3.bankArrive k 80))) = true ∧
    passes (accumulator (srcVal summing (.code 2)) true) summing (fun k s1 => unwatched s1 3 (srcVal summing (.code 2)) 80 &&
      enabledFlags s1.t.vround (exactRead s1.t.rounding (s1.mem.readNat k 80)).2 == 0) = true ∧
    passes (accumulator (srcVal summing (.code 2)) false) summing (fun _ s1 => unwatched s1 3 (srcVal summing (.code 2)) 80) = true ∧
    [Instr.vxrd (.code 2) 9, .vxclr (.code 2)].all (fun i => ready i summing) = true := by decide +kernel

/-- O16: VLD without and with an offset, VLDB, VGATH with the offsets of v9. -/
theorem test_vector_memory : readable summing (.code 2) = true ∧ [(Instr.vld (.code 0) (.code 2) 5, false, false, Src.code 0),
      (.vld (.lit32 0x40) (.code 2) 5, false, false, .lit32 0x40), (.vldb (.code 0) (.code 2) 5, false, true, .code 0),
      (.vgath (.code 9) (.code 2) 5, true, false, .code 9)].all (fun (i, gather, one, b) =>
        admits i summing && passes (vmemType i) summing fun y s0 => s0 == summing &&
          passes (vmemAddrs y.1 gather (srcVal summing (.code 2)) b) summing fun vas s1 =>
            let on := s1.t.actives y.1
            passes (locate Acc.load y.2 (marked on (if one then List.replicate (512 / y.1) (vas.headD 0) else vas))) s1 fun ks s2 =>
              passes (readFound y.2 (if one then ks.take 1 else ks)) s2 fun xs s3 =>
                passes (writeVec 5 y.1 [] on (spread on (if one then ks.map fun _ => xs.headD 0 else xs))) s3 fun _ s4 => quiet s4) = true := by
  decide +kernel

/-- O16, O60: VST and VSCAT. -/
theorem test_vector_stores : Inv summing ∧ [(Instr.vst (.code 0) (.code 2) (.code 1), false), (.vscat (.code 9) (.code 2) (.code 1), true)].all (fun x =>
      admits x.1 summing && passes (vmemType x.1) summing fun y s0 => s0 == summing &&
        passes (vmemAddrs y.1 x.2 (srcVal summing (.code 2)) (if x.2 then .code 9 else .code 0)) summing fun vas s1 =>
          passes (readElems y.1 [] [] (.code 1)) s1 fun xs sx => sx == s1 &&
            passes (locate Acc.store y.2 (marked (s1.t.actives y.1) vas)) s1 fun ks s2 =>
              passes (watchFound y.2 ks) s2 fun _ s3 => quiet s3 &&
                passes (writeFound y.2 ks (marked (s1.t.actives y.1) xs)) s3 fun _ s4 => quiet s4) = true := by
  unfold Inv; decide +kernel

/-- 07 R134: VST puts 1.0, 2.0 at the address. -/
theorem test_vector_store_bytes : answers (.vst (.code 0) (.code 2) (.code 1)) summing (fun t =>
    t.mem.readNat (padBase + 0x240) 8 == 0x400000003F800000) = true := by decide +kernel

/-- A thread with a shape record at pad offset 0x240. -/
def recorded : State := { summing with mem := summing.mem.writeNat (padBase + 0x240) 32 (shape 0 20 1 1 1 10).toNat }

/-- O16, O60: SHPLD and SHPST. -/
theorem test_shape_slots : Inv recorded ∧ readable recorded (.code 2) = true ∧ [Instr.shpld 1 (.code 2), .shpst 1 (.code 2)].all (fun i => ready i recorded) = true ∧
    passes (resolveMem (srcVal recorded (.code 2)) 32 Acc.load) recorded (fun k s1 =>
      passes (readPlain 1 (srcVal recorded (.code 2)) k 32) s1 fun x s2 => bitsOf x 224 8 < 14 && bitsOf x 232 24 == 0 && quiet s2) = true ∧
    passes (resolveMem (srcVal recorded (.code 2)) 32 Acc.store) recorded (fun _ s1 => quiet s1 && unwatched s1 2 (srcVal recorded (.code 2)) 32) = true ∧
    answers (.shpld 1 (.code 2)) recorded (fun t => t.t.q[0]! == shape 0 20 1 1 1 10) = true := by unfold Inv; decide +kernel

/-! Ring handles, matrix members, copies, tags and streams. -/

/-- O17: HBIND as consumer, and as producer. -/
theorem test_handle_binds : [(Src.lit64 0x10001, true), (.lit64 2, false)].all (fun x =>
    let s := bound .unbound 0
    let bv := srcVal s x.1
    readable s (.code 2) && (s.transferOf s.t.coreid).isNone && (s.t.h[0]!).role == .unbound && fieldOf bv 17 47 == 0 &&
    flagOf bv 16 == x.2 && admits (.hbind x.1 (.code 2) 32) s &&
    passes (findObjectAs (refOf (srcVal s (.code 2))) (srcVal s (.code 2))) s fun y s1 =>
      let o := s1.obj y.1
      o.kind == Obj.ring && s1.ringLegal s1.t.coreid (s1.partNo s1.t.coreid) y.2 o && o.flags &&& roleBit x.2 == 0 &&
      decide (max 1 (fieldOf bv 0 16) ≤ o.expected) && !tableFull (s1.table s1.t.coreid) y.2 (ringDuty x.2) && quiet s1) = true := by
  decide +kernel

/-- O17: a consumer's step and end, a producer's, and HSTAT. -/
theorem test_handles : [(bound .consumer 1, true), (bound .consumer 0, false), (bound .producer 0, true), (bound .producer 1, true)].all (fun x =>
    let s := x.1
    let h := s.t.h[0]!
    (s.transferOf s.t.coreid).isNone && (s.subscribed s.t.coreid h).isNone && h.cursor == 0 && h.role != .unbound &&
    [Instr.hadvc 32, .hadvp 32, .hstat 32 9, .hunbind 32].all (fun i => ready i s) &&
    passes (handleRing h) s fun y s1 => quiet s1 &&
      (let o := s1.obj y.1
       if h.role == .consumer then (o.arrived != 0) == x.2 else o.arrived < o.expected)) = true := by decide +kernel

/-- 07 R141: HADVC frees a slot of the ring. -/
theorem test_handle_step : answers (.hadvc 32) (bound .consumer 1) (fun t => (t.obj key400).arrived == 0) = true ∧
    answers (.hadvp 32) (bound .producer 0) (fun t => (t.obj key400).arrived == 1) = true := by decide +kernel

/-- A thread that may issue jobs over two tiles: `s4` is 0, a window; `s2` names a signal owed. -/
def multiplier (a b : Nat) : State :=
  tiled a b [] (regs [(4, 0), (5, padPtr 0x480)] (withObj (object 9 3 0 5) [owes .signal 3 0 0] lane))

/-- A thread that may issue tile jobs: a source in memory, a lawful accumulator descriptor. -/
def tileUser : State := regs [(3, 0x20000), (4, word (2 ^ 32 * 4 + 2 ^ 48 * 4))] (multiplier 0 0)

/-- Whether a job whose references pass goes into the queue. -/
def issues (op : JobOp) (rs : List JobRange) (wait done : Option (Word × Nat × Nat)) (s1 : State) : Bool :=
  passes (checkRanges rs) s1 fun _ s2 => !s2.queueFull && s2.jobOwed done && s2.jobRankOk (s2.newJob op wait done) done &&
    quiet (s2.admitJob (s2.newJob op wait done))

/-- O18: the two references of a multiply, with none and with a done object; tiles of the three members' types. -/
theorem test_multiplies : [(multiplier 0 0, (0 : BitVec 5), (0 : BitVec 5), mmaTypes, Instr.mma true false 0 1 4 0 0, JobOp.mma true false 0 1 0 0),
      (multiplier 0 0, 0, 2, mmaTypes, .mma true false 0 1 4 0 2, .mma true false 0 1 0 0),
      (multiplier 0 1, 0, 0, mmasTypes, .mmas 0 0 1 0 4 0 0, .mmas 16 16 0 1 0 0),
      (multiplier 9 13, 0, 0, mmaqTypes, .mmaq true false 0 1 4 0 0, .mmaq true false 0 1 0 0)].all (fun (s, x, y, types, i, op) =>
    let ca := ((s.cluster 0).tcfg.toList).getD 0 0
    let cb := ((s.cluster 0).tcfg.toList).getD 1 0
    let wv := srcVal s (.code 4)
    readable s (.code 4) && cfgRows ca != 0 && cfgRows cb != 0 && (types (cfgType ca) (cfgType cb)).any (fun limit => cfgLen ca ≤ limit) &&
    cfgLen ca == cfgLen cb && fieldOf wv 10 6 == 0 && fieldOf wv 23 41 == 0 &&
    windowFits (fieldOf wv 0 10) (fieldOf wv 16 7) (cfgRows ca) (cfgRows cb) && admits i s &&
    passes (jobRef x.toNat (srcVal s (.code (x.setWidth 6)))) s fun wait s1 =>
      passes (jobRef y.toNat (srcVal s (.code (y.setWidth 6)))) s1 fun done s2 => issues op [] wait done s2) = true := by decide +kernel

/-- O18: the tile jobs. -/
theorem test_tile_jobs : readable tileUser (.code 3) = true ∧ passes (matDone 2) tileUser (fun done s1 =>
      let v := srcVal s1 (.code 4)
      let tile := ((s1.cluster 0).tcfg.toList).getD 0 0
      issues (.tzero 0) [] none done s1 && cfgRows tile != 0 && descLawful v true &&
      issues (.acz v) [] none done s1 && issues (.tld 0 0x20000 0) [⟨0x20000, cfgRows tile * cfgRowSize tile, Acc.engineLoad, 64⟩] none done s1 &&
      [Instr.tzero 0 2, .tld 0 (.code 3) 2 (.code 0), .acz (.code 4) 2].all (fun i => admits i s1)) = true ∧
    passes (matDone 0) tileUser (fun done s1 =>
      let v := word (2 ^ 32 * 4 + 2 ^ 48 * 4 + 10 * 2 ^ 60)
      [10, 9, 8].contains (descType v) && descLawful v false && s1.t.acscale != 255 &&
      issues (.acrd 0x20000 v) [⟨0x20000, descBytes v, Acc.engineStore, 64⟩] none done s1 &&
      issues (.acwr 0x20000 v) [⟨0x20000, descBytes v, Acc.engineLoad, 64⟩] none done s1 &&
      [Instr.acrd (.code 3) 0 (.lit64 v), .acwr (.code 3) 0 (.lit64 v)].all (fun i => admits i s1)) = true := by decide +kernel

/-- O18: JPOLL and JWAIT of a job that has left the queue. -/
theorem test_job_polls : let s := { lane with clusters := [(0, { Cluster.reset with nextJob := 9 })] }
    ([Instr.jpoll (.lit64 5) 9, .jwait (.lit64 5)].all (fun i => ready i s) && (s.transferOf s.t.coreid).isNone &&
    (s.cluster 0).validJob 5 && ((s.cluster 0).jobs.find? (·.id == 5)).isNone) = true := by decide +kernel

/-- An admission to come: thread 2 waits for the queue. -/
def offering : State :=
  State.modCluster { lane with others := [(2, { programCtx .lane 2 with mode := .waiting (.jobQueue none) })] } 0
    fun c => { c with offers := [{ job (.tzero 0) false with core := 2 }] }

/-- O19: an admission, the starts of a tile job and of a multiply, and completions: from memory, from a pad, with a done object. -/
theorem test_matrix_events : (offering.cluster 0).jobs.length < 16 ∧ ((offering.cluster 0).offers.find? (fun j => (offering.cluster 0).turnIs (laneOf j.core))).isSome = true ∧
    (offering.ctx 2).mode = .waiting (.jobQueue none) ∧
    [job (.tzero 0) false, job (.mma true false 0 1 0 0) false].all (fun j =>
      let s := ev { x := 0, y := 5 } (tiled 0 0 [j] lane)
      let c := s.cluster 0
      (c.jobs.find? (·.id == 5) == some j) && s.jobReady c j && (!j.op.multiply || (!c.jobs.any (fun q => q.running && q.op.multiply) &&
        !(c.ahead j.id).any (fun q => q.op.multiply && !q.running && s.jobReady c q)))) = true ∧
    [job (.tld 0 0x20000 0) true, job (.tld 0 (padPtr 0x200) 0) true, { job (.tzero 0) true with done := some (key400, loc400) }].all (fun j =>
      let s := ev { x := 0, y := 5 } (tiled 0 0 [j] (withObj (object 9 3 0 5) [] lane))
      ((s.cluster 0).jobs.find? (·.id == 5) == some j) && j.running && j.done.all (fun k => !s.padHeld engineAgent k.1) &&
      j.op.addrs.all (fun a => classOf a != .pad || !s.padHeld engineAgent (padBase + padCoreOf j.core a))) = true := by decide +kernel

/-- O19: an engine's step at a signal, a counter and no object; at a barrier in its phase, in the next one, in another. -/
theorem test_engine_steps : [(object 9 3 0 5, (0 : BitVec 16)), (object 9 5 0 5, 0), (object 9 0 0 0, 0)].all (fun (o, _) =>
      let s := withObj o [] lane
      (s.obj key400).kind == o.kind) = true ∧
    [(0, 0, true), (1, 1, false), (2, 7, false)].all (fun (c, due, fits) =>
      let o := (withObj (object 9 1 3 c) [] lane).obj key400
      o.isBarrier && !o.broken && (due == o.phase || due == o.phase + 1 || c == 2) && decide (due = o.phase ∧ o.arrived + 1 ≤ o.expected) == fits) = true ∧
    ((withObj (object 9 3 0 5) [] lane).engineStep 0 key400 0 1 4).obj key400 = { object 9 3 0 6 with status := 4 } := by decide +kernel

/-- O20: a copy of a program to memory, and one to another module. -/
theorem test_copy_program : (channel.runningCopy = some programCopy ∧ readable channel (.code 2) = true ∧ readable channel (.code 4) = true ∧
      programCopy.stopping = false) ∧
    [Instr.cxrd (.code 5) 9, .burst (.code 4) (.code 2) (.code 3), .cxdone (.code 0)].all (fun i => ready i channel) = true ∧
    programCopy.field (srcVal channel (.code 5)).toNat ≠ none ∧ fieldOf (srcVal channel (.code 0)) 4 60 = 0 ∧
    (0 < (srcVal channel (.code 4)).toNat ∧ (srcVal channel (.code 4)).toNat ≤ programCopy.remaining) ∧
    passes (burstKeys Acc.load 16 (srcVal channel (.code 2))) channel (fun _ s1 =>
      passes (burstKeys Acc.store 16 (srcVal channel (.code 3))) s1 fun _ s2 => quiet s2) = true := by decide +kernel

/-- A copy program that writes to another module. -/
def sender : State :=
  onCtx (fun t => { t with peers := t.peers.set! 1 (word (2 ^ 63)) }) (regs [(3, word (2 ^ 58 + 0x21000))]
    (channel.modPart 0 fun x => { x with peers := x.peers.set! 1 (word (2 ^ 63)) }))

/-- O20: the remote burst; its bytes in flight, as by hand. -/
theorem test_remote_burst : classOf (srcVal sender (.code 3)) = .remote ∧ sender.peerOk sender.t.coreid 1 = true ∧
    answers (.burst (.code 4) (.code 2) (.code 3)) sender (fun t => t.copies.any fun c => c.inFlight == 1 && c.remaining + 16 == programCopy.remaining) = true := by
  decide +kernel

/-- O21: tags. -/
theorem test_tags : let s := onCtx (fun t => { t with tagrdy := 7 }) lane
    ([Instr.tagrd 9, .tagclr (.lit64 6), .tagwany (.lit64 6) 9, .tagwall (.lit64 6) 9, .tagff (.lit64 6) 9].all (fun i => ready i s) &&
    (s.transferOf s.t.coreid).isNone && s.t.tagrdy &&& 6 == 6 && quiet (s.acquire s.t.coreid)) = true ∧
    leaves (.tagff (.lit64 6) 9) (onCtx (fun t => { t with tagrdy := 7 }) lane) 9 = 1 := by decide +kernel

/-- A bound handle with a stream's shape in slot 1. -/
def streaming (r : Role) : State := onCtx (fun t => { t with q := t.q.set! 0 (shape 0x20000 16 1 1 1 10) }) (bound r 0)

/-- O21: SUBSCR for both roles; UNSUB that waited. -/
theorem test_subscriptions : [Role.consumer, .producer].all (fun r =>
      let s := streaming r
      let h := s.t.h[0]!
      (s.transferOf s.t.coreid).isNone && h.role != .unbound && (s.subscribed s.t.coreid h).isNone && shapeType (s.t.shape 1) < 13 &&
      admits (.subscr 1 32) s && classOf (shapeBase (s.t.shape 1)) == .global && streamLength (s.t.shape 1) != 0 &&
      passes (handleRing h) s fun y s1 => quiet s1 && (s1.obj y.1).flags &&& roleBit (r == .consumer) == 0) = true ∧
    (let s := onCtx (fun t => { t with mode := .waiting .unsub }) (streaming .producer)
     (s.subscribed s.t.coreid (s.t.h[0]!)).isNone && ready (.unsub 32) s) = true := by decide +kernel

/-- O22: a kick, an accept, a template, a start. -/
theorem test_copy_starts : let s := ev { x := 0, y := 1, v := word (0x500 + 2 ^ 58) } kicker
    let q := { programCopy with channel := 1, started := false }
    let w := ev { x := 0, y := 1 } { kicker with copies := [q], parts := [(0, { programPartition with supervisor := 0 })] }
    let a := { s with t := { s.t with mode := .waiting .copyQueue } }
    ((s.ctx 0).mode == .running && passes (kickStore .kick 0 1 s.arg.v) (s.swapIn 0) (fun _ _ => true) &&
    (a.ctx 0).mode == .waiting .copyQueue && (a.freeRecord 0 (a.ctx 0).sliceid.toNat).isSome && w.isSup 0 && w.channelQueue 0 1 == [q]) = true := by decide +kernel

/-- A collective copy with a packet that has no acknowledgement, at an acknowledgement or its time. -/
def unacked (retries tries z : Nat) : State :=
  let d := { programCopy with
    dest := word (2 ^ 58 + 0x21000), cref := word (2 ^ 62), inFlight := 1, resend := [⟨4, 0x20000, word (2 ^ 58 + 0x21000), 16, 5, tries⟩]
    retries := retries }
  ev { d.arg with z := z, v := 4 } { lane with copies := [d], time := 200000 }

/-- O22: a completion; acknowledgements of a local transfer, of a packet, of one that has none any more; a packet to send again, in a
round of the step's and past the last one. -/
theorem test_copy_ends : (let c := { programCopy with ended := true, inFlight := 0 }
     let s := ev c.arg { lane with copies := [c], time := 200000 }
     let l := ev c.localAck { lane with copies := [c] }
     s.copyOf s.arg == some c && c.ended && !c.held && !s.copyBlocked c && !s.padHeld engineAgent c.key && l.arg.nums.getD 1 0 == 1 &&
     l.copyOf l.arg == some c && s.arg.nums.getD 1 0 != 1 && (c.resend.find? (fun r => r.num == s.arg.v.toNat)).isNone) = true ∧
    [(0, 0, 0), (0, 0, 5), (2, 1, 6), (3, 2, 5), (3, 3, 0)].all (fun (retries, tries, z) =>
      let s := unacked retries tries z
      match s.copyOf s.arg with
      | some c => c.collective && s.arg.nums.getD 1 0 != 1 && (s.part c.part).collretry.toNat == 3 &&
          (c.resend.find? (fun r => r.num == s.arg.v.toNat)).any fun r => r.tries == tries && (z == 0 || z == 6 || (z == r.time &&
            decide (r.time + 100000 ≤ s.time)))
      | none => false) = true := by decide +kernel

/-- A stream's event at a ring with some full slots. -/
def streams (loader : Bool) (n : Nat) : State := ev { x := 0, y := loc400 } { withObj (ring n 0) [] lane with subs := [sub loader 0x20000] }

/-- O23: a loader with room, a storer with a full slot. -/
theorem test_streams : [true, false].all (fun l =>
    let s := streams l (if l then 0 else 1)
    let x := sub l 0x20000
    let o := s.obj key400
    s.locKey 0 loc400 == some key400 && s.eventSub l == some x && !x.ending && !x.faulted && o.kind == Obj.ring && !o.broken && !s.padHeld engineAgent key400 &&
    !s.padHeld engineAgent (padBase + o.basePad loc400) &&
    (if l then decide (o.arrived < o.expected) && (State.loadElems x 16 0 s).2.2.isNone
      else o.arrived != 0 && (State.storeElems x 16 0 (padBase + o.basePad loc400 + o.consumerIndex * o.slotSize) s).2.isNone)) = true := by
  decide +kernel

/-! Objects, waits and tasks. -/

/-- OBNEW's operand: a kind at the pad location of `ref`, with an expected count. -/
def newObject (kind x : Nat) : Word := word (2 ^ 32 + 0x400 + x / 2 ^ 16 * 2 ^ 34 + kind * 2 ^ 44 + x % 2 ^ 16 * 2 ^ 48)

/-- O25: the six kinds with their counts. -/
theorem test_obnew : [(1, 2), (2, 100), (3, 7), (4, 0), (5, 0), (6, 2)].all (fun x =>
    let s := lane
    let bv := newObject x.1 x.2
    let i := Instr.obnew (.lit64 bv) (.lit64 5) 9
    s.leaderEntry.isNone && admits i s && fieldOf bv 44 4 == x.1 && !flagOf bv 42 && !flagOf bv 33 && !flagOf bv 43 &&
    fieldOf bv 34 8 * 2 ^ 16 + fieldOf bv 48 16 == x.2 &&
    passes (findObject (word (fieldOf bv 0 33))) s fun y s1 => quiet s1 && passes (rankSpec i 5) s1 (fun _ t => t == s1) &&
      match creatorDuty x.1 x.2 false with
      | some k => !tableFull (s1.table 0) y.2 k && (!k.phased || ((findDuty (s1.table 0) y.2 .arrive).isNone &&
          (findDuty (s1.table 0) y.2 .bytes).isNone))
      | none => true) = true := by decide +kernel

/-- O25: a signal, and a ring that nobody holds, can be read and retired. -/
theorem test_objects : [object 9 3 0 5, ring 0 0].all (fun o =>
    let s := withObj o [] lane
    [Instr.obdel (.code 2), .rankof (.code 2) 9, .obrd (.lit64 2) (.code 2) 9].all (fun i => admits i s) && s.leaderEntry.isNone &&
    passes (findKind [1, 2, 3, 4, 5, 6] (refOf (srcVal s (.code 2)))) s fun y s1 => quiet s1 && y.2.2 == s1.obj y.1 &&
      !s1.waiters.any (·.key == y.1) && !s1.others.any (fun x => (s1.waitsOnRing y.1 x.2).isSome) && y.2.2.flags &&& 12 == 0 && !(s1.table 0 ++ s1.orphansOf 0).any (·.loc == y.2.1)) = true ∧
    leaves (.rankof (.code 2) 9) (withObj (object 9 3 0 5) [] lane) 9 = 9 := by decide +kernel

/-- O25: ARRIVE and ARRIVE.LEAVE of a barrier, at its last unit and before; ARRIVEB of some and of all bytes. -/
theorem test_arrivals : [(object 9 1 4 1, owes .arrive 2 0 0, (0 : Word)), (object 9 1 3 1, owes .arrive 2 0 0, 0),
      (object 9 2 40 1, owes .bytes 35 39 0, 30), (object 9 2 36 1, owes .bytes 35 35 0, 35)].all (fun (o, e, n) =>
    let s := withObj o [e] lane
    s.leaderEntry.isNone && [Instr.arrive (.code 2), .arriveLeave (.code 2), .arriveb (.lit64 n) (.code 2)].all (fun i => admits i s) &&
    passes (findDischarge [Obj.bar, Obj.bbar] (refOf (srcVal s (.code 2)))) s fun y s1 => quiet s1 && y.2.2 == s1.obj y.1 &&
      s1.dueAt 0 y.2.1 (arrivalDuty o) o.phase == [(e, false)] &&
      decide (o.arrived + e.count ≤ o.expected) && decide (n.toNat ≤ e.count)) = true ∧
    answers (.arrive (.code 2)) (withObj (object 9 1 3 1) [owes .arrive 2 0 0] lane) (fun t => (t.obj key400).phase == 1) = true := by
  decide +kernel

/-- O25, O26: at a retired location a discharge finds the duty that it ends. -/
theorem test_retired : let s := withObj { object 9 0 0 0 with flags := 1 } [owes .arrive 2 0 0, owes .signal 3 0 0] lane
    (passes (findDischarge [Obj.bar, Obj.bbar] (refOf (srcVal s (.code 2)))) s fun y s1 =>
      y.2.2.kind == 0 && s1.anyDuty 0 y.2.1 [.arrive, .bytes] == some (owes .arrive 2 0 0, false) &&
      s1.anyDuty 0 y.2.1 [.signal, .msg] == some (owes .signal 3 0 0, false) && quiet s1 &&
      answers (.signal (.lit64 2) (.code 2)) s fun t => (t.table 0).length == 1) = true := by decide +kernel

/-- O26: LOCK of a BROKEN lock. -/
theorem test_broken_lock : let s := withObj { object 9 4 0 0 with flags := 1 } [] lane
    (passes (findKind [Obj.lock] (refOf (srcVal s (.code 2)))) s fun y s1 => y.2.2.broken && admits (.lock (.code 2) 9) s &&
      s1.mayWait 0 (s1.table 0) 9 (fun _ => false) none && quiet (s1.acquire 0)) = true := by decide +kernel

/-- O24: a follower's instruction with a value, and one without. -/
theorem test_followers : follower.leaderEntry = some entry ∧ onceDest (.wait (.code 2) 9) = some (some 9) ∧
    onceDest (.arrive (.code 2)) = some none ∧ [Instr.wait (.code 2) 9, .arrive (.code 2)].all (fun i => ready i follower) = true ∧
    leaves (.wait (.code 2) 9) follower 9 = 99 := by decide +kernel

/-- O26: WAIT on a satisfied signal, on an unsatisfied one, of a barrier's later phase, and of a BROKEN barrier. -/
theorem test_wait : [(Src.code 2, object 9 3 0 5, ([] : List Oblig), true), (.lit64 (ref 7), object 9 3 0 5, [], false),
      (.lit64 (ref 1), object 9 1 3 1, [owes .arrive 2 0 2], false), (.lit64 (ref 1), { object 9 1 3 1 with flags := 1 }, [], true)].all
    (fun (a, o, os, ends) =>
      let s := withObj o os lane
      let v := BitVec.ofNat 16 (fieldOf (refOf (srcVal s a)) 48 16)
      admits (.wait a 9) s && s.leaderEntry.isNone && (s.transferOf s.t.coreid).isNone &&
      passes (findWhere Obj.awaitable (refOf (srcVal s a))) s fun y s1 =>
        let q := s1.obj y.1
        quiet ((s1.bankArrive y.1 32).acquire 0) && q == y.2.2 &&
        s1.mayWait 0 (s1.table 0) q.rank (fun x => q.isBarrier && barrierExempt y.2.1 v.toNat x) none && (q.broken || q.satisfies v) == ends) = true := by
  decide +kernel

/-- O26: SIGNAL of a signal with its duty, of a counter with and without one. -/
theorem test_signal : [(object 9 3 0 5, [owes .signal 3 0 0]), ({ object 9 5 0 5 with flags := 2 }, [owes .msg 3 0 0]), (object 9 5 0 5, [])].all
    (fun (o, os) =>
      let s := withObj o os lane
      admits (.signal (.lit64 2) (.code 2)) s && s.leaderEntry.isNone && passes (findDischarge [Obj.sig, Obj.ctr] (refOf (srcVal s (.code 2)))) s fun y s1 =>
        quiet s1 && y.2.2 == s1.obj y.1 && (o.kind != Obj.sig || (s1.discharge 0 y.2.1 .signal 2).isSome) &&
        (!o.dutyCtr || (s1.discharge 0 y.2.1 .msg 2).isSome)) = true ∧
    answers (.signal (.lit64 2) (.code 2)) (withObj (object 9 5 0 5) [] lane) (fun t => (t.obj key400).arrived == 2 + 5) = true := by
  decide +kernel

/-- O26: LOCK of a free lock and of a held one; UNLOCK. -/
theorem test_lock : [(object 9 4 0 0, ([] : List Oblig)), (object 9 4 0 77, []), (object 9 4 0 1, [owes .unlock 1 0 0])].all (fun (o, os) =>
    let s := withObj o os lane
    [Instr.lock (.code 2) 9, .unlock (.code 2)].all (fun i => admits i s) && s.leaderEntry.isNone && (s.transferOf s.t.coreid).isNone &&
    passes (findKind [Obj.lock] (refOf (srcVal s (.code 2)))) s (fun y s1 => quiet s1 && !o.broken &&
      if os.isEmpty then s1.mayWait 0 (s1.table 0) o.rank (fun _ => false) none && !tableFull (s1.table 0) y.2.1 .unlock
      else s1.dutyOf 0 y.2.1 .unlock == some (owes .unlock 1 0 0, false)) &&
    passes (findDischarge [Obj.lock] (refOf (srcVal s (.code 2)))) s (fun _ _ => true)) = true ∧
    answers (.lock (.code 2) 9) (withObj (object 9 4 0 77) [] lane) (fun t => t.waiters.length == 1) = true := by decide +kernel

/-- Another slice on thread 2, beside one that owes a duty. -/
def giver (o : Obj) (e : Oblig) : State :=
  let s := withObj o [e] lane
  { s with slices := s.slices ++ [{ programSlice false [2] with id := 2 ^ 32 + 2 }], others := [(2, programCtx .lane 2)] }

/-- O26: two units of a SIGNAL duty, and a lock's UNLOCK. -/
theorem test_obxfer : [(giver (object 9 3 0 5) (owes .signal 3 0 0), (2 + 3 * 2 ^ 32 : Word), Duty.signal, owes .signal 3 0 0),
      (giver (object 9 4 0 5) (owes .unlock 1 0 0), 1 + 4 * 2 ^ 32, .unlock, owes .unlock 1 0 0)].all (fun (s, bv, k, e) =>
    let dv : Src := .lit64 0x100000002
    let n := fieldOf bv 0 32
    s.leaderEntry.isNone && admits (.obxfer (.lit64 bv) (.code 2) dv) s && Duty.ofCode (fieldOf bv 32 3) == some k && n != 0 &&
    fieldOf bv 35 29 == 0 && decide (n ≤ e.count) && (k != .unlock || n == 1) &&
    passes (findKind [1, 2, 3, 4, 5, 6] (refOf (srcVal s (.code 2)))) s fun y s1 => quiet s1 && findDuty (s1.table 0) y.2.1 k == some e &&
      match s1.slice 0x100000002 with
      | some x => x.live && x.part == 0 && x.id != s1.t.sliceid.toNat && !mergeConflict (s1.sliceTable x) y.2.1 k e.due &&
          !tableFull (s1.sliceTable x) y.2.1 k &&
          (x.threads.find? fun c => !s1.waitAllows c (s1.addDuty 0 (s1.sliceTable x) ⟨y.2.1, k, n, 0, e.due, false, false, false⟩)).isNone
      | none => false) = true := by decide +kernel

/-- O27: SPAWN; TTARM with a counter that lets it fire at once, and one that does not. -/
theorem test_spawn : passes (readRecord (srcVal (spawner 0) (.code 2))) (spawner 0) (fun r s1 =>
      passes (checkRecord (.spawn (.code 2) 9) (srcVal (spawner 0) (.code 2)) r false) s1 fun _ s2 => (s2.part 0).hasRoom (recQueue r)) = true ∧
    [0, 50].all (fun n =>
      let s0 := (spawner (2 ^ 32 + 0x400)).setObj 0 key400 (object 9 5 0 3)
      let s := { s0 with mem := s0.mem.writeNat 0x20030 4 n }
      readable s (.code 2) && s.leaderEntry.isNone && ready (.ttarm (.code 2) 9) s && passes (readRecord (srcVal s (.code 2))) s fun r s1 =>
        passes (checkRecord (.ttarm (.code 2) 9) (srcVal s (.code 2)) r true) s1 fun _ s2 => quiet s2 &&
          counterHolds (s2.obj key400).arrived (recField r 48 4) == (n == 0)) = true ∧
    ready (.spawn (.code 2) 9) (spawner 0) = true ∧ answers (.spawn (.code 2) 9) (spawner 0) (fun t => t.slices.length == 2) = true := by
  decide +kernel

/-- A thread with a message's record at pad offset 0x600 and a counter to note its completion. -/
def writer (dst src len : Nat) : State :=
  regs [(2, padPtr 0x600)] (stored [(padBase + 0x600, 8, dst), (padBase + 0x608, 8, src), (padBase + 0x610, 8, (ref 0).toNat),
    (padBase + 0x618, 2, len)] (withObj (object 9 5 0 0) [] lane))

/-- O27: NOW, EXIT and YIELD of a thread and of a gang's first member; a local message. -/
theorem test_tasks : (lane.transferOf lane.t.coreid).isNone = true ∧ [Instr.now 9, .exit, .yield].all (fun i => ready i lane) = true ∧
    (lane.lowestDuty lane.t.coreid).isNone = true ∧ lane.formedGang lane.t.coreid = none ∧ lane.leaderEntry = none ∧
    [(lane, true), ({ lane with copies := [{ programCopy with inFlight := 1, resend := [⟨0, 0x20000, 0x21000, 16, 5, 0⟩] }] }, false)].all (fun (s, leaves) =>
      let t := (s.complete 4 0 0).afterTaken
      (t.slice s.t.sliceid.toNat).any fun x => x.state == .running && t.readyToLeave x == leaves) = true ∧
    ((leader.lowestDuty leader.t.coreid).isNone && admits .exit leader && (leader.formedGang leader.t.coreid).isSome) = true ∧
    (let s := writer (padPtr 0x700).toNat (padPtr 0x720).toNat 16
     admits (.msgsend (.code 2)) s && passes (readMessage (.msgsend (.code 2)) (srcVal s (.code 2))) s fun y s1 =>
       classOf y.1 != .remote && passes (localMessage y.1 y.2.1 y.2.2.1 y.2.2.2) s1 fun _ s2 => quiet s2) = true := by decide +kernel

/-! Gangs, domains and routers. -/

/-- O28: WPOS; a follower's WSTART; a gang to form; the end of a member. -/
theorem test_welt : let s := State.reset.withProgram 40
    ([Instr.wpos 9, .wstart (.lit64 2)].all (fun i => ready i s) && ready (.wstart (.lit64 2)) follower && follower.leaderEntry.isSome &&
    s.leaderEntry.isNone && (s.gangOf s.t.coreid).any (fun x => !x.2.1.formed && x.2.1.members.length == 2) &&
    (leader.formedGang leader.t.coreid).isSome && admits .wend leader && (follower.formedGang follower.t.coreid).isSome && admits .wend follower) = true := by
  decide +kernel

/-- O28: SYNC at level 0 by its last member, by another, and in a BROKEN domain. -/
theorem test_sync : [domain 1 false, domain 3 false, { domain 3 false with broken := true }].all (fun d =>
    let s := synced d
    readable s (.code 2) && s.leaderEntry.isNone && admits (.sync (.code 2) 9) s && quiet (s.acquire 0) &&
    (s.domainsOf 0).find? (fun x => x.2.level == 0) == some (0, d) && fieldOf (srcVal s (.code 2)) 2 62 == 0 &&
    !(s.domainsOf 0).any (fun x => x.2.transfer && x.2.level != 0) && s.mayWait 0 (s.table 0) d.rank (fun _ => false) (some 0)) = true := by
  decide +kernel

/-- O29: at cycle 10 of a transfer phase: MUXSEL; XMIT now and later; XRECV of a past and of a coming cycle. -/
theorem test_routers : let d := domain 1 true
    let s := synced d
    (s.transferOf s.t.coreid == some (0, d) && s.cycleOf d == 10 &&
    [Instr.muxsel (.code 2), .xmit (.code 3) 1, .xmit (.code 4) 1, .xrecv (.code 5) 9, .xrecv (.code 4) 9].all (fun i => ready i s) &&
    regReadable s 33 && srcVal s (.code 3) == 10 && srcVal s (.code 4) == 12 && srcVal s (.code 5) == 8 &&
    [10, 12].all (fun x => d.entry (clusterOf s.t.coreid) 0 x == slotCode s.t.coreid) && !s.stillComing 0 0 8) = true := by decide +kernel

/-- A thread in a transfer phase that waits for a router. -/
def waitsFor (m : Wait) (r : Word) (a : EventArg) : State :=
  onCtx (fun t => { t with mode := .waiting m, result := r, dest := 9 }) (ev a (synced (domain 1 true)))

/-- O29: a released wait, a gang's slot, a value at its router, an XMIT and an XRECV that waited. -/
theorem test_gang_events : let s := onCtx (fun t => { t with mode := .released false, result := 6, dest := 9 }) lane
    let g := ev { x := 2 ^ 32 + 1 } follower
    let f : Flit := ⟨0, 1, 7, 5, 0, 0⟩
    let r : State := { ev { x := 0, y := 1, z := 7, nums := [0, 0] } (synced (domain 1 true)) with flits := [f] }
    let x := waitsFor .xmit 10 { x := 0, y := 0, z := 10, nums := [0, 0], bytes := leBytes 64 77 }
    let y := waitsFor .xrecv 9 { x := 0, y := 0, z := 9, nums := [0, 0] }
    (quiet s.finishWait && (g.gangs.find (2 ^ 32 + 1)).any (fun q => q.formed && !q.stopped) &&
    !g.slotBusy [0, coreAt 0 1] && !r.stillComing 0 0 6 && decide (90 + 7 ≤ r.time) &&
    (x.ctx 0).result == word (10 + 0 * 2 ^ 32) && decide (90 + 10 ≤ x.time) && (y.ctx 0).result == word 9 &&
    decide (9 < y.cycleOf (domain 1 true)) && !y.stillComing 0 0 9) = true := by decide +kernel

/-! Remote operations and their events. -/

/-- O30: a remote atomic; RST to a peer, to the peers of a mask, and to none. -/
theorem test_remote : (readable peering (.code 5) && readable peering (.code 2) && classOf (srcVal peering (.code 2)) == .remote &&
      fieldOf (srcVal peering (.code 2)) 0 57 % 8 == 0 && !peering.auditable peering.t.coreid && peering.peerOk peering.t.coreid 1 &&
      (peering.transferOf peering.t.coreid).isNone && unwatched peering 3 (srcVal peering (.code 2)) 8 && unwatched peering 2 (srcVal peering (.code 2)) 8 &&
      [Instr.ramoAdd true (.code 5) (.code 2), .ramoCas true (.code 5) (.code 2) 4, .ramoFadd (.code 5) (.code 2), .rst false 2 (.code 5) (.code 2) 0,
        .rst true 3 (.code 5) (.code 3) 4, .rst true 3 (.code 5) (.code 3) 0].all (fun i => ready i peering)) = true ∧
    (fieldOf (srcVal peering (.code 3)) 57 7 == 0 && srcVal peering (.code 4) == 2 && srcVal peering (.code 0) == 0 &&
      (setBits 64 2).all (peering.peerOk peering.t.coreid) && unwatched peering 2 (srcVal peering (.code 3)) 8) = true ∧
    answers (.ramoAdd true (.code 5) (.code 2)) peering (fun t => t.sachets.length == 1) = true := by decide +kernel

/-- O31. -/
theorem test_fabric : [Instr.sflush (.lit64 1), .sflusha, .fencef 9, .ferr 9].all (fun i => ready i peering) = true ∧
    flagOf peering.t.peers[1]! 63 = true ∧ (peering.flushFor peering.t.coreid peering.t.sliceid.toNat).activity.outstanding = 0 ∧
    (peering.transferOf peering.t.coreid).isNone = true := by decide +kernel

/-- O32: a sachet of age, a packet that may be applied, a late element, a status, a notice that is due. -/
theorem test_element_events : let x : Sachet := ⟨0, 0, 0, [element]⟩
    let p : Packet := ⟨0, 0, 0, [element]⟩
    let s : State := { ev { x := 0, y := 0, z := 5 } lane with sachets := [x], time := 200000 }
    let u : State := { ev { x := 7, y := 0, z := 5, packet := some p } lane with flying := [⟨element, 0, 7, 0⟩], time := 200000 }
    let n := onCtx (fun t => { t with remoteDue := true, tstat := 4 }) lane
    (s.sachets.find? (fun q => q.die == 0 && q.index == 0) == some x && element.accepted == 5 &&
    decide (5 + (s.part (s.partNo 0)).sachage.toNat ≤ s.time) && !p.elements.any u.elementHeld &&
    u.flying.any (fun f => f.departed == 7 && p.elements.contains f.element) && flagOf n.t.tstat 2 && !flagOf n.t.tstat 0) = true := by
  decide +kernel

/-- O32: links with and without a neighbour, a link that is down after 1 ms. -/
theorem test_link_events : let s : State := { ev { x := 2, y := 3 } lane with links := lane.links.set! 2 1, time := 2000000 }
    (decide (s.arg.x < 4) && hasNeighbour s.fabric 2 && !hasNeighbour s.fabric 1 && s.links[2]! == 1 && decide (s.arg.z + 1000000 ≤ s.time)) = true ∧
    answers .linkRetrainComplete (ev { x := 7 } lane) (fun t => t.links[7]! == 2) = true := by decide +kernel

/-! Pages, registers and full/empty requests. -/

/-- O33: a reserved page with and without one to commit, a committed one, a mapped region. -/
theorem test_pages : [(paged, Src.code 2), (unpaged, .code 2), (paged, .code 3)].all (fun (s, a) =>
      [Instr.pgcommit a 9, .pgfree a 9, .addrq a 9, .tlbinv (.code 5) a].all (fun i => admits i s) && (s.transferOf s.t.coreid).isNone &&
      passes (walkToPage (srcVal s a)) s fun w s1 => quiet s1 && match w with
        | .entry addr => let e := s1.mem.readNat addr 8
                         bitsOf e 8 2 == 0 && bitsOf e 52 7 == 0 && !bitOf e 6 && (bitOf e 0 != bitOf e 7) && !bitOf e 1 &&
                           (!bitOf e 0 || (s1.part 0).inWindows (bitsOf e 12 40 * 4096) 4096)
        | .leaf _ _ => false) = true ∧
    passes (walkToPage (srcVal paged (.code 4))) paged (fun w _ => match w with | .leaf _ _ => true | _ => false) = true ∧
    ((unpaged.part 0).nextPage 0).isNone = true ∧ ((paged.part 0).nextPage 0).isSome = true ∧ (srcVal paged (.code 5)).toNat ≤ 2 ∧
    classOf (srcVal paged (.code 2)) = .global := by decide +kernel

/-- 19 R315: PGCOMMIT gives the page, then its answer is that page and bit 0. -/
theorem test_pgcommit_values : leaves (.pgcommit (.code 2) 9) paged 9 = 0x70000 ∧ leaves (.pgcommit (.code 2) 9) unpaged 9 = 2 ∧
    leaves (.pgcommit (.code 3) 9) paged 9 = 0x6001 := by decide +kernel

/-- O34, by hand: masks 3 and 5 of PA[51:9] give the two bits of the index; the map names the slices. -/
theorem test_home : let x := { programPartition with masks := [3, 5], sliceMap := [7, 8, 9, 6] }
    [(0x000, 7), (0x200, 6), (0x3FF, 6), (0x400, 8), (0x600, 9), (0x800, 9)].all (fun p => x.homeSlice p.1 == p.2) = true := by decide +kernel

/-- O35: a split, a pool and a register's value that the rules allow. -/
theorem test_register_events : (lane.padcfgLegal 0 3 && bitOf 3 (laneOf 0) && csrOn lane.t.kind 4 && lane.csrLegal 4 5 &&
    (csrInfo 4).any (fun c => c.1 == .rw)) = true := by decide +kernel

/-- A parked request of the full/empty store, at its time. -/
def parking (bounced remote : Bool) : State :=
  { ev { x := 0, y := 0x20000, z := 5, fe := some feReq } lane with parked := [⟨feReq, 0x20000, 5, remote, bounced⟩], time := 2000 }

/-- O35: a time-out, a request sent again, a request of another module and its withdrawal, the answers to one of this, asked to stop
or not. -/
theorem test_request_events : ((parking false true).parked.find? (fun p => p.req == feReq && p.key == 0x20000 && p.arrival == 5)).isSome = true ∧
    5 + feReq.limit ≤ (parking false true).time ∧ ((parking true true).parked.any (·.bounced)) = true ∧
    (parking true true).arg.x + 64 ≤ (parking true true).time ∧ (parking true true).parked.all (fun q => !(parking true true).parkedHeld q) = true ∧
    (match State.targetFind (parking false true) 0 0 0 0x20000 8 (Acc.ldx true) with | (s1, .ok k) => !s1.poisoned k 8 | _ => false) = true ∧
    (let s := parking false true
     s.arg.y != 0 && !s.requestHeld feReq && (s.parked.find? fun p => p.remote && p.req == feReq).isSome) = true ∧
    [false, true].all (fun asked =>
      let s := { lane with t := { lane.t with mode := .waiting (.feRemote 0 feReq asked) } }
      (s.ctx 0).mode == .waiting (.feRemote 0 feReq asked)) = true ∧
    answers .remoteFeResponse (ev { x := 0, fe := some feReq, answer := .rejected 4 } { lane with
      t := { lane.t with mode := .waiting (.feRemote 0 feReq true), k := lane.t.k.set! 7 1 } }) (fun t =>
        t.t.mode == .stopping && t.t.k[7]! == 0) = true := by decide +kernel

/-! The configuration window, the scheduler, reliability, the host link and power. -/

/-- O36: the command in progress in the window of partition 0 has this code, its upper half clear. -/
def commanded (code : Nat) (s : State) : Bool :=
  (s.part 0).cfgStatus == 1 && bitsOf (s.part 0).cfg.toNat 0 16 == code && bitsOf (s.part 0).cfg.toNat 32 32 == 0

/-- The domain command of level 0 over a list in memory at 0x20000, one thread. -/
def domainCommand : State := commandOf 3 5 (50 + 255 * 2 ^ 64 + 0x20000 * 2 ^ 128 + 1 * 2 ^ 192) (stored [(0x20000, 4, 0), (0x20004, 4, 3)] lane)

/-- O36: a region, one of length 0, a queue, a domain, pool pages, a migration. -/
theorem test_table_commands : let r := commandOf 1 3 (0x40000 + 0x1000 * 2 ^ 64 + 11 * 2 ^ 128 + 0x50000 * 2 ^ 192) lane
    let x := r.part 0
    let q := commandOf 2 3 (1 + 4 * 2 ^ 32) lane
    let p := commandOf 4 0 (0x40000 + 2 * 2 ^ 64) lane
    let m := commandOf 5 0 (0x5008 + 0x90000 * 2 ^ 64) paged
    let e := m.mem.readNat 0x5008 8
    (commanded 1 r && regionLawful (BitVec.ofNat 256 (x.cfgVal 0 32)) && x.mayName 0x40000 0x1000 &&
    x.mayName (regionScales (BitVec.ofNat 256 (x.cfgVal 0 32))) (regionScaleBytes (BitVec.ofNat 256 (x.cfgVal 0 32))) && x.cfgIndex == 3 &&
    commanded 1 (commandOf 1 31 0 lane) && regionLen (BitVec.ofNat 256 (((commandOf 1 31 0 lane).part 0).cfgVal 0 32)) == 0 &&
    commanded 2 q && queueLawful (q.part 0) && commanded 3 domainCommand &&
    (match domainCommand.domainNamed (domainCommand.part 0) with | .ok _ => true | _ => false) &&
    commanded 4 p && (p.part 0).mayName 0x40000 0x2000 && stackOf 0x40000 == 0 && stackOf 0x41000 == 0 &&
    commanded 5 m && (m.part 0).mayName 0x5008 8 && (m.part 0).mayName 0x90000 4096 && bitOf e 0 && !bitOf e 1 && !bitOf e 6 && !bitOf e 7 &&
    bitsOf e 8 2 == 0 && bitsOf e 52 7 == 0 && (m.part 0).mayName (bitsOf e 12 40 * 4096) 4096 &&
    !(m.part 0).pools.any (fun k => k.2.contains 0x90000)) = true := by decide +kernel

/-- Two clusters in the partition. -/
def twoClusters : State := lane.modPart 0 fun x => { x with clusters := [0, 1] }

/-- O36: the logs and areas, the undo log of a domain, the cluster commands. -/
theorem test_place_commands : [(6, 64 + 4096 * 64), (7, 64 + 1024 * 32), (8, 64 + 1024 * 32), (9, 64 + 4096 * 64)].all (fun x =>
      let s := commandOf x.1 0 0x100000 lane
      commanded x.1 s && (s.part 0).mayName 0x100000 x.2 && (s.part 0).cfgIndex == 0) = true ∧
    (let u := commandOf 10 0 (0x100000 + 0x100000 * 2 ^ 64) (lane.modPart 0 fun x => { x with domains := [domain 1 false] })
     let a := commandOf 11 0 (0x100000 + 0x100000 * 2 ^ 64) lane
     commanded 10 u && (u.part 0).mayName 0x100000 0x100000 && (u.part 0).domains.length == 1 && commanded 11 a) = true ∧
    [12, 13, 14].all (fun c =>
      let s := commandOf c 1 0 twoClusters
      commanded c s && (s.part 0).cfgVal 0 48 == 0 && (s.part 0).clusters.contains 1 && clusterOf (s.part 0).supervisor == 0 &&
      (s.slicesOn 1).all s.readyToLeave) = true := by
  decide +kernel

/-- An armed entry that has fired, and its queue with room. -/
def fired : State := State.modCluster (ev { x := 0, y := 3 } (spawner 0)) 0 fun c =>
  { c with armed := [(3, ⟨BitVec.ofNat 2048 (record 0 0), [], 0, 0, key400, true⟩)] }

/-- O37: a slice whose condition holds; a fired entry. -/
theorem test_dispatch : (pendingSlice.slice pendingSlice.arg.x).any (fun x => x.state == .pending) = true ∧
    ((fired.cluster 0).armed.find 3).any (fun e => e.fired && ((fired.part e.part).queue (recQueue e.record)).valid &&
      (fired.part e.part).hasRoom (recQueue e.record) && !fired.clusters.any (fun (k, c) => c.armed.any fun (n, f) =>
        (n < 3 || (n = 3 && k < 0)) && f.fired && f.part == e.part && recQueue f.record == recQueue e.record)) = true := by decide +kernel

/-- The program's slice in some state. -/
def life (f : Slice → Slice) : State := sliced f lane

/-- O37: a budget of 0 with and without grace; staging, a victim, a resumption, retirements with and without an audit. -/
theorem test_slices : (let s := onCtx (fun t => { t with budget := 0 }) lane
      s.t.budget == 0 && !s.t.grace && (onCtx (fun t => { t with grace := true }) s).t.grace) = true ∧
    (let s := life fun x => { x with state := .staging }
     (s.slice s.arg.x).any (fun x => x.saved.isEmpty && x.replayOf.isNone && !s.padHeld engineAgent (padOf (x.threads.headD 0)) &&
       (State.stageFrom 0 0 x.record 4 0 (x.threads.foldl State.acquire s)).2.2.isNone)) = true ∧
    (let s := life fun x => { x with victimOf := some 5 }
     (s.slice s.arg.x).any (fun x => x.state == .running && x.victimOf.isSome && (Cause.ofCode s.arg.y).isNone &&
       !x.threads.any (fun c => (s.transferOf c).isSome || (s.ctx c).mode == .frozen) && s.readyToLeave x && !s.padHeld engineAgent (padOf (x.threads.headD 0)) &&
       s.agenda.isEmpty)) = true ∧
    (let s := ev { x := 2 ^ 32 + 1, y := killCode } (life id)
     (s.slice s.arg.x).any (fun x => s.readyToLeave x)) = true ∧
    (let s := ev { x := 2 ^ 32 + 1, y := Cause.accv.code } (life id)
     (s.slice s.arg.x).any (fun x => x.state == .running && s.readyToLeave x)) = true ∧
    (let s := life fun x => { x with state := .staging, saved := [programCtx .lane 0] }
     (s.slice s.arg.x).any (fun x => !x.saved.isEmpty && !x.held)) = true ∧
    (let s := life fun x => { x with state := .retiring }
     let u := { s with audits := [audit []] }
     let r := { life fun x => { x with state := .retiring, replayOf := some (2 ^ 32 + 1) } with audits := [audit []] }
     (s.slice s.arg.x).any (fun x => x.replayOf.isNone && !s.padHeld engineAgent (padOf (x.threads.headD 0))) && s.audits.isEmpty && (u.audits.find? (·.id == u.arg.x)).isSome &&
     (r.slice r.arg.x).any (·.replayOf == some (2 ^ 32 + 1))) = true := by decide +kernel

/-- O37: a staging whose input the partition does not map stops with a fault. -/
theorem test_staging_fault : let s := life fun x => { x with
      state := .staging, record := BitVec.ofNat 2048 ((programRecord false).toNat + 0x7000000000 * 2 ^ 512 + 64 * 2 ^ 576 + 2 ^ 624) }
    (s.slice s.arg.x).any (fun x => x.saved.isEmpty && (State.stageFrom 0 0 x.record 4 0 (x.threads.foldl State.acquire s)).2.2.isSome) = true := by
  decide +kernel

/-- A disposition written for a report of the slice. -/
def disposed (k d : Nat) (f : Slice → Slice) : State := ev { x := 0, y := 0 } (reported k d (life f))

/-- O38: released from a stop and from a suspension, killed, a step asked for, begun, within a REP, ended. -/
theorem test_dispositions : [(5, 1, SliceState.running), (1, 1, .suspended), (1, 2, .suspended), (5, 3, .running)].all (fun (k, d, l) =>
    let s := disposed k d fun x => { x with state := l }
    (s.disposed 0 0 d).any fun u => u.2.acts && u.2.kind == k && ((s.dispose 0 u).slice u.2.slice).any (·.state == l)) = true ∧
    (let s := onCtx (fun t => { t with mode := .frozen }) (ev { x := 0, y := 0, z := 2 ^ 32 + 1 } (life id))
     (s.slice s.arg.z).any (fun x => s.isFrozen x && x.state != .staging && !(s.swapIn (s.stepper x)).yieldsCore)) = true ∧
    [none, some ⟨1, 5, 0x10000, 0, none, 0x10004, 4, 0, 0, 0⟩].all (fun r =>
      let s := onCtx (fun t => { t with rep := r }) (ev { x := 0, y := 1, z := 2 ^ 32 + 1 } (life id))
      (s.slice s.arg.z).any fun x => x.state == .running && !s.isFrozen x && !s.slotBusy x.threads && s.agenda.isEmpty &&
        s.midInstr x == r.isSome && !x.threads.any s.awaitsModule) = true := by decide +kernel

/-- A partition's domain with a snapshot of its superstep. -/
def snapshotted : State :=
  { lane.modPart 0 fun x => { x with domains := [{ domain 1 false with snapshot := true, repeatable := true }] } with time := 10 ^ 18 }

/-- O39: a reset, a stop at once and one that waited, a rollback, a kill, errors, the patrol scrub. -/
theorem test_reliability : [[], [0]].all (fun nums =>
      let s := ev { x := 0, y := 4, nums := nums, error := some (.memory 0 0x20000 8 false) } lane
      let t := (s.stopSet s.arg).foldl (fun y x => y.halt x.id) s
      !s.clusterFrozen 0 && !t.midSlot (s.stopSet s.arg) && !(t.stopThreads s.arg (s.stopSet s.arg)).any t.awaitsModule &&
      (s.stopSet s.arg).length == 1 && s.arg.error.isSome && (s.slicesOn s.arg.x).all s.readyToLeave) = true ∧
    (onCtx (fun t => { t with mode := .frozen }) (ev { x := 0 } lane)).clusterFrozen 0 = true ∧
    (((snapshotted.part 0).domains[0]?).any (fun d => d.snapshot && d.repeatable && !d.rolledBack &&
      (snapshotted.memberSlices d).all snapshotted.readyToLeave) &&
    decide (8 * 3600 * 1000000000 ≤ (ev {} snapshotted).time)) = true := by decide +kernel

/-- O40: the first run, two runs that agree or not, three of which each may differ, an audit past 10 s. -/
theorem test_audits : [[], [(0, 5)], [(0, 5), (1, 5)], [(0, 5), (1, 6)], [(0, 5), (1, 6), (2, 6)], [(0, 5), (1, 6), (2, 5)],
      [(0, 5), (1, 5), (2, 6)], [(0, 5), (1, 6), (2, 7)]].all (fun runs =>
    let s := audited runs
    s.audits.find? (·.id == s.arg.x) == some (audit runs) && (audit runs).since == some 5 && !s.slices.any (·.replayOf == some (audit runs).id) &&
    [0, 1, 2].all (fun c => (s.runningOn c).all s.suspendable) && decide (5 + 10000000000 ≤ s.time)) = true := by decide +kernel

/-- 22 R362: of three runs the one that differs quarantines its cluster. -/
theorem test_verdict : answers .noseVerdict (audited [(0, 5), (1, 6), (2, 6)]) (fun t => t.audits.isEmpty && (t.cluster 0).quarantined &&
    !(t.cluster 1).quarantined) = true := by decide +kernel

/-- O41: a request of `n` bytes in the order of a session bound to partition 0: the hypotheses of a reply. -/
def inOrder (n : Nat) (s : State) : Bool :=
  !s.board.discards s.arg.host n && s.board.booted && s.board.imageOk && (s.sessions.find s.arg.host.session).any fun x =>
    x.partition == s.arg.host.partition && s.arg.host.sequence == x.next

/-- A launch of a record in queue 0 of partition 0. -/
def launching : State := host 3 (leBytes 8 0 ++ leBytes 256 (record 0 0)) (lane.modPart 0 fun x => { x with queues := [(0, ⟨true, 0, 4, 0⟩)] })

/-- O41: a write, a read and a launch; notices; telemetry and attestation. -/
theorem test_host_requests : let w := host 1 (leBytes 8 0x20000 ++ [1, 2]) lane
    let r := host 2 (leBytes 8 0x20000 ++ leBytes 4 16) lane
    (inOrder 10 w && inOrder 12 r && inOrder 264 launching && (w.part 0).inWindows 0x20000 2 && (r.part 0).inWindows 0x20000 16 &&
    (let q := BitVec.ofNat 2048 (record 0 0)
     launching.arg.bytes.length == 264 && recField q 128 64 == 0 && recQueue q == 0 && !flagOf (refOf (word (recCounter q))) 32 &&
     match launching.recordChecks (launching.part 0).supervisor 0 0 [] 0 0 q false with
     | (s1, .ok _) => (s1.part 0).hasRoom 0
     | _ => false) &&
    [(7, 0), (8, 32), (5, 0), (4, 0)].all (fun (op, n) =>
      let s := ev { host := header op 9 0 n, bytes := List.replicate n 0 } lane
      !s.board.discards s.arg.host n && s.board.booted && s.board.imageOk && (s.sessions.find 9).isNone) &&
    answers .hostWrite (ev { host := header 4 9 0 0 } lane) (fun t => t.responses.any fun r => r.status == 1 && r.opcode == 4)) = true := by
  decide +kernel

/-- 24 R374: the header of an answer, by hand: magic, version, opcode, session, sequence, partition, length, status, tag. -/
theorem test_datagram : (Response.datagram ⟨2, 3, 5, 1, 0, 9, [7, 8], []⟩) = [0x4D, 0x5C, 1, 2, 3, 0, 0, 0, 5, 0, 0, 0, 0, 0, 0, 0, 1, 0, 2, 0,
    0, 0, 0, 0, 9, 0, 0, 0, 0, 0, 0, 0, 7, 8] := by decide +kernel

/-- A notice of partition 0, sent at 5 or not sent. -/
def notified (sent : Option Nat) : State :=
  ev { x := 0, y := 3 } { lane.modPart 0 (fun x => { x with notices := [{ seq := 3, kind := 4, detail := 0, time := 0, missed := 0, sent := sent }] }) with time := 2000000 }

/-- O41: notices to send, and to send again. -/
theorem test_notices : ((notified none).part 0).notices.any (·.sent.isNone) = true ∧
    ((notified (some 5)).part 0).notices.any (fun m => m.seq == 3 && m.sent == some 5) = true ∧ 5 + 1000000 ≤ (notified (some 5)).time := by
  decide +kernel

/-- O41: four signed commands and an unknown one, in order, the table's own test below; the verification itself is a free value (log entry 11). -/
theorem test_signed_commands : [(1, leBytes 4 7 ++ [0, 0, 0, 0]), (2, leBytes 4 3 ++ [0, 0, 0, 0]), (4, [1, 0, 0, 0, 0, 0, 0, 0]),
      (5, leBytes 8 0x5000 ++ [1, 2, 3]), (6, [])].all (fun (command, a) =>
    let s := { signed command a lane with sessions := [(0, ⟨255, 0, 1, [], [], 0⟩), (3, ⟨0, 0, 1, [], [], 0⟩)] }
    inOrder (signedLength s.arg.signed) s && s.arg.signed.zeroByte == 0 && s.arg.signed.zeroWord == 0 && (s.board.hostKey 0).isSome && s.arg.signed.bootCount == s.board.bootCount && s.arg.host.session == 0 &&
    s.arg.host.partition == 255 && s.arg.signed.length == a.length && decide (a.length ≤ 4867)) = true := by decide +kernel

/-- A list of two-byte entries, all cluster 1. -/
theorem drop_entries (post : List Byte) : ∀ n i, i < n →
    (((List.replicate n ([1, 0] : List Byte)).flatten ++ post).drop (2 * i)).take 2 = [1, 0]
  | 0, _, h => absurd h (Nat.not_lt_zero _)
  | n + 1, 0, _ => by simp [List.replicate_succ]
  | n + 1, i + 1, h => by
    have := drop_entries post n i (Nat.lt_of_succ_lt_succ h)
    simpa [List.replicate_succ, Nat.mul_add] using this

/-- What stands before its slice map, and after it. -/
def tableHead : List Byte :=
  leBytes 8 1 ++ leBytes 128 2 ++ leBytes 128 (0x200000000 + 0x200000000 * 2 ^ 64) ++ leBytes 8 1 ++ leBytes 80 0
def tableTail : List Byte := [1, 1, 0] ++ List.replicate 29 0

/-- The bytes of a partition table: partition 1 with cluster 1, one window of 8 GiB at 0x200000000. -/
def table1 : List Byte := tableHead ++ ((List.replicate 1024 [1, 0]).flatten ++ tableTail)

/-- Every entry of its slice map is 1. -/
theorem table_entries (i : Nat) (h : i < 1024) : at_ table1 (352 + 2 * i) 2 = 1 := by
  have e : tableHead.length = 352 := by decide +kernel
  have d : table1.drop (352 + 2 * i) = ((List.replicate 1024 [1, 0]).flatten ++ tableTail).drop (2 * i) := by
    rw [← List.drop_drop, table1, ← e, List.drop_left]
  unfold at_
  rw [d, drop_entries _ _ _ h]
  rfl

/-- O41: the table passes its checks. -/
theorem test_partition_table : lane.tableOk table1 = true := by
  have h : (List.range 1024).all (fun i => (maskClusters ((table1.drop 8).take 128)).contains (at_ table1 (352 + 2 * i) 2)) = true := by
    rw [List.all_eq_true]
    intro i hi
    rw [table_entries i (List.mem_range.mp hi)]
    decide +kernel
  unfold State.tableOk
  simp only [h, Bool.and_true]
  decide +kernel

/-- O42: a rise, a fall, a shutdown of hot junctions or of a hot inlet. -/
theorem test_power : lane.board.powerLimit < 5000 ∧ 100 * 1000 < 95 * lane.board.powerLimit ∧
    answers .thermalShutdown (ev { x := 0, y := 1200, z := 250 } lane) (fun t => !t.board.on) = true ∧
    answers .thermalShutdown (ev { x := 0, y := 300, z := 450 } lane) (fun t => t.board.on) = true ∧
    answers .throttleRaise (ev { x := 5000 } lane) (fun t => t.board.level == lane.board.level + 1) = true := by decide +kernel

/-! Rules of single instructions, traps and the machine. -/

/-- O43 to O46: hypotheses over the hard-wired registers, and every count and divisor. -/
theorem test_hardwired : [Instr.addi 5 (.code 2) 0, .cmp 1 (.code 3) (.code 2) 0, .jal 8].all (fun i => ready i two) = true ∧
    leaves (.addi 5 (.code 2) 0) two 0 = 0 ∧ leaves (.jal 8) two 31 = two.t.pc + 4 := by decide +kernel

/-- 05 R61, R62: a count of 64, the word form's count of 32, a divisor of 0, and the least value by -1. -/
theorem test_corners : leaves (.shl false (.lit32 64) (.code 2) 5) two 5 = 0 ∧ leaves (.sra true (.lit32 32) (.code 3) 5) two 5 = -1 ∧
    leaves (.div false (.code 0) (.code 2) 5) two 5 = -1 ∧ leaves (.rem false (.code 0) (.code 2) 5) two 5 = 7 ∧
    leaves (.div false (.lit32 0xFFFFFFFF) (.code 3) 5) (regs [(3, 0x8000000000000000)] lane) 5 = 0x8000000000000000 := by decide +kernel

/-- A thread with a handler and a watch match due. -/
def watched : State := onCtx (fun t => { t with watchDue := some (2, 0x1234) }) handled

/-- O47: traps that the thread's handler takes: of an instruction, of a watch, within a REP. -/
theorem test_trap_entry : [(handled, Cause.illop), (watched, .watch), (handled, .poison), (handled, .budget),
      (onCtx (fun t => { t with rep := some ⟨2, 5, 0x10000, 0, none, 0x10004, 4, 0, 0, 0⟩ }) handled, .accv)].all (fun x =>
    x.1.t.kind != .hart && (x.1.gangOf x.1.t.coreid).isNone && !x.1.toSupervisor x.2 && (x.1.snapshotOf x.1.t.coreid).isNone) = true ∧
    ((watched.takeTrap .watch 0x1234 .after).t.tstat.toNat / 2 ^ 8 % 2 ^ 8 = 2) := by decide +kernel

/-- A gang's member outside and inside a slot. -/
def ganged (formed stopped : Bool) (runner : Option Nat) (tvec : Word) : State :=
  onCtx (fun t => { t with tvec := tvec }) { follower with gangs := [(2 ^ 32 + 1, { gang2 [entry] with formed := formed, stopped := stopped, runner := runner })] }

/-- O47: traps of a gang's members: of the one whose trap the slot's end takes, of one alone in its handler, and of one in a slot. -/
theorem test_gang_traps : [(ganged true false (some 1) 0x30000, false), (ganged true true (some 1) 0x30000, false), (ganged true false none 0x30000, true)].all
    (fun (s, busy) => s.t.kind != .hart && inSlot s == busy && (s.rollsBack .accv).isNone && !s.toSupervisor .accv &&
      (s.gangOf s.t.coreid).isSome) = true ∧
    ((ganged true false (some 1) 0x30000).takeTrap .accv 5 .before).t.tstat.toNat / 2 ^ 16 = 1 := by decide +kernel

/-- O47: traps that go to the supervisor: without a handler, within one; of a gang; of the supervisor itself. -/
theorem test_supervisor_traps : [(two, Cause.illop), (onCtx (fun t => { t with tstat := 1 }) handled, .accv), (ganged true false (some 1) 0, .poison)].all
    (fun (s, c) => s.t.kind != .hart && !inSlot s && (s.rollsBack c).isNone && s.toSupervisor c && s.escalates.isNone &&
      !s.isSup s.t.coreid && (let s1 := { (TrapStops s).1 with t := { (s.clearWatch c .before).t.stopRep with ringTrap := false } }
        (s1.slice s.t.sliceid.toNat).any fun x => s1.readyToLeave x)) = true ∧
    (let s := { two with copies := [{ programCopy with inFlight := 1 }] }
     s.toSupervisor .illop && (s.slice s.t.sliceid.toNat).any fun x => !s.readyToLeave x) = true ∧
    (let s := two.modPart 0 fun x => { x with supervisor := 0 }
     s.isSup s.t.coreid && s.toSupervisor .illop) = true := by decide +kernel

/-- O48: ERET with a trap in progress, and without. -/
theorem test_eret : let s := onCtx (fun t => { t with tstat := 1, tpc := 0x10100 }) handled
    (admits .eret s && flagOf s.t.tstat 0 && s.eretFits && (State.reform s).t.arriveDue.isNone &&
    (State.reform (onCtx (fun t => { t with arriveDue := some 5 }) s)).t.arriveDue == some 5 && admits .eret handled &&
    !flagOf handled.t.tstat 0 && answers .eret s (fun t => t.t.pc == 0x10100 && !flagOf t.t.tstat 0) &&
    answers .eret handled (fun t => t.t.tcause == 1)) = true := by decide +kernel

/-- O49: an odd word, halfword and doubleword address; byte accesses are never misaligned. -/
theorem test_misaligned : [(2 : BitVec 3), 1, 3].all (fun f => (srcVal pointing (.code 6)).toNat % sizeOf3 f != 0) = true ∧
    (srcVal pointing (.code 6)).toNat % 8 ≠ 0 ∧ (srcVal pointing (.code 6)).toNat % sizeOf3 0 = 0 ∧ readable pointing (.code 9) = true ∧
    [Instr.ld 0 2 (.code 6) 9, .st 0 1 (.code 6) (.code 4), .amoAdd true false false (.code 4) (.code 6) 9,
      .amoCas false false false (.code 4) (.code 6) 9, .amoFadd false false (.code 4) (.code 6) 9, .ldx 3 0 0 (.code 6) 9,
      .stx 1 0 0 (.code 6) (.code 4)].all (fun i =>
      admits i pointing && answers i (onCtx (fun t => { t with tvec := 0x30000 }) pointing) fun t => t.t.tcause == 3 && t.t.tval == padPtr 0x101) = true := by
  decide +kernel

/-- O50: a register that no thread has, a read-only one, a supervisor's. -/
theorem test_privileges : lane.hasFamily (.csrr 0x7FF 9) = true ∧ csrOn lane.t.kind 0x7FF = false ∧ csrOn lane.t.kind 0x700 = true ∧
    ((List.range 2048).any fun n => csrOn lane.t.kind n && (csrInfo n).any (·.1 == .ro)) = true ∧
    ((List.range 2048).any fun n => csrOn lane.t.kind n && (csrInfo n).any (·.1 == .sv)) = true ∧ lane.isSup lane.t.coreid = false := by
  decide +kernel

/-- O51: a watch match due; an arrival due; a step. -/
theorem test_after : let i := Instr.addi 1 (.code 2) 9
    let s := onCtx (fun t => { t with stepctl := 2 }) handled
    let r := onCtx (fun t => { t with arriveDue := some 0x5678 }) handled
    (admits i watched && watched.t.rep.isNone && s.t.arriveDue.isNone && r.t.watchDue.isNone &&
    answers i r (fun t => t.t.s[9]! == 8 && t.t.tcause == 21 && t.t.tval == 0x5678) && s.t.watchDue.isNone && bitOf s.t.stepctl.toNat 1 && !flagOf s.t.tstat 0 &&
    answers i watched (fun t => t.t.s[9]! == 8 && t.t.tcause == 21 && t.t.tval == 0x1234) &&
    answers i s (fun t => t.t.s[9]! == 8 && t.t.tcause == 22)) = true := by decide +kernel

/-- ADD s9, s2, a 32-bit literal, stored where `two` fetches; and the same at a REP. -/
def running (s : State) (i : Instr) : State :=
  { s with mem := s.mem.writeBytes (programBase) (encode i), agenda := [] }

/-- O53: without and with a literal, and a REP. -/
theorem test_step : [Instr.add false (.code 3) (.code 2) 9, .add false (.lit32 5) (.code 2) 9].all (fun i =>
    let u := running two i
    let s := u.inCycle u.t.coreid
    s.board.on && u.agenda.isEmpty && s.t.late.isNone && (s.gangOf s.t.coreid).isNone && !s.yieldsCore && s.t.mode == .running && !s.remoteTaken && s.t.rep.isNone && s.t.budget != 0 &&
    passes (fetchHead s.t.pc) s fun w s1 => unwatched s1 4 s.t.pc 2 && match decodeWord w 0 with
      | .ok i0 => admits i0 s1 && passes (fetchLit (litBytes w / 2) (s.t.pc + 4)) s1 fun l _ =>
          litBytes w == 0 || (match decodeWord w (word l) with | .ok j => j == i | _ => false)
      | _ => false) = true ∧
    (match step (running two (.add false (.lit32 5) (.code 2) 9)) with | .next t => t.t.s[9]! == 12 && t.t.pc == 0x10008 | _ => false) = true := by
  decide +kernel

/-- O53: the check of a REP comes before its literal. -/
theorem test_step_rep : let i := Instr.rep 1 2 1 (.lit32 3)
    let s := { running two i with mem := (two.mem.writeBytes programBase (encode i ++ encode (.add false (.code 3) (.code 2) 4))) }
    passes (fetchHead s.t.pc) s (fun w s1 => litBytes w == 4 && match decodeWord w 0 with
      | .ok (.rep sb sa sd c) => admits (.rep sb sa sd c) s1 &&
          passes (repChecks (stride sd) (stride sa) (stride sb) (word w) (4 + litBytes w)) s1 fun _ s3 =>
            passes (fetchLit (litBytes w / 2) (s.t.pc + 4)) s3 fun l _ => match decodeWord w (word l) with | .ok j => j == i | _ => false
      | _ => false) = true := by decide +kernel

/-- O59: the register forms' hypotheses. -/
theorem test_register_forms : [Instr.add false (.code 3) (.code 2) 5, .cmp 1 (.code 3) (.code 2) 5, .kand 1 2 3, .nop].all (fun i =>
    ready i two && (registerForm i).any fun x => x.1.all (readable two) && x.2.1.all fun k => regReadable two (64 + k.toNat)) = true ∧
    ready (.add false (.code 3) (.code 2) 49) follower = true := by decide +kernel

/-- O57: the state after reset has its canonical memory. -/
theorem test_reset_inv : Inv State.reset := by unfold Inv; decide +kernel

/-- The first instruction after reset, placed by the host's helper, runs (log entry 16). -/
theorem test_first_step : (match step (State.reset.withFetchWord 32 (encodeWord (.addi 5 (.code 0) 9))) with
    | .next t => t.t.s[9]! == 5 | _ => false) = true := by decide +kernel

/-! Well-formed and ill-formed instructions: one for each check of `Instr.wf`. -/

theorem test_wf_scalar : [Instr.add false (.code 52) (.code 2) 5, .add false (.code 3) (.code 33) 5, .add false (.code 3) (.code 2) 48,
    .add false (.lit32 1) (.lit32 2) 5, .sel false (.code 3) (.code 2) 49, .bfi (.code 60) (.code 2) 5, .clz false (.code 2) 62,
    .cmp 6 (.code 3) (.code 2) 1, .jr (.code 32), .loop 6 (.code 2) 3, .loop 0 (.code 2) 1, .lbrk 3, .lnext 3, .rep 0 0 0 (.code 48),
    .csrr 4 50].all (fun i => !i.wf) = true ∧
    [Instr.add false (.lit32 1) (.code 50) 51, .sel false (.code 3) (.lit64 2) 31, .cmp 5 (.code 3) (.code 2) 1, .loop 8191 (.code 2) 2,
    .rep 7 7 7 (.lit32 3)].all Instr.wf = true := by decide

theorem test_wf_memory : [Instr.ld 0 7 (.code 2) 5, .st 0 4 (.code 2) (.code 5), .st 0 3 (.lit32 2) (.lit32 5), .ldx 3 3 0 (.code 2) 5,
    .ldx 3 0 3 (.code 2) 5, .stx 3 3 0 (.code 2) (.code 5), .stx 3 0 3 (.code 2) (.code 5), .stx 3 0 0 (.lit32 2) (.lit32 5),
    .amoCas true false false (.code 3) (.code 2) 49, .ramoCas true (.code 3) (.code 2) 32].all (fun i => !i.wf) = true ∧
    [Instr.ld 511 6 (.code 2) 5, .st 0 3 (.code 2) (.lit64 5), .ldx 3 2 2 (.code 2) 5].all Instr.wf = true := by decide

theorem test_wf_vector : [Instr.vadd 0 (.code 52) (.code 2) 5, .vadd 1 (.code 3) (.code 2) 49, .vadd 0 (.lit32 3) (.lit32 2) 5,
    .vfma 0 (.code 3) (.code 2) 32, .vabs 1 (.code 2) 51, .vcmp 7 (.code 3) (.code 2) 1, .vsel 1 (.code 3) (.code 2) 48, .vbcast (.code 2) 50,
    .vext (.code 32) (.code 2) 5, .vins (.code 3) (.code 32) 5, .vslide (.code 33) (.code 2) 5, .vcvt 0 14 (.code 2) 5,
    .vqnt 0 (.code 32) (.code 2) 5, .vxadd (.lit32 3) (.lit32 2), .vst (.lit32 1) (.code 2) (.lit32 3), .shpld 0 (.code 2), .shpst 0 (.code 2),
    .hbind (.code 3) (.code 2) 31, .hadvc 48, .hstat 31 5].all (fun i => !i.wf) = true ∧
    [Instr.vadd 0 (.code 3) (.code 2) 49, .vadd 1 (.code 33) (.code 2) 47, .vcvt 7 13 (.code 2) 5, .hbind (.code 3) (.code 2) 47].all Instr.wf = true := by
  decide

theorem test_wf_rest : [Instr.tld 0 (.lit32 1) 0 (.lit32 2), .acrd (.code 32) 0 (.code 3), .jpoll (.code 2) 48, .cxrd (.code 48) 5, .cxrd (.code 2) 32,
    .burst (.code 48) (.code 2) (.code 3), .cxdone (.code 50), .tagclr (.code 48), .subscr 0 32, .subscr 8 32, .subscr 1 31, .unsub 5,
    .tagff (.code 2) 48, .tagwany (.code 48) 5, .obxfer (.lit32 1) (.lit32 2) (.code 3), .xmit (.code 3) 32, .xrecv (.code 3) 49,
    .rst false 0 (.code 3) (.code 2) 1, .rst true 0 (.code 3) (.code 2) 32].all (fun i => !i.wf) = true ∧
    [Instr.subscr 7 32, .rst true 3 (.code 3) (.code 2) 31, .rst false 3 (.code 3) (.code 2) 0, .tagff (.lit64 2) 49].all Instr.wf = true := by decide

/-- Reserved words are refused, not read as a neighbour: a reserved major, a reserved member of ALU, a reserved operand code, a
reserved condition of CMP, a handle as a scalar destination. -/
theorem test_decode_refuses : [(0b0000000_000000_000000_000000_111111_1 : Nat), 0b0111111_000011_000010_000101_000001_1,
    0b0000000_110100_000010_000101_000001_1, 0b0000110_000011_000010_000001_000100_1, 0b0000000_000011_000010_100001_000001_1].all (fun w =>
    match decodeWord w 0 with | .ok _ => false | .error _ => true) = true := by decide +kernel

/-! Words written out bit by bit from 04 R48 to R57: every constructor that has an encoding. -/

theorem test_decode_alu_1 :
    decodeTableWord 32 0b1_000000_000011_000010_000101_0000011 = some (.add true (.code 3) (.code 2) 5) ∧
    decodeTableWord 32 0b1_000001_000011_000010_000101_0000011 = some (.sub true (.code 3) (.code 2) 5) ∧
    decodeTableWord 32 0b1_000010_000011_000010_000101_0000011 = some (.and true (.code 3) (.code 2) 5) ∧
    decodeTableWord 32 0b1_000011_000011_000010_000101_0000011 = some (.or true (.code 3) (.code 2) 5) ∧
    decodeTableWord 32 0b1_000100_000011_000010_000101_0000011 = some (.xor true (.code 3) (.code 2) 5) ∧
    decodeTableWord 32 0b1_000101_000011_000010_000101_0000011 = some (.andn true (.code 3) (.code 2) 5) ∧
    decodeTableWord 32 0b1_000110_000011_000010_000101_0000011 = some (.orn true (.code 3) (.code 2) 5) ∧
    decodeTableWord 32 0b1_000111_000011_000010_000101_0000011 = some (.shl true (.code 3) (.code 2) 5) ∧
    decodeTableWord 32 0b1_001000_000011_000010_000101_0000011 = some (.shr true (.code 3) (.code 2) 5) ∧
    decodeTableWord 32 0b1_001001_000011_000010_000101_0000011 = some (.sra true (.code 3) (.code 2) 5) ∧
    decodeTableWord 32 0b1_001010_000011_000010_000101_0000011 = some (.rol true (.code 3) (.code 2) 5) ∧
    decodeTableWord 32 0b1_001011_000011_000010_000101_0000011 = some (.ror true (.code 3) (.code 2) 5) := by decide

theorem test_decode_alu_2 :
    decodeTableWord 32 0b1_001100_000011_000010_000101_0000011 = some (.mul true (.code 3) (.code 2) 5) ∧
    decodeTableWord 32 0b1_001101_000011_000010_000101_0000011 = some (.mulh true (.code 3) (.code 2) 5) ∧
    decodeTableWord 32 0b1_001110_000011_000010_000101_0000011 = some (.mulhn true (.code 3) (.code 2) 5) ∧
    decodeTableWord 32 0b1_001111_000011_000010_000101_0000011 = some (.div true (.code 3) (.code 2) 5) ∧
    decodeTableWord 32 0b1_010000_000011_000010_000101_0000011 = some (.divn true (.code 3) (.code 2) 5) ∧
    decodeTableWord 32 0b1_010001_000011_000010_000101_0000011 = some (.rem true (.code 3) (.code 2) 5) ∧
    decodeTableWord 32 0b1_010010_000011_000010_000101_0000011 = some (.remn true (.code 3) (.code 2) 5) ∧
    decodeTableWord 32 0b1_010011_000011_000010_000101_0000011 = some (.min true (.code 3) (.code 2) 5) ∧
    decodeTableWord 32 0b1_010100_000011_000010_000101_0000011 = some (.max true (.code 3) (.code 2) 5) ∧
    decodeTableWord 32 0b1_010101_000011_000010_000101_0000011 = some (.minn true (.code 3) (.code 2) 5) ∧
    decodeTableWord 32 0b1_010110_000011_000010_000101_0000011 = some (.maxn true (.code 3) (.code 2) 5) ∧
    decodeTableWord 32 0b1_010111_000011_000010_000101_0000011 = some (.slt true (.code 3) (.code 2) 5) := by decide

theorem test_decode_alu_3 :
    decodeTableWord 32 0b1_011000_000011_000010_000101_0000011 = some (.sltn true (.code 3) (.code 2) 5) ∧
    decodeTableWord 32 0b1_011001_000011_000010_000101_0000011 = some (.seq true (.code 3) (.code 2) 5) ∧
    decodeTableWord 32 0b1_011010_000011_000010_000101_0000011 = some (.sne true (.code 3) (.code 2) 5) ∧
    decodeTableWord 32 0b1_011011_000011_000010_000101_0000011 = some (.sel true (.code 3) (.code 2) 5) ∧
    decodeTableWord 32 0b1_011100_000000_000010_000101_0000011 = some (.clz true (.code 2) 5) ∧
    decodeTableWord 32 0b1_011101_000000_000010_000101_0000011 = some (.ctz true (.code 2) 5) ∧
    decodeTableWord 32 0b1_011110_000000_000010_000101_0000011 = some (.popc true (.code 2) 5) ∧
    decodeTableWord 32 0b1_011111_000000_000010_000101_0000011 = some (.brev true (.code 2) 5) ∧
    decodeTableWord 32 0b1_100000_000000_000010_000101_0000011 = some (.bswap true (.code 2) 5) := by decide

theorem test_decode_addi :
    decodeTableWord 32 0b0000000_010101_000010_000101_0000101 = some (.addi 21 (.code 2) 5) := by decide

theorem test_decode_addr :
    decodeTableWord 32 0b00000_01_000011_000010_000101_0000111 = some (.lea 1 (.code 3) (.code 2) 5) ∧
    decodeTableWord 32 0b0000100_000011_000010_000101_0000111 = some (.bfx (.code 3) (.code 2) 5) ∧
    decodeTableWord 32 0b0001000_000011_000010_000101_0000111 = some (.bfxz (.code 3) (.code 2) 5) ∧
    decodeTableWord 32 0b0001100_000011_000010_000101_0000111 = some (.bfi (.code 3) (.code 2) 5) := by decide

theorem test_decode_cmp :
    decodeTableWord 32 0b0000010_000011_000010_000_001_0001001 = some (.cmp 2 (.code 3) (.code 2) 1) := by decide

theorem test_decode_kop :
    decodeTableWord 32 0b0000000_000_001_000_001_000_101_0001011 = some (.kand 1 1 5) ∧
    decodeTableWord 32 0b0000001_000_001_000_001_000_101_0001011 = some (.kor 1 1 5) ∧
    decodeTableWord 32 0b0000010_000_001_000_001_000_101_0001011 = some (.kxor 1 1 5) ∧
    decodeTableWord 32 0b0000011_000000000_001_000_101_0001011 = some (.knot 1 5) ∧
    decodeTableWord 32 0b0000100_000000000_001_000_101_0001011 = some (.kmov 1 5) := by decide

theorem test_decode_branch :
    decodeTableWord 32 0b0000000_00000110100101_001_1_0001101 = some (.bt 421 1) ∧
    decodeTableWord 32 0b0000000_00000110100101_001_0_0001101 = some (.bf 421 1) := by decide

theorem test_decode_j :
    decodeTableWord 32 0b0000000_000000000110100101_0001111 = some (.j 421) := by decide

theorem test_decode_jal :
    decodeTableWord 32 0b0000000_000000000110100101_0010001 = some (.jal 421) := by decide

theorem test_decode_jump :
    decodeTableWord 32 0b0000000_000000_000010_000000_0010011 = some (.jr (.code 2)) ∧
    decodeTableWord 32 0b0000001_000000_000010_000101_0010011 = some (.jalr (.code 2) 5) ∧
    decodeTableWord 32 0b0000010_000000000000000000_0010011 = some .ret := by decide

theorem test_decode_loop :
    decodeTableWord 32 0b0000000_010101_000010_0000_10_0010101 = some (.loop 21 (.code 2) 2) ∧
    decodeTableWord 32 0b0000000_0000000000000001_10_0010101 = some (.lbrk 2) ∧
    decodeTableWord 32 0b0000000_0000000000000010_10_0010101 = some (.lnext 2) := by decide

theorem test_decode_rep :
    decodeTableWord 32 0b0000000_000_001_111_010_001001_0010111 = some (.rep 1 7 2 (.code 9)) := by decide

theorem test_decode_sys :
    decodeTableWord 32 0b0000000_000000000000000000_0011001 = some .nop ∧
    decodeTableWord 32 0b0000001_000000_000010_000000_0011001 = some (.trap (.code 2)) ∧
    decodeTableWord 32 0b0000010_000000_000010_000000_0011001 = some (.svc (.code 2)) ∧
    decodeTableWord 32 0b0000011_000000000000000000_0011001 = some .eret ∧
    decodeTableWord 32 0b0000100_000000000000000000_0011001 = some .ifence ∧
    decodeTableWord 32 0b0000101_000000000000000000_0011001 = some .brkpt ∧
    decodeTableWord 32 0b0000110_000000000000000000_0011001 = some .halt := by decide

theorem test_decode_csr :
    decodeTableWord 32 0b00_01000_000011_000000_000101_0011011 = some (.csrr 515 5) ∧
    decodeTableWord 32 0b01_01000_000011_000010_000101_0011011 = some (.csrw 515 (.code 2) 5) ∧
    decodeTableWord 32 0b10_01000_000011_000010_000101_0011011 = some (.csrs 515 (.code 2) 5) ∧
    decodeTableWord 32 0b11_01000_000011_000010_000101_0011011 = some (.csrc 515 (.code 2) 5) := by decide

theorem test_decode_ld :
    decodeTableWord 32 0b0000010_101_001_000010_000101_0011101 = some (.ld 21 1 (.code 2) 5) := by decide

theorem test_decode_lda :
    decodeTableWord 32 0b0000010_101_001_000010_000101_0011111 = some (.lda 21 1 (.code 2) 5) := by decide

theorem test_decode_st :
    decodeTableWord 32 0b0000010_101_001_000010_000110_0100001 = some (.st 21 1 (.code 2) (.code 6)) := by decide

theorem test_decode_stl :
    decodeTableWord 32 0b0000010_101_001_000010_000110_0100011 = some (.stl 21 1 (.code 2) (.code 6)) := by decide

theorem test_decode_amo :
    decodeTableWord 32 0b0000_1_1_1_000011_000010_000101_0100101 = some (.amoAdd true true true (.code 3) (.code 2) 5) ∧
    decodeTableWord 32 0b0001_1_1_1_000011_000010_000101_0100101 = some (.amoAnd true true true (.code 3) (.code 2) 5) ∧
    decodeTableWord 32 0b0010_1_1_1_000011_000010_000101_0100101 = some (.amoOr true true true (.code 3) (.code 2) 5) ∧
    decodeTableWord 32 0b0011_1_1_1_000011_000010_000101_0100101 = some (.amoXor true true true (.code 3) (.code 2) 5) ∧
    decodeTableWord 32 0b0100_1_1_1_000011_000010_000101_0100101 = some (.amoMin true true true (.code 3) (.code 2) 5) ∧
    decodeTableWord 32 0b0101_1_1_1_000011_000010_000101_0100101 = some (.amoMax true true true (.code 3) (.code 2) 5) ∧
    decodeTableWord 32 0b0110_1_1_1_000011_000010_000101_0100101 = some (.amoMinn true true true (.code 3) (.code 2) 5) ∧
    decodeTableWord 32 0b0111_1_1_1_000011_000010_000101_0100101 = some (.amoMaxn true true true (.code 3) (.code 2) 5) ∧
    decodeTableWord 32 0b1000_1_1_1_000011_000010_000101_0100101 = some (.amoSwap true true true (.code 3) (.code 2) 5) ∧
    decodeTableWord 32 0b1001_1_1_1_000011_000010_000101_0100101 = some (.amoCas true true true (.code 3) (.code 2) 5) ∧
    decodeTableWord 32 0b10100_1_1_000011_000010_000101_0100101 = some (.amoFadd true true (.code 3) (.code 2) 5) ∧
    decodeTableWord 32 0b10110_1_1_000011_000010_000101_0100101 = some (.amoBfadd2 true true (.code 3) (.code 2) 5) := by decide

theorem test_decode_fullEmpty :
    decodeTableWord 32 0b0_11_10_01_000000_000010_000101_0100111 = some (.ldx 3 2 1 (.code 2) 5) ∧
    decodeTableWord 32 0b1_11_10_01_000000_000010_000110_0100111 = some (.stx 3 2 1 (.code 2) (.code 6)) := by decide

theorem test_decode_ord :
    decodeTableWord 32 0b0000000_000000000000000000_0101111 = some .acq ∧
    decodeTableWord 32 0b0000001_000000000000000000_0101111 = some .rel ∧
    decodeTableWord 32 0b0000010_000000000000000000_0101111 = some .fence := by decide

theorem test_decode_cform_1 :
    decodeTableWord 16 0b1_01001_10101_00000 = some (.cVadd 9 21) ∧
    decodeTableWord 16 0b1_01001_10101_00010 = some (.cVsub 9 21) ∧
    decodeTableWord 16 0b1_01001_10101_00100 = some (.cVmul 9 21) ∧
    decodeTableWord 16 0b1_01001_10101_00110 = some (.cVmac 9 21) ∧
    decodeTableWord 16 0b1_01001_10101_01000 = some (.cVmin 9 21) ∧
    decodeTableWord 16 0b1_01001_10101_01010 = some (.cVmax 9 21) ∧
    decodeTableWord 16 0b1_01001_10101_01100 = some (.cVand 9 21) ∧
    decodeTableWord 16 0b1_01001_10101_01110 = some (.cVor 9 21) ∧
    decodeTableWord 16 0b1_01001_10101_10000 = some (.cVxor 9 21) ∧
    decodeTableWord 16 0b1_01001_10101_10010 = some (.cVshl 9 21) ∧
    decodeTableWord 16 0b1_01001_10101_10100 = some (.cVshr 9 21) ∧
    decodeTableWord 16 0b1_01001_10101_10110 = some (.cVsra 9 21) := by decide

theorem test_decode_cform_2 :
    decodeTableWord 16 0b1_01001_10101_11000 = some (.cVmov 9 21) ∧
    decodeTableWord 16 0b1_01001_10101_11010 = some (.cVneg 9 21) ∧
    decodeTableWord 16 0b1_01001_10101_11100 = some (.cVabs 9 21) ∧
    decodeTableWord 16 0b100000_10101_11110 = some (.cVzero 21) := by decide

theorem test_decode_vari_1 :
    decodeTableWord 32 0b0000_011_000011_000010_000101_0110001 = some (.vadd 3 (.code 3) (.code 2) 5) ∧
    decodeTableWord 32 0b0001_000_000011_000010_000101_0110001 = some (.vsub 0 (.code 3) (.code 2) 5) ∧
    decodeTableWord 32 0b0010_000_000011_000010_000101_0110001 = some (.vmul 0 (.code 3) (.code 2) 5) ∧
    decodeTableWord 32 0b0011_000_000011_000010_000101_0110001 = some (.vfma 0 (.code 3) (.code 2) 5) ∧
    decodeTableWord 32 0b0100_000_000011_000010_000101_0110001 = some (.vfms 0 (.code 3) (.code 2) 5) ∧
    decodeTableWord 32 0b0101_000_000011_000010_000101_0110001 = some (.vnfma 0 (.code 3) (.code 2) 5) ∧
    decodeTableWord 32 0b0110_000_000011_000010_000101_0110001 = some (.vmin 0 (.code 3) (.code 2) 5) ∧
    decodeTableWord 32 0b0111_000_000011_000010_000101_0110001 = some (.vmax 0 (.code 3) (.code 2) 5) ∧
    decodeTableWord 32 0b1000_000_000000_000010_000101_0110001 = some (.vabs 0 (.code 2) 5) ∧
    decodeTableWord 32 0b1001_000_000000_000010_000101_0110001 = some (.vneg 0 (.code 2) 5) ∧
    decodeTableWord 32 0b1010_000_000011_000010_000101_0110001 = some (.vand 0 (.code 3) (.code 2) 5) ∧
    decodeTableWord 32 0b1011_000_000011_000010_000101_0110001 = some (.vor 0 (.code 3) (.code 2) 5) := by decide

theorem test_decode_vari_2 :
    decodeTableWord 32 0b1100_000_000011_000010_000101_0110001 = some (.vxor 0 (.code 3) (.code 2) 5) ∧
    decodeTableWord 32 0b1101_000_000011_000010_000101_0110001 = some (.vshl 0 (.code 3) (.code 2) 5) ∧
    decodeTableWord 32 0b1110_000_000011_000010_000101_0110001 = some (.vshr 0 (.code 3) (.code 2) 5) ∧
    decodeTableWord 32 0b1111_000_000011_000010_000101_0110001 = some (.vsra 0 (.code 3) (.code 2) 5) := by decide

theorem test_decode_vgrp_1 :
    decodeTableWord 32 0b0000_010_000011_000010_000_001_0110011 = some (.vcmp 2 (.code 3) (.code 2) 1) ∧
    decodeTableWord 32 0b0001_001_000011_000010_000101_0110011 = some (.vsel 1 (.code 3) (.code 2) 5) ∧
    decodeTableWord 32 0b0010_000_000000_000010_000101_0110011 = some (.vmov 0 (.code 2) 5) ∧
    decodeTableWord 32 0b0011000_000000_000010_000101_0110011 = some (.vbcast (.code 2) 5) ∧
    decodeTableWord 32 0b0100000_000011_000010_000101_0110011 = some (.vext (.code 3) (.code 2) 5) ∧
    decodeTableWord 32 0b0101000_000011_000010_000101_0110011 = some (.vins (.code 3) (.code 2) 5) ∧
    decodeTableWord 32 0b0110000_000011_000010_000101_0110011 = some (.vperm (.code 3) (.code 2) 5) ∧
    decodeTableWord 32 0b0111000_000011_000010_000101_0110011 = some (.vslide (.code 3) (.code 2) 5) ∧
    decodeTableWord 32 0b1000_000_000011_000010_000101_0110011 = some (.vmulh 0 (.code 3) (.code 2) 5) ∧
    decodeTableWord 32 0b1001_000_000000_000010_000101_0110011 = some (.vclz 0 (.code 2) 5) ∧
    decodeTableWord 32 0b1010_000_000000_000010_000101_0110011 = some (.vpopc 0 (.code 2) 5) ∧
    decodeTableWord 32 0b1011_000_000011_000010_000101_0110011 = some (.vadds 0 (.code 3) (.code 2) 5) := by decide

theorem test_decode_vgrp_2 :
    decodeTableWord 32 0b1100_000_000011_000010_000101_0110011 = some (.vsubs 0 (.code 3) (.code 2) 5) := by decide

theorem test_decode_vcnv :
    decodeTableWord 32 0b0000_000_00_1001_000010_000101_0110101 = some (.vcvt 0 9 (.code 2) 5) ∧
    decodeTableWord 32 0b0001_000_000011_000010_000101_0110101 = some (.vqnt 0 (.code 3) (.code 2) 5) ∧
    decodeTableWord 32 0b0010_000_000011_000010_000101_0110101 = some (.vdq 0 (.code 3) (.code 2) 5) ∧
    decodeTableWord 32 0b0011_000_000000_000010_000101_0110101 = some (.vrndi 0 (.code 2) 5) ∧
    decodeTableWord 32 0b0100_000_000011_000010_000101_0110101 = some (.vscale 0 (.code 3) (.code 2) 5) ∧
    decodeTableWord 32 0b0101_000_000000_000010_000101_0110101 = some (.vgetexp 0 (.code 2) 5) := by decide

theorem test_decode_vsfu :
    decodeTableWord 32 0b0000_000_000000_000010_000101_0110111 = some (.vexp2 0 (.code 2) 5) ∧
    decodeTableWord 32 0b0001_000_000000_000010_000101_0110111 = some (.vlog2 0 (.code 2) 5) ∧
    decodeTableWord 32 0b0010_000_000000_000010_000101_0110111 = some (.vrcp 0 (.code 2) 5) ∧
    decodeTableWord 32 0b0011_000_000000_000010_000101_0110111 = some (.vrsq 0 (.code 2) 5) ∧
    decodeTableWord 32 0b0100_000_000000_000010_000101_0110111 = some (.vsqrt 0 (.code 2) 5) ∧
    decodeTableWord 32 0b0101_000_000000_000010_000101_0110111 = some (.vsinpi 0 (.code 2) 5) ∧
    decodeTableWord 32 0b0110_000_000000_000010_000101_0110111 = some (.vcospi 0 (.code 2) 5) := by decide

theorem test_decode_vred :
    decodeTableWord 32 0b0000000_000000_000010_000101_0111001 = some (.vredsum (.code 2) 5) ∧
    decodeTableWord 32 0b0001000_000000_000010_000101_0111001 = some (.vredmax (.code 2) 5) ∧
    decodeTableWord 32 0b0010000_000000_000010_000101_0111001 = some (.vredmin (.code 2) 5) ∧
    decodeTableWord 32 0b0011000_000000_000010_000101_0111001 = some (.vredamax (.code 2) 5) ∧
    decodeTableWord 32 0b0100000_000000_000010_000101_0111001 = some (.vrowmax (.code 2) 5) ∧
    decodeTableWord 32 0b0101000_000011_000010_000000_0111001 = some (.vxadd (.code 3) (.code 2)) ∧
    decodeTableWord 32 0b0110000_000000_000010_000101_0111001 = some (.vxrd (.code 2) 5) ∧
    decodeTableWord 32 0b0111000_000000_000010_000000_0111001 = some (.vxclr (.code 2)) := by decide

theorem test_decode_vmem :
    decodeTableWord 32 0b0000000_000011_000010_000101_0111011 = some (.vld (.code 3) (.code 2) 5) ∧
    decodeTableWord 32 0b0001000_000011_000010_000110_0111011 = some (.vst (.code 3) (.code 2) (.code 6)) ∧
    decodeTableWord 32 0b0010000_000011_000010_000101_0111011 = some (.vgath (.code 3) (.code 2) 5) ∧
    decodeTableWord 32 0b0011000_000011_000010_000110_0111011 = some (.vscat (.code 3) (.code 2) (.code 6)) ∧
    decodeTableWord 32 0b0100000_000011_000010_000101_0111011 = some (.vldb (.code 3) (.code 2) 5) := by decide

theorem test_decode_vshape :
    decodeTableWord 32 0b0000_101_000000_000010_000000_0111101 = some (.shpld 5 (.code 2)) ∧
    decodeTableWord 32 0b0001_101_000000_000010_000000_0111101 = some (.shpst 5 (.code 2)) ∧
    decodeTableWord 32 0b0010000_000011_000010_100001_0111101 = some (.hbind (.code 3) (.code 2) 33) ∧
    decodeTableWord 32 0b0011000_000000000000_100001_0111101 = some (.hadvc 33) ∧
    decodeTableWord 32 0b0100000_000000000000_100001_0111101 = some (.hadvp 33) ∧
    decodeTableWord 32 0b0101000_000000_100010_000101_0111101 = some (.hstat 34 5) ∧
    decodeTableWord 32 0b0110000_000000000000_100001_0111101 = some (.hunbind 33) := by decide

theorem test_decode_mma :
    decodeTableWord 32 0b1_0_1001_0_110_10001_01100_00011_0111111 = some (.mma true false 9 6 17 12 3) := by decide

theorem test_decode_mmas :
    decodeTableWord 32 0b10_1001_0_110_01_10001_1100_0011_1000001 = some (.mmas 2 9 6 1 17 12 3) := by decide

theorem test_decode_mmaq :
    decodeTableWord 32 0b1_0_1001_0_110_10001_01100_00011_1000011 = some (.mmaq true false 9 6 17 12 3) := by decide

theorem test_decode_tile :
    decodeTableWord 32 0b0000_101_1_000010_01101_000101_1000101 = some (.tld 11 (.code 2) 13 (.code 5)) ∧
    decodeTableWord 32 0b0001_101_1_000000_01101_000000_1000101 = some (.tzero 11 13) ∧
    decodeTableWord 32 0b0010000_0_000010_01101_000000_1000101 = some (.acz (.code 2) 13) ∧
    decodeTableWord 32 0b0011000_0_000010_01101_000101_1000101 = some (.acrd (.code 2) 13 (.code 5)) ∧
    decodeTableWord 32 0b0100000_0_000010_01101_000101_1000101 = some (.acwr (.code 2) 13 (.code 5)) ∧
    decodeTableWord 32 0b0101000_0_000010_00000_000001_1000101 = some (.jpoll (.code 2) 1) ∧
    decodeTableWord 32 0b0110000_0_000010_00000000000_1000101 = some (.jwait (.code 2)) := by decide

theorem test_decode_copy :
    decodeTableWord 32 0b0000000_000000_000010_000101_1000111 = some (.cxrd (.code 2) 5) ∧
    decodeTableWord 32 0b0000001_000011_000010_000110_1000111 = some (.burst (.code 3) (.code 2) (.code 6)) ∧
    decodeTableWord 32 0b0000010_000000_000010_000000_1000111 = some (.cxdone (.code 2)) := by decide

theorem test_decode_stream :
    decodeTableWord 32 0b0000000_000000_000001_100001_1001001 = some (.subscr 1 33) ∧
    decodeTableWord 32 0b0000001_000000000000_100001_1001001 = some (.unsub 33) := by decide

theorem test_decode_tag :
    decodeTableWord 32 0b0000000_000000_000010_000101_1001011 = some (.tagwany (.code 2) 5) ∧
    decodeTableWord 32 0b0000001_000000_000010_000101_1001011 = some (.tagwall (.code 2) 5) ∧
    decodeTableWord 32 0b0000010_000000_000010_000101_1001011 = some (.tagff (.code 2) 5) ∧
    decodeTableWord 32 0b0000011_000000_000010_000000_1001011 = some (.tagclr (.code 2)) ∧
    decodeTableWord 32 0b0000100_000000000000_000101_1001011 = some (.tagrd 5) := by decide

theorem test_decode_obj :
    decodeTableWord 32 0b0000000_000011_000010_000101_1001101 = some (.obnew (.code 3) (.code 2) 5) ∧
    decodeTableWord 32 0b0000001_000000_000010_000000_1001101 = some (.obdel (.code 2)) ∧
    decodeTableWord 32 0b0000010_000000_000010_000000_1001101 = some (.arrive (.code 2)) ∧
    decodeTableWord 32 0b1000010_000000_000010_000000_1001101 = some (.arriveLeave (.code 2)) ∧
    decodeTableWord 32 0b0000011_000011_000010_000000_1001101 = some (.arriveb (.code 3) (.code 2)) ∧
    decodeTableWord 32 0b0000100_000000_000010_000101_1001101 = some (.wait (.code 2) 5) ∧
    decodeTableWord 32 0b0000101_000011_000010_000000_1001101 = some (.signal (.code 3) (.code 2)) ∧
    decodeTableWord 32 0b0000110_000000_000010_000101_1001101 = some (.lock (.code 2) 5) ∧
    decodeTableWord 32 0b0000111_000000_000010_000000_1001101 = some (.unlock (.code 2)) ∧
    decodeTableWord 32 0b0001000_000011_000010_000110_1001101 = some (.obxfer (.code 3) (.code 2) (.code 6)) ∧
    decodeTableWord 32 0b0001001_000011_000010_000101_1001101 = some (.obrd (.code 3) (.code 2) 5) ∧
    decodeTableWord 32 0b0001010_000000_000010_000101_1001101 = some (.rankof (.code 2) 5) := by decide

theorem test_decode_task :
    decodeTableWord 32 0b0000000_000000_000010_000101_1001111 = some (.spawn (.code 2) 5) ∧
    decodeTableWord 32 0b0000001_000000000000000000_1001111 = some .exit ∧
    decodeTableWord 32 0b0000010_000000000000000000_1001111 = some .yield ∧
    decodeTableWord 32 0b0000011_000000_000010_000000_1001111 = some (.msgsend (.code 2)) ∧
    decodeTableWord 32 0b0000100_000000_000010_000101_1001111 = some (.ttarm (.code 2) 5) ∧
    decodeTableWord 32 0b0000101_000000000000_000101_1001111 = some (.now 5) := by decide

theorem test_decode_welt :
    decodeTableWord 32 0b0000000_000000_000010_000000_1010001 = some (.wstart (.code 2)) ∧
    decodeTableWord 32 0b0000001_000000000000000000_1010001 = some .wend ∧
    decodeTableWord 32 0b0000010_000000000000_000101_1010001 = some (.wpos 5) := by decide

theorem test_decode_sync :
    decodeTableWord 32 0b0000000_000000_000010_000101_1010011 = some (.sync (.code 2) 5) ∧
    decodeTableWord 32 0b0000001_000011_000001_000000_1010011 = some (.xmit (.code 3) 1) ∧
    decodeTableWord 32 0b0000010_000011_000000_000101_1010011 = some (.xrecv (.code 3) 5) ∧
    decodeTableWord 32 0b0000011_000000_000010_000000_1010011 = some (.muxsel (.code 2)) := by decide

theorem test_decode_rst :
    decodeTableWord 32 0b0000_1_10_000011_000010_000101_0101001 = some (.rst true 2 (.code 3) (.code 2) 5) := by decide

theorem test_decode_ramo :
    decodeTableWord 32 0b0000_1_00_000011_000010_000000_0101011 = some (.ramoAdd true (.code 3) (.code 2)) ∧
    decodeTableWord 32 0b0001_1_00_000011_000010_000000_0101011 = some (.ramoAnd true (.code 3) (.code 2)) ∧
    decodeTableWord 32 0b0010_1_00_000011_000010_000000_0101011 = some (.ramoOr true (.code 3) (.code 2)) ∧
    decodeTableWord 32 0b0011_1_00_000011_000010_000000_0101011 = some (.ramoXor true (.code 3) (.code 2)) ∧
    decodeTableWord 32 0b0100_1_00_000011_000010_000000_0101011 = some (.ramoMin true (.code 3) (.code 2)) ∧
    decodeTableWord 32 0b0101_1_00_000011_000010_000000_0101011 = some (.ramoMax true (.code 3) (.code 2)) ∧
    decodeTableWord 32 0b0110_1_00_000011_000010_000000_0101011 = some (.ramoMinn true (.code 3) (.code 2)) ∧
    decodeTableWord 32 0b0111_1_00_000011_000010_000000_0101011 = some (.ramoMaxn true (.code 3) (.code 2)) ∧
    decodeTableWord 32 0b1000_1_00_000011_000010_000000_0101011 = some (.ramoSwap true (.code 3) (.code 2)) ∧
    decodeTableWord 32 0b1001_1_00_000011_000010_000101_0101011 = some (.ramoCas true (.code 3) (.code 2) 5) ∧
    decodeTableWord 32 0b1010000_000011_000010_000000_0101011 = some (.ramoFadd (.code 3) (.code 2)) ∧
    decodeTableWord 32 0b1011000_000011_000010_000000_0101011 = some (.ramoBfadd2 (.code 3) (.code 2)) := by decide

theorem test_decode_fabric :
    decodeTableWord 32 0b0000000_000000_000010_000000_0101101 = some (.sflush (.code 2)) ∧
    decodeTableWord 32 0b0000001_000000000000000000_0101101 = some .sflusha ∧
    decodeTableWord 32 0b0000010_000000000000_000101_0101101 = some (.fencef 5) ∧
    decodeTableWord 32 0b0000011_000000000000_000101_0101101 = some (.ferr 5) := by decide

theorem test_decode_vm :
    decodeTableWord 32 0b0000000_000000_000010_000101_1010101 = some (.pgcommit (.code 2) 5) ∧
    decodeTableWord 32 0b0000001_000000_000010_000101_1010101 = some (.pgfree (.code 2) 5) ∧
    decodeTableWord 32 0b0000010_000011_000010_000000_1010101 = some (.tlbinv (.code 3) (.code 2)) ∧
    decodeTableWord 32 0b0000011_000000_000010_000101_1010101 = some (.addrq (.code 2) 5) := by decide

end Sys2Proof.Tests
end

section
/-! The hardwired registers `s0` and `k0`, and the link register of JAL (02 R11, 05 R69). -/

namespace Sys2Proof.Proofs

open Sys2Proof Sys2Proof.Machine Sys2Proof.Laws

/-! Reads and writes of the hardwired registers. -/

@[simp] theorem srcVal_s0 (s : State) : srcVal s (.code 0) = 0 := rfl
@[simp] theorem predVal_k0 (s : State) : predVal s 0 = BitVec.allOnes 64 := rfl
@[simp] theorem setDest_s0 (s : State) (v : Word) : setDest s 0 v = s := rfl
@[simp] theorem setPred_k0 (s : State) (v : Word) : setPred s 0 v = s := rfl

/-! Scalar registers through a write and the end of an instruction. -/

theorem writeDest_reg_same (c : Ctx) {d : Nat} (h0 : d ≠ 0) (h : d < 32) (v : Word) : (c.writeDest d v).s[d]! = v := by
  simp [Ctx.writeDest, h0, h]

@[simp] theorem finish_s (s : State) (c : Ctx) (x y : Word) : (s.finish c x y).t.s = c.s := by
  unfold State.finish
  split
  · rfl
  · split <;> rfl

@[simp] theorem jumped_s (s : State) (f : Ctx → Ctx) (x : Word) : (jumped s f x).t.s = (f s.t).s := finish_s ..

/-! What ADDI, CMP and JAL answer where they may run. -/

/-- 05 R63, for every destination, `s0` and the send ports included. -/
theorem addi_writes {s : State} {a : Src} (ha : readable s a = true) (imm : BitVec 13) (d : Code) :
    Writes (.addi imm a d) s d (srcVal s a + imm.signExtend 64) :=
  fun hr => alu1_ok (f := (· + imm.signExtend 64)) ha hr

/-- 05 R66, for every predicate, `k0` included. -/
theorem cmp_writesPred {s : State} {a b : Src} (ha : readable s a = true) (hb : readable s b = true) (c : BitVec 7)
    (k : BitVec 3) :
    WritesPred (.cmp c b a k) s k (if cmpHolds c.toNat (srcVal s a) (srcVal s b) then BitVec.allOnes 64 else 0) := by
  intro hr
  obtain ⟨hadm, hq⟩ := ready_iff.1 hr
  refine runM_ok ?_
  rw [bind_passes (gate_passes hadm), bind_passes (readSrc_passes ha), bind_passes (readSrc_passes hb),
    bind_passes (writeK_passes ..)]
  exact retire_passes (by simpa using hq) _

/-- 05 R69: the link is the address behind JAL, and control goes to the target. -/
theorem jal_completes (s : State) (off : BitVec 25) :
    Completes (.jal off) s (jumped s (fun t => t.writeDest 31 (s.t.pc + 4)) (branchTarget s.t.pc off)) := by
  intro hr
  obtain ⟨hadm, hq⟩ := ready_iff.1 hr
  refine runM_ok ?_
  rw [bind_passes (gate_passes hadm), bind_readT]
  exact jumpTo_ok hq (by simp [SameDue]) _

/-- Settles O43: ADDI and CMP write their destination like any other, and the write of `s0` or `k0` is no change of the
state; a jump keeps the link that JAL has written. -/
theorem hardwiredRegisters : Obligations.HardwiredRegisters := by
  unfold Obligations.HardwiredRegisters
  intro imm c off b a v s
  refine ⟨srcVal_s0 s, predVal_k0 s, setDest_s0 s v, setPred_k0 s v, fun ha => ?addi, fun ha hb => ?cmp, fun hr => ?jal⟩
  case addi => simpa only [Writes, setDest_s0] using addi_writes ha imm 0
  case cmp => simpa only [WritesPred, setPred_k0] using cmp_writesPred ha hb c 0
  case jal =>
    refine ⟨_, jal_completes s off hr, ?_⟩
    rw [jumped_s]
    exact writeDest_reg_same s.t (by decide) (by decide) _

end Sys2Proof.Proofs
end

section
/-! Single instructions of the scalar families: ADDI, the shifts and rotations, the divisions (05 R61 to R63). -/

namespace Sys2Proof.Proofs

open Sys2Proof Sys2Proof.Machine Sys2Proof.Laws

/-! ADDI (05 R63). -/

/-- A sum with a sign-extended immediate is the exact sum modulo 2 to the 64. -/
theorem toNat_add_signExtend {m : Nat} (x : Word) (imm : BitVec m) :
    ((x + imm.signExtend 64).toNat : Int) = (x.toInt + imm.toInt) % 2 ^ 64 := by
  have hsum : x + imm.signExtend 64 = BitVec.ofInt 64 (x.toInt + imm.toInt) := by
    rw [BitVec.ofInt_add, BitVec.ofInt_toInt, BitVec.signExtend]
  rw [hsum, BitVec.toNat_ofInt, Int.toNat_of_nonneg (Int.emod_nonneg _ (by decide))]
  rfl

/-- The source that a register's code names: no literal announces itself below 32 (04 R52). -/
theorem src_reg {c : Code} (hc : isReg c = true) (l : Word) : src c.toNat l = .code c := by
  have : c.toNat < 32 := by simpa [isReg] using hc
  simp [src, show c.toNat ≠ 62 by omega, show c.toNat ≠ 63 by omega]

/-- 04 R54: major 2 reads the three fields of the I form. -/
theorem decodeRaw_addi {imm : BitVec 13} {c d : Code} (hc : isReg c = true) (l : Word) :
    decodeRaw (imm.toNat * 2 ^ 19 + c.toNat * 2 ^ 13 + d.toNat * 2 ^ 7 + 2 * 2 + 1) l = .ok (.addi imm (.code c) d) := by
  have himm := imm.isLt
  have hcl := c.isLt
  have hdl := d.isLt
  generalize hw : imm.toNat * 2 ^ 19 + c.toNat * 2 ^ 13 + d.toNat * 2 ^ 7 + 2 * 2 + 1 = w
  have hodd : w % 2 ≠ 0 := by omega
  have hmajor : w / 2 % 64 = 2 := by omega
  have hi : w / 524288 % 8192 = imm.toNat := by omega
  have ha : w / 8192 % 64 = c.toNat := by omega
  have hd : w / 128 % 64 = d.toNat := by omega
  rw [decodeRaw, if_neg hodd, hmajor]
  simp only [decAddi, hi, ha, hd, src_reg hc, BitVec.ofNat_toNat, BitVec.setWidth_eq]

/-- 04 R57, checks 3 and 5 on the I form. -/
theorem wf_addi (imm : BitVec 13) (a : Src) (d : Code) : (Instr.addi imm a d).wf = (a.scalar && dstScalar d) := rfl

/-- A word whose fields name a well-formed instruction decodes to it. -/
theorem decodeWord_of_raw {w : Nat} {l : Word} {i : Instr} (h : decodeRaw w l = .ok i) (hwf : i.wf = true) :
    decodeWord w l = .ok i := by
  simp only [decodeWord, h, hwf, if_true]

/-- Settles O44: the sum of `addi_writes` is exact modulo 2 to the 64, and the word of the I form decodes to ADDI. -/
theorem addImmediate : Obligations.AddImmediate := by
  unfold Obligations.AddImmediate
  intro imm a c d s
  constructor
  · intro ha
    exact ⟨_, toNat_add_signExtend (srcVal s a) imm, addi_writes ha imm d⟩
  · intro hc hd
    refine decodeWord_of_raw (decodeRaw_addi hc 0) ?_
    simp [wf_addi, Src.scalar, dstScalar, hc, hd]

/-! What an ALU instruction of two sources answers, at each of its widths (05 R60). -/

/-- At 64 bits the operation itself is written. -/
theorem alu2_writes {i : Instr} {b a : Src} {d : Code} {f : {n : Nat} → BitVec n → BitVec n → BitVec n} {s : State}
    (hi : exec i s = runM (alu2 i b a d (wide2 false f)) s) (ha : readable s a = true) (hb : readable s b = true) :
    Writes i s d (f (srcVal s a) (srcVal s b)) :=
  fun hr => hi.trans (alu2_ok ha hb hr)

/-- At 32 bits the operation on the low words is written, extended from bit 31. -/
theorem alu2_writes_word {i : Instr} {b a : Src} {d : Code} {f : {n : Nat} → BitVec n → BitVec n → BitVec n} {s : State}
    (hi : exec i s = runM (alu2 i b a d (wide2 true f)) s) (ha : readable s a = true) (hb : readable s b = true) :
    Writes i s d ((f ((srcVal s a).setWidth 32) ((srcVal s b).setWidth 32)).signExtend 64) :=
  fun hr => hi.trans (alu2_ok ha hb hr)

/-! The shifts, bit by bit (05 R61). -/

section Shifts
variable {n j : Nat} (x y : BitVec n) (c : Nat)

theorem getLsbD_shlBy (hj : j < n) : (shlBy x c).getLsbD j = (decide (c ≤ j) && x.getLsbD (j - c)) := by
  unfold shlBy
  split
  · simp [show ¬ c ≤ j by omega]
  · by_cases h : c ≤ j
    · simp only [BitVec.getLsbD_shiftLeft, hj, h, show ¬ j < c by omega, decide_true, decide_false, Bool.not_false,
        Bool.true_and]
    · simp [h, show j < c by omega]

theorem getLsbD_shrBy : (shrBy x c).getLsbD j = x.getLsbD (j + c) := by
  unfold shrBy
  split
  · simp [BitVec.getLsbD_of_ge x (j + c) (by omega)]
  · simp [Nat.add_comm]

/-- The bits beyond the sign bit are copies of it. -/
theorem getLsbD_sraBy (hj : j < n) : (sraBy x c).getLsbD j = x.getLsbD (min (j + c) (n - 1)) := by
  unfold sraBy
  split
  · rw [show min (j + c) (n - 1) = n - 1 by omega, ← BitVec.msb_eq_getLsbD_last]
    cases x.msb <;> simp [hj]
  · rw [BitVec.getLsbD_sshiftRight, Nat.add_comm c j]
    split
    · simp [hj, show min (j + c) (n - 1) = j + c by omega]
    · simp [hj, show min (j + c) (n - 1) = n - 1 by omega, BitVec.msb_eq_getLsbD_last]

/-- Of a left rotation's two parts one holds bit `j`, and the other is zero there. -/
theorem getLsbD_opRol (hj : j < n) : (opRol x y).getLsbD j = x.getLsbD ((j + n - y.toNat % n) % n) := by
  have hc : y.toNat % n < n := Nat.mod_lt _ (by omega)
  unfold opRol
  generalize y.toNat % n = c at hc
  rw [BitVec.getLsbD_or, getLsbD_shlBy x c hj, getLsbD_shrBy]
  by_cases h : c ≤ j
  · have hmod : (j + n - c) % n = j - c := by
      rw [show j + n - c = j - c + n by omega, Nat.add_mod_right, Nat.mod_eq_of_lt (by omega)]
    simp [h, hmod, BitVec.getLsbD_of_ge x (j + (n - c)) (by omega)]
  · have hmod : (j + n - c) % n = j + (n - c) := by
      rw [show j + n - c = j + (n - c) by omega, Nat.mod_eq_of_lt (by omega)]
    simp [h, hmod]

/-- The same of a right rotation's two parts. -/
theorem getLsbD_opRor (hj : j < n) : (opRor x y).getLsbD j = x.getLsbD ((j + y.toNat) % n) := by
  have hc : y.toNat % n < n := Nat.mod_lt _ (by omega)
  rw [← Nat.add_mod_mod]
  unfold opRor
  generalize y.toNat % n = c at hc
  rw [BitVec.getLsbD_or, getLsbD_shlBy x (n - c) hj, getLsbD_shrBy]
  by_cases h : j + c < n
  · simp [Nat.mod_eq_of_lt h, show ¬ n - c ≤ j by omega]
  · have hmod : (j + c) % n = j - (n - c) := by
      rw [Nat.mod_eq_sub_mod (by omega), Nat.mod_eq_of_lt (by omega)]
      omega
    simp [hmod, show n - c ≤ j by omega, BitVec.getLsbD_of_ge x (j + c) (by omega)]

/-- 05 R61 for the five operations, at every width. -/
theorem shiftsOf_ops : ShiftsOf x y (opShl x y) (opShr x y) (opSra x y) (opRol x y) (opRor x y) :=
  fun _ hj => ⟨getLsbD_shlBy x _ hj, getLsbD_shrBy x _, getLsbD_sraBy x _ hj, getLsbD_opRol x y hj, getLsbD_opRor x y hj⟩

end Shifts

/-- Settles O45: each instruction writes its operation at its width (`alu2_writes`), and the operations are the five shifts
bit by bit (`shiftsOf_ops`). -/
theorem shiftsByAnyCount : Obligations.ShiftsByAnyCount := by
  unfold Obligations.ShiftsByAnyCount
  intro b a d s ha hb
  exact ⟨⟨_, _, _, _, _, shiftsOf_ops _ _, alu2_writes rfl ha hb, alu2_writes rfl ha hb, alu2_writes rfl ha hb,
      alu2_writes rfl ha hb, alu2_writes rfl ha hb⟩,
    _, _, _, _, _, shiftsOf_ops _ _, alu2_writes_word rfl ha hb, alu2_writes_word rfl ha hb, alu2_writes_word rfl ha hb,
    alu2_writes_word rfl ha hb, alu2_writes_word rfl ha hb⟩

/-! Quotients and remainders (05 R62). -/

section Division
variable {n : Nat} {x y : BitVec n}

theorem opDiv_eq_sdiv (hy : y ≠ 0) : opDiv x y = x.sdiv y := by
  apply BitVec.eq_of_toInt_eq
  rw [opDiv, if_neg hy, BitVec.toInt_ofInt, BitVec.toInt_sdiv]

theorem opRem_eq_srem (hy : y ≠ 0) : opRem x y = x.srem y := by
  rw [opRem, if_neg hy, ← BitVec.toInt_srem, BitVec.ofInt_toInt]

theorem toNat_opDivn (hy : y ≠ 0) : (opDivn x y).toNat = x.toNat / y.toNat := by
  rw [opDivn, if_neg hy, BitVec.toNat_ofNat]
  exact Nat.mod_eq_of_lt ((Nat.div_le_self _ _).trans_lt x.isLt)

theorem toNat_opRemn (hy : y ≠ 0) : (opRemn x y).toNat = x.toNat % y.toNat := by
  rw [opRemn, if_neg hy, BitVec.toNat_ofNat]
  exact Nat.mod_eq_of_lt ((Nat.mod_le _ _).trans_lt x.isLt)

/-- The quotient of the least value by -1 is beyond the width, and wraps to the dividend. -/
theorem opDiv_intMin_allOnes (hn : 0 < n) :
    opDiv (BitVec.intMin n) (BitVec.allOnes n) = BitVec.intMin n ∧ opRem (BitVec.intMin n) (BitVec.allOnes n) = 0 := by
  have h0 : BitVec.allOnes n ≠ 0 := by
    intro h
    simpa [hn] using congrArg BitVec.toInt h
  constructor
  · rw [opDiv_eq_sdiv h0, ← BitVec.neg_one_eq_allOnes, BitVec.intMin_sdiv_neg_one]
  · rw [opRem, if_neg h0, BitVec.toInt_allOnes, if_pos hn]
    simp

/-- A remainder that is not zero has the sign of the dividend. -/
theorem sign_tmod_of_ne_zero {a b : Int} (h : a.tmod b ≠ 0) : (a.tmod b).sign = a.sign := by
  rw [Int.sign_tmod, if_neg fun hd => h (Int.tmod_eq_zero_of_dvd hd)]

/-- 05 R62 for the four operations, at every width. -/
theorem dividesAs_ops (x y : BitVec n) (hn : 0 < n) : DividesAs x y (opDiv x y) (opRem x y) (opDivn x y) (opRemn x y) := by
  refine ⟨?zero, fun hy => ⟨toNat_opDivn hy, toNat_opRemn hy⟩, ?wraps, fun hy hw => ?signed⟩
  case zero =>
    rintro rfl
    simp [opDiv, opRem, opDivn, opRemn]
  case wraps =>
    rintro rfl rfl
    exact opDiv_intMin_allOnes hn
  case signed =>
    have hq : (opDiv x y).toInt = x.toInt.tdiv y.toInt := by
      rw [opDiv_eq_sdiv hy]
      refine BitVec.toInt_sdiv_of_ne_or_ne x y ?_
      rw [BitVec.neg_one_eq_allOnes]
      exact Decidable.not_and_iff_or_not.1 hw
    have hr : (opRem x y).toInt = x.toInt.tmod y.toInt := by rw [opRem_eq_srem hy, BitVec.toInt_srem]
    rw [hq, hr]
    exact ⟨rfl, (Int.tdiv_mul_add_tmod _ _).symm, sign_tmod_of_ne_zero⟩

end Division

/-- Settles O46: each instruction writes its operation at its width (`alu2_writes`), and the operations divide as 05 R62 has
it (`dividesAs_ops`). -/
theorem divisionCorners : Obligations.DivisionCorners := by
  unfold Obligations.DivisionCorners
  intro b a d s ha hb
  exact ⟨⟨_, _, _, _, dividesAs_ops _ _ (by decide), alu2_writes rfl ha hb, alu2_writes rfl ha hb, alu2_writes rfl ha hb,
      alu2_writes rfl ha hb⟩,
    _, _, _, _, dividesAs_ops _ _ (by decide), alu2_writes_word rfl ha hb, alu2_writes_word rfl ha hb,
    alu2_writes_word rfl ha hb, alu2_writes_word rfl ha hb⟩

end Sys2Proof.Proofs
end

section
/-! The trap entry: where a trap goes, and the state that its handler or the supervisor finds (05 R88, 11 R219, R220,
20 R330, R331). -/

namespace Sys2Proof.Proofs

open Sys2Proof Sys2Proof.Machine Sys2Proof.Laws

/-! The stop of a gang leaves its leader the same. -/

/-- An entry written to a table is found first, or what was found before it still is. -/
theorem findSome?_put {α β : Type} {f : Nat × α → Option β} {t : Tab α} {n : Nat} {a : α} {b b' : β}
    (h : t.findSome? f = some b) (ha : f (n, a) = some b') :
    (t.put n a).findSome? f = some b' ∨ (t.put n a).findSome? f = some b := by
  induction t with
  | nil => simp at h
  | cons x t ih =>
    obtain ⟨k, c⟩ := x
    unfold Tab.put
    split
    · simp [ha]
    split
    · simp [ha]
    · cases hc : f (k, c) <;> simp_all

/-- What `State.gangOf` answers of a gang that has the context as a member. -/
def memberOf (core : Nat) (x : Nat × Gang) : Option (Nat × Gang × Nat) :=
  (x.2.members.findIdx? (· == core)).map fun p => (x.1, x.2, p)

theorem gangOf_eq_findSome? (s : State) (core : Nat) : s.gangOf core = s.gangs.findSome? (memberOf core) := by
  unfold State.gangOf
  congr 1
  funext x
  unfold memberOf
  dsimp only
  cases x.2.members.findIdx? (· == core) <;> rfl

/-- A member's position is where its gang lists it. -/
theorem findIdx?_of_gangOf {s : State} {core id p : Nat} {g : Gang} (h : s.gangOf core = some (id, g, p)) :
    g.members.findIdx? (· == core) = some p := by
  rw [gangOf_eq_findSome?] at h
  obtain ⟨⟨k, g1⟩, -, hx⟩ := List.exists_of_findSome?_eq_some h
  obtain ⟨q, hq, he⟩ := Option.map_eq_some_iff.1 hx
  cases he
  exact hq

/-- A gang's entry rewritten with the same members keeps the leader of its members. -/
theorem leaderOf_put {s : State} {core id p : Nat} {g g' : Gang} (h : s.gangOf core = some (id, g, p))
    (hm : g'.members = g.members) : State.leaderOf { s with gangs := s.gangs.put id g' } core = s.leaderOf core := by
  have hg' : memberOf core (id, g') = some (id, g', p) := by
    simp [memberOf, hm, findIdx?_of_gangOf h]
  unfold State.leaderOf
  rw [h, gangOf_eq_findSome?]
  obtain h' | h' := findSome?_put ((gangOf_eq_findSome? s core).symm.trans h) hg'
  · simp [h', hm]
  · simp [h']

/-! The stop of a gang for a trap. -/

theorem laySkid_shape (s : State) (id : Nat) :
    ∃ mem bad cores, s.laySkid id = { s with mem := mem, bad := bad, cores := cores } := by
  unfold State.laySkid
  split
  · split
    · exact lay_shape ..
    · exact ⟨_, _, _, rfl⟩
  · exact ⟨_, _, _, rfl⟩

theorem lay_ctx (s : State) (c : Ctx) (key : Nat) (bs : List Byte) :
    State.lay { s with t := c } key bs = { s.lay key bs with t := c } := by
  unfold State.lay State.write State.unown
  dsimp only
  split <;> rfl

/-- The skid record does not depend on the context whose turn it is. -/
theorem laySkid_ctx (s : State) (c : Ctx) (id : Nat) :
    State.laySkid { s with t := c } id = { s.laySkid id with t := c } := by
  have hs : State.slice { s with t := c } id = s.slice id := rfl
  unfold State.laySkid
  rw [hs]
  cases s.gangs.find id with
  | none => rfl
  | some g =>
    cases s.slice id with
    | none => rfl
    | some x =>
      cases hg : g.stopped with
      | false => simp only [hg, Bool.false_eq_true, if_false]
      | true =>
        simp only [hg, if_true]
        exact lay_ctx ..

/-- A trap's stop changes the gangs and the memory, and the leader of the context's gang stays. -/
theorem trapStops_shape (s : State) : ∃ gangs mem bad cores,
    (TrapStops s).1 = { s with gangs := gangs, mem := mem, bad := bad, cores := cores } ∧
    State.leaderOf { s with gangs := gangs } s.t.coreid = s.leaderOf s.t.coreid := by
  unfold TrapStops
  split
  next id g p hg =>
    dsimp only
    split
    · obtain ⟨mem, bad, cores, h⟩ :=
        laySkid_shape { s with gangs := s.gangs.put id { g with stopped := true, runner := some p } } id
      exact ⟨_, mem, bad, cores, h, leaderOf_put hg rfl⟩
    · exact ⟨_, _, _, _, rfl, rfl⟩
  · exact ⟨_, _, _, _, rfl, rfl⟩

/-! The rules that say where a trap goes read the same before and after the stop. -/

/-- What those rules read of a state: partitions, slices, the leader, and the thread's trap registers and grace. -/
structure RoutesAlike (s u : State) : Prop where
  parts : u.parts = s.parts
  slices : u.slices = s.slices
  others : u.others = s.others
  coreid : u.t.coreid = s.t.coreid
  sliceid : u.t.sliceid = s.t.sliceid
  tvec : u.t.tvec = s.t.tvec
  tstat : u.t.tstat = s.t.tstat
  grace : u.t.grace = s.t.grace
  leader : u.leaderOf u.t.coreid = s.leaderOf s.t.coreid

namespace RoutesAlike
variable {s u : State} (h : RoutesAlike s u)
include h

theorem slice_eq (id : Nat) : u.slice id = s.slice id := by unfold State.slice; rw [h.slices]

theorem partNo_eq (core : Nat) : u.partNo core = s.partNo core := by unfold State.partNo State.partOf; rw [h.parts]

theorem isSup_eq (core : Nat) : u.isSup core = s.isSup core := by
  unfold State.isSup State.partOf State.part
  rw [h.parts]

theorem domainsOf_leader : u.domainsOf (u.leaderOf u.t.coreid) = s.domainsOf (s.leaderOf s.t.coreid) := by
  unfold State.domainsOf State.part
  rw [h.leader, h.partNo_eq, h.parts]

theorem escalates_eq : u.escalates = s.escalates := by unfold State.escalates; rw [h.domainsOf_leader]

theorem rollsBack_eq (hr : u.t.ringTrap = s.t.ringTrap) (c : Cause) : u.rollsBack c = s.rollsBack c := by
  unfold State.rollsBack State.snapshotOf
  rw [h.domainsOf_leader, hr]

theorem grace_ctx (core : Nat) : (u.ctx core).grace = (s.ctx core).grace := by
  unfold State.ctx
  rw [h.coreid, h.others]
  split
  · exact h.grace
  · rfl

theorem toSupervisor_eq (c : Cause) : u.toSupervisor c = s.toSupervisor c := by
  unfold State.toSupervisor
  rw [h.sliceid, h.slice_eq, h.tvec, h.tstat, h.leader, h.grace_ctx]

end RoutesAlike

theorem clearWatch_shape (s : State) (c : Cause) (cls : TrapClass) : ∃ due met arrive,
    s.clearWatch c cls = { s with t := { s.t with watchDue := due, watchMet := met, arriveDue := arrive } } := by
  unfold State.clearWatch
  split <;> split <;> exact ⟨_, _, _, rfl⟩

/-- The state after the stop of the gang for a trap, with the trap's bookkeeping of the thread. -/
def stoppedFor (s : State) (c : Cause) (cls : TrapClass) : State :=
  { (TrapStops s).1 with t := (s.clearWatch c cls).t }

/-- The state that the handler or the supervisor takes a trap in: the ring's mark on a POISON is no longer of use. -/
def trapState (s : State) (c : Cause) (cls : TrapClass) : State :=
  { stoppedFor s c cls with t := { (stoppedFor s c cls).t with ringTrap := false } }

theorem routesAlike_stoppedFor (s : State) (c : Cause) (cls : TrapClass) : RoutesAlike s (stoppedFor s c cls) := by
  obtain ⟨gangs, mem, bad, cores, hs, hl⟩ := trapStops_shape s
  obtain ⟨due, met, arrive, hc⟩ := clearWatch_shape s c cls
  unfold stoppedFor
  rw [hs, hc]
  exact ⟨rfl, rfl, rfl, rfl, rfl, rfl, rfl, rfl, hl⟩

theorem routesAlike_trapState (s : State) (c : Cause) (cls : TrapClass) : RoutesAlike s (trapState s c cls) := by
  obtain ⟨hp, hsl, ho, hco, hid, htv, hts, hgr, hl⟩ := routesAlike_stoppedFor s c cls
  exact ⟨hp, hsl, ho, hco, hid, htv, hts, hgr, hl⟩

theorem rollsBack_stoppedFor (s : State) (c : Cause) (cls : TrapClass) :
    (stoppedFor s c cls).rollsBack c = s.rollsBack c := by
  obtain ⟨due, met, arrive, hc⟩ := clearWatch_shape s c cls
  refine (routesAlike_stoppedFor s c cls).rollsBack_eq ?_ c
  unfold stoppedFor
  rw [hc]

/-- 11 R219: in a slot the trap is kept with the gang. -/
theorem takeTrap_inSlot {s : State} {id p : Nat} {g : Gang} (hk : s.t.kind ≠ .hart)
    (hg : s.gangOf s.t.coreid = some (id, g, p)) (hs : inSlot s = true) (c : Cause) (v : Word) (cls : TrapClass) :
    s.takeTrap c v cls = { s with gangs := s.gangs.put id { g with trapped := g.trapped.put p (some (c, v)) } } := by
  obtain ⟨due, met, arrive, hc⟩ := clearWatch_shape s c cls
  have hg0 : (s.clearWatch c cls).gangOf s.t.coreid = some (id, g, p) := by rw [hc]; exact hg
  have hk0 : (s.clearWatch c cls).t.kind ≠ .hart := by rw [hc]; exact hk
  rw [inSlot, hg] at hs
  unfold State.takeTrap
  dsimp only at hs ⊢
  rw [if_neg hk0, hg0]
  dsimp only
  rw [if_pos hs]

/-- Outside a slot the trap is delivered after the gang's stop. -/
theorem takeTrap_eq_deliver {s : State} (hk : s.t.kind ≠ .hart) (hs : inSlot s = false) (c : Cause) (v : Word)
    (cls : TrapClass) : s.takeTrap c v cls =
      State.takeTrap.State.deliver (stoppedFor s c cls) c v cls s.t.watchDue (TrapStops s).2 := by
  obtain ⟨due, met, arrive, hc⟩ := clearWatch_shape s c cls
  have hg0 : (s.clearWatch c cls).gangOf s.t.coreid = s.gangOf s.t.coreid := by rw [hc]; rfl
  have hk0 : (s.clearWatch c cls).t.kind ≠ .hart := by rw [hc]; exact hk
  unfold State.takeTrap stoppedFor TrapStops
  dsimp only
  rw [if_neg hk0, hg0]
  cases hg : s.gangOf s.t.coreid with
  | none =>
    dsimp only
    rw [hc]
  | some x =>
    obtain ⟨id, g, p⟩ := x
    rw [inSlot, hg] at hs
    dsimp only at hs ⊢
    rw [hs, hc]
    simp only [Bool.false_eq_true, if_false]
    split
    · rw [← laySkid_ctx]
    · rfl

/-- The context at its handler's first instruction, from the one in `trapState` and the watch match that was due. -/
def handlerCtx (t : Ctx) (due : Option (Nat × Word)) (c : Cause) (v : Word) (cls : TrapClass) (gpos : Nat) : Ctx :=
  { { t with watchDue := due }.enter c v cls gpos false with watchDue := t.watchDue }

/-! A trap outside a slot that rolls nothing back goes to the handler or to the supervisor. -/

section Delivery
variable {s : State} {c : Cause} {v : Word} {cls : TrapClass}
  (hk : s.t.kind ≠ .hart) (hs : inSlot s = false) (hc : c ≠ .tilefault) (hr : s.rollsBack c = none)
include hk hs hc hr

/-- 05 R88: with a handler free to take it, the thread enters the handler. -/
theorem takeTrap_handler (hsup : s.toSupervisor c = false) : s.takeTrap c v cls =
    { trapState s c cls with t := handlerCtx (trapState s c cls).t s.t.watchDue c v cls (TrapStops s).2 } := by
  have hsup' := ((routesAlike_trapState s c cls).toSupervisor_eq c).trans hsup
  rw [takeTrap_eq_deliver hk hs]
  unfold State.takeTrap.State.deliver
  rw [(rollsBack_stoppedFor s c cls).trans hr]
  dsimp only
  rw [if_neg hc]
  exact if_neg (by simpa [trapState] using hsup')

/-- 20 R331: else the supervisor takes it, unless its POISON escalates a rollback. -/
theorem takeTrap_supTrap (hsup : s.toSupervisor c = true) (he : c = .poison → s.escalates = none) :
    s.takeTrap c v cls = (trapState s c cls).supTrap c v := by
  have hsup' := ((routesAlike_trapState s c cls).toSupervisor_eq c).trans hsup
  have he' := (routesAlike_trapState s c cls).escalates_eq
  rw [takeTrap_eq_deliver hk hs]
  unfold State.takeTrap.State.deliver
  rw [(rollsBack_stoppedFor s c cls).trans hr]
  dsimp only
  rw [if_neg hc]
  refine (if_pos hsup').trans ?_
  split
  next hd => exact absurd (hd.symm.trans (he'.trans (he rfl))) (by simp)
  · rfl

end Delivery

/-! What the supervisor does with a trap (20 R331). -/

/-- One of its own freezes it. -/
theorem supTrap_of_isSup {u : State} (h : u.isSup u.t.coreid = true) (c : Cause) (v : Word) : u.supTrap c v =
    State.notice (State.modPart { u with t := { u.t.stopRep with mode := .frozen } } (u.partNo u.t.coreid)
      fun x => { x with supFrozen := true }) (u.partNo u.t.coreid) 4 0 := by
  unfold State.supTrap
  exact if_pos h

/-- One of a slice's thread has the slice leave its threads. -/
theorem supTrap_of_slice {u : State} (h : u.isSup u.t.coreid = false) {x : Slice}
    (hx : u.slice u.t.sliceid.toNat = some x) (c : Cause) (v : Word) : u.supTrap c v =
      State.leave { u with t := u.t.stopRep } { x := u.t.sliceid.toNat, y := c.code, z := u.t.coreid, v := v } := by
  have h' : State.isSup { u with t := u.t.stopRep } u.t.coreid = false := h
  unfold State.supTrap
  dsimp only
  rw [h, hx, if_neg (by decide)]
  unfold State.leaveFor
  simp [h']

theorem ofCode_code (c : Cause) : Cause.ofCode c.code = some c := by cases c <;> rfl

theorem code_lt (c : Cause) : c.code < 28 := by cases c <;> decide

theorem slice_id {u : State} {id : Nat} {x : Slice} (h : u.slice id = some x) : x.id = id := by
  simpa using List.find?_some h

/-- A slice at a boundary that leaves its threads for a trap is suspended and reported (20 R334). -/
theorem leave_for_trap {u : State} {id : Nat} {x : Slice} (hx : u.slice id = some x) (hready : u.readyToLeave x = true)
    {c : Cause} (hc : c ≠ .tilefault) (core : Nat) (v : Word) :
    u.leave { x := id, y := c.code, z := core, v := v } = u.supSuspend core id c v := by
  have hlt := code_lt c
  unfold State.leave State.leaveAt
  simp only [hx, hready, if_true, ofCode_code, if_neg hc, slice_id hx]
  rw [if_neg (by unfold killCode; omega), if_neg (by unfold yieldCode; omega)]

/-- One that is not there yet leaves later. -/
theorem leave_later {u : State} {a : EventArg} {x : Slice} (hx : u.slice a.x = some x) (hready : u.readyToLeave x = false) :
    u.leave a = (u.towardLeaving x).push .suspension a := by
  unfold State.leave
  simp [hx, hready]

theorem supSuspend_eq {u : State} {id : Nat} {x : Slice} (hx : u.slice id = some x) (c : Cause) (v : Word) :
    u.supSuspend u.t.coreid id c v = (u.suspend id c.code).report x.part
      { kind := if c = .budget then 1 else 0, cause := c.code, slice := id, position := x.positionOf u.t.coreid
        resume := u.t.pc, tval := v, core := u.t.coreid, slot := x.slots.getD (x.positionOf u.t.coreid) 0 } := by
  unfold State.supSuspend
  simp [hx, State.ctx]

theorem stopRep_with_ringTrap (t : Ctx) (b : Bool) :
    Ctx.stopRep { t with ringTrap := b } = { t.stopRep with ringTrap := b } := by
  unfold Ctx.stopRep
  dsimp only
  split <;> rfl

/-- 20 R331, R334, 19 R325: the second part of O47. -/
theorem supervisorTakesTraps : SupervisorTakesTraps := by
  unfold SupervisorTakesTraps
  intro c v cls s hk hs hc hr hsup he core p id s1
  have halike := routesAlike_trapState s c cls
  have hcore : (trapState s c cls).t.coreid = core := halike.coreid
  have hid : (trapState s c cls).t.sliceid.toNat = id := congrArg BitVec.toNat halike.sliceid
  have hs1 : { trapState s c cls with t := (trapState s c cls).t.stopRep } = s1 := by
    simp only [trapState, stoppedFor, stopRep_with_ringTrap, s1]
  have hcore1 : s1.t.coreid = core := by rw [← hs1]; simp [hcore]
  rw [takeTrap_supTrap hk hs hc hr hsup he]
  constructor
  · intro hsv
    rw [supTrap_of_isSup (by rw [hcore, halike.isSup_eq]; exact hsv), hcore, halike.partNo_eq, ← hs1]
  · intro hsv x hx
    have hxu : (trapState s c cls).slice id = some x := by rw [← hx, ← hs1]; rfl
    rw [supTrap_of_slice (by rw [hcore, halike.isSup_eq]; exact hsv) (by rw [hid]; exact hxu), hcore, hid, hs1]
    constructor
    · intro hready
      rw [leave_for_trap hx hready hc, ← hcore1, supSuspend_eq hx]
    · exact leave_later hx

/-- 11 R219, R220: the third part of O47. -/
theorem slotsKeepTraps : SlotsKeepTraps :=
  fun c v cls _ _ _ _ hk hs hg => takeTrap_inSlot hk hg hs c v cls

/-! The position and the watchpoint in `tstat` (20 R330). -/

/-- WIDX has bits 8 to 15, and GPOS begins at bit 16: a watchpoint's number beyond 8 bits is added to the position. -/
theorem fieldOf_trapStat_gpos (old : Word) (gpos widx : Nat) (cls : TrapClass) (stg : Bool) :
    fieldOf (trapStat old gpos widx cls stg) 16 48 = (gpos + widx / 2 ^ 8) % 2 ^ 48 := by
  have hcls : cls.code < 3 := by cases cls <;> decide
  have hren : fieldOf old 2 1 < 2 := Nat.mod_lt _ (by decide)
  have hstg : (if stg then 2 else 0) ≤ 2 := by cases stg <;> decide
  simp only [fieldOf, bitsOf, trapStat, word, BitVec.toNat_ofNat] at hren ⊢
  omega

/-- The trap of a WATCH that a handler takes has the number of the watchpoint due in `tstat`. -/
theorem tstat_takeTrap_watch {s : State} (hk : s.t.kind ≠ .hart) (hs : inSlot s = false) (hr : s.rollsBack .watch = none)
    (hsup : s.toSupervisor .watch = false) {i : Nat} {a : Word} (hd : s.t.watchDue = some (i, a)) (v : Word)
    (cls : TrapClass) :
    (s.takeTrap .watch v cls).t.tstat = trapStat s.t.tstat (TrapStops s).2 i cls false := by
  rw [takeTrap_handler hk hs (by decide) hr hsup]
  change trapStat (trapState s .watch cls).t.tstat _ _ _ _ = _
  rw [(routesAlike_trapState s .watch cls).tstat, hd]
  rfl

/-- A thread with a handler and, due, the match of a watchpoint numbered 256. A core has watchpoints 0 to 3 (23 R367), and
the model's `watchDue` is any number. -/
def strayWatch : State :=
  { State.reset with t := { State.reset.t with tvec := 0x1000, watchDue := some (256, 0) } }

/-- Refutes O47: the statement's GPOS clause asks nothing of the watchpoint that is due, and the number 256 of `strayWatch`
reaches the GPOS of a thread in no gang, which reads 1. Its other two parts hold (`supervisorTakesTraps`,
`slotsKeepTraps`). -/
theorem not_trapEntry : ¬ Obligations.TrapEntry := by
  unfold Obligations.TrapEntry
  rintro ⟨hhandlers, -, -⟩
  have hk : strayWatch.t.kind ≠ .hart := by decide
  have hs : inSlot strayWatch = false := rfl
  have hr : strayWatch.rollsBack .watch = none := rfl
  have hsup : strayWatch.toSupervisor .watch = false := by decide
  have hread : fieldOf (strayWatch.takeTrap .watch 0 .after).t.tstat 16 48 = 1 := by
    rw [tstat_takeTrap_watch hk hs hr hsup rfl, fieldOf_trapStat_gpos]
    rfl
  obtain ⟨-, -, -, -, -, -, -, -, -, -, hgpos, -⟩ := hhandlers .watch 0 .after strayWatch hk hs (by decide) hr hsup
  have hzero := (hgpos (by decide)).1
  rw [hread] at hzero
  exact absurd hzero (by decide)

end Sys2Proof.Proofs
end

section
/-! The decoder reads every well-formed instruction back from its bytes (04 R48 to R57): the fields of a 32-bit word, then the
word of each instruction, then the bytes with the literal behind them. -/

namespace Sys2Proof.Proofs

open Sys2Proof Sys2Proof.Machine Sys2Proof.Laws

/-! Fields of a sum of fields. -/

theorem add_mul_mod_of_dvd {X r K p : Nat} (h : K % p = 0) : (X + r * K) % p = X % p := by
  obtain ⟨k, rfl⟩ := Nat.dvd_of_mod_eq_zero h
  rw [Nat.mul_left_comm, Nat.add_mul_mod_self_left]

/-- A summand above a field leaves the field as it is. -/
theorem field_below {X r K p q : Nat} (h : K % (p * q) = 0) : (X + r * K) / p % q = X / p % q := by
  obtain ⟨k, rfl⟩ := Nat.dvd_of_mod_eq_zero h
  rcases Nat.eq_zero_or_pos p with rfl | hp
  · simp
  · rw [show r * (p * q * k) = p * (q * (r * k)) by ring, Nat.add_mul_div_left _ _ hp, Nat.add_mul_mod_self_left]

/-- A summand below a field, which carries nothing into it, leaves it as it is. -/
theorem div_of_no_carry {X r K p : Nat} (h : X % p + r * K < p) : (X + r * K) / p = X / p := by
  rw [Nat.div_eq_iff (by omega), Nat.mul_comm]
  have := Nat.div_add_mod X p
  omega

/-- A field that is empty but for one summand reads as that. -/
theorem field_same {X r K n : Nat} (hX : X / K % n = 0) (hr : r < n) (hK : 0 < K) : (X + r * K) / K % n = r := by
  rw [Nat.add_mul_div_right _ _ hK, Nat.add_mod, hX, Nat.zero_add, Nat.mod_mod, Nat.mod_eq_of_lt hr]

theorem decide_toNat_eq_one (r : Bool) : decide (r.toNat = 1) = r := by cases r <;> rfl

/-! The operand codes of a word (04 R52). -/

/-- The word `W` has the operand codes `b`, `a` and `d` in their places, and in its other fields what `C` has there. -/
structure Fields (W C b a d : Nat) : Prop where
  odd : W % 2 = C % 2
  major : W / 2 % 64 = C / 2 % 64
  d : W / 128 % 64 = d
  a : W / 8192 % 64 = a
  b : W / 524288 % 64 = b
  top : ∀ p, p % 33554432 = 0 → W / p = C / p

theorem fields_bad {W C b a d : Nat} (hW : C + b * 524288 + a * 8192 + d * 128 = W) (hC : C % 33554432 < 128)
    (hb : b < 64) (ha : a < 64) (hd : d < 64) : Fields W C b a d where
  odd := by omega
  major := by omega
  d := by omega
  a := by omega
  b := by omega
  top p hp := by
    obtain ⟨k, rfl⟩ := Nat.dvd_of_mod_eq_zero hp
    rw [← Nat.div_div_eq_div_mul, ← Nat.div_div_eq_div_mul, show W / 33554432 = C / 33554432 by omega]

theorem fields_ad {W C a d : Nat} (hW : C + a * 8192 + d * 128 = W) (hC : C % 33554432 < 128) (ha : a < 64) (hd : d < 64) :
    Fields W C 0 a d := fields_bad (by simpa using hW) hC (by omega) ha hd

theorem fields_ba {W C b a : Nat} (hW : C + b * 524288 + a * 8192 = W) (hC : C % 33554432 < 128) (hb : b < 64) (ha : a < 64) :
    Fields W C b a 0 := fields_bad (by simpa using hW) hC hb ha (by omega)

theorem fields_bd {W C b d : Nat} (hW : C + b * 524288 + d * 128 = W) (hC : C % 33554432 < 128) (hb : b < 64) (hd : d < 64) :
    Fields W C b 0 d := fields_bad (by simpa using hW) hC hb (by omega) hd

theorem fields_a {W C a : Nat} (hW : C + a * 8192 = W) (hC : C % 33554432 < 128) (ha : a < 64) : Fields W C 0 a 0 :=
  fields_ba (by simpa using hW) hC (by omega) ha

theorem fields_d {W C d : Nat} (hW : C + d * 128 = W) (hC : C % 33554432 < 128) (hd : d < 64) : Fields W C 0 0 d :=
  fields_ad (by simpa using hW) hC (by omega) hd

section
variable {W C b a d : Nat} (f : Fields W C b a d)
include f

/-! The fields of the members that use an operand's place for less than a code, or join it to its neighbour. -/

theorem Fields.join_d (hd : d = 0) (ha : a = 0) (hb : b = 0) : W / 128 % 262144 = 0 := by
  have := f.d; have := f.a; have := f.b; omega
theorem Fields.join_a (ha : a = 0) (hb : b = 0) : W / 8192 % 4096 = 0 := by have := f.a; have := f.b; omega
theorem Fields.top_eq : W / 524288 / 64 = C / 33554432 := by
  rw [Nat.div_div_eq_div_mul, ← f.top 33554432 (Nat.mod_self _)]
theorem Fields.join_top (hb : b = 0) (hC : C / 33554432 % 8 = 0) : W / 524288 % 512 = 0 := by
  have := f.b; rw [← f.top_eq] at hC; omega
theorem Fields.join_a_top (ha : a = 0) (hb : b = 0) (hC : C / 33554432 % 8 = 0) : W / 8192 % 32768 = 0 := by
  have := f.a; have := f.b; rw [← f.top_eq] at hC; omega
theorem Fields.d_low (h : d < 8) : W / 128 % 8 = d := by have := f.d; omega
theorem Fields.d_high (h : d < 8) : W / 1024 % 8 = 0 := by have := f.d; omega
theorem Fields.a_low (h : a < 8) : W / 8192 % 8 = a := by have := f.a; omega
theorem Fields.a_high (h : a < 8) : W / 65536 % 8 = 0 := by have := f.a; omega
theorem Fields.a_high_join (h : a < 8) (hb : b = 0) : W / 65536 % 512 = 0 := by have := f.a; have := f.b; omega
theorem Fields.b_low (h : b < 8) : W / 524288 % 8 = b := by have := f.b; omega
theorem Fields.b_high (h : b < 8) : W / 4194304 % 8 = 0 := by have := f.b; omega
theorem Fields.b_low4 (h : b < 16) : W / 524288 % 16 = b := by have := f.b; omega
theorem Fields.b_high2 (h : b < 16) : W / 8388608 % 4 = 0 := by have := f.b; omega

end

/-! Sources and their literal (02 R18, 04 R52). -/

/-- The literal `l` after the word gives the source back from its code. -/
def SrcFits (l : Word) : Src → Prop
  | .code c => c.toNat < 62
  | .lit32 x => l.setWidth 32 = x
  | .lit64 x => l = x

theorem src_toCode {a : Src} {l : Word} (h : SrcFits l a) : src a.toCode.toNat l = a := by
  cases a with
  | code c =>
    have hc : c.toNat < 62 := h
    simp [src, Src.toCode, show c.toNat ≠ 62 by omega, show c.toNat ≠ 63 by omega]
  | lit32 x => exact congrArg Src.lit32 h
  | lit64 x => exact congrArg Src.lit64 h

/-- The word of a 32-bit form, with a literal that its sources fit, is read back by major and member,
  and its operand codes that
announce a literal are those of its sources. -/
structure ReadsBack (i : Instr) : Prop where
  word : encodeWord i % 2 = 1 ∧ encodeWord i < 2 ^ 32
  raw : ∀ l, (∀ a ∈ i.srcs, SrcFits l a) → decodeRaw (encodeWord i) l = .ok i
  scan : ∀ c, 62 ≤ c → (c ∈ scanFields (encodeWord i) ↔ c ∈ i.srcs.map (·.toCode.toNat))

/-- The majors whose three operand codes are scanned for a literal (04 R48). -/
def scansThree (m : Nat) : Bool :=
  !decide (m = 2 ∨ m = 13 ∨ (14 ≤ m ∧ m ≤ 17)) && m != 10 && m != 11 && m != 34 &&
    !decide (m = 0 ∨ m = 6 ∨ m = 7 ∨ m = 8 ∨ (31 ≤ m ∧ m ≤ 33) ∨ 43 ≤ m)

theorem Fields.is_odd {W C b a d : Nat} (f : Fields W C b a d) (hC : C % 2 = 1 ∧ C < 2 ^ 32) : ¬W % 2 = 0 := by
  have := f.odd; omega

theorem Fields.scanFields_eq {W C b a d : Nat} (f : Fields W C b a d) (h : scansThree (C / 2 % 64) = true) :
    scanFields W = [b, a, d] := by
  simp only [scansThree, Bool.and_eq_true, Bool.not_eq_true', decide_eq_false_iff_not, bne_iff_ne] at h
  obtain ⟨⟨⟨⟨h1, h2⟩, h3⟩, h4⟩, h5⟩ := h
  simp only [scanFields, f.major, f.b, f.a, f.d, if_neg h1, if_neg h2, if_neg h3, if_neg h4, if_neg h5]

theorem ReadsBack.of_fields {i : Instr} {C b a d : Nat} (f : Fields (encodeWord i) C b a d)
    (hm : scansThree (C / 2 % 64) = true) (hC : C % 2 = 1 ∧ C < 2 ^ 32)
    (hs : ∀ c, 62 ≤ c → (c = b ∨ c = a ∨ c = d ↔ c ∈ i.srcs.map (·.toCode.toNat)))
    (raw : ∀ l, (∀ a ∈ i.srcs, SrcFits l a) → decodeRaw (encodeWord i) l = .ok i) : ReadsBack i where
  word := by
    have := f.odd
    have := f.top (2 ^ 32) (by decide)
    omega
  raw := raw
  scan c hc := by rw [f.scanFields_eq hm, ← hs c hc]; simp

section
variable {i : Instr} {C : Nat}

/-- Two sources. -/
theorem ReadsBack.of_ba {b a : Src} {d : Nat}
    (raw : ∀ W l, Fields W C b.toCode.toNat a.toCode.toNat d → ¬W % 2 = 0 → W / 2 % 64 = C / 2 % 64 → SrcFits l b →
      SrcFits l a → decodeRaw W l = .ok i)
    (hm : scansThree (C / 2 % 64) = true) (hC : C % 2 = 1 ∧ C < 2 ^ 32)
    (f : Fields (encodeWord i) C b.toCode.toNat a.toCode.toNat d) (hi : i.srcs = [b, a])
    (hd : d < 62) : ReadsBack i :=
  .of_fields f hm hC (fun c hc => by simp [hi, show c ≠ d by omega])
    fun l hl => raw _ l f (f.is_odd hC) f.major (hl b (by simp [hi])) (hl a (by simp [hi]))

/-- One source. -/
theorem ReadsBack.of_a {a : Src} {b d : Nat}
    (raw : ∀ W l, Fields W C b a.toCode.toNat d → ¬W % 2 = 0 → W / 2 % 64 = C / 2 % 64 → SrcFits l a → decodeRaw W l = .ok i)
    (hm : scansThree (C / 2 % 64) = true) (hC : C % 2 = 1 ∧ C < 2 ^ 32)
    (f : Fields (encodeWord i) C b a.toCode.toNat d) (hi : i.srcs = [a]) (hb : b < 62)
    (hd : d < 62) : ReadsBack i :=
  .of_fields f hm hC (fun c hc => by simp [hi, show c ≠ d by omega, show c ≠ b by omega])
    fun l hl => raw _ l f (f.is_odd hC) f.major (hl a (by simp [hi]))

/-- No source. -/
theorem ReadsBack.of_none {b a d : Nat} (raw : ∀ W l, Fields W C b a d → ¬W % 2 = 0 → W / 2 % 64 = C / 2 % 64 →
  decodeRaw W l = .ok i)
    (hm : scansThree (C / 2 % 64) = true) (hC : C % 2 = 1 ∧ C < 2 ^ 32)
    (f : Fields (encodeWord i) C b a d) (hi : i.srcs = []) (hb : b < 62) (ha : a < 62)
    (hd : d < 62) : ReadsBack i :=
  .of_fields f hm hC (fun c hc => by simp [hi]; omega) fun l _ => raw _ l f (f.is_odd hC) f.major

/-- Three sources. -/
theorem ReadsBack.of_bad {b a d : Src}
    (raw : ∀ W l, Fields W C b.toCode.toNat a.toCode.toNat d.toCode.toNat → ¬W % 2 = 0 → W / 2 % 64 = C / 2 % 64 →
      SrcFits l b → SrcFits l a → SrcFits l d →
      decodeRaw W l = .ok i)
    (hm : scansThree (C / 2 % 64) = true) (hC : C % 2 = 1 ∧ C < 2 ^ 32)
    (f : Fields (encodeWord i) C b.toCode.toNat a.toCode.toNat d.toCode.toNat)
    (hi : i.srcs = [b, a, d]) : ReadsBack i :=
  .of_fields f hm hC (fun c hc => by simp [hi])
    fun l hl => raw _ l f (f.is_odd hC) f.major (hl b (by simp [hi])) (hl a (by simp [hi])) (hl d (by simp [hi]))

end

/-- A 32-bit form whose major is of a range. -/
def majorIn (lo hi : Nat) (i : Instr) : Bool := !i.isC && decide (lo ≤ i.major) && decide (i.major ≤ hi)

theorem readsBack_alu (i : Instr) (hm : majorIn 1 1 i = true) (hwf : i.wf = true) : ReadsBack i := by
  cases i with
  | add w b a d | sub w b a d | and w b a d | or w b a d | xor w b a d | andn w b a d | orn w b a d | shl w b a d
  | shr w b a d | sra w b a d | rol w b a d | ror w b a d | mul w b a d | mulh w b a d | mulhn w b a d | div w b a d
  | divn w b a d | rem w b a d | remn w b a d | min w b a d | max w b a d | minn w b a d | maxn w b a d | slt w b a d
  | sltn w b a d | seq w b a d | sne w b a d | sel w b a d =>
    have := w.toNat_le
    delta Instr.wf at hwf
    simp only [dstScalar, isReg, isSend, Bool.and_eq_true, Bool.or_eq_true, decide_eq_true_eq] at hwf
    refine .of_ba (fun W l f ho hm hb ha => ?_) ?_ ?_ (fields_bad rfl ?_ ?_ ?_ ?_) rfl ?_
    · simp (disch := omega) only [field_below, Nat.reduceMod, Nat.reduceDiv] at hm
      rw [decodeRaw, if_neg ho, hm]
      simp (disch := omega) only [decAlu, bit, Nat.reducePow, decide_toNat_eq_one, f.b, f.a, f.d, f.top, src_toCode hb,
        src_toCode ha, field_below, field_same, Nat.reduceMod, Nat.reduceDiv, BitVec.ofNat_toNat, BitVec.setWidth_eq]
    · simp (disch := omega) only [field_below, Nat.reduceMod, Nat.reduceDiv]; rfl
    all_goals omega
  | clz w a d | ctz w a d | popc w a d | brev w a d | bswap w a d =>
    have := w.toNat_le
    delta Instr.wf at hwf
    simp only [dstScalar, isReg, isSend, Bool.and_eq_true, Bool.or_eq_true, decide_eq_true_eq] at hwf
    refine .of_a (fun W l f ho hm ha => ?_) ?_ ?_ (fields_ad rfl ?_ ?_ ?_) rfl ?_ ?_
    · simp (disch := omega) only [field_below, Nat.reduceMod, Nat.reduceDiv] at hm
      rw [decodeRaw, if_neg ho, hm]
      simp (disch := omega) only [decAlu, bit, Nat.reducePow, decide_toNat_eq_one, zero, f.b, f.a, f.d, f.top,
        src_toCode ha, field_below, field_same, Nat.reduceMod, Nat.reduceDiv, BitVec.ofNat_toNat, BitVec.setWidth_eq,
        if_true]
    · simp (disch := omega) only [field_below, Nat.reduceMod, Nat.reduceDiv]; rfl
    all_goals omega
  | _ => exact absurd hm Bool.false_ne_true

theorem readsBack_address_compare (i : Instr) (hm : majorIn 2 17 i = true) (hwf : i.wf = true) : ReadsBack i := by
  cases i with
  | lea _ b a d =>
    delta Instr.wf at hwf
    simp only [dstScalar, isReg, isSend, Bool.and_eq_true, Bool.or_eq_true, decide_eq_true_eq] at hwf
    refine .of_ba (fun W l f ho hm hb ha => ?_) ?_ ?_ (fields_bad rfl ?_ ?_ ?_ ?_) rfl ?_
    · simp (disch := omega) only [field_below, Nat.reduceMod, Nat.reduceDiv] at hm
      rw [decodeRaw, if_neg ho, hm]
      simp (disch := omega) only [decAddr, f.b, f.a, f.d, f.top, src_toCode hb, src_toCode ha, div_of_no_carry, field_same,
        Nat.reduceMod, Nat.reduceDiv, BitVec.ofNat_toNat, BitVec.setWidth_eq]
    · simp (disch := omega) only [field_below, Nat.reduceMod, Nat.reduceDiv]; rfl
    all_goals omega
  | cmp _ b a d =>
    refine .of_ba (fun W l f ho hm hb ha => ?_) ?_ ?_ (fields_bad rfl ?_ ?_ ?_ ?_) rfl ?_
    · simp (disch := omega) only [field_below, Nat.reduceMod, Nat.reduceDiv] at hm
      rw [decodeRaw, if_neg ho, hm]
      simp (disch := omega) only [decCmp, zero, f.b, f.a, f.d_low, f.d_high, f.top, src_toCode hb, src_toCode ha,
        field_same, BitVec.ofNat_toNat, BitVec.setWidth_eq, if_true]
    · simp (disch := omega) only [field_below, Nat.reduceMod, Nat.reduceDiv]; rfl
    all_goals omega
  | bfx b a d | bfxz b a d | bfi b a d =>
    delta Instr.wf at hwf
    simp only [dstScalar, isReg, isSend, Bool.and_eq_true, Bool.or_eq_true, decide_eq_true_eq] at hwf
    refine .of_ba (fun W l f ho hm hb ha => ?_) ?_ ?_ (fields_bad rfl ?_ ?_ ?_ ?_) rfl ?_
    · simp (disch := omega) only [Nat.reduceMod, Nat.reduceDiv] at hm
      rw [decodeRaw, if_neg ho, hm]
      simp (disch := omega) only [decAddr, zero, f.b, f.a, f.d, f.top, src_toCode hb, src_toCode ha, Nat.reduceMod, Nat.reduceDiv, BitVec.ofNat_toNat, BitVec.setWidth_eq, if_true]
    · simp (disch := omega) only [Nat.reduceMod, Nat.reduceDiv]; rfl
    all_goals omega
  | jalr a d =>
    delta Instr.wf at hwf
    simp only [dstScalar, isReg, isSend, Bool.and_eq_true, Bool.or_eq_true, decide_eq_true_eq] at hwf
    refine .of_a (fun W l f ho hm ha => ?_) ?_ ?_ (fields_ad rfl ?_ ?_ ?_) rfl ?_ ?_
    · simp (disch := omega) only [Nat.reduceMod, Nat.reduceDiv] at hm
      rw [decodeRaw, if_neg ho, hm]
      simp (disch := omega) only [decJr, zero, f.b, f.a, f.d, f.top, src_toCode ha, Nat.reduceMod, Nat.reduceDiv, BitVec.ofNat_toNat, BitVec.setWidth_eq, if_true]
    · simp (disch := omega) only [Nat.reduceMod, Nat.reduceDiv]; rfl
    all_goals omega
  | jr a | trap a | svc a =>
    refine .of_a (fun W l f ho hm ha => ?_) ?_ ?_ (fields_a rfl ?_ ?_) rfl ?_ ?_
    · simp (disch := omega) only [Nat.reduceMod, Nat.reduceDiv] at hm
      rw [decodeRaw, if_neg ho, hm]
      simp (disch := omega) only [decJr, decSys, zero, f.b, f.a, f.d, f.top, src_toCode ha, Nat.reduceMod, Nat.reduceDiv, if_true]
    · simp (disch := omega) only [Nat.reduceMod, Nat.reduceDiv]; rfl
    all_goals omega
  | knot a d | kmov a d =>
    refine .of_none (fun W l f ho hm  => ?_) ?_ ?_ (fields_ad rfl ?_ ?_ ?_) rfl ?_ ?_ ?_
    · simp (disch := omega) only [Nat.reduceMod, Nat.reduceDiv] at hm
      rw [decodeRaw, if_neg ho, hm]
      simp (disch := omega) only [decKop, zero, f.a_low, f.d_low, f.d_high, f.a_high_join, f.top, Nat.reduceMod, Nat.reduceDiv, BitVec.ofNat_toNat, BitVec.setWidth_eq, if_true]
    · simp (disch := omega) only [Nat.reduceMod, Nat.reduceDiv]; rfl
    all_goals omega
  | kand b a d | kor b a d | kxor b a d =>
    refine .of_none (fun W l f ho hm  => ?_) ?_ ?_ (fields_bad rfl ?_ ?_ ?_ ?_) rfl ?_ ?_ ?_
    · simp (disch := omega) only [Nat.reduceMod, Nat.reduceDiv] at hm
      rw [decodeRaw, if_neg ho, hm]
      simp (disch := omega) only [decKop, zero, f.b_low, f.a_low, f.d_low, f.b_high, f.d_high, f.a_high, f.top, Nat.reduceMod, Nat.reduceDiv, BitVec.ofNat_toNat, BitVec.setWidth_eq, if_true]
    · simp (disch := omega) only [Nat.reduceMod, Nat.reduceDiv]; rfl
    all_goals omega
  | addi _ a d | csrw _ a d | csrs _ a d | csrc _ a d | ld _ _ a d | lda _ _ a d =>
    delta Instr.wf at hwf
    simp only [dstScalar, isReg, isSend, Bool.and_eq_true, Bool.or_eq_true, decide_eq_true_eq] at hwf
    refine ⟨by delta encodeWord; dsimp only; omega, fun l hs => ?_, fun c hc => ?_⟩
    · have ha : SrcFits l a := hs a (.head _)
      delta encodeWord
      simp (disch := omega) only [decodeRaw, decAddi, decCsr, decLd, decLda, src_toCode ha, add_mul_mod_of_dvd,
        field_below, div_of_no_carry, field_same, Nat.reduceMod, Nat.reduceDiv, BitVec.ofNat_toNat, BitVec.setWidth_eq,
        Nat.one_ne_zero, if_false]
    · delta encodeWord Instr.srcs
      simp (disch := omega) [scanFields, field_below, div_of_no_carry, field_same]; omega
  | loop _ a _ =>
    delta Instr.wf at hwf
    simp only [Bool.and_eq_true, decide_eq_true_eq] at hwf
    refine ⟨by delta encodeWord; dsimp only; omega, fun l hs => ?_, fun c hc => ?_⟩
    · have ha : SrcFits l a := hs a (.head _)
      delta encodeWord
      simp (disch := omega) only [decodeRaw, decLoop, src_toCode ha, add_mul_mod_of_dvd, field_below, div_of_no_carry,
        field_same, Nat.reduceMod, Nat.reduceDiv, BitVec.ofNat_toNat, BitVec.setWidth_eq, Nat.one_ne_zero, if_false]
    · delta encodeWord Instr.srcs
      simp (disch := omega) [scanFields, field_below, div_of_no_carry, field_same]
  | st _ _ a d | stl _ _ a d =>
    refine ⟨by delta encodeWord; dsimp only; omega, fun l hs => ?_, fun c hc => ?_⟩
    · have ha : SrcFits l a := hs a (.head _)
      have hd : SrcFits l d := hs d (.tail _ (.head _))
      delta encodeWord
      simp (disch := omega) only [decodeRaw, decSt, decStl, src_toCode ha, src_toCode hd, add_mul_mod_of_dvd, field_below,
        div_of_no_carry, field_same, Nat.reduceMod, Nat.reduceDiv, BitVec.ofNat_toNat, BitVec.setWidth_eq, Nat.one_ne_zero,
        if_false]
    · delta encodeWord Instr.srcs
      simp (disch := omega) [scanFields, field_below, div_of_no_carry, field_same]
  | csrr _ d =>
    delta Instr.wf at hwf
    simp only [dstScalar, isReg, isSend, Bool.or_eq_true, decide_eq_true_eq] at hwf
    refine ⟨by delta encodeWord; dsimp only; omega, fun l hs => ?_, fun c hc => ?_⟩
    · delta encodeWord
      simp (disch := omega) only [decodeRaw, decCsr, zero, add_mul_mod_of_dvd, field_below, div_of_no_carry, field_same,
        Nat.reduceMod, Nat.reduceDiv, BitVec.ofNat_toNat, BitVec.setWidth_eq, Nat.one_ne_zero, if_false, if_true]
    · delta encodeWord Instr.srcs
      simp (disch := omega) [scanFields, field_below, div_of_no_carry, field_same, show c ≠ 0 by omega]; omega
  | bt _ _ | bf _ _ | j _ | jal _ | lbrk _ | lnext _ =>
    refine ⟨by delta encodeWord; dsimp only; omega, fun l hs => ?_, fun c hc => ?_⟩
    · delta encodeWord
      simp (disch := omega) only [decodeRaw, decBr, decJ, decJal, decLoop, zero, add_mul_mod_of_dvd, field_below,
        div_of_no_carry, field_same, Nat.reduceMod, Nat.reduceDiv, BitVec.ofNat_toNat, BitVec.setWidth_eq, Nat.one_ne_zero,
        if_false, if_true]
    · delta encodeWord Instr.srcs
      simp (disch := omega) [scanFields, field_below, div_of_no_carry, show c ≠ 0 by omega]
  | rep _ _ _ a =>
    refine ⟨by delta encodeWord; dsimp only; omega, fun l hs => ?_, fun c hc => ?_⟩
    · have ha : SrcFits l a := hs a (.head _)
      delta encodeWord
      simp (disch := omega) only [decodeRaw, decRep, zero, src_toCode ha, add_mul_mod_of_dvd, field_below, div_of_no_carry,
        field_same, Nat.reduceMod, Nat.reduceDiv, BitVec.ofNat_toNat, BitVec.setWidth_eq, Nat.one_ne_zero, if_false,
        if_true]
    · delta encodeWord Instr.srcs
      simp (disch := omega) [scanFields, field_below, field_same]
  | ret | nop | eret | ifence | brkpt | halt =>
    exact ⟨by decide, fun l _ => rfl, fun c hc => by delta encodeWord Instr.srcs; simp [scanFields]; omega⟩
  | _ => exact absurd hm Bool.false_ne_true

theorem readsBack_atomic (i : Instr) (hm : majorIn 18 18 i = true) (hwf : i.wf = true) : ReadsBack i := by
  cases i with
  | amoAdd s q r b a d | amoAnd s q r b a d | amoOr s q r b a d | amoXor s q r b a d | amoMin s q r b a d
  | amoMax s q r b a d | amoMinn s q r b a d | amoMaxn s q r b a d | amoSwap s q r b a d | amoCas s q r b a d =>
    have := s.toNat_le
    have := q.toNat_le
    have := r.toNat_le
    delta Instr.wf at hwf
    simp only [dstScalar, isReg, isSend, Bool.and_eq_true, Bool.or_eq_true, decide_eq_true_eq] at hwf
    refine .of_ba (fun W l f ho hm hb ha => ?_) ?_ ?_ (fields_bad rfl ?_ ?_ ?_ ?_) rfl ?_
    · simp (disch := omega) only [field_below, Nat.reduceMod, Nat.reduceDiv] at hm
      rw [decodeRaw, if_neg ho, hm]
      simp (disch := omega) only [decAmo, bit, Nat.reducePow, decide_toNat_eq_one, f.b, f.a, f.d, f.top, src_toCode hb,
        src_toCode ha, div_of_no_carry, field_same, Nat.reduceMod, Nat.reduceDiv, BitVec.ofNat_toNat, BitVec.setWidth_eq]
    · simp (disch := omega) only [field_below, Nat.reduceMod, Nat.reduceDiv]; rfl
    all_goals omega
  | amoFadd q r b a d | amoBfadd2 q r b a d =>
    have := q.toNat_le
    have := r.toNat_le
    delta Instr.wf at hwf
    simp only [dstScalar, isReg, isSend, Bool.and_eq_true, Bool.or_eq_true, decide_eq_true_eq] at hwf
    refine .of_ba (fun W l f ho hm hb ha => ?_) ?_ ?_ (fields_bad rfl ?_ ?_ ?_ ?_) rfl ?_
    · simp (disch := omega) only [field_below, Nat.reduceMod, Nat.reduceDiv] at hm
      rw [decodeRaw, if_neg ho, hm]
      simp (disch := omega) only [decAmo, bit, Nat.reducePow, decide_toNat_eq_one, zero, f.b, f.a, f.d, f.top,
        src_toCode hb, src_toCode ha, div_of_no_carry, field_same, Nat.reduceMod, Nat.reduceDiv, BitVec.ofNat_toNat,
        BitVec.setWidth_eq, if_true]
    · simp (disch := omega) only [field_below, Nat.reduceMod, Nat.reduceDiv]; rfl
    all_goals omega
  | _ => exact absurd hm Bool.false_ne_true

theorem readsBack_remote (i : Instr) (hm : majorIn 19 23 i = true) (hwf : i.wf = true) : ReadsBack i := by
  cases i with
  | ramoAdd s b a | ramoAnd s b a | ramoOr s b a | ramoXor s b a | ramoMin s b a | ramoMax s b a | ramoMinn s b a
  | ramoMaxn s b a | ramoSwap s b a =>
    have := s.toNat_le
    refine .of_ba (fun W l f ho hm hb ha => ?_) ?_ ?_ (fields_ba rfl ?_ ?_ ?_) rfl ?_
    · simp (disch := omega) only [field_below, Nat.reduceMod, Nat.reduceDiv] at hm
      rw [decodeRaw, if_neg ho, hm]
      simp (disch := omega) only [decRamo, bit, Nat.reducePow, decide_toNat_eq_one, zero, f.b, f.a, f.d, f.top,
        src_toCode hb, src_toCode ha, field_below, div_of_no_carry, field_same, Nat.reduceMod, Nat.reduceDiv, if_true]
    · simp (disch := omega) only [field_below, Nat.reduceMod, Nat.reduceDiv]; rfl
    all_goals omega
  | ramoCas s b a d =>
    have := s.toNat_le
    delta Instr.wf at hwf
    simp only [isReg, Bool.and_eq_true, decide_eq_true_eq] at hwf
    refine .of_ba (fun W l f ho hm hb ha => ?_) ?_ ?_ (fields_bad rfl ?_ ?_ ?_ ?_) rfl ?_
    · simp (disch := omega) only [field_below, Nat.reduceMod, Nat.reduceDiv] at hm
      rw [decodeRaw, if_neg ho, hm]
      simp (disch := omega) only [decRamo, bit, Nat.reducePow, decide_toNat_eq_one, zero, f.b, f.a, f.d, f.top,
        src_toCode hb, src_toCode ha, field_below, div_of_no_carry, field_same, Nat.reduceMod, Nat.reduceDiv,
        BitVec.ofNat_toNat, BitVec.setWidth_eq, if_true]
    · simp (disch := omega) only [field_below, Nat.reduceMod, Nat.reduceDiv]; rfl
    all_goals omega
  | rst m s b a d =>
    have := m.toNat_le
    delta Instr.wf at hwf
    simp only [isReg, Bool.and_eq_true, Bool.or_eq_true, decide_eq_true_eq] at hwf
    refine .of_ba (fun W l f ho hm hb ha => ?_) ?_ ?_ (fields_bad rfl ?_ ?_ ?_ ?_) rfl ?_
    · simp (disch := omega) only [field_below, Nat.reduceMod, Nat.reduceDiv] at hm
      rw [decodeRaw, if_neg ho, hm]
      simp (disch := omega) only [decRst, bit, Nat.reducePow, decide_toNat_eq_one, zero, f.b, f.a, f.d, f.top,
        src_toCode hb, src_toCode ha, div_of_no_carry, field_same, Nat.reduceMod, Nat.reduceDiv, BitVec.ofNat_toNat,
        BitVec.setWidth_eq, if_true]
    · simp (disch := omega) only [field_below, Nat.reduceMod, Nat.reduceDiv]; rfl
    all_goals omega
  | ramoFadd b a | ramoBfadd2 b a =>
    refine .of_ba (fun W l f ho hm hb ha => ?_) ?_ ?_ (fields_ba rfl ?_ ?_ ?_) rfl ?_
    · simp (disch := omega) only [Nat.reduceMod, Nat.reduceDiv] at hm
      rw [decodeRaw, if_neg ho, hm]
      simp (disch := omega) only [decRamo, zero, f.b, f.a, f.d, f.top, src_toCode hb, src_toCode ha, Nat.reduceMod, Nat.reduceDiv, if_true]
    · simp (disch := omega) only [Nat.reduceMod, Nat.reduceDiv]; rfl
    all_goals omega
  | sflush a =>
    refine .of_a (fun W l f ho hm ha => ?_) ?_ ?_ (fields_a rfl ?_ ?_) rfl ?_ ?_
    · simp (disch := omega) only [Nat.reduceMod, Nat.reduceDiv] at hm
      rw [decodeRaw, if_neg ho, hm]
      simp (disch := omega) only [decFab, zero, f.b, f.a, f.d, f.top, src_toCode ha, Nat.reduceMod, Nat.reduceDiv, if_true]
    · simp (disch := omega) only [Nat.reduceMod, Nat.reduceDiv]; rfl
    all_goals omega
  | fencef d | ferr d =>
    delta Instr.wf at hwf
    simp only [dstScalar, isReg, isSend, Bool.or_eq_true, decide_eq_true_eq] at hwf
    refine .of_none (fun W l f ho hm  => ?_) ?_ ?_ (fields_d rfl ?_ ?_) rfl ?_ ?_ ?_
    · simp (disch := omega) only [Nat.reduceMod, Nat.reduceDiv] at hm
      rw [decodeRaw, if_neg ho, hm]
      simp (disch := omega) only [decFab, zero, f.d, f.join_a, f.top, Nat.reduceMod, Nat.reduceDiv, BitVec.ofNat_toNat,
        BitVec.setWidth_eq, if_true]
    · simp (disch := omega) only [Nat.reduceMod, Nat.reduceDiv]; rfl
    all_goals omega
  | ldx s c e a d =>
    delta Instr.wf at hwf
    simp only [dstScalar, isReg, isSend, Bool.and_eq_true, Bool.or_eq_true, decide_eq_true_eq] at hwf
    refine .of_a (fun W l f ho hm ha => ?_) ?_ ?_ (fields_ad rfl ?_ ?_ ?_) rfl ?_ ?_
    · simp (disch := omega) only [field_below, Nat.reduceMod, Nat.reduceDiv] at hm
      rw [decodeRaw, if_neg ho, hm]
      simp (disch := omega) only [decSyncMem, zero, f.b, f.a, f.d, f.top, src_toCode ha, div_of_no_carry, field_same,
        Nat.reduceMod, Nat.reduceDiv, BitVec.ofNat_toNat, BitVec.setWidth_eq, if_true]
    · simp (disch := omega) only [field_below, Nat.reduceMod, Nat.reduceDiv]; rfl
    all_goals omega
  | stx _ _ _ a d =>
    refine ⟨by delta encodeWord; dsimp only; omega, fun l hs => ?_, fun c hc => ?_⟩
    · have ha : SrcFits l a := hs a (.head _)
      have hd : SrcFits l d := hs d (.tail _ (.head _))
      delta encodeWord
      simp (disch := omega) only [decodeRaw, decSyncMem, zero, src_toCode ha, src_toCode hd, add_mul_mod_of_dvd,
        field_below, div_of_no_carry, field_same, Nat.reduceMod, Nat.reduceDiv, BitVec.ofNat_toNat, BitVec.setWidth_eq,
        Nat.one_ne_zero, if_false, if_true]
    · delta encodeWord Instr.srcs
      simp (disch := omega) [scanFields, field_below, div_of_no_carry, field_same, show c ≠ 0 by omega]
  | acq | rel | fence | sflusha =>
    exact ⟨by decide, fun l _ => rfl, fun c hc => by delta encodeWord Instr.srcs; simp [scanFields]; omega⟩
  | _ => exact absurd hm Bool.false_ne_true

theorem readsBack_arith (i : Instr) (hm : majorIn 24 24 i = true) (hwf : i.wf = true) : ReadsBack i := by
  cases i with
  | vadd _ b a d | vsub _ b a d | vmul _ b a d | vfma _ b a d | vfms _ b a d | vnfma _ b a d | vmin _ b a d
  | vmax _ b a d | vand _ b a d | vor _ b a d | vxor _ b a d | vshl _ b a d | vshr _ b a d | vsra _ b a d =>
    delta Instr.wf at hwf
    simp only [dstShaped, isReg, isSend, isHandle, Bool.and_eq_true, Bool.or_eq_true, decide_eq_true_eq] at hwf
    refine .of_ba (fun W l f ho hm hb ha => ?_) ?_ ?_ (fields_bad rfl ?_ ?_ ?_ ?_) rfl ?_
    · simp (disch := omega) only [field_below, Nat.reduceMod, Nat.reduceDiv] at hm
      rw [decodeRaw, if_neg ho, hm]
      simp (disch := omega) only [decVari, f.b, f.a, f.d, f.top, src_toCode hb, src_toCode ha, div_of_no_carry, field_same,
        Nat.reduceMod, Nat.reduceDiv, BitVec.ofNat_toNat, BitVec.setWidth_eq]
    · simp (disch := omega) only [field_below, Nat.reduceMod, Nat.reduceDiv]; rfl
    all_goals omega
  | vabs _ a d | vneg _ a d =>
    delta Instr.wf at hwf
    simp only [dstShaped, isReg, isSend, isHandle, Bool.and_eq_true, Bool.or_eq_true, decide_eq_true_eq] at hwf
    refine .of_a (fun W l f ho hm ha => ?_) ?_ ?_ (fields_ad rfl ?_ ?_ ?_) rfl ?_ ?_
    · simp (disch := omega) only [field_below, Nat.reduceMod, Nat.reduceDiv] at hm
      rw [decodeRaw, if_neg ho, hm]
      simp (disch := omega) only [decVari, zero, f.b, f.a, f.d, f.top, src_toCode ha, div_of_no_carry, field_same,
        Nat.reduceMod, Nat.reduceDiv, BitVec.ofNat_toNat, BitVec.setWidth_eq, if_true]
    · simp (disch := omega) only [field_below, Nat.reduceMod, Nat.reduceDiv]; rfl
    all_goals omega
  | _ => exact absurd hm Bool.false_ne_true

theorem readsBack_vgroup (i : Instr) (hm : majorIn 25 25 i = true) (hwf : i.wf = true) : ReadsBack i := by
  cases i with
  | vsel _ b a d | vmulh _ b a d | vadds _ b a d | vsubs _ b a d =>
    delta Instr.wf at hwf
    simp only [dstShaped, dstVec, isReg, isSend, isHandle, Bool.and_eq_true, Bool.or_eq_true, decide_eq_true_eq] at hwf
    refine .of_ba (fun W l f ho hm hb ha => ?_) ?_ ?_ (fields_bad rfl ?_ ?_ ?_ ?_) rfl ?_
    · simp (disch := omega) only [field_below, Nat.reduceMod, Nat.reduceDiv] at hm
      rw [decodeRaw, if_neg ho, hm]
      simp (disch := omega) only [decVgrp, f.b, f.a, f.d, f.top, src_toCode hb, src_toCode ha, div_of_no_carry, field_same,
        Nat.reduceMod, Nat.reduceDiv, BitVec.ofNat_toNat, BitVec.setWidth_eq]
    · simp (disch := omega) only [field_below, Nat.reduceMod, Nat.reduceDiv]; rfl
    all_goals omega
  | vcmp _ b a d =>
    refine .of_ba (fun W l f ho hm hb ha => ?_) ?_ ?_ (fields_bad rfl ?_ ?_ ?_ ?_) rfl ?_
    · simp (disch := omega) only [field_below, Nat.reduceMod, Nat.reduceDiv] at hm
      rw [decodeRaw, if_neg ho, hm]
      simp (disch := omega) only [decVgrp, zero, f.b, f.a, f.d_low, f.d_high, f.top, src_toCode hb, src_toCode ha,
        div_of_no_carry, field_same, Nat.reduceMod, Nat.reduceDiv, BitVec.ofNat_toNat, BitVec.setWidth_eq, if_true]
    · simp (disch := omega) only [field_below, Nat.reduceMod, Nat.reduceDiv]; rfl
    all_goals omega
  | vext b a d | vins b a d | vperm b a d | vslide b a d =>
    delta Instr.wf at hwf
    simp only [dstScalar, dstVec, isReg, isSend, isHandle, Bool.and_eq_true, Bool.or_eq_true, decide_eq_true_eq] at hwf
    refine .of_ba (fun W l f ho hm hb ha => ?_) ?_ ?_ (fields_bad rfl ?_ ?_ ?_ ?_) rfl ?_
    · simp (disch := omega) only [Nat.reduceMod, Nat.reduceDiv] at hm
      rw [decodeRaw, if_neg ho, hm]
      simp (disch := omega) only [decVgrp, zero, f.b, f.a, f.d, f.top, src_toCode hb, src_toCode ha, Nat.reduceMod, Nat.reduceDiv, BitVec.ofNat_toNat, BitVec.setWidth_eq, if_true]
    · simp (disch := omega) only [Nat.reduceMod, Nat.reduceDiv]; rfl
    all_goals omega
  | vbcast a d =>
    delta Instr.wf at hwf
    simp only [dstVec, isReg, isSend, isHandle, Bool.and_eq_true, Bool.or_eq_true, decide_eq_true_eq] at hwf
    refine .of_a (fun W l f ho hm ha => ?_) ?_ ?_ (fields_ad rfl ?_ ?_ ?_) rfl ?_ ?_
    · simp (disch := omega) only [Nat.reduceMod, Nat.reduceDiv] at hm
      rw [decodeRaw, if_neg ho, hm]
      simp (disch := omega) only [decVgrp, zero, f.a, f.d, f.join_top, f.top, src_toCode ha, Nat.reduceMod, Nat.reduceDiv, BitVec.ofNat_toNat, BitVec.setWidth_eq, if_true]
    · simp (disch := omega) only [Nat.reduceMod, Nat.reduceDiv]; rfl
    all_goals omega
  | vmov _ a d | vclz _ a d | vpopc _ a d =>
    delta Instr.wf at hwf
    simp only [dstShaped, isReg, isSend, isHandle, Bool.and_eq_true, Bool.or_eq_true, decide_eq_true_eq] at hwf
    refine .of_a (fun W l f ho hm ha => ?_) ?_ ?_ (fields_ad rfl ?_ ?_ ?_) rfl ?_ ?_
    · simp (disch := omega) only [field_below, Nat.reduceMod, Nat.reduceDiv] at hm
      rw [decodeRaw, if_neg ho, hm]
      simp (disch := omega) only [decVgrp, zero, f.b, f.a, f.d, f.top, src_toCode ha, div_of_no_carry, field_same,
        Nat.reduceMod, Nat.reduceDiv, BitVec.ofNat_toNat, BitVec.setWidth_eq, if_true]
    · simp (disch := omega) only [field_below, Nat.reduceMod, Nat.reduceDiv]; rfl
    all_goals omega
  | _ => exact absurd hm Bool.false_ne_true

theorem readsBack_vconvert (i : Instr) (hm : majorIn 26 27 i = true) (hwf : i.wf = true) : ReadsBack i := by
  cases i with
  | vqnt _ b a d | vdq _ b a d | vscale _ b a d =>
    delta Instr.wf at hwf
    simp only [dstShaped, isReg, isSend, isHandle, Bool.and_eq_true, Bool.or_eq_true, decide_eq_true_eq] at hwf
    refine .of_ba (fun W l f ho hm hb ha => ?_) ?_ ?_ (fields_bad rfl ?_ ?_ ?_ ?_) rfl ?_
    · simp (disch := omega) only [field_below, Nat.reduceMod, Nat.reduceDiv] at hm
      rw [decodeRaw, if_neg ho, hm]
      simp (disch := omega) only [decVcvt, f.b, f.a, f.d, f.top, src_toCode hb, src_toCode ha, div_of_no_carry, field_same,
        Nat.reduceMod, Nat.reduceDiv, BitVec.ofNat_toNat, BitVec.setWidth_eq]
    · simp (disch := omega) only [field_below, Nat.reduceMod, Nat.reduceDiv]; rfl
    all_goals omega
  | vrndi _ a d | vgetexp _ a d | vexp2 _ a d | vlog2 _ a d | vrcp _ a d | vrsq _ a d | vsqrt _ a d | vsinpi _ a d
  | vcospi _ a d =>
    delta Instr.wf at hwf
    simp only [dstShaped, isReg, isSend, isHandle, Bool.and_eq_true, Bool.or_eq_true, decide_eq_true_eq] at hwf
    refine .of_a (fun W l f ho hm ha => ?_) ?_ ?_ (fields_ad rfl ?_ ?_ ?_) rfl ?_ ?_
    · simp (disch := omega) only [field_below, Nat.reduceMod, Nat.reduceDiv] at hm
      rw [decodeRaw, if_neg ho, hm]
      simp (disch := omega) only [decVcvt, decVsfu, zero, f.b, f.a, f.d, f.top, src_toCode ha, div_of_no_carry, field_same,
        Nat.reduceMod, Nat.reduceDiv, BitVec.ofNat_toNat, BitVec.setWidth_eq, if_true]
    · simp (disch := omega) only [field_below, Nat.reduceMod, Nat.reduceDiv]; rfl
    all_goals omega
  | vcvt q t a d =>
    delta Instr.wf at hwf
    simp only [dstShaped, isReg, isSend, isHandle, Bool.and_eq_true, Bool.or_eq_true, decide_eq_true_eq] at hwf
    refine .of_a (fun W l f ho hm ha => ?_) ?_ ?_ (fields_bad rfl ?_ ?_ ?_ ?_) rfl ?_ ?_
    · simp (disch := omega) only [field_below, Nat.reduceMod, Nat.reduceDiv] at hm
      rw [decodeRaw, if_neg ho, hm]
      simp (disch := omega) only [decVcvt, zero, f.b_low4, f.b_high2, f.a, f.d, f.top, src_toCode ha, div_of_no_carry,
        field_same, Nat.reduceMod, Nat.reduceDiv, BitVec.ofNat_toNat, BitVec.setWidth_eq, if_true]
    · simp (disch := omega) only [field_below, Nat.reduceMod, Nat.reduceDiv]; rfl
    all_goals omega
  | _ => exact absurd hm Bool.false_ne_true

theorem readsBack_vother (i : Instr) (hm : majorIn 28 30 i = true) (hwf : i.wf = true) : ReadsBack i := by
  cases i with
  | vld b a d | vgath b a d | vldb b a d | hbind b a d =>
    delta Instr.wf at hwf
    simp only [dstScalar, isReg, isSend, isHandle, Bool.and_eq_true, Bool.or_eq_true, decide_eq_true_eq] at hwf
    refine .of_ba (fun W l f ho hm hb ha => ?_) ?_ ?_ (fields_bad rfl ?_ ?_ ?_ ?_) rfl ?_
    · simp (disch := omega) only [Nat.reduceMod, Nat.reduceDiv] at hm
      rw [decodeRaw, if_neg ho, hm]
      simp (disch := omega) only [decVmem, decRing, zero, f.b, f.a, f.d, f.top, src_toCode hb, src_toCode ha, Nat.reduceMod, Nat.reduceDiv, BitVec.ofNat_toNat, BitVec.setWidth_eq, if_true]
    · simp (disch := omega) only [Nat.reduceMod, Nat.reduceDiv]; rfl
    all_goals omega
  | vxadd b a =>
    refine .of_ba (fun W l f ho hm hb ha => ?_) ?_ ?_ (fields_ba rfl ?_ ?_ ?_) rfl ?_
    · simp (disch := omega) only [Nat.reduceMod, Nat.reduceDiv] at hm
      rw [decodeRaw, if_neg ho, hm]
      simp (disch := omega) only [decVred, zero, f.b, f.a, f.d, f.top, src_toCode hb, src_toCode ha, Nat.reduceMod, Nat.reduceDiv, if_true]
    · simp (disch := omega) only [Nat.reduceMod, Nat.reduceDiv]; rfl
    all_goals omega
  | vredsum a d | vredmax a d | vredmin a d | vredamax a d | vrowmax a d | vxrd a d =>
    delta Instr.wf at hwf
    simp only [dstScalar, isReg, isSend, Bool.and_eq_true, Bool.or_eq_true, decide_eq_true_eq] at hwf
    refine .of_a (fun W l f ho hm ha => ?_) ?_ ?_ (fields_ad rfl ?_ ?_ ?_) rfl ?_ ?_
    · simp (disch := omega) only [Nat.reduceMod, Nat.reduceDiv] at hm
      rw [decodeRaw, if_neg ho, hm]
      simp (disch := omega) only [decVred, zero, f.a, f.d, f.join_top, f.top, src_toCode ha, Nat.reduceMod, Nat.reduceDiv, BitVec.ofNat_toNat, BitVec.setWidth_eq, if_true]
    · simp (disch := omega) only [Nat.reduceMod, Nat.reduceDiv]; rfl
    all_goals omega
  | vxclr a =>
    refine .of_a (fun W l f ho hm ha => ?_) ?_ ?_ (fields_a rfl ?_ ?_) rfl ?_ ?_
    · simp (disch := omega) only [Nat.reduceMod, Nat.reduceDiv] at hm
      rw [decodeRaw, if_neg ho, hm]
      simp (disch := omega) only [decVred, zero, f.a, f.d, f.join_top, f.top, src_toCode ha, Nat.reduceMod, Nat.reduceDiv, if_true]
    · simp (disch := omega) only [Nat.reduceMod, Nat.reduceDiv]; rfl
    all_goals omega
  | shpld _ a | shpst _ a =>
    refine .of_a (fun W l f ho hm ha => ?_) ?_ ?_ (fields_a rfl ?_ ?_) rfl ?_ ?_
    · simp (disch := omega) only [field_below, Nat.reduceMod, Nat.reduceDiv] at hm
      rw [decodeRaw, if_neg ho, hm]
      simp (disch := omega) only [decRing, zero, f.b, f.a, f.d, f.top, src_toCode ha, div_of_no_carry, field_same,
        Nat.reduceMod, Nat.reduceDiv, BitVec.ofNat_toNat, BitVec.setWidth_eq, if_true]
    · simp (disch := omega) only [field_below, Nat.reduceMod, Nat.reduceDiv]; rfl
    all_goals omega
  | hadvc d | hadvp d | hunbind d =>
    delta Instr.wf at hwf
    simp only [isHandle, decide_eq_true_eq] at hwf
    refine .of_none (fun W l f ho hm  => ?_) ?_ ?_ (fields_d rfl ?_ ?_) rfl ?_ ?_ ?_
    · simp (disch := omega) only [Nat.reduceMod, Nat.reduceDiv] at hm
      rw [decodeRaw, if_neg ho, hm]
      simp (disch := omega) only [decRing, zero, f.d, f.join_a_top, f.top, Nat.reduceMod, Nat.reduceDiv,
        BitVec.ofNat_toNat, BitVec.setWidth_eq, if_true]
    · simp (disch := omega) only [Nat.reduceMod, Nat.reduceDiv]; rfl
    all_goals omega
  | hstat a d =>
    delta Instr.wf at hwf
    simp only [dstScalar, isReg, isSend, isHandle, Bool.and_eq_true, Bool.or_eq_true, decide_eq_true_eq] at hwf
    refine .of_none (fun W l f ho hm  => ?_) ?_ ?_ (fields_ad rfl ?_ ?_ ?_) rfl ?_ ?_ ?_
    · simp (disch := omega) only [Nat.reduceMod, Nat.reduceDiv] at hm
      rw [decodeRaw, if_neg ho, hm]
      simp (disch := omega) only [decRing, zero, f.a, f.d, f.join_top, f.top, Nat.reduceMod, Nat.reduceDiv,
        BitVec.ofNat_toNat, BitVec.setWidth_eq, if_true]
    · simp (disch := omega) only [Nat.reduceMod, Nat.reduceDiv]; rfl
    all_goals omega
  | vst b a d | vscat b a d =>
    refine .of_bad (fun W l f ho hm hb ha hd => ?_) ?_ ?_ (fields_bad rfl ?_ ?_ ?_ ?_) rfl
    · simp (disch := omega) only [Nat.reduceMod, Nat.reduceDiv] at hm
      rw [decodeRaw, if_neg ho, hm]
      simp (disch := omega) only [decVmem, zero, f.b, f.a, f.d, f.top, src_toCode hb, src_toCode ha, src_toCode hd,
        Nat.reduceMod, Nat.reduceDiv, if_true]
    · simp (disch := omega) only [Nat.reduceMod, Nat.reduceDiv]; rfl
    all_goals omega
  | _ => exact absurd hm Bool.false_ne_true

theorem readsBack_matrix (i : Instr) (hm : majorIn 31 34 i = true) (hwf : i.wf = true) : ReadsBack i := by
  cases i with
  | mma z n ta tb w x y | mmaq z n ta tb w x y =>
    have := z.toNat_le
    have := n.toNat_le
    refine ⟨by delta encodeWord; dsimp only; omega, fun l hs => ?_, fun c hc => ?_⟩
    · delta encodeWord
      simp (disch := omega) only [decodeRaw, decMma, decMmaq, bit, Nat.reducePow, decide_toNat_eq_one, add_mul_mod_of_dvd,
        field_below, div_of_no_carry, field_same, Nat.reduceMod, Nat.reduceDiv, BitVec.ofNat_toNat, BitVec.setWidth_eq,
        Nat.one_ne_zero, if_false]
    · delta encodeWord Instr.srcs
      simp (disch := omega) [scanFields, field_below]
  | mmas _ _ _ _ _ _ _ | tzero _ _ =>
    refine ⟨by delta encodeWord; dsimp only; omega, fun l hs => ?_, fun c hc => ?_⟩
    · delta encodeWord
      simp (disch := omega) only [decodeRaw, decMmas, decMat, zero, add_mul_mod_of_dvd, field_below, div_of_no_carry,
        field_same, Nat.reduceMod, Nat.reduceDiv, BitVec.ofNat_toNat, BitVec.setWidth_eq, Nat.one_ne_zero, if_false,
        if_true]
    · delta encodeWord Instr.srcs
      simp (disch := omega) [scanFields, field_below, div_of_no_carry, show c ≠ 0 by omega]
  | jpoll a d =>
    delta Instr.wf at hwf
    simp only [dstScalar, isReg, isSend, Bool.and_eq_true, Bool.or_eq_true, decide_eq_true_eq] at hwf
    refine ⟨by delta encodeWord; dsimp only; omega, fun l hs => ?_, fun c hc => ?_⟩
    · have ha : SrcFits l a := hs a (.head _)
      delta encodeWord
      simp (disch := omega) only [decodeRaw, decMat, zero, src_toCode ha, add_mul_mod_of_dvd, field_below, div_of_no_carry,
        field_same, Nat.reduceMod, Nat.reduceDiv, BitVec.ofNat_toNat, BitVec.setWidth_eq, Nat.one_ne_zero, if_false,
        if_true]
    · delta encodeWord Instr.srcs
      simp (disch := omega) [scanFields, field_below, div_of_no_carry, field_same]; omega
  | acz a _ | jwait a =>
    refine ⟨by delta encodeWord; dsimp only; omega, fun l hs => ?_, fun c hc => ?_⟩
    · have ha : SrcFits l a := hs a (.head _)
      delta encodeWord
      simp (disch := omega) only [decodeRaw, decMat, zero, src_toCode ha, add_mul_mod_of_dvd, field_below, div_of_no_carry,
        field_same, Nat.reduceMod, Nat.reduceDiv, BitVec.ofNat_toNat, BitVec.setWidth_eq, Nat.one_ne_zero, if_false,
        if_true]
    · delta encodeWord Instr.srcs
      simp (disch := omega) [scanFields, field_below, div_of_no_carry, field_same, show c ≠ 0 by omega]
  | tld _ a _ d | acrd a _ d | acwr a _ d =>
    refine ⟨by delta encodeWord; dsimp only; omega, fun l hs => ?_, fun c hc => ?_⟩
    · have ha : SrcFits l a := hs a (.head _)
      have hd : SrcFits l d := hs d (.tail _ (.head _))
      delta encodeWord
      simp (disch := omega) only [decodeRaw, decMat, zero, src_toCode ha, src_toCode hd, add_mul_mod_of_dvd, field_below,
        div_of_no_carry, field_same, Nat.reduceMod, Nat.reduceDiv, BitVec.ofNat_toNat, BitVec.setWidth_eq, Nat.one_ne_zero,
        if_false, if_true]
    · delta encodeWord Instr.srcs
      simp (disch := omega) [scanFields, field_below, div_of_no_carry, field_same]
  | _ => exact absurd hm Bool.false_ne_true

theorem readsBack_copy (i : Instr) (hm : majorIn 35 37 i = true) (hwf : i.wf = true) : ReadsBack i := by
  cases i with
  | cxrd a d | tagwany a d | tagwall a d | tagff a d =>
    delta Instr.wf at hwf
    simp only [dstScalar, isReg, isSend, Bool.and_eq_true, Bool.or_eq_true, decide_eq_true_eq] at hwf
    refine .of_a (fun W l f ho hm ha => ?_) ?_ ?_ (fields_ad rfl ?_ ?_ ?_) rfl ?_ ?_
    · simp (disch := omega) only [Nat.reduceMod, Nat.reduceDiv] at hm
      rw [decodeRaw, if_neg ho, hm]
      simp (disch := omega) only [decCx, decTag, zero, f.b, f.a, f.d, f.top, src_toCode ha, Nat.reduceMod, Nat.reduceDiv, BitVec.ofNat_toNat, BitVec.setWidth_eq, if_true]
    · simp (disch := omega) only [Nat.reduceMod, Nat.reduceDiv]; rfl
    all_goals omega
  | cxdone a | tagclr a =>
    refine .of_a (fun W l f ho hm ha => ?_) ?_ ?_ (fields_a rfl ?_ ?_) rfl ?_ ?_
    · simp (disch := omega) only [Nat.reduceMod, Nat.reduceDiv] at hm
      rw [decodeRaw, if_neg ho, hm]
      simp (disch := omega) only [decCx, decTag, zero, f.b, f.a, f.d, f.top, src_toCode ha, Nat.reduceMod, Nat.reduceDiv, if_true]
    · simp (disch := omega) only [Nat.reduceMod, Nat.reduceDiv]; rfl
    all_goals omega
  | unsub d | tagrd d =>
    delta Instr.wf at hwf
    simp only [dstScalar, isReg, isSend, isHandle, Bool.or_eq_true, decide_eq_true_eq] at hwf
    refine .of_none (fun W l f ho hm  => ?_) ?_ ?_ (fields_d rfl ?_ ?_) rfl ?_ ?_ ?_
    · simp (disch := omega) only [Nat.reduceMod, Nat.reduceDiv] at hm
      rw [decodeRaw, if_neg ho, hm]
      simp (disch := omega) only [decStrm, decTag, zero, f.d, f.join_a, f.top, Nat.reduceMod, Nat.reduceDiv, BitVec.ofNat_toNat, BitVec.setWidth_eq, if_true]
    · simp (disch := omega) only [Nat.reduceMod, Nat.reduceDiv]; rfl
    all_goals omega
  | subscr a d =>
    delta Instr.wf at hwf
    simp only [isHandle, Bool.and_eq_true, decide_eq_true_eq, isSlot] at hwf
    refine .of_none (fun W l f ho hm  => ?_) ?_ ?_ (fields_ad rfl ?_ ?_ ?_) rfl ?_ ?_ ?_
    · simp (disch := omega) only [Nat.reduceMod, Nat.reduceDiv] at hm
      rw [decodeRaw, if_neg ho, hm]
      simp (disch := omega) only [decStrm, zero, f.b, f.a, f.d, f.top, Nat.reduceMod, Nat.reduceDiv, BitVec.ofNat_toNat,
        BitVec.setWidth_eq, if_true]
    · simp (disch := omega) only [Nat.reduceMod, Nat.reduceDiv]; rfl
    all_goals omega
  | burst b a d =>
    refine .of_bad (fun W l f ho hm hb ha hd => ?_) ?_ ?_ (fields_bad rfl ?_ ?_ ?_ ?_) rfl
    · simp (disch := omega) only [Nat.reduceMod, Nat.reduceDiv] at hm
      rw [decodeRaw, if_neg ho, hm]
      simp (disch := omega) only [decCx, f.b, f.a, f.d, f.top, src_toCode hb, src_toCode ha, src_toCode hd, Nat.reduceMod,
        Nat.reduceDiv]
    · simp (disch := omega) only [Nat.reduceMod, Nat.reduceDiv]; rfl
    all_goals omega
  | _ => exact absurd hm Bool.false_ne_true

theorem readsBack_object (i : Instr) (hm : majorIn 38 38 i = true) (hwf : i.wf = true) : ReadsBack i := by
  cases i with
  | obnew b a d | obrd b a d =>
    delta Instr.wf at hwf
    simp only [dstScalar, isReg, isSend, Bool.and_eq_true, Bool.or_eq_true, decide_eq_true_eq] at hwf
    refine .of_ba (fun W l f ho hm hb ha => ?_) ?_ ?_ (fields_bad rfl ?_ ?_ ?_ ?_) rfl ?_
    · simp (disch := omega) only [Nat.reduceMod, Nat.reduceDiv] at hm
      rw [decodeRaw, if_neg ho, hm]
      simp (disch := omega) only [decObj, f.b, f.a, f.d, f.top, src_toCode hb, src_toCode ha, Nat.reduceMod, Nat.reduceDiv, BitVec.ofNat_toNat, BitVec.setWidth_eq]
    · simp (disch := omega) only [Nat.reduceMod, Nat.reduceDiv]; rfl
    all_goals omega
  | arriveb b a | signal b a =>
    refine .of_ba (fun W l f ho hm hb ha => ?_) ?_ ?_ (fields_ba rfl ?_ ?_ ?_) rfl ?_
    · simp (disch := omega) only [Nat.reduceMod, Nat.reduceDiv] at hm
      rw [decodeRaw, if_neg ho, hm]
      simp (disch := omega) only [decObj, zero, f.b, f.a, f.d, f.top, src_toCode hb, src_toCode ha, Nat.reduceMod, Nat.reduceDiv, if_true]
    · simp (disch := omega) only [Nat.reduceMod, Nat.reduceDiv]; rfl
    all_goals omega
  | wait a d | lock a d | rankof a d =>
    delta Instr.wf at hwf
    simp only [dstScalar, isReg, isSend, Bool.and_eq_true, Bool.or_eq_true, decide_eq_true_eq] at hwf
    refine .of_a (fun W l f ho hm ha => ?_) ?_ ?_ (fields_ad rfl ?_ ?_ ?_) rfl ?_ ?_
    · simp (disch := omega) only [Nat.reduceMod, Nat.reduceDiv] at hm
      rw [decodeRaw, if_neg ho, hm]
      simp (disch := omega) only [decObj, zero, f.b, f.a, f.d, f.top, src_toCode ha, Nat.reduceMod, Nat.reduceDiv, BitVec.ofNat_toNat, BitVec.setWidth_eq, if_true]
    · simp (disch := omega) only [Nat.reduceMod, Nat.reduceDiv]; rfl
    all_goals omega
  | obdel a | arrive a | arriveLeave a | unlock a =>
    refine .of_a (fun W l f ho hm ha => ?_) ?_ ?_ (fields_a rfl ?_ ?_) rfl ?_ ?_
    · simp (disch := omega) only [Nat.reduceMod, Nat.reduceDiv] at hm
      rw [decodeRaw, if_neg ho, hm]
      simp (disch := omega) only [decObj, zero, f.b, f.a, f.d, f.top, src_toCode ha, Nat.reduceMod, Nat.reduceDiv, if_true]
    · simp (disch := omega) only [Nat.reduceMod, Nat.reduceDiv]; rfl
    all_goals omega
  | obxfer b a d =>
    refine .of_bad (fun W l f ho hm hb ha hd => ?_) ?_ ?_ (fields_bad rfl ?_ ?_ ?_ ?_) rfl
    · simp (disch := omega) only [Nat.reduceMod, Nat.reduceDiv] at hm
      rw [decodeRaw, if_neg ho, hm]
      simp (disch := omega) only [decObj, f.b, f.a, f.d, f.top, src_toCode hb, src_toCode ha, src_toCode hd, Nat.reduceMod,
        Nat.reduceDiv]
    · simp (disch := omega) only [Nat.reduceMod, Nat.reduceDiv]; rfl
    all_goals omega
  | _ => exact absurd hm Bool.false_ne_true

theorem readsBack_task (i : Instr) (hm : majorIn 39 63 i = true) (hwf : i.wf = true) : ReadsBack i := by
  cases i with
  | tlbinv b a =>
    refine .of_ba (fun W l f ho hm hb ha => ?_) ?_ ?_ (fields_ba rfl ?_ ?_ ?_) rfl ?_
    · simp (disch := omega) only [Nat.reduceMod, Nat.reduceDiv] at hm
      rw [decodeRaw, if_neg ho, hm]
      simp (disch := omega) only [decVm, zero, f.b, f.a, f.d, f.top, src_toCode hb, src_toCode ha, Nat.reduceMod, Nat.reduceDiv, if_true]
    · simp (disch := omega) only [Nat.reduceMod, Nat.reduceDiv]; rfl
    all_goals omega
  | spawn a d | ttarm a d | sync a d | pgcommit a d | pgfree a d | addrq a d =>
    delta Instr.wf at hwf
    simp only [dstScalar, isReg, isSend, Bool.and_eq_true, Bool.or_eq_true, decide_eq_true_eq] at hwf
    refine .of_a (fun W l f ho hm ha => ?_) ?_ ?_ (fields_ad rfl ?_ ?_ ?_) rfl ?_ ?_
    · simp (disch := omega) only [Nat.reduceMod, Nat.reduceDiv] at hm
      rw [decodeRaw, if_neg ho, hm]
      simp (disch := omega) only [decTask, decBsp, decVm, zero, f.b, f.a, f.d, f.top, src_toCode ha, Nat.reduceMod,
        Nat.reduceDiv, BitVec.ofNat_toNat, BitVec.setWidth_eq, if_true]
    · simp (disch := omega) only [Nat.reduceMod, Nat.reduceDiv]; rfl
    all_goals omega
  | msgsend a | wstart a | muxsel a =>
    refine .of_a (fun W l f ho hm ha => ?_) ?_ ?_ (fields_a rfl ?_ ?_) rfl ?_ ?_
    · simp (disch := omega) only [Nat.reduceMod, Nat.reduceDiv] at hm
      rw [decodeRaw, if_neg ho, hm]
      simp (disch := omega) only [decTask, decWelt, decBsp, zero, f.b, f.a, f.d, f.top, src_toCode ha, Nat.reduceMod,
        Nat.reduceDiv, if_true]
    · simp (disch := omega) only [Nat.reduceMod, Nat.reduceDiv]; rfl
    all_goals omega
  | now d | wpos d =>
    delta Instr.wf at hwf
    simp only [dstScalar, isReg, isSend, Bool.or_eq_true, decide_eq_true_eq] at hwf
    refine .of_none (fun W l f ho hm  => ?_) ?_ ?_ (fields_d rfl ?_ ?_) rfl ?_ ?_ ?_
    · simp (disch := omega) only [Nat.reduceMod, Nat.reduceDiv] at hm
      rw [decodeRaw, if_neg ho, hm]
      simp (disch := omega) only [decTask, decWelt, zero, f.d, f.join_a, f.top, Nat.reduceMod, Nat.reduceDiv, BitVec.ofNat_toNat, BitVec.setWidth_eq, if_true]
    · simp (disch := omega) only [Nat.reduceMod, Nat.reduceDiv]; rfl
    all_goals omega
  | xmit b d | xrecv b d =>
    delta Instr.wf at hwf
    simp only [isReg, Bool.and_eq_true, decide_eq_true_eq] at hwf
    refine ⟨by delta encodeWord; dsimp only; omega, fun l hs => ?_, fun c hc => ?_⟩
    · have hb : SrcFits l b := hs b (.head _)
      delta encodeWord
      simp (disch := omega) only [decodeRaw, decBsp, zero, src_toCode hb, add_mul_mod_of_dvd, field_below, div_of_no_carry,
        field_same, Nat.reduceMod, Nat.reduceDiv, BitVec.ofNat_toNat, BitVec.setWidth_eq, Nat.one_ne_zero, if_false,
        if_true]
    · delta encodeWord Instr.srcs
      simp (disch := omega) [scanFields, field_below, div_of_no_carry, field_same, show c ≠ 0 by omega]; omega
  | exit | yield | wend =>
    exact ⟨by decide, fun l _ => rfl, fun c hc => by delta encodeWord Instr.srcs; simp [scanFields]; omega⟩
  | _ => exact absurd hm Bool.false_ne_true

/-- The 16-bit form (04 R50). -/
theorem decodeRaw_encodeWord_c (i : Instr) (hc : i.isC = true) (l : Word) :
    encodeWord i % 2 = 0 ∧ encodeWord i < 2 ^ 16 ∧ decodeRaw (encodeWord i) l = .ok i := by
  cases i with
  | cVadd _ _ | cVsub _ _ | cVmul _ _ | cVmac _ _ | cVmin _ _ | cVmax _ _ | cVand _ _ | cVor _ _ | cVxor _ _
  | cVshl _ _ | cVshr _ _ | cVsra _ _ | cVmov _ _ | cVneg _ _ | cVabs _ _ | cVzero _ =>
    delta encodeWord
    dsimp only
    refine ⟨by omega, by omega, ?_⟩
    simp (disch := omega) only [decodeRaw, decC, zero, add_mul_mod_of_dvd, field_below, div_of_no_carry, field_same,
      Nat.reduceMod, Nat.reduceDiv, BitVec.ofNat_toNat, BitVec.setWidth_eq, Nat.one_ne_zero, if_false, if_true]
  | _ => exact absurd hc Bool.false_ne_true

theorem srcs_of_isC (i : Instr) (hc : i.isC = true) : i.srcs = [] := by
  cases i with
  | cVadd _ _ | cVsub _ _ | cVmul _ _ | cVmac _ _ | cVmin _ _ | cVmax _ _ | cVand _ _ | cVor _ _ | cVxor _ _
  | cVshl _ _ | cVshr _ _ | cVsra _ _ | cVmov _ _ | cVneg _ _ | cVabs _ _ | cVzero _ => rfl
  | _ => exact absurd hc Bool.false_ne_true

theorem major_lt (i : Instr) : i.major < 64 := by
  cases i
  all_goals exact Nat.le_of_ble_eq_true rfl

/-- Every well-formed 32-bit form reads back. -/
theorem readsBack_of_wf (i : Instr) (hc : i.isC = false) (hm : i.major ≠ 0) (hwf : i.wf = true) : ReadsBack i := by
  have hlt := major_lt i
  have hin : ∀ lo hi : Nat, lo ≤ i.major → i.major ≤ hi → majorIn lo hi i = true := by
    intro lo hi hlo hhi
    simp [majorIn, hc, hlo, hhi]
  by_cases h1 : i.major ≤ 1
  · exact readsBack_alu i (hin 1 1 (by omega) h1) hwf
  by_cases h17 : i.major ≤ 17
  · exact readsBack_address_compare i (hin 2 17 (by omega) h17) hwf
  by_cases h18 : i.major ≤ 18
  · exact readsBack_atomic i (hin 18 18 (by omega) h18) hwf
  by_cases h23 : i.major ≤ 23
  · exact readsBack_remote i (hin 19 23 (by omega) h23) hwf
  by_cases h24 : i.major ≤ 24
  · exact readsBack_arith i (hin 24 24 (by omega) h24) hwf
  by_cases h25 : i.major ≤ 25
  · exact readsBack_vgroup i (hin 25 25 (by omega) h25) hwf
  by_cases h27 : i.major ≤ 27
  · exact readsBack_vconvert i (hin 26 27 (by omega) h27) hwf
  by_cases h30 : i.major ≤ 30
  · exact readsBack_vother i (hin 28 30 (by omega) h30) hwf
  by_cases h34 : i.major ≤ 34
  · exact readsBack_matrix i (hin 31 34 (by omega) h34) hwf
  by_cases h37 : i.major ≤ 37
  · exact readsBack_copy i (hin 35 37 (by omega) h37) hwf
  by_cases h38 : i.major ≤ 38
  · exact readsBack_object i (hin 38 38 (by omega) h38) hwf
  · exact readsBack_task i (hin 39 63 (by omega) (by omega)) hwf

/-! The literal behind the word (02 R18, 04 R52). -/

theorem vec_of_scalar {a : Src} (h : a.scalar = true) : a.vec = true := by
  cases a <;> simp_all [Src.scalar, Src.vec]
  tauto

theorem vec_of_regOrLit {a : Src} (h : a.regOrLit = true) : a.vec = true := by
  cases a <;> simp_all [Src.regOrLit, Src.vec]

theorem code_lt_of_vec {c : Code} (h : (Src.code c).vec = true) : c.toNat < 62 := by
  simp only [Src.vec, isReg, isHandle, isRecv, Bool.or_eq_true, decide_eq_true_eq] at h
  omega

theorem oneLit_nil : oneLit [] = true := rfl
theorem oneLit_one (a : Src) : oneLit [a] = true := by cases a <;> rfl

/-- 04 R57, checks 3 and 5, as far as they concern the sources: none has a literal's code, and one at most is a literal. -/
theorem srcs_of_wf (i : Instr) (hwf : i.wf = true) : (∀ a ∈ i.srcs, a.vec = true) ∧ oneLit i.srcs = true := by
  cases i
  all_goals
    delta Instr.wf at hwf
    delta Instr.srcs
    simp_all [vec_of_scalar, vec_of_regOrLit, oneLit_nil, oneLit_one]

/-- The literal bytes that follow a word with the sources `l`. -/
def litsOf (l : List Src) : List Byte := (l.map Src.lit).flatten

theorem litsOf_filter (l : List Src) : litsOf (l.filter Src.isLit) = litsOf l := by
  induction l with
  | nil => rfl
  | cons a l ih =>
    simp only [litsOf] at ih ⊢
    cases a <;> simp [List.filter_cons, Src.isLit, Src.lit, ih]

/-- The only literal is the sources' literal. -/
theorem filter_isLit_eq {l : List Src} (h : oneLit l = true) {a : Src} (ha : a ∈ l) (hl : a.isLit = true) :
    l.filter Src.isLit = [a] := by
  have hmem : a ∈ l.filter Src.isLit := List.mem_filter.2 ⟨ha, hl⟩
  have hlen : (l.filter Src.isLit).length ≤ 1 := of_decide_eq_true h
  obtain ⟨b, hb⟩ := List.length_eq_one_iff.1 (show (l.filter Src.isLit).length = 1 from
    Nat.le_antisymm hlen (List.length_pos_of_mem hmem))
  rw [hb] at hmem ⊢
  rw [List.mem_singleton.1 hmem]

theorem litsOf_eq {l : List Src} (h : oneLit l = true) {a : Src} (ha : a ∈ l) (hl : a.isLit = true) : litsOf l = a.lit := by
  rw [← litsOf_filter, filter_isLit_eq h ha hl]
  simp [litsOf]

theorem litsOf_eq_nil {l : List Src} (h : ∀ a ∈ l, a.isLit = false) : litsOf l = [] := by
  rw [← litsOf_filter, List.filter_eq_nil_iff.2 (by simpa using h)]
  rfl

theorem leNat_leBytes (n x : Nat) : leNat (leBytes n x) = x % 256 ^ n := by
  induction n generalizing x with
  | zero => simp [leBytes, leNat, Nat.mod_one]
  | succ n ih =>
    rw [leBytes, leNat, ih, BitVec.toNat_ofNat, Nat.pow_succ 256, Nat.mul_comm (256 ^ n), Nat.mod_mul]

theorem leBytes_eq_map (n x : Nat) : leBytes n x = (List.range n).map fun k => BitVec.ofNat 8 (x / 256 ^ k) := by
  induction n generalizing x with
  | zero => rfl
  | succ n ih => simp [leBytes, ih, List.range_succ_eq_map, Nat.div_div_eq_div_mul, Nat.pow_succ, Nat.mul_comm]

theorem map_extractLsb'_eq {m : Nat} (n : Nat) (x : BitVec m) :
    ((List.range n).map fun k => x.extractLsb' (8 * k) 8) = leBytes n x.toNat := by
  rw [leBytes_eq_map]
  refine List.map_congr_left fun k _ => BitVec.eq_of_toNat_eq ?_
  simp [Nat.shiftRight_eq_div_pow, Nat.pow_mul]

theorem lit32_eq (x : BitVec 32) : (Src.lit32 x).lit = leBytes 4 x.toNat := map_extractLsb'_eq 4 x
theorem lit64_eq (x : BitVec 64) : (Src.lit64 x).lit = leBytes 8 x.toNat := map_extractLsb'_eq 8 x

/-- The literal behind the word is what each source that is a literal takes. -/
theorem srcFits_litsOf {l : List Src} (hv : ∀ a ∈ l, a.vec = true) (h : oneLit l = true) :
    ∀ a ∈ l, SrcFits (BitVec.ofNat 64 (leNat (litsOf l))) a := by
  intro a ha
  cases a with
  | code c => exact code_lt_of_vec (hv _ ha)
  | lit32 x =>
    rw [litsOf_eq h ha rfl, lit32_eq, leNat_leBytes]
    apply BitVec.eq_of_toNat_eq
    have := x.isLt
    simp only [BitVec.toNat_setWidth, BitVec.toNat_ofNat]
    omega
  | lit64 x =>
    rw [litsOf_eq h ha rfl, lit64_eq, leNat_leBytes]
    apply BitVec.eq_of_toNat_eq
    have := x.isLt
    simp only [BitVec.toNat_ofNat]
    omega

theorem isLit_of_code {a : Src} (hv : a.vec = true) (h : 62 ≤ a.toCode.toNat) : a.isLit = true := by
  cases a with
  | code c => exact absurd h (by have := code_lt_of_vec hv; simp only [Src.toCode]; omega)
  | lit32 | lit64 => rfl

/-- The codes that announce a literal announce the sources' literal, in its length (04 R48). -/
theorem litBytes_eq {w : Nat} {l : List Src} (hw : w % 2 = 1) (hv : ∀ a ∈ l, a.vec = true) (h : oneLit l = true)
    (hscan : ∀ c, 62 ≤ c → (c ∈ scanFields w ↔ c ∈ l.map (·.toCode.toNat))) : litBytes w = (litsOf l).length := by
  simp only [litBytes, if_neg (show ¬w % 2 = 0 by omega), hscan 62 (by decide), hscan 63 (by decide)]
  by_cases hex : ∃ a ∈ l, a.isLit = true
  · obtain ⟨a, ha, hl⟩ := hex
    have honly : ∀ b ∈ l, 62 ≤ b.toCode.toNat → b = a := by
      intro b hb hcode
      have hmem : b ∈ l.filter Src.isLit := List.mem_filter.2 ⟨hb, isLit_of_code (hv b hb) hcode⟩
      rw [filter_isLit_eq h ha hl] at hmem
      exact List.mem_singleton.1 hmem
    rw [litsOf_eq h ha hl]
    cases a with
    | code c => cases hl
    | lit32 x =>
      have h62 : 62 ∈ l.map (·.toCode.toNat) := List.mem_map.2 ⟨_, ha, rfl⟩
      rw [if_pos h62, lit32_eq, length_leBytes]
    | lit64 x =>
      have h62 : 62 ∉ l.map (·.toCode.toNat) := by
        intro hm
        obtain ⟨b, hb, hcode⟩ := List.mem_map.1 hm
        rw [honly b hb (by omega)] at hcode
        exact absurd hcode (by simp [Src.toCode])
      have h63 : 63 ∈ l.map (·.toCode.toNat) := List.mem_map.2 ⟨_, ha, rfl⟩
      rw [if_neg h62, if_pos h63, lit64_eq, length_leBytes]
  · have hnone : ∀ a ∈ l, a.isLit = false := by simpa using hex
    have hcodes : ∀ c, 62 ≤ c → c ∉ l.map (·.toCode.toNat) := by
      intro c hc hm
      obtain ⟨b, hb, rfl⟩ := List.mem_map.1 hm
      exact absurd (isLit_of_code (hv b hb) hc) (by simp [hnone b hb])
    rw [if_neg (hcodes 62 (by decide)), if_neg (hcodes 63 (by decide)), litsOf_eq_nil hnone]
    rfl

/-! Bytes and their decoding. -/

theorem foldr_eq_leNat (bs : List Byte) : bs.foldr (fun x n => x.toNat + 256 * n) 0 = leNat bs := by
  induction bs with
  | nil => rfl
  | cons b bs ih => rw [List.foldr_cons, ih, leNat]

theorem encode_eq (i : Instr) : encode i = leBytes (if i.isC then 2 else 4) (encodeWord i) ++ litsOf i.srcs := by
  rw [leBytes_eq_map]
  rfl

/-- The bytes of a word, its literal and what follows are read as the word, the literal and the rest. -/
theorem decode_bytes {n w : Nat} {ls rest : List Byte} {i : Instr} (hn : headBytes w = n) (hw : w < 256 ^ n)
    (hl : litBytes w = ls.length) (hd : decodeWord w (BitVec.ofNat 64 (leNat ls)) = .ok i) :
    decode (leBytes n w ++ ls ++ rest) = .ok (i, rest) := by
  have h2 : 2 ≤ n := by unfold headBytes at hn; split at hn <;> omega
  have hlow : leNat ((leBytes n w ++ ls ++ rest).take 2) % 2 = w % 2 := by
    obtain ⟨m, rfl⟩ := Nat.exists_eq_add_of_le' h2
    simp [leBytes, leNat]
    omega
  have hhead : headBytes (leNat ((leBytes n w ++ ls ++ rest).take 2)) = n := by
    rw [headBytes, hlow]; exact hn
  have htake : (leBytes n w ++ ls ++ rest).take n = leBytes n w := by
    rw [List.append_assoc, List.take_left' (length_leBytes n w)]
  have hdrop : (leBytes n w ++ ls ++ rest).drop n = ls ++ rest := by
    rw [List.append_assoc, List.drop_left' (length_leBytes n w)]
  have hword : leNat (leBytes n w) = w := by rw [leNat_leBytes, Nat.mod_eq_of_lt hw]
  have hlen : (leBytes n w ++ ls ++ rest).length = n + ls.length + rest.length := by simp [Nat.add_assoc]
  unfold decode
  simp only [foldr_eq_leNat, hhead, htake, hdrop, hword, hl, List.take_left, hd]
  rw [if_neg (by omega), if_neg (by omega), if_neg (by omega), ← List.drop_drop, hdrop, List.drop_left]

/-- Settles O55: the word of a well-formed instruction reads back (`readsBack_of_wf`, `decodeRaw_encodeWord_c`),
  and its bytes are
those of the word and of the literal that the word announces. -/
theorem decodeOfEncode : Obligations.DecodeOfEncode := by
  unfold Obligations.DecodeOfEncode
  intro i rest hwf henc
  obtain ⟨hv, hone⟩ := srcs_of_wf i hwf
  rw [encode_eq]
  cases hc : i.isC with
  | true =>
    obtain ⟨heven, hlt, hraw⟩ := decodeRaw_encodeWord_c i hc (BitVec.ofNat 64 (leNat (litsOf i.srcs)))
    refine decode_bytes (by simp [headBytes, heven]) (by simpa using hlt) ?_ (decodeWord_of_raw hraw hwf)
    rw [litBytes, if_pos heven, srcs_of_isC i hc]
    rfl
  | false =>
    have h := readsBack_of_wf i hc (by simpa [hc] using henc) hwf
    obtain ⟨hodd, hlt⟩ := h.word
    exact decode_bytes (by simp [headBytes, hodd]) (by simpa using hlt) (litBytes_eq hodd hv hone h.scan)
      (decodeWord_of_raw (h.raw _ (srcFits_litsOf hv hone)) hwf)

end Sys2Proof.Proofs
end

section
/-! The values of the scalar operations, bit by bit (05 R59, R60, R64). -/

namespace Sys2Proof.Proofs

open Sys2Proof Sys2Proof.Machine Sys2Proof.Laws

/-! Bits of numbers and of the fields of numbers. -/

theorem bitOf_eq_testBit (x i : Nat) : bitOf x i = x.testBit i := by
  rw [bitOf, Nat.testBit_eq_decide_div_mod_eq]
  rfl

theorem flagOf_eq_getLsbD (x : Word) (i : Nat) : flagOf x i = x.getLsbD i := bitOf_eq_testBit x.toNat i

theorem testBit_bitsOf (x lo n i : Nat) : (bitsOf x lo n).testBit i = (decide (i < n) && x.testBit (lo + i)) := by
  rw [bitsOf, Nat.testBit_mod_two_pow, Nat.testBit_div_two_pow, Nat.add_comm]

theorem bitsOf_lt (x lo n : Nat) : bitsOf x lo n < 2 ^ n := Nat.mod_lt _ (Nat.two_pow_pos n)

/-- A number is what stands above a field, the field, and what stands below it. -/
theorem split_at_field (x lo n : Nat) : x = 2 ^ lo * (2 ^ n * (x / 2 ^ (lo + n)) + bitsOf x lo n) + x % 2 ^ lo := by
  rw [bitsOf, Nat.pow_add, ← Nat.div_div_eq_div_mul, Nat.div_add_mod, Nat.div_add_mod]

theorem putBits_eq (x lo n v : Nat) :
    putBits x lo n v = 2 ^ lo * (2 ^ n * (x / 2 ^ (lo + n)) + v % 2 ^ n) + x % 2 ^ lo := by
  have h := split_at_field x lo n
  rw [putBits]
  conv_lhs => arg 1; arg 1; rw [h]
  rw [Nat.mul_add, Nat.mul_add, Nat.mul_comm (bitsOf x lo n), Nat.mul_comm (v % 2 ^ n)]
  omega

theorem testBit_putBits (x lo n v i : Nat) :
    (putBits x lo n v).testBit i = if lo ≤ i ∧ i < lo + n then v.testBit (i - lo) else x.testBit i := by
  rw [putBits_eq, Nat.testBit_two_pow_mul_add _ (Nat.mod_lt _ (Nat.two_pow_pos lo)),
    Nat.testBit_two_pow_mul_add _ (Nat.mod_lt _ (Nat.two_pow_pos n)), Nat.testBit_mod_two_pow, Nat.testBit_mod_two_pow,
    Nat.testBit_div_two_pow]
  by_cases h1 : i < lo
  · simp [h1, show ¬ lo ≤ i by omega]
  · by_cases h2 : i - lo < n
    · simp [h1, h2, show lo ≤ i ∧ i < lo + n by omega]
    · simp [h1, h2, show ¬ (lo ≤ i ∧ i < lo + n) by omega, show i - lo - n + (lo + n) = i by omega]

/-- A number of `n` bits, extended from its top bit. -/
theorem getLsbD_sext64 {n x i : Nat} (hn : 0 < n) (hi : i < 64) : (sext64 n x).getLsbD i = x.testBit (min i (n - 1)) := by
  have h : sext64 n x = (BitVec.ofNat n x).signExtend 64 := by
    have hhalf : 2 * (x % 2 ^ n) < 2 ^ n ↔ x % 2 ^ n < 2 ^ (n - 1) := by
      rw [show (2 : Nat) ^ n = 2 * 2 ^ (n - 1) by rw [← Nat.pow_succ', Nat.succ_eq_add_one, Nat.sub_add_cancel hn]]
      omega
    unfold BitVec.signExtend
    rw [sext64, ofInt, signed, BitVec.toInt_eq_toNat_cond, BitVec.toNat_ofNat]
    simp only [hhalf]
    split <;> simp
  rw [h, BitVec.getLsbD_signExtend]
  by_cases hlt : i < n
  · simp [hi, hlt, show min i (n - 1) = i by omega, BitVec.getLsbD_ofNat, -BitVec.getLsbD_eq_getElem]
  · simp [hi, hlt, show min i (n - 1) = n - 1 by omega, BitVec.msb_eq_getLsbD_last, hn, BitVec.getLsbD_ofNat,
      -BitVec.getLsbD_eq_getElem]

/-! The high halves of the products. -/

section Products
variable {n : Nat} (x y : BitVec n)

theorem opMulhn_eq : opMulhn x y = (x.setWidth (2 * n) * y.setWidth (2 * n)).extractLsb' n n := by
  have hx := x.isLt
  have hy := y.isLt
  have hle : 2 ^ n ≤ 2 ^ (2 * n) := Nat.pow_le_pow_right (by decide) (by omega)
  have hmul : x.toNat * y.toNat < 2 ^ (2 * n) := by
    rw [Nat.two_mul, Nat.pow_add]
    exact Nat.mul_lt_mul'' hx hy
  apply BitVec.eq_of_toNat_eq
  simp [opMulhn, Nat.shiftRight_eq_div_pow, Nat.mod_eq_of_lt (Nat.lt_of_lt_of_le hx hle),
    Nat.mod_eq_of_lt (Nat.lt_of_lt_of_le hy hle), Nat.mod_eq_of_lt hmul]

theorem toNat_ediv_emod {N : Nat} (hN : 0 < N) (p : Int) :
    (p / N % N).toNat = (p % ((N : Int) * N)).toNat / N % N := by
  have hr := Int.emod_nonneg p (show (N : Int) ≠ 0 by omega)
  have hr' := Int.emod_lt_of_pos p (show (0 : Int) < N by omega)
  have hb := Int.emod_nonneg (p / N) (show (N : Int) ≠ 0 by omega)
  have hb' := Int.emod_lt_of_pos (p / N) (show (0 : Int) < N by omega)
  have hp : p = p % N + N * (p / N % N) + N * N * (p / N / N) := by
    rw [Int.mul_assoc, Int.add_assoc, ← Int.mul_add, Int.emod_add_mul_ediv, Int.emod_add_mul_ediv]
  generalize p / N % N = b at *
  generalize p % (N : Int) = r at *
  obtain ⟨b, rfl⟩ := Int.eq_ofNat_of_zero_le hb
  obtain ⟨r, rfl⟩ := Int.eq_ofNat_of_zero_le hr
  have hlt : r + N * b < N * N := by
    calc r + N * b < N + N * b := by omega
      _ = N * (b + 1) := by rw [Nat.mul_succ, Nat.add_comm]
      _ ≤ N * N := Nat.mul_le_mul_left N (by omega)
  rw [hp, Int.add_mul_emod_self_left, Int.emod_eq_of_lt (by positivity) (by exact_mod_cast hlt),
    show (r : Int) + N * b = ((r + N * b : Nat) : Int) by push_cast; rfl, Int.toNat_natCast, Int.toNat_natCast,
    Nat.add_mul_div_left _ _ hN, Nat.div_eq_of_lt (by omega), Nat.zero_add, Nat.mod_eq_of_lt (by omega)]

theorem opMulh_eq (hn : 0 < n) : opMulh x y = (x.signExtend (2 * n) * y.signExtend (2 * n)).extractLsb' n n := by
  have hext : ∀ z : BitVec n, (z.signExtend (2 * n)).toInt = z.toInt := fun z => BitVec.toInt_signExtend_of_le (by omega)
  have hmul : (x.signExtend (2 * n) * y.signExtend (2 * n)) = BitVec.ofInt (2 * n) (x.toInt * y.toInt) := by
    rw [← hext x, ← hext y, BitVec.ofInt_mul, BitVec.ofInt_toInt, BitVec.ofInt_toInt]
  rw [hmul, opMulh]
  apply BitVec.eq_of_toNat_eq
  simp only [BitVec.toNat_ofInt, BitVec.extractLsb'_toNat, Nat.shiftRight_eq_div_pow, Nat.two_mul, Nat.pow_add]
  push_cast
  exact toNat_ediv_emod (Nat.two_pow_pos n) _

end Products

/-! The counts of bits. -/

section Counts
variable {n : Nat} (x : BitVec n)

theorem opClz_eq {c : Nat} (hc : c ≤ n) (hzero : ∀ i < c, x.getLsbD (n - 1 - i) = false)
    (hone : c = n ∨ x.getLsbD (n - 1 - c) = true) : opClz x = BitVec.ofNat n c := by
  rw [opClz]
  rcases Nat.lt_or_eq_of_le hc with hlt | rfl
  · have hbit : x.toNat.testBit (n - 1 - c) = true := hone.resolve_left (by omega)
    have hx : x ≠ 0 := by rintro rfl; simp at hbit
    have hge : 2 ^ (n - 1 - c) ≤ x.toNat := Nat.ge_two_pow_of_testBit hbit
    have hlt' : x.toNat < 2 ^ (n - 1 - c + 1) := by
      refine Nat.lt_pow_two_of_testBit _ fun j hj => ?_
      by_cases hjn : j < n
      · have := hzero (n - 1 - j) (by omega)
        rwa [show n - 1 - (n - 1 - j) = j by omega] at this
      · exact x.getLsbD_of_ge j (by omega)
    have hlog : x.toNat.log2 = n - 1 - c := (Nat.log2_eq_iff (by omega)).2 ⟨hge, hlt'⟩
    rw [if_neg hx, hlog, show n - 1 - (n - 1 - c) = c by omega]
  · have hx : x = 0 := by
      refine BitVec.eq_of_getLsbD_eq fun i hi => ?_
      have := hzero (c - 1 - i) (by omega)
      rw [show c - 1 - (c - 1 - i) = i by omega] at this
      rw [this]
      simp
    rw [if_pos hx]

/-- The lowest set bit of `m` bits from bit `k` is the first that is set. -/
theorem lowestBit_eq {m k v c : Nat} (hc : c ≤ m) (hzero : ∀ i < c, bitOf v (k + i) = false)
    (hone : c = m ∨ bitOf v (k + c) = true) : (lowestBit m k v).getD (k + m) = k + c := by
  induction m generalizing k c with
  | zero => rw [show c = 0 by omega]; rfl
  | succ m ih =>
    rw [lowestBit]
    cases c with
    | zero => rw [if_pos (by simpa using hone)]; rfl
    | succ c =>
      have h0 : bitOf v k = false := hzero 0 (by omega)
      rw [h0, if_neg Bool.false_ne_true, show k + (m + 1) = k + 1 + m by omega, show k + (c + 1) = k + 1 + c by omega]
      refine ih (by omega) (fun i hi => ?_) (hone.imp (by omega) fun h => ?_)
      · rw [show k + 1 + i = k + (i + 1) by omega]
        exact hzero _ (by omega)
      · rw [show k + 1 + c = k + (c + 1) by omega]
        exact h

theorem opCtz_eq {c : Nat} (hc : c ≤ n) (hzero : ∀ i < c, x.getLsbD i = false) (hone : c = n ∨ x.getLsbD c = true) :
    opCtz x = BitVec.ofNat n c := by
  have h := lowestBit_eq (m := n) (k := 0) (v := x.toNat) hc
    (by simp only [Nat.zero_add, bitOf_eq_testBit]; exact hzero) (by simp only [Nat.zero_add, bitOf_eq_testBit]; exact hone)
  rw [Nat.zero_add, Nat.zero_add] at h
  rw [opCtz, h]

theorem opPopc_eq : opPopc x = BitVec.ofNat n ((List.range n).countP fun i => x.getLsbD i) := by
  rw [opPopc, setBits, List.countP_eq_length_filter]
  simp only [show bitOf x.toNat = fun i => x.getLsbD i from funext fun i => bitOf_eq_testBit ..]

end Counts

/-! The opposite orders. -/

/-- The powers that stand for the lowest `k` bits of `v`, from the top of `n` bits down. -/
def reversedBits (n v k : Nat) : Nat := (setBits k v).foldl (fun x i => x + 2 ^ (n - 1 - i)) 0

theorem reversedBits_succ (n v k : Nat) :
    reversedBits n v (k + 1) = reversedBits n v k + if bitOf v k then 2 ^ (n - 1 - k) else 0 := by
  rw [reversedBits, setBits, List.range_succ, List.filter_append, List.foldl_append]
  cases h : bitOf v k <;> simp [h, reversedBits, setBits]

theorem reversedBits_dvd (n v k : Nat) : 2 ^ (n - k) ∣ reversedBits n v k := by
  induction k with
  | zero => exact Nat.dvd_zero _
  | succ k ih =>
    rw [reversedBits_succ]
    refine Nat.dvd_add (Nat.dvd_trans (Nat.pow_dvd_pow 2 (by omega)) ih) ?_
    split
    · rw [show n - 1 - k = n - (k + 1) by omega]
    · exact Nat.dvd_zero _

theorem testBit_reversedBits {n v k i : Nat} (hk : k ≤ n) (hi : i < n) :
    (reversedBits n v k).testBit i = (decide (n - k ≤ i) && v.testBit (n - 1 - i)) := by
  induction k with
  | zero => simp [reversedBits, setBits, show ¬ n ≤ i by omega]
  | succ k ih =>
    obtain ⟨q, hq⟩ := reversedBits_dvd n v k
    have ih := ih (by omega)
    rw [reversedBits_succ]
    cases hbit : bitOf v k with
    | false =>
      rw [if_neg Bool.false_ne_true, Nat.add_zero, ih]
      by_cases hik : i = n - 1 - k
      · rw [bitOf_eq_testBit] at hbit
        simp [hik, show n - 1 - (n - 1 - k) = k by omega, hbit]
      · simp [show n - (k + 1) ≤ i ↔ n - k ≤ i by omega]
    | true =>
      rw [if_pos rfl, hq, Nat.testBit_two_pow_mul_add _ (Nat.pow_lt_pow_right (by decide) (by omega))]
      by_cases hik : i < n - k
      · rw [if_pos hik, Nat.testBit_two_pow]
        by_cases he : i = n - 1 - k
        · rw [bitOf_eq_testBit] at hbit
          simp [he, show n - 1 - (n - 1 - k) = k by omega, hbit]
          omega
        · simp [show n - 1 - k ≠ i by omega, show ¬ n - (k + 1) ≤ i by omega]
      · rw [if_neg hik]
        rw [hq, show i = i - (n - k) + (n - k) by omega, Nat.testBit_two_pow_mul] at ih
        simp only [show i - (n - k) + (n - k) = i by omega] at ih
        simpa [hik, show n - k ≤ i by omega, show n - (k + 1) ≤ i by omega] using ih

theorem getLsbD_opBrev {n i : Nat} (x : BitVec n) (hi : i < n) : (opBrev x).getLsbD i = x.getLsbD (n - 1 - i) := by
  have h := testBit_reversedBits (v := x.toNat) (Nat.le_refl n) hi
  simp only [Nat.sub_self, Nat.zero_le, decide_true, Bool.true_and] at h
  rw [opBrev, BitVec.getLsbD_ofNat, decide_eq_true hi, Bool.true_and]
  exact h

theorem testBit_leNat (l : List Byte) (i : Nat) : (leNat l).testBit i = (l.getD (i / 8) 0).getLsbD (i % 8) := by
  induction l generalizing i with
  | nil => simp [leNat]
  | cons b l ih =>
    rw [leNat, Nat.add_comm, show 256 = 2 ^ 8 from rfl, Nat.testBit_two_pow_mul_add _ b.isLt]
    by_cases hi : i < 8
    · simp [hi, Nat.div_eq_of_lt hi, Nat.mod_eq_of_lt hi]
      rfl
    · rw [if_neg hi, ih, show i / 8 = (i - 8) / 8 + 1 by omega, show i % 8 = (i - 8) % 8 by omega]
      rfl

theorem getLsbD_opBswap {m i : Nat} (x : BitVec (8 * m)) (hi : i < 8 * m) :
    (opBswap x).getLsbD i = x.getLsbD (8 * (m - 1 - i / 8) + i % 8) := by
  have hlen : i / 8 < m := by omega
  rw [opBswap, BitVec.getLsbD_ofNat, decide_eq_true hi, Bool.true_and, testBit_leNat, Nat.mul_div_cancel_left _ (by decide),
    leBytes_eq_map, List.getD_eq_getElem?_getD, List.getElem?_reverse (by simpa using hlen)]
  have hbyte : (x.toNat / 256 ^ (m - 1 - i / 8)).testBit (i % 8) = x.getLsbD (8 * (m - 1 - i / 8) + i % 8) := by
    rw [show (256 : Nat) = 2 ^ 8 from rfl, ← Nat.pow_mul, Nat.testBit_div_two_pow, Nat.add_comm]
    rfl
  simp [show m - 1 - i / 8 < m by omega, BitVec.getLsbD_ofNat, Nat.mod_lt i, hbyte, -BitVec.getLsbD_eq_getElem]

/-! The bit fields (05 R64). -/

section Fields
variable (x y z : Word) {i : Nat}

theorem fieldLo_eq : fieldLo y = (y.extractLsb' 0 6).toNat := by
  simp [fieldLo, fieldOf, bitsOf]

theorem fieldWidth_eq : fieldWidth y = min (y.extractLsb' 6 7).toNat (64 - (y.extractLsb' 0 6).toNat) := by
  rw [fieldWidth, fieldLo_eq]
  simp [fieldOf, bitsOf, Nat.shiftRight_eq_div_pow]

theorem testBit_fieldOf (lo n : Nat) : (fieldOf x lo n).testBit i = (decide (i < n) && x.getLsbD (lo + i)) :=
  testBit_bitsOf x.toNat lo n i

theorem getLsbD_opBfx (hi : i < 64) : (opBfx x y).getLsbD i =
    if i < fieldWidth y then x.getLsbD (fieldLo y + i)
    else decide (fieldWidth y ≠ 0) && x.getLsbD (fieldLo y + fieldWidth y - 1) := by
  rw [opBfx]
  by_cases h0 : fieldWidth y = 0
  · simp [h0]
  · rw [if_neg h0, getLsbD_sext64 (by omega) hi, testBit_fieldOf,
    decide_eq_true (show min i (fieldWidth y - 1) < fieldWidth y by omega)]
    by_cases hlt : i < fieldWidth y
    · rw [if_pos hlt, show min i (fieldWidth y - 1) = i by omega, Bool.true_and]
    · rw [if_neg hlt, show min i (fieldWidth y - 1) = fieldWidth y - 1 by omega, decide_eq_true h0,
        Nat.add_sub_assoc (by omega)]

theorem getLsbD_opBfxz (hi : i < 64) :
    (opBfxz x y).getLsbD i = (decide (i < fieldWidth y) && x.getLsbD (fieldLo y + i)) := by
  rw [opBfxz, word, BitVec.getLsbD_ofNat, decide_eq_true hi, Bool.true_and, testBit_fieldOf]

theorem getLsbD_opBfi (hi : i < 64) : (opBfi z x y).getLsbD i =
    if fieldLo y ≤ i ∧ i < fieldLo y + fieldWidth y then x.getLsbD (i - fieldLo y) else z.getLsbD i := by
  rw [opBfi, word, BitVec.getLsbD_ofNat, decide_eq_true hi, Bool.true_and, testBit_putBits]
  rfl

end Fields

theorem bitValues : BitValues := by
  intro n hn x y
  have hpos : 0 < n := by rcases hn with rfl | rfl <;> decide
  have hbytes : n = 8 * (n / 8) := by rcases hn with rfl | rfl <;> rfl
  refine ⟨opMulh_eq x y hpos, opMulhn_eq x y, fun c => opClz_eq x, fun c => opCtz_eq x, opPopc_eq x, fun i hi =>
    ⟨getLsbD_opBrev x hi, ?_⟩⟩
  generalize n / 8 = m at hbytes
  subst hbytes
  exact getLsbD_opBswap x hi

theorem fieldValues : FieldValues := by
  intro x y z
  dsimp only
  rw [← fieldWidth_eq, ← fieldLo_eq]
  exact fun i hi => ⟨getLsbD_opBfx x y hi, getLsbD_opBfxz x y hi, getLsbD_opBfi x y z hi⟩

/-! The members of ALU, ADDI and ADDR. -/

theorem aluTwoOperandsComplete : AluTwoOperandsComplete := by
  intro w sc b a d s ha hb
  dsimp only
  refine ⟨?_, ?_, ?_, ?_, ?_, ?_, ?_, ?_, ?_, ?_, ?_, ?_, ?_, ?_, ?_, ?_, ?_, ?_, ?_, ?_, ?_, ?_, ?_, ?_, ?_, ?_, ?_, ?_,
    ?_, ?_⟩
  all_goals exact fun h => alu2_ok ha hb h

theorem aluThreeOperandsComplete : AluThreeOperandsComplete := by
  intro b a d s ha hb hd
  refine ⟨fun h => ?_, fun h => ?_, fun h => alu3_ok ha hb hd h⟩
  · exact alu3_ok ha hb hd h
  · refine (alu3_ok ha hb hd h).trans ?_
    rw [if_pos rfl]
    by_cases hz : (srcVal s (.code d)).setWidth 32 = 0#32 <;> simp [hz]

theorem aluOneOperandComplete : AluOneOperandComplete := by
  intro w imm a d s ha
  exact ⟨fun h => alu1_ok ha h, fun h => alu1_ok ha h, fun h => alu1_ok ha h, fun h => alu1_ok ha h, fun h => alu1_ok ha h,
    fun h => alu1_ok ha h⟩

/-- Settles O1: each member is `alu1`, `alu2` or `alu3` of its function, and the functions have the bits that `bitValues` and
`fieldValues` say. -/
theorem scalarArithmeticCompletes : Obligations.ScalarArithmeticCompletes :=
  ⟨aluTwoOperandsComplete, aluThreeOperandsComplete, aluOneOperandComplete, bitValues, fieldValues⟩

end Sys2Proof.Proofs
end

section
/-! The other scalar families: predicates, transfers of control, loops, REP, system members and registers (05 R66 to R86). -/

namespace Sys2Proof.Proofs

open Sys2Proof Sys2Proof.Machine Sys2Proof.Laws

/-- Settles O2: CMP is `alu2`'s kind of step with a predicate for its destination (`cmp_writesPred`),
  KOP is `kop1` or `kop2`. -/
theorem predicatesComplete : Obligations.PredicatesComplete := by
  unfold Obligations.PredicatesComplete
  intro c b a k kb ka s
  exact ⟨fun ha hb => cmp_writesPred ha hb c k, fun ha => ⟨fun h => kop1_ok ha h, fun h => kop1_ok ha h, fun hb =>
    ⟨fun h => kop2_ok ha hb h, fun h => kop2_ok ha hb h, fun h => kop2_ok ha hb h⟩⟩⟩

/-! Transfers of control. -/

theorem sameDue_rfl (c : Ctx) : SameDue (id c) c := ⟨rfl, rfl, rfl, rfl⟩

theorem sameDue_writeDest (c : Ctx) (d : Nat) (v : Word) : SameDue (c.writeDest d v) c := by
  obtain ⟨hw, ha, hc, ht, -⟩ := writeDest_due c d v
  exact ⟨hw, ha, hc, ht⟩

/-- What is admitted and then completes, completes. -/
theorem completes_of_gate {i : Instr} {s t : State} {m : M Unit} (e : exec i s = runM (gate i >>= fun _ => m) s)
    (h : quiet s = true → m s = .ok ((), t)) : Completes i s t := by
  intro hr
  obtain ⟨ha, hq⟩ := ready_iff.1 hr
  rw [e]
  apply runM_ok
  rw [bind_passes (gate_passes ha)]
  exact h hq

theorem jumpsComplete : JumpsComplete := by
  intro off a d s
  refine ⟨completes_of_gate rfl fun hq => jumpTo_ok (f := id) hq (sameDue_rfl _) _, jal_completes s off, ?_, ?_, ?_⟩
  · exact fun hl ha hx =>
      ⟨completes_of_gate rfl fun hq => jumpReg_ok (f := id) hq hl (readSrc_passes ha) hx (sameDue_rfl _),
       completes_of_gate rfl fun hq => jumpReg_ok hq hl (readSrc_passes ha) hx (sameDue_writeDest _ _ _)⟩
  · exact fun hl ha hx => completes_of_gate rfl fun hq => jumpReg_ok (f := id) hq hl (readSrc_passes ha) hx (sameDue_rfl _)
  · exact fun e he =>
      ⟨completes_of_gate rfl fun hq => jumpReg_follower (f := id) hq he (sameDue_rfl _),
       completes_of_gate rfl fun hq => jumpReg_follower (f := id) hq he (sameDue_rfl _),
       completes_of_gate rfl fun hq => jumpReg_follower hq he (sameDue_writeDest _ _ _)⟩

theorem branch_follower {i : Instr} {off : BitVec 21} {k : BitVec 3} {b : Bool} {s : State} {e : Skew}
    (he : s.leaderEntry = some e) (h : ready i s = true) : runM (branch i off k b) s = .next (advanced s i) := by
  obtain ⟨ha, hq⟩ := ready_iff.1 h
  apply runM_ok
  unfold branch
  rw [bind_passes (gate_passes ha), bind_readS, he]
  exact retire_passes hq i

/-- A follower's place after an instruction is its leader's. -/
theorem advanced_pc_of_leaderEntry {s : State} {e : Skew} (he : s.leaderEntry = some e) (hrep : s.t.rep = none) (i : Instr) :
    (advanced s i).t.pc = e.next := by
  unfold State.leaderEntry at he
  unfold advanced State.complete State.finish
  rw [hrep]
  cases hg : s.formedGang s.t.coreid with
  | none => simp [hg] at he
  | some x =>
    obtain ⟨id, g, p⟩ := x
    rw [hg] at he
    dsimp only at he ⊢
    by_cases hp : p = 0
    · simp [hp] at he
    · rw [if_neg hp] at he
      rw [if_neg hp, he]
      rfl

theorem branchesComplete : BranchesComplete := by
  intro off k s
  refine ⟨fun hl hk => ⟨fun hne => ⟨fun h => ?_, fun h => ?_⟩, fun h0 => ⟨fun h => ?_, fun h => ?_⟩⟩, fun e he hrep =>
    ⟨branch_follower he, advanced_pc_of_leaderEntry he hrep _, branch_follower he, advanced_pc_of_leaderEntry he hrep _⟩⟩
  · exact (branch_ok h hl hk).trans (by rw [if_pos (by simpa using hne)]; rfl)
  · exact (branch_ok h hl hk).trans (by rw [if_neg (by simpa using hne)])
  · exact (branch_ok h hl hk).trans (by rw [if_pos (by simpa using h0)]; rfl)
  · exact (branch_ok h hl hk).trans (by rw [if_neg (by simpa using h0)])

/-- Settles O3: a jump that is admitted passes its checks and finishes at its target; a branch does so, or advances. -/
theorem transfersOfControlComplete : Obligations.TransfersOfControlComplete := ⟨jumpsComplete, branchesComplete⟩

/-! Loops. -/

theorem endIteration_ok {i : Instr} {l : BitVec 2} {last : Bool} {s : State} (e : exec i s = runM (endIteration i l last) s)
    (hl : s.leaderEntry = none) (hlc : s.t.lc[l.toNat]! ≠ 0) :
    let t1 := s.t.dropDeeper l.toNat
    let t2 := if last then { t1 with lc := t1.lc.set! l.toNat 1 } else t1
    let t3 := t2.advance (t2.lend[l.toNat]!)
    Completes i s (jumped s (fun t => { t with lc := t3.lc }) t3.pc) := by
  intro t1 t2 t3
  refine completes_of_gate e fun hq => ?_
  rw [bind_readS, hl]
  dsimp only
  rw [bind_readT_id, bind_require, if_pos (by simpa using hlc)]
  exact jumpTo_ok hq ⟨rfl, rfl, rfl, rfl⟩ _

theorem endIteration_follower {i : Instr} {l : BitVec 2} {last : Bool} {s : State} {e : Skew}
    (hi : exec i s = runM (endIteration i l last) s) (he : s.leaderEntry = some e) : Completes i s (jumped s id e.next) := by
  refine completes_of_gate hi fun hq => ?_
  rw [bind_readS, he]
  exact jumpTo_ok (f := id) hq (sameDue_rfl _) _

/-- Settles O4: LOOP's nesting check is the statement's hypothesis, and LBRK and LNEXT are `endIteration`. -/
theorem loopsComplete : Obligations.LoopsComplete := by
  unfold Obligations.LoopsComplete
  intro imm a l s
  refine ⟨fun e he => ⟨completes_of_gate rfl fun hq => ?_, endIteration_follower rfl he, endIteration_follower rfl he⟩,
    fun hl ha => ?_, fun hl hlc => ⟨endIteration_ok (last := false) rfl hl hlc, endIteration_ok (last := true) rfl hl hlc⟩⟩
  · rw [bind_readS, he]
    exact jumpTo_ok (f := id) hq (sameDue_rfl _) _
  · dsimp only
    intro hnest
    refine completes_of_gate rfl fun hq => ?_
    rw [bind_readS, hl]
    dsimp only
    rw [bind_passes (readSrc_passes ha), bind_readT_id, bind_require, if_pos]
    · exact jumpTo_ok hq ⟨rfl, rfl, rfl, rfl⟩ _
    · simp only [Bool.not_eq_true', List.any_eq_false, List.mem_range, Bool.and_eq_true, decide_eq_true_eq, not_and,
      Nat.not_lt]
      rintro m hm ⟨hml, hlc⟩
      exact (hnest m hml hm).resolve_left (by simpa using hlc)

/-! REP. -/

/-- Settles O5: after its checks REP reads its count, and completes the pair or arms its first repetition. -/
theorem repCompletes : Obligations.RepCompletes := by
  unfold Obligations.RepCompletes
  intro sb sa sd c s s1 p w i next plen n hchecks hread
  have hcount : ∀ f : Word → M Unit,
    (match s1.leaderEntry with | some e => pure e.decision >>= f | none => readSrc c >>= f) s1 =
      f n s1 := by
    intro f
    cases hl : s1.leaderEntry with
    | some e => simp [n, hl]
    | none => simp only [n, hl]; exact bind_passes (readSrc_passes (hread hl))
  clear_value n
  refine ⟨fun hn => completesVia_of rfl fun ha hq => ?_, fun hn hrange hports hcnt => completesVia_of rfl fun ha hq => ?_⟩
  · rw [bind_passes (gate_passes ha), bind_passes hchecks]
    dsimp only
    rw [bind_readS]
    refine (hcount _).trans ?_
    rw [bind_readT_id, if_pos hn, bind_modS]
    exact afterInstr_passes (by rw [quiet_finish (by exact ⟨rfl, rfl, rfl, rfl⟩)]; exact hq)
  · rw [bind_passes (gate_passes ha), bind_passes hchecks]
    dsimp only
    rw [bind_readS]
    refine (hcount _).trans ?_
    rw [bind_readT_id, if_neg hn, bind_passes hrange, bind_passes (gatePorts_passes hports), bind_require,
      if_pos (by simpa using hcnt)]
    rfl

/-! System members. -/

theorem quiet_haltStop (s : State) (core : Nat) : quiet (s.haltStop core) = quiet s := by
  unfold State.haltStop
  dsimp only
  split
  · rfl
  · exact quiet_of_t (triggerStop_t ..)

theorem fencesComplete : FencesComplete := by
  intro s
  refine ⟨?_, ?_, ?_, ?_, ?_, fun hen => ?_⟩
  · exact completes_of_gate rfl fun hq => retire_passes hq _
  · exact completes_of_gate rfl fun hq => retire_passes hq _
  · exact completes_of_gate rfl fun hq => retire_passes hq _
  · exact completes_of_gate rfl fun hq => retire_passes (by simpa using hq) _
  · exact completes_of_gate rfl fun hq => retire_passes (by simpa using hq) _
  · refine completes_of_gate rfl fun hq => ?_
    rw [bind_readT_id, bind_require, if_pos hen, bind_modS,
      show (advanced s .halt).t.coreid = s.t.coreid from complete_coreid ..]
    exact afterInstr_passes ((quiet_haltStop ..).trans ((quiet_complete ..).trans hq))

theorem trapAfter_ok {i : Instr} {a : Src} {c : Cause} {s : State} (ha : readable s a = true) (h : admits i s = true) :
    runM (trapAfter i a c) s = .next ((advanced s i).takeTrap c (srcVal s a) .after) := by
  apply runM_trap
  unfold trapAfter
  rw [bind_passes (gate_passes h), bind_passes (readSrc_passes ha), bind_modS]
  rfl

theorem softwareTraps : SoftwareTraps := by
  intro a s
  refine ⟨fun ha => ⟨trapAfter_ok ha, trapAfter_ok ha⟩, fun h => runM_trap ?_, fun h hen => runM_trap ?_⟩
  · rw [bind_passes (gate_passes h)]
    rfl
  · rw [bind_passes (gate_passes h), bind_readT_id, bind_require, hen]
    rfl

/-- Settles O6: NOP and the fences only retire, the software traps stand behind their completion or before it. -/
theorem systemMembersComplete : Obligations.SystemMembersComplete := ⟨fencesComplete, softwareTraps⟩

/-! The registers. -/

/-- What CSRR puts into d: in a follower of a gang, of a loop register, what its leader read. -/
def csrRead (s : State) (n : Nat) : Word :=
  match s.leaderEntry with
  | some e => if isLoopCsr n then e.dval else s.csr n
  | none => s.csr n

theorem csrRead_own {s : State} {n : Nat} (h : s.leaderEntry = none ∨ isLoopCsr n = false) : csrRead s n = s.csr n := by
  unfold csrRead
  rcases h with h | h
  · rw [h]
  · cases s.leaderEntry <;> simp [h]

theorem csrRead_leaders {s : State} {n : Nat} {e : Skew} (he : s.leaderEntry = some e) (hn : isLoopCsr n = true) :
    csrRead s n = e.dval := by
  simp [csrRead, he, hn]

theorem csrr_ok {c : BitVec 11} {d : Code} {s : State} {v : Word} (hv : csrRead s c.toNat = v) :
    let handed := if isLoopCsr c.toNat then v else 0
    Completes (.csrr c d) s ((setDest s d v).complete (Instr.csrr c d).len handed handed) := by
  subst hv
  refine completes_of_gate rfl fun hq => ?_
  refine (bind_get _ s).trans ((bind_passes (writeD_passes s d (csrRead s c.toNat))).trans ?_)
  exact retireWith_passes (by simpa using hq) _ _ _

/-- Settles O7: CSRR reads what `csrr_ok` says, and the others are `csrChange` of their function. -/
theorem csrsComplete : Obligations.CsrsComplete := by
  unfold Obligations.CsrsComplete
  intro c a d s
  refine ⟨fun h => csrr_ok (csrRead_own h), fun e he hloop => csrr_ok (csrRead_leaders he hloop), fun ha hf =>
    ⟨fun hl => ?_, fun hl => ?_, fun hl => ?_⟩⟩
  · exact completesVia_of rfl fun h1 h2 => csrChange_ok ha hf hl h1 _ rfl (by simpa using h2)
  · exact completesVia_of rfl fun h1 h2 => csrChange_ok ha hf hl h1 _ rfl (by simpa using h2)
  · exact completesVia_of rfl fun h1 h2 => csrChange_ok ha hf hl h1 _ rfl (by simpa using h2)

end Sys2Proof.Proofs
end

section
/-! The scalar accesses of memory: loads, stores, atomics, full/empty (06 R100 to R116). -/

namespace Sys2Proof.Proofs

open Sys2Proof Sys2Proof.Machine Sys2Proof.Laws

theorem loadFrom_mem {f : BitVec 3} {va : Word} {n k : Nat} {acq : Bool} {s : State} (h : s.poisoned k n = false)
    (hw : unwatched s 1 va n = true) :
    let x := if acq then s.acquire s.t.coreid else s
    Passes (loadFrom f va n acq (.mem k)) s (extendLoad f (leNat (x.loadVia s.t.coreid k n).2)) (x.loadVia s.t.coreid k n).1 := by
  intro x
  exact bind_passes (readPlain_passes h hw)

theorem loadsComplete : LoadsComplete := by
  intro imm f a d s s1 s2 p v va ha hp
  refine ⟨fun hv => completesVia_of rfl fun h1 h2 => load_ok ha hp hv h1 h2,
    fun hv => completesVia_of rfl fun h1 h2 => load_ok ha hp hv h1 h2, ?_⟩
  rintro k acq rfl hpoison hwatch
  exact loadFrom_mem hpoison hwatch

theorem storesComplete : StoresComplete := by
  intro imm f a d s s1 s2 p va n v ha hd hp
  refine ⟨fun hv => completesVia_of rfl fun h1 h2 => store_ok ha hd hp hv h1 h2,
    fun hv => completesVia_of rfl fun h1 h2 => store_ok ha hd hp hv h1 h2, ?_⟩
  rintro k i rfl hwatch
  exact writePlain_passes (by rwa [length_leBytes])

/-- Settles O8: the whole meanings are `load_ok` and `store_ok`, and of memory they read and write by `loadFrom_mem` and
`writePlain_passes`. -/
theorem loadsAndStoresComplete : Obligations.LoadsAndStoresComplete := ⟨loadsComplete, storesComplete⟩

/-! Atomics. -/

/-! A part of a meaning that is done where `p` holds. -/

section Optional
variable {β : Type} (p : Prop) [Decidable p] (f : Unit → M β) (s : State)

theorem optional_modS (g : State → State) : (if p then modS g >>= f else f ()) s = f () (if p then g s else s) := by
  split <;> rfl

theorem optional_acquire : (if p then acquire >>= f else f ()) s = f () (if p then s.acquire s.t.coreid else s) := by
  split <;> rfl

theorem optional_release : (if p then release >>= f else f ()) s = f () s := by
  split <;> rfl

/-- A check that is made where `p` holds. -/
theorem optional_passes {m : M Unit} (h : p → Passes m s () s) : (if p then m >>= f else f ()) s = f () s := by
  split
  · next hp => exact bind_passes (h hp)
  · rfl

end Optional

/-- The second operand of CAS, which the other members lack. -/
theorem casOperand_run {op : Nat} {d : Code} {cmp : Word} {s : State} (f : Word → M Unit)
    (h : if op = 9 then readable s (.code d) = true ∧ cmp = srcVal s (.code d) else cmp = 0) :
    (if op = 9 then readDest d >>= f else pure 0 >>= f) s = f cmp s := by
  by_cases hop : op = 9
  · rw [if_pos hop] at h ⊢
    rw [h.2]
    exact bind_passes (readSrc_passes h.1)
  · rw [if_neg hop] at h ⊢
    rw [h]
    rfl

theorem amo_ok {i : Instr} {op : Nat} {wide acq rel : Bool} {b a : Src} {d : Code} {cmp : Word} {s s1 : State} {k : Nat}
    (e : exec i s = runM (amo i op wide acq rel b a d) s) 
    (hcmp : if op = 9 then readable s (.code d) = true ∧ cmp = srcVal s (.code d) else cmp = 0) :
    AmoCompletes i op (if wide then 8 else 4) acq b a d cmp s s1 k := by
  intro ha hb hk hpoison hwatch t
  refine completesVia_of e fun h1 h2 => ?_
  unfold amo
  rw [bind_passes (gate_passes h1), bind_passes (readSrc_passes ha), bind_passes (readSrc_passes hb)]
  dsimp only
  rw [casOperand_run _ hcmp, optional_release, bind_passes hk, bind_passes (dataOk_passes hpoison),
    bind_passes (watch_passes hwatch), bind_readS, bind_modS, optional_modS, atHome_t, bind_modS, optional_acquire]
  exact finishWith h2

theorem amo_plain_ok {i : Instr} {op : Nat} {wide acq rel : Bool} {b a : Src} {d : Code} {s s1 : State} {k : Nat}
    (e : exec i s = runM (amo i op wide acq rel b a d) s) (hop : op ≠ 9) :
    AmoCompletes i op (if wide then 8 else 4) acq b a d 0 s s1 k :=
  amo_ok e (by rw [if_neg hop])

theorem atomicsComplete : AtomicsComplete := by
  intro w q r b a d s s1 k
  refine ⟨amo_plain_ok rfl ?_, amo_plain_ok rfl ?_, amo_plain_ok rfl ?_, amo_plain_ok rfl ?_, amo_plain_ok rfl ?_,
    amo_plain_ok rfl ?_, amo_plain_ok rfl ?_, amo_plain_ok rfl ?_, amo_plain_ok rfl ?_, fun hd => amo_ok rfl (by exact ⟨hd,
      rfl⟩),
    amo_plain_ok (wide := false) rfl ?_, amo_plain_ok (wide := false) rfl ?_⟩
  all_goals decide

/-! Full/empty accesses. -/

theorem fePerform_eq {s : State} {r : FeReq} {key : Nat} (h : r.store = true ∨ s.poisoned key r.size = false) (remote : Bool) :
    s.fePerform remote r key =
      (s.feStep remote r key).1.feDeliver remote r (s.feStep remote r key).2.1 (s.feStep remote r key).2.2 := by
  unfold State.fePerform
  rw [if_neg (by rcases h with h | h <;> simp [h])]

theorem feTry_eq {s : State} {r : FeReq} {key : Nat} (hm : feMet r.cond (s.full.contains (key / 8 * 8)) = true)
    (hd : r.store = true ∨ s.poisoned key r.size = false) (remote : Bool) :
    s.feTry remote r key =
      let s1 := (s.feStep remote r key).1.feDeliver remote r (s.feStep remote r key).2.1 (s.feStep remote r key).2.2
      some (if s1.full.contains (key / 8 * 8) != s.full.contains (key / 8 * 8) then State.feWake (key / 8 * 8) (s1.parked.length + 1) s1
        else s1) := by
  unfold State.feTry
  dsimp only
  rw [hm, ← fePerform_eq hd]
  rfl

theorem fullEmpty_ok {i : Instr} {isStore : Bool} {sz c e : BitVec 2} {a : Src} {data : M Word} {v : Word} {d : Code}
    {s s1 : State} {k : Nat} (hi : exec i s = runM (fullEmpty i isStore sz c e a data d) s) (hv : Passes data s v s) :
    FullEmptyCompletes i isStore sz c e a v d s s1 k := by
  intro ha hclass hk hpoison hphase hwatch hmet hadm
  rw [hi]
  apply runM_ok
  unfold fullEmpty
  rw [bind_passes (gate_passes hadm), bind_passes (readSrc_passes ha), bind_passes hv, bind_get]
  dsimp only
  rw [if_neg (by simpa using hclass), bind_passes hk, optional_passes, optional_passes, bind_passes (watch_passes hwatch),
    bind_modT]
  · refine (modS_passes _ _).trans (congrArg (fun x => Except.ok ((), x)) ?_)
    rw [feTry_eq hmet (hpoison.imp id id)]
    rfl
  · intro hc
    exact notInTransfer_passes (hphase.resolve_left (by simpa using hc))
  · intro hs
    exact dataOk_passes (hpoison.resolve_left (by simpa using hs))

theorem fullEmptyComplete : FullEmptyComplete := by
  intro sz c e a d x s s1 k
  exact ⟨fullEmpty_ok rfl rfl, fun hd => fullEmpty_ok rfl (readSrc_passes hd)⟩

/-- Settles O9: `amo_ok` for the members of AMO, `fullEmpty_ok` for LDX and STX. -/
theorem atomicsAndFullEmptyComplete : Obligations.AtomicsAndFullEmptyComplete := ⟨atomicsComplete, fullEmptyComplete⟩

end Sys2Proof.Proofs
end

section
/-! The machine's small statements: fixed words, reset, that every instruction answers,
  and the traps of scalar instructions. -/

namespace Sys2Proof.Proofs

open Sys2Proof Sys2Proof.Machine Sys2Proof.Laws

/-- Settles O54: the decoder reads each of the seven words. -/
theorem specWordsDecode : Obligations.SpecWordsDecode := by
  unfold Obligations.SpecWordsDecode
  decide

/-- Settles O56: the reset state lists what it holds. -/
theorem resetHasNothingAssigned : Obligations.ResetHasNothingAssigned :=
  ⟨rfl, rfl, rfl, rfl, rfl, rfl, rfl, rfl, rfl, rfl⟩

/-- Settles O57: the memory of the reset state lists nothing. -/
theorem resetKeepsInv : Obligations.ResetKeepsInv := by
  unfold Obligations.ResetKeepsInv Inv
  decide

/-! Every instruction answers (05 R87). -/

/-- The outcome is a next state. -/
def Answers (o : Host.Outcome State Fault Refusal) : Prop := ∃ t, o = .next t

theorem answers_next (s : State) : Answers (.next s) := ⟨s, rfl⟩

theorem answers_runM (m : M Unit) (s : State) : Answers (runM m s) := by
  unfold runM
  split <;> exact answers_next _

theorem answers_command (code : Nat) (f : Nat → Partition → State →
  State × Nat) (s : State) : Answers (command code f s) := by
  delta command
  exact answers_runM _ s

theorem answers_exec (i : Instr) (s : State) : Answers (exec i s) := by
  cases i
  case cfgFormatRegion | cfgDomain | cfgPoolPages | cfgMigrate | cfgRemoteFaultLog | cfgAccessLog | cfgSparseFaultQueue
      | cfgErrorLog | cfgUndoLog | cfgAuditArea | cfgReleaseQuarantine | cfgStopCluster =>
    delta exec
    dsimp only
    exact answers_command _ _ s
  all_goals
    delta exec
    dsimp only
    exact answers_runM _ s

theorem answers_mapNext {o : Host.Outcome State Fault Refusal} {f : State →
  State} (h : Answers o) : Answers (mapNext o f) := by
  obtain ⟨t, rfl⟩ := h
  exact answers_next _

theorem answers_ite {p : Prop} [Decidable p] {x y : Host.Outcome State Fault Refusal} (hx : Answers x) (hy : Answers y) :
    Answers (if p then x else y) := by
  split
  · exact hx
  · exact hy

theorem answers_runInstr (s : State) : Answers (runInstr s) := by
  unfold runInstr
  split
  · exact answers_runM _ s
  · exact answers_ite (answers_ite (answers_exec ..) (answers_exec ..)) (answers_exec ..)

theorem answers_ownTurn (notices : Bool) (s : State) : Answers (ownTurn notices s) := by
  unfold ownTurn
  refine answers_ite (answers_next _) ?_
  dsimp only
  split
  · exact answers_next _
  · exact answers_next _
  · exact answers_next _
  · exact answers_next _
  · exact answers_ite (answers_next _) (answers_exec ..)
  · split
    · exact answers_next _
    · refine answers_ite (answers_exec ..) ?_
      split
      iterate 8 exact answers_next _
      exact answers_runInstr s
  · exact answers_ite (answers_next _) (answers_ite (answers_exec ..) (answers_runInstr s))

theorem answers_gangTurn (s : State) : Answers (gangTurn s) := by
  unfold gangTurn
  split
  · refine answers_ite (answers_ownTurn ..) (answers_ite (answers_ite (answers_next _) ?_) ?_)
    · exact answers_ite (answers_exec ..) (answers_ite (answers_next _) (answers_exec ..))
    · split
      · exact answers_ite (answers_ownTurn ..) (answers_next _)
      · exact answers_next _
  · exact answers_ownTurn ..

theorem answers_chargedTurn (s : State) : Answers (chargedTurn s) := answers_mapNext (answers_gangTurn s)

theorem answers_turnOf (core : Nat) (s : State) : Answers (turnOf core chargedTurn s) :=
  answers_ite (answers_chargedTurn s) (answers_mapNext (answers_chargedTurn _))

theorem answers_memberOf (core idx : Nat) (s : State) : Answers (Machine.memberOf core idx s) := by
  unfold Machine.memberOf
  dsimp only
  split
  · exact answers_next _
  · exact answers_ite (answers_next _) (answers_mapNext (answers_ownTurn ..))

theorem answers_step {s : State} (h : s.board.on = true) : Answers (step s) := by
  unfold step
  rw [h, Bool.not_true, if_neg Bool.false_ne_true]
  split
  · exact answers_chargedTurn _
  · exact answers_exec ..
  · exact answers_turnOf ..
  · exact answers_memberOf ..

/-- Settles O52: every instruction's meaning is run by `runM`, which answers a next state,
  and a step is one of them or nothing. -/
theorem everyInstructionAnswers : Obligations.EveryInstructionAnswers := by
  refine ⟨answers_exec, fun s => ⟨answers_step, fun h => ?_⟩⟩
  unfold step
  rw [h]
  rfl

/-! ERET. -/

/-- ERET's last part: an arrival watch that is due is taken. -/
def takeArrival : M Unit := do
  match ← readT fun t => t.arriveDue with
  | some a => trapAs .watch a .after
  | none => pure ()

theorem takeArrival_none {s : State} (h : s.t.arriveDue = none) : takeArrival s = .ok ((), s) := by
  unfold takeArrival
  rw [bind_readT, h]
  rfl

theorem takeArrival_some {s : State} {a : Word} (h : s.t.arriveDue = some a) :
    takeArrival s = .error (.trap .watch a .after s) := by
  unfold takeArrival
  rw [bind_readT, h]
  rfl

/-- Settles O48: with a trap in progress ERET's checks are the statement's hypotheses,
  and without one the first of them traps. -/
theorem eretCompletes : Obligations.EretCompletes := by
  unfold Obligations.EretCompletes
  intro s h
  refine ⟨fun hin hfits => ⟨fun hnone => ?_, fun a hsome => ?_⟩, fun hout => ?_⟩
  · apply runM_ok
    rw [bind_passes (gate_passes h), bind_get, bind_require, if_pos hin, bind_require, if_pos hfits, bind_modT, bind_modS,
      optional_modS]
    exact takeArrival_none hnone
  · apply runM_trap
    rw [bind_passes (gate_passes h), bind_get, bind_require, if_pos hin, bind_require, if_pos hfits, bind_modT, bind_modS,
      optional_modS]
    exact takeArrival_some hsome
  · apply runM_trap
    rw [bind_passes (gate_passes h), bind_get, bind_require, hout]
    rfl

/-! Traps of scalar accesses and registers. -/

theorem resolve_align {va : Word} {n : Nat} {acc : Acc} {s : State} (h : va.toNat % n ≠ 0) :
    resolve va n acc s = .error (.trap .align va .before s) := by
  unfold resolve resolveAt
  rw [bind_require, if_neg (by simpa using h)]

theorem bind_trap {α β : Type} {m : M α} {f : α → M β} {s t : State} {c : Cause} {v : Word} {k : TrapClass}
    (h : m s = .error (.trap c v k t)) : (m >>= f) s = .error (.trap c v k t) := by
  simp [bind, StateT.bind, Except.bind, h]

theorem resolveMem_align {va : Word} {n : Nat} {acc : Acc} {s : State} (h : va.toNat % n ≠ 0) :
    resolveMem va n acc s = .error (.trap .align va .before s) :=
  bind_trap (resolve_align h)

theorem load_align {i : Instr} {imm : BitVec 10} {f : BitVec 3} {a : Src} {d : Code} {acq : Bool} {s : State}
    (ha : readable s a = true) (hva : (dispAddr (srcVal s a) imm f).toNat % sizeOf3 f ≠ 0) (h : admits i s = true) :
    runM (load i imm f a d acq) s = .next (s.takeTrap .align (dispAddr (srcVal s a) imm f) .before) := by
  apply runM_trap
  unfold load
  rw [bind_passes (gate_passes h), bind_passes (readSrc_passes ha)]
  exact bind_trap (resolve_align hva)

theorem store_align {i : Instr} {imm : BitVec 10} {f : BitVec 3} {a d : Src} {rel : Bool} {s : State}
    (ha : readable s a = true) (hd : readable s d = true) (hva : (dispAddr (srcVal s a) imm f).toNat % sizeOf3 f ≠ 0)
    (h : admits i s = true) :
    runM (store i imm f a d rel) s = .next (s.takeTrap .align (dispAddr (srcVal s a) imm f) .before) := by
  apply runM_trap
  unfold store
  rw [bind_passes (gate_passes h), bind_passes (readSrc_passes ha), bind_passes (readSrc_passes hd)]
  dsimp only
  rw [optional_release]
  exact bind_trap (resolve_align hva)

theorem amo_align {i : Instr} {op : Nat} {wide acq rel : Bool} {b a : Src} {d : Code} {s : State}
    (ha : readable s a = true) (hb : readable s b = true) (hd : op = 9 → readable s (.code d) = true)
    (hva : (srcVal s a).toNat % (if wide then 8 else 4) ≠ 0) (h : admits i s = true) :
    runM (amo i op wide acq rel b a d) s = .next (s.takeTrap .align (srcVal s a) .before) := by
  apply runM_trap
  unfold amo
  rw [bind_passes (gate_passes h), bind_passes (readSrc_passes ha), bind_passes (readSrc_passes hb)]
  dsimp only
  rw [casOperand_run (cmp := if op = 9 then srcVal s (.code d) else 0) _ (by split <;> simp_all), optional_release]
  exact bind_trap (resolveMem_align hva)

theorem fullEmpty_align {i : Instr} {isStore : Bool} {sz c e : BitVec 2} {a : Src} {data : M Word} {v : Word} {d : Code} {s : State}
    (ha : readable s a = true) (hv : Passes data s v s) (hva : (srcVal s a).toNat % 2 ^ sz.toNat ≠ 0) (h : admits i s = true) :
    runM (fullEmpty i isStore sz c e a data d) s = .next (s.takeTrap .align (srcVal s a) .before) := by
  apply runM_trap
  unfold fullEmpty
  rw [bind_passes (gate_passes h), bind_passes (readSrc_passes ha), bind_passes hv, bind_get]
  dsimp only
  split
  · rw [bind_require, if_neg (by simpa using hva)]
  · exact bind_trap (resolveMem_align hva)

/-- Settles O49: of each access the first check after its operands is the alignment's. -/
theorem misalignedAccessesTrap : Obligations.MisalignedAccessesTrap := by
  unfold Obligations.MisalignedAccessesTrap
  intro imm f w q r b a dv d s ha
  refine ⟨fun hva => ⟨?_, fun hd => ?_⟩, fun hb hva => ?_, fun hb hva => ?_, fun sz c e hva => ⟨?_, fun hd => ?_⟩⟩
  · simp only [List.forall_mem_cons, List.not_mem_nil, false_implies, implies_true, and_true]
    exact ⟨load_align ha hva, load_align ha hva⟩
  · simp only [List.forall_mem_cons, List.not_mem_nil, false_implies, implies_true, and_true]
    exact ⟨store_align ha hd hva, store_align ha hd hva⟩
  · intro i hi hcas h
    simp only [List.mem_cons, List.not_mem_nil, or_false] at hi
    rcases hi with rfl | rfl | rfl | rfl | rfl | rfl | rfl | rfl | rfl | rfl
    case inr.inr.inr.inr.inr.inr.inr.inr.inr => exact amo_align ha hb (fun _ => hcas rfl) hva h
    all_goals exact amo_align ha hb (fun h => absurd h (by decide)) hva h
  · simp only [List.forall_mem_cons, List.not_mem_nil, false_implies, implies_true, and_true]
    exact ⟨amo_align (wide := false) ha hb (fun h => absurd h (by decide)) hva,
      amo_align (wide := false) ha hb (fun h => absurd h (by decide)) hva⟩
  · exact fullEmpty_align ha rfl hva
  · exact fullEmpty_align ha (readSrc_passes hd) hva

theorem gateContext_illop {i : Instr} {w : Word} {s : State} (hk : s.t.kind ≠ .hart) (hf : s.hasFamily i = true)
    (hc : s.hasCsr i = false) : gateContext i w s = .error (.trap .illop w .before s) := by
  unfold gateContext
  rw [bind_get, hf, bind_decodeRequire_true, hc]
  refine bind_trap ?_
  show decodeTrap .illop w s = _
  rw [decodeTrap, if_neg hk]

theorem gateContext_perm {i : Instr} {w : Word} {s : State} (hk : s.t.kind ≠ .hart) (hf : s.hasFamily i = true)
    (hc : s.hasCsr i = true) (hw : s.mayWriteCsr i = false) : gateContext i w s = .error (.trap .perm w .before s) := by
  unfold gateContext
  rw [bind_get, hf, bind_decodeRequire_true, hc, bind_decodeRequire_true, hw]
  refine bind_trap ?_
  show decodeTrap .perm w s = _
  rw [decodeTrap, if_neg hk]

theorem gate_trap {i : Instr} {s t : State} {c : Cause} {v : Word} {k : TrapClass} {m : Unit → M Unit}
    (h : gateContext i (imageOf i) s = .error (.trap c v k t)) : runM (gate i >>= m) s = .next (t.takeTrap c v k) :=
  runM_trap (bind_trap (bind_trap h))

/-- Settles O50: a register's access fails the second check of its context, a write the third, before anything else. -/
theorem registerPrivileges : Obligations.RegisterPrivileges := by
  unfold Obligations.RegisterPrivileges
  intro c a d s hk i hi hf
  have hcsr : (∃ b, csrOf i = some (c.toNat, b) ∧ (i ≠ .csrr c d → b = true)) ∧ ∃ m, exec i s = runM (gate i >>= m) s := by
    simp only [List.mem_cons, List.not_mem_nil, or_false] at hi
    rcases hi with rfl | rfl | rfl | rfl
    · exact ⟨⟨false, rfl, fun h => absurd rfl h⟩, _, rfl⟩
    all_goals exact ⟨⟨true, rfl, fun _ => rfl⟩, _, rfl⟩
  obtain ⟨⟨b, hb, hwrites⟩, m, hexec⟩ := hcsr
  have hhas : s.hasCsr i = csrOn s.t.kind c.toNat := by
    unfold State.hasCsr
    rw [hb]
  rw [hexec]
  refine ⟨fun hoff => gate_trap (gateContext_illop hk hf (hhas.trans hoff)), fun hon hne lane hinfo => gate_trap
    (gateContext_perm hk hf (hhas.trans hon) ?_)⟩
  unfold State.mayWriteCsr
  rw [hb, hwrites hne]
  rcases hinfo with h | ⟨h, hs⟩
  · simp [h]
  · simp [h, hs]

/-! Traps of the After class. -/

theorem complete_due {s : State} (hrep : s.t.rep = none) (n : Nat) (x y : Word) :
    SameDue (s.complete n x y).t s.t ∧ (s.complete n x y).t.rep = none := by
  unfold State.complete
  rw [hrep]
  unfold State.finish
  dsimp only
  split
  · exact ⟨⟨rfl, rfl, rfl, rfl⟩, rfl⟩
  · split <;> exact ⟨⟨rfl, rfl, rfl, rfl⟩, rfl⟩

theorem afterTrap_congr {c t : Ctx} (h : SameDue c t) (hrep : c.rep = t.rep) : c.afterTrap = t.afterTrap := by
  obtain ⟨hw, ha, hs, ht⟩ := h
  unfold Ctx.afterTrap
  rw [hrep, hw, ha, hs, ht]

theorem afterInstr_due {s : State} {c : Cause} {v : Word} (h : s.t.afterTrap = some (c, v)) :
    afterInstr s = .error (.trap c v .after s) := by
  unfold afterInstr
  rw [bind_readT, h]
  rfl

theorem retire_due {s : State} {c : Cause} {v : Word} (hrep : s.t.rep = none) (h : s.t.afterTrap = some (c, v)) (i : Instr) :
    retire i s = .error (.trap c v .after (advanced s i)) := by
  obtain ⟨hdue, hr⟩ := complete_due hrep i.len 0 0
  exact afterInstr_due ((afterTrap_congr hdue (hr.trans hrep.symm)).trans h)

theorem rep_writeDest (c : Ctx) (d : Nat) (v : Word) : (c.writeDest d v).rep = c.rep := by
  unfold Ctx.writeDest
  split <;> [skip; split] <;> [skip; skip; split] <;> [skip; skip; skip; split] <;> rfl

theorem alu1_due {i : Instr} {a : Src} {d : Code} {f : Word → Word} {s : State} (ha : readable s a = true)
    (h : admits i s = true) (hrep : s.t.rep = none) {c : Cause} {v : Word} (hc : s.t.afterTrap = some (c, v)) :
    runM (alu1 i a d f) s = .next ((advanced (setDest s d (f (srcVal s a))) i).takeTrap c v .after) := by
  apply runM_trap
  unfold alu1
  rw [bind_passes (gate_passes h), bind_passes (readSrc_passes ha), bind_passes (writeD_passes ..)]
  exact retire_due ((rep_writeDest ..).trans hrep)
    ((afterTrap_congr (sameDue_writeDest s.t _ _) (rep_writeDest ..)).trans hc) i

/-- Settles O51: what is due after ADDI is due to the context that has completed it (`retire_due`). -/
theorem trapsAfterCompletion : Obligations.TrapsAfterCompletion := by
  unfold Obligations.TrapsAfterCompletion
  intro imm a d s ha hrep i t hadm
  have hdue : ∀ c v, s.t.afterTrap = some (c, v) → exec i s = .next (t.takeTrap c v .after) :=
    fun c v hc => alu1_due ha hadm hrep hc
  refine ⟨fun n va hw => hdue _ _ ?_, fun va hw harr => hdue _ _ ?_, fun hw harr hss htip => hdue _ _ ?_⟩
  · simp [Ctx.afterTrap, hrep, hw]
  · simp [Ctx.afterTrap, hrep, hw, harr]
  · simp [Ctx.afterTrap, hrep, hw, harr, hss, htip]

end Sys2Proof.Proofs
end

section
/-! The home of a physical address (19 R322), the step of a running thread (04 R48, R49),
  and the frame of the register forms. -/

namespace Sys2Proof.Proofs

open Sys2Proof Sys2Proof.Machine Sys2Proof.Laws

/-! Numbers put together from bits. -/

/-- The number whose bits below `n` are those that `f` has. -/
def numberOf (n : Nat) (f : Nat → Bool) : Nat := ((List.range n).filter f).foldl (fun h i => h + 2 ^ i) 0

theorem numberOf_succ (n : Nat) (f : Nat → Bool) : numberOf (n + 1) f = numberOf n f + if f n then 2 ^ n else 0 := by
  rw [numberOf, List.range_succ, List.filter_append, List.foldl_append]
  cases h : f n <;> simp [h, numberOf]

theorem numberOf_lt (n : Nat) (f : Nat → Bool) : numberOf n f < 2 ^ n := by
  induction n with
  | zero => exact Nat.one_pos
  | succ n ih =>
    rw [numberOf_succ, Nat.pow_succ]
    split <;> omega

theorem testBit_numberOf (n i : Nat) (f : Nat → Bool) : (numberOf n f).testBit i = (decide (i < n) && f i) := by
  induction n with
  | zero => simp [numberOf]
  | succ n ih =>
    have hadd := Nat.testBit_two_pow_mul_add (if f n then 1 else 0) (numberOf_lt n f) i
    rw [mul_ite, Nat.mul_one, Nat.mul_zero, Nat.add_comm] at hadd
    rw [numberOf_succ, hadd, ih]
    rcases Nat.lt_trichotomy i n with hlt | rfl | hgt
    · simp [hlt, Nat.lt_succ_of_lt hlt]
    · cases f i <;> simp
    · have h1 : Nat.testBit 1 (i - n) = false := Nat.testBit_lt_two_pow (Nat.one_lt_two_pow (by omega))
      cases h : f n <;> simp [show ¬ i < n by omega, show ¬ i < n + 1 by omega, h1]

/-- A number's parity is that of its bits. -/
theorem parity_eq (n x : Nat) : parity n x = decide (((List.range n).filter x.testBit).length % 2 = 1) := by
  induction n generalizing x with
  | zero => rfl
  | succ n ih =>
    rw [parity, ih, List.range_succ_eq_map, List.filter_cons, List.filter_map, Nat.testBit_zero]
    have hcomp : x.testBit ∘ Nat.succ = (x / 2).testBit := by
      funext i
      exact Nat.testBit_succ x i
    rw [hcomp]
    rcases Nat.mod_two_eq_zero_or_one x with hx | hx
    · simp [hx]
    · simp only [hx, beq_self_eq_true, decide_true, if_true, List.length_cons, List.length_map, Bool.true_xor]
      rw [← decide_not, decide_eq_decide]
      omega

theorem homeIndex_eq (x : Partition) (pa : Nat) :
    x.homeIndex pa = numberOf 10 fun i => parity 43 (bitsOf pa 9 43 &&& (x.masks.getD i 0).toNat) := rfl

theorem homeIndex_bit (x : Partition) (pa i : Nat) (hi : i < 10) : bitOf (x.homeIndex pa) i =
    decide (((List.range 43).filter fun j => bitOf (pa / 512) j && (x.masks.getD i 0).getLsbD j).length % 2 = 1) := by
  rw [bitOf_eq_testBit, homeIndex_eq, testBit_numberOf, decide_eq_true hi, Bool.true_and, parity_eq]
  congr 4
  refine List.filter_congr fun j hj => ?_
  rw [Nat.testBit_and, testBit_bitsOf, decide_eq_true (List.mem_range.1 hj), Bool.true_and, bitOf_eq_testBit, Nat.add_comm,
    ← Nat.testBit_div_two_pow]
  rfl

theorem tablePartition_owns {s : State} {a : List Byte} (key pa : Nat) (h : s.tableOk a = true) :
    (tablePartition a key).clusters.contains ((tablePartition a key).homeSlice pa) = true := by
  have hlt : (tablePartition a key).homeIndex pa < 1024 := numberOf_lt 10 _
  simp only [State.tableOk, Bool.and_eq_true] at h
  obtain ⟨⟨⟨⟨-, hmap⟩, -⟩, -⟩, -⟩ := h
  have hentry := List.all_eq_true.1 hmap _ (List.mem_range.2 hlt)
  unfold Partition.homeSlice
  generalize (tablePartition a key).homeIndex pa = h at hlt hentry
  simpa [tablePartition, List.getD_eq_getElem?_getD, hlt] using hentry

/-- Settles O34: the index is put together from the parities (`homeIndex_bit`), which do not see the place within a line. -/
theorem eachLineHasOneHome : Obligations.EachLineHasOneHome := by
  unfold Obligations.EachLineHasOneHome
  intro s a key pa pb x ones
  refine ⟨fun i hi => homeIndex_bit x pa i hi, rfl, tablePartition_owns key pa, fun hline => ?_⟩
  have hbits : bitsOf pa 9 43 = bitsOf pb 9 43 := by
    rw [bitsOf, bitsOf, show (2 : Nat) ^ 9 = 512 from rfl, hline]
  unfold Partition.homeSlice Partition.homeIndex
  rw [hbits]

/-! The step of a running thread. -/

theorem newCode_alone {s : State} (h : s.gangOf s.t.coreid = none) : s.newCode = s := by
  unfold State.newCode
  rw [h]

theorem counter_alone {s : State} (h : s.gangOf s.t.coreid = none) : s.counter = s.t := by
  simp [State.counter, State.leaderOf, h, State.ctx]

theorem spent_alone {s : State} (h : s.gangOf s.t.coreid = none)
    (hb : (s.counted s.t.coreid && !s.isSup s.t.coreid) = false ∨ s.t.budget ≠ 0) : s.spent = false := by
  have hlead : s.leaderOf s.t.coreid = s.t.coreid := by simp [State.leaderOf, h]
  unfold State.spent
  rw [counter_alone h, hlead, h]
  rcases hb with hb | hb
  · simp [hb]
  · simp only [Bool.and_eq_false_iff, beq_eq_false_iff_ne]
    exact .inl (.inr hb)

/-- How the literal behind a word is fetched: behind a REP, after its checks. -/
def LiteralFetched (w l : Nat) (pc : Word) (s1 s2 : State) : Instr → Prop
  | .rep sb sa sd _ => (litBytes w = 0 ∧ s2 = s1) ∨ ∃ p s3, litBytes w ≠ 0 ∧
      Passes (repChecks (stride sd) (stride sa) (stride sb) (word w) (4 + litBytes w)) s1 p s3 ∧
      Passes (fetchLit (litBytes w / 2) (pc + 4)) s3 l s2
  | _ => Passes (fetchLit (litBytes w / 2) (pc + 4)) s1 l s2

theorem LiteralFetched.other {w l : Nat} {pc : Word} {s1 s2 : State} {i : Instr} (h : LiteralFetched w l pc s1 s2 i)
    (hi : ∀ sb sa sd c, i = .rep sb sa sd c → False) : Passes (fetchLit (litBytes w / 2) (pc + 4)) s1 l s2 := by
  unfold LiteralFetched at h
  split at h
  · next sb sa sd c => exact (hi sb sa sd c rfl).elim
  · exact h

theorem LiteralFetched.none {w l : Nat} {pc : Word} {s1 s2 : State} {i : Instr} (h : LiteralFetched w l pc s1 s2 i)
    (h0 : litBytes w = 0) : s2 = s1 := by
  unfold LiteralFetched at h
  split at h
  · rcases h with ⟨_, h⟩ | ⟨_, _, hne, _⟩
    · exact h
    · exact absurd h0 hne
  · rw [h0] at h
    injection h with h
    injection h with _ h
    exact h.symm

/-- A fetch that passes: the first halfwords, the gate, and the literal behind the checks of a REP's partner. -/
theorem fetchInstr_passes {s s1 s2 : State} {i i0 : Instr} {w l : Nat} (hgang : s.gangOf s.t.coreid = none)
    (hhead : Passes (fetchHead s.t.pc) s w s1) (hwatch : unwatched s1 4 s.t.pc 2 = true) (hdec : decodeWord w 0 = .ok i0)
    (hadm : admits i0 s1 = true)
    (hlit : LiteralFetched w l s.t.pc s1 s2 i0)
    (hi : if litBytes w = 0 then i = i0 else decodeWord w (word l) = .ok i) : Passes fetchInstr s i s2 := by
  unfold Passes fetchInstr
  rw [bind_modS, newCode_alone hgang, bind_readT, bind_passes hhead, bind_passes (watch_passes hwatch), hdec]
  dsimp only
  rw [bind_passes (gate_passes hadm)]
  by_cases h0 : litBytes w = 0
  · rw [if_pos h0] at hi ⊢
    rw [hlit.none h0, hi]
    rfl
  · rw [if_neg h0] at hi ⊢
    have hend : ∀ s3 : State, Passes (fetchLit (litBytes w / 2) (s.t.pc + 4)) s3 l s2 →
      (fetchLit (litBytes w / 2) (s.t.pc + 4) >>=
        fun x => match decodeWord w (word x) with | .ok j => pure j | .error _ => decodeTrap .illop (word w)) s3 = .ok (i,
          s2) := by
      intro s3 h
      rw [bind_passes h, hi]
      rfl
    split
    · rcases hlit with ⟨h, _⟩ | ⟨p, s3, _, hchecks, hfetch⟩
      · exact absurd h h0
      · rw [bind_passes hchecks]
        exact hend s3 hfetch
    · next hother => exact hend s1 (hlit.other hother)

/-- Settles O53. -/
theorem stepRunsDecodedInstruction : Obligations.StepRunsDecodedInstruction := by
  unfold Obligations.StepRunsDecodedInstruction
  intro u s s1 s2 i i0 w l hon hagenda hs hgang hyield hmode hlate hremote hrep hhead hwatch hdec hadm hlit hi hbudget
  have hnext : nextInstr s = .ok (i, s2) := by
    unfold nextInstr
    rw [bind_readT, hrep]
    exact fetchInstr_passes hgang hhead hwatch hdec hadm hlit hi
  have hrun : runInstr s = exec i s2 := by
    unfold runInstr
    rw [hnext]
    simp [spent_alone hgang hbudget]
  have hturn : gangTurn s = exec i s2 := by
    unfold gangTurn ownTurn
    rw [hgang, hyield, hmode, hlate, hremote, ← hrun]
    rfl
  have hpick : u.pick = none := by
    simp [State.pick, hagenda, leastTurn]
  unfold step
  rw [hon, hpick, ← hs]
  unfold chargedTurn
  rw [← hturn]
  rfl

/-! What the register forms leave as it was (05 R58 to R67, R74, R78). -/

/-- The contexts agree but in what the completion of an instruction changes. -/
def Moved (c t : Ctx) : Prop :=
  c = { t with
    lc := c.lc, pc := c.pc, mode := c.mode, rep := c.rep, repcnt := c.repcnt, issued := c.issued, watchMet := c.watchMet
    eoPrev := c.eoPrev, woPrev := c.woPrev, eoMark := c.eoMark, woMark := c.woMark, eoOld := c.eoOld, woOld := c.woOld }

theorem Moved.trans {a b c : Ctx} (h : Moved a b) (h' : Moved b c) : Moved a c := by
  unfold Moved at *
  rw [h'] at h
  exact h

theorem moved_done (c : Ctx) : Moved c.done c := rfl
theorem moved_portsOn (c : Ctx) : Moved c.portsOn c := rfl
theorem moved_advance (c : Ctx) (nx : Word) : Moved (c.advance nx) c := rfl

theorem moved_finish {s : State} {c : Ctx} (h : Moved c s.t) (x y : Word) : Moved (s.finish c x y).t s.t := by
  unfold State.finish
  dsimp only
  split
  · exact (moved_done c).trans h
  · split
    · exact (moved_portsOn _).trans ((moved_done c).trans h)
    · exact (moved_portsOn _).trans ((moved_done _).trans (Moved.trans (b := c) rfl h))

theorem moved_complete (s : State) (n : Nat) (x y : Word) : Moved (s.complete n x y).t s.t := by
  unfold State.complete
  split
  · split
    · exact rfl
    · exact moved_finish (Moved.trans (b := { s.t with repcnt := 0 }) (moved_advance _ _) rfl) _ y
  · exact moved_finish (moved_advance _ _) x y

theorem finish_alone {s : State} (h : s.formedGang s.t.coreid = none) (c : Ctx) (x y : Word) :
    s.finish c x y = { s with t := c.done } := by
  unfold State.finish
  dsimp only
  rw [h]

theorem complete_alone {s : State} (h : s.formedGang s.t.coreid = none) (n : Nat) (x y : Word) :
    (s.complete n x y).gangs = s.gangs := by
  unfold State.complete
  split
  · split
    · rfl
    · rw [finish_alone h]
  · rw [finish_alone h]

theorem complete_repcnt {s : State} (h : s.t.rep = none) (n : Nat) (x y : Word) :
    (s.complete n x y).t.repcnt = s.t.repcnt := by
  unfold State.complete
  rw [h]
  unfold State.finish
  dsimp only
  split
  · rfl
  · split <;> rfl

/-- What the statement says of the state after a register form. -/
def FormFrame (s t : State) (d : Option Code) (k : Option (BitVec 3)) : Prop :=
  t = { s with t := t.t, gangs := t.gangs } ∧ (s.formedGang s.t.coreid = none → t.gangs = s.gangs) ∧
  (∀ n, n < 32 → (∀ c, d = some c → n ≠ c.toNat ∨ n = 0) → t.t.s[n]! = s.t.s[n]!) ∧
  (∀ n, n < 8 → (∀ c, k = some c → n ≠ c.toNat ∨ n = 0) → t.t.k[n]! = s.t.k[n]!) ∧
  (d ≠ some 49 → t.t.eo = s.t.eo) ∧ (d ≠ some 51 → t.t.wo = s.t.wo) ∧
  (s.t.rep = none → t.t.rep = none ∧ t.t.repcnt = s.t.repcnt) ∧
  t.t = { s.t with
    s := t.t.s, k := t.t.k, badRegs := t.t.badRegs, eo := t.t.eo, eoPrev := t.t.eoPrev, eoOld := t.t.eoOld,
      eoMark := t.t.eoMark
    wo := t.t.wo, woPrev := t.t.woPrev, woOld := t.t.woOld, woMark := t.t.woMark
    lc := t.t.lc, pc := t.t.pc, mode := t.t.mode, rep := t.t.rep
    repcnt := t.t.repcnt, issued := t.t.issued, watchMet := t.t.watchMet } ∧
  ∀ a, t.mem.read a = s.mem.read a

theorem formFrame_refl (s : State) : FormFrame s s none none :=
  ⟨rfl, fun _ => rfl, fun _ _ _ => rfl, fun _ _ _ => rfl, fun _ => rfl, fun _ => rfl, fun h => ⟨h, rfl⟩, rfl, fun _ => rfl⟩

/-- A scalar destination is a register, `eo` or `wo`, or nothing. -/
theorem writeDest_cases (c : Ctx) (d : Nat) (v : Word) :
    c.writeDest d v = c ∨ (0 < d ∧ d < 32 ∧ c.writeDest d v = { c with s := c.s.set! d v, badRegs := setDrop c.badRegs d }) ∨
    (d = 49 ∧ c.writeDest d v = { c with eoPrev := c.eoLast, eoOld := c.eoBefore, eoMark := true, eo := v }) ∨
    (d = 51 ∧ c.writeDest d v = { c with woPrev := c.woLast, woOld := c.woBefore, woMark := true, wo := v }) := by
  unfold Ctx.writeDest
  by_cases h0 : d = 0
  · exact .inl (if_pos h0)
  by_cases h32 : d < 32
  · exact .inr (.inl ⟨by omega, h32, by rw [if_neg h0, if_pos h32]⟩)
  by_cases h49 : d = 49
  · exact .inr (.inr (.inl ⟨h49, by rw [if_neg h0, if_neg h32, if_pos h49]⟩))
  by_cases h51 : d = 51
  · exact .inr (.inr (.inr ⟨h51, by rw [if_neg h0, if_neg h32, if_neg h49, if_pos h51]⟩))
  · exact .inl (by rw [if_neg h0, if_neg h32, if_neg h49, if_neg h51])

theorem getElem!_set!_ne {α : Type} [Inhabited α] {m : Nat} (xs : Vector α m) {i j : Nat} (h : j ≠ i) (v : α) :
    (xs.set! i v)[j]! = xs[j]! := by
  by_cases hj : j < m
  · rw [getElem!_pos (xs.set! i v) j hj, getElem!_pos xs j hj, Vector.getElem_set!_ne (by omega) (Ne.symm h)]
  · rw [getElem!_neg (xs.set! i v) j hj, getElem!_neg xs j hj]

theorem formFrame_setDest (s : State) (d : Code) (v : Word) : FormFrame s (setDest s d v) (some d) none := by
  unfold setDest
  rcases writeDest_cases s.t d.toNat v with h | ⟨h0, h32, h⟩ | ⟨hd, h⟩ | ⟨hd, h⟩ <;> rw [h]
  · exact ⟨rfl, fun _ => rfl, fun _ _ _ => rfl, fun _ _ _ => rfl, fun _ => rfl, fun _ => rfl, fun h => ⟨h, rfl⟩, rfl,
    fun _ => rfl⟩
  · refine ⟨rfl, fun _ => rfl, fun n _ hn => ?_, fun _ _ _ => rfl, fun _ => rfl, fun _ => rfl, fun h => ⟨h, rfl⟩, rfl,
    fun _ => rfl⟩
    exact getElem!_set!_ne _ (by have := hn d rfl; omega) _
  · exact ⟨rfl, fun _ => rfl, fun _ _ _ => rfl, fun _ _ _ => rfl,
    fun hne => absurd (congrArg some (BitVec.eq_of_toNat_eq hd)) hne,
      fun _ => rfl, fun h => ⟨h, rfl⟩, rfl, fun _ => rfl⟩
  · exact ⟨rfl, fun _ => rfl, fun _ _ _ => rfl, fun _ _ _ => rfl, fun _ => rfl,
      fun hne => absurd (congrArg some (BitVec.eq_of_toNat_eq hd)) hne, fun h => ⟨h, rfl⟩, rfl, fun _ => rfl⟩

theorem formFrame_setPred (s : State) (k : BitVec 3) (v : Word) : FormFrame s (setPred s k v) none (some k) := by
  unfold setPred Ctx.writeK
  split
  · exact ⟨rfl, fun _ => rfl, fun _ _ _ => rfl, fun _ _ _ => rfl, fun _ => rfl, fun _ => rfl, fun h => ⟨h, rfl⟩, rfl,
    fun _ => rfl⟩
  · next h0 =>
    refine ⟨rfl, fun _ => rfl, fun _ _ _ => rfl, fun n _ hn => ?_, fun _ => rfl, fun _ => rfl, fun h => ⟨h, rfl⟩, rfl,
      fun _ => rfl⟩
    exact getElem!_set!_ne _ (by have := hn k rfl; omega) _

theorem formFrame_advanced {s u : State} {d : Option Code} {k : Option (BitVec 3)} (hg : u.gangs = s.gangs)
    (h : FormFrame s u d k) (i : Instr) : FormFrame s (advanced u i) d k := by
  obtain ⟨hu, -, hs, hk, heo, hwo, hrep, ht, hmem⟩ := h
  have hcore : u.t.coreid = s.t.coreid := by rw [ht]
  have hfg : u.formedGang u.t.coreid = s.formedGang s.t.coreid := by
    rw [hcore]
    unfold State.formedGang State.gangOf
    rw [hg]
  obtain ⟨c, g, hshape⟩ := complete_shape u i.len 0 0
  have hctx := moved_complete u i.len 0 0
  unfold advanced
  refine ⟨?_, fun hnone => (complete_alone (hfg.trans hnone) ..).trans hg, fun n hn hd => ?_, fun n hn hd => ?_, fun hd => ?_,
    fun hd => ?_, fun hr => ?_, ?_, fun a => ?_⟩
  · rw [hshape, hu]
  · rw [hctx]; exact hs n hn hd
  · rw [hctx]; exact hk n hn hd
  · rw [hctx]; exact heo hd
  · rw [hctx]; exact hwo hd
  · obtain ⟨hr1, hr2⟩ := hrep hr
    exact ⟨(complete_due hr1 ..).2, (complete_repcnt hr1 ..).trans hr2⟩
  · rw [hctx, ht]
  · rw [complete_mem]; exact hmem a

/-- Settles O59: each form writes its destination and retires, and both keep the rest (`formFrame_setDest`,
  `formFrame_setPred`,
`formFrame_advanced`). -/
theorem registerFormsChangeOnlyTheirDestination : Obligations.RegisterFormsChangeOnlyTheirDestination := by
  unfold Obligations.RegisterFormsChangeOnlyTheirDestination
  intro i srcs preds d k s hform hr hsrcs hpreds
  change ∃ t, exec i s = .next t ∧ FormFrame s t d k
  have hkey : ∀ {p}, registerForm i = some p → p = (srcs, preds, d, k) := fun h => Option.some.inj (h.symm.trans hform)
  have hdest : ∀ {l p c}, registerForm i = some (l, p, some c, none) →
      (l.all (readable s) = true → ∃ v, exec i s = .next (advanced (setDest s c v) i)) → ∃ t, exec i s = .next t ∧
        FormFrame s t d k := by
    intro l p c h he
    obtain ⟨rfl, rfl, rfl, rfl⟩ := hkey h
    obtain ⟨v, he⟩ := he hsrcs
    exact ⟨_, he, formFrame_advanced (s := s) (u := setDest s c v) rfl (formFrame_setDest s c v) i⟩
  have hpred : ∀ {l p c}, registerForm i = some (l, p, none, some c) →
      (l.all (readable s) = true → p.all (fun k => regReadable s (64 + k.toNat)) = true →
        ∃ v, exec i s = .next (advanced (setPred s c v) i)) → ∃ t, exec i s = .next t ∧ FormFrame s t d k := by
    intro l p c h he
    obtain ⟨rfl, rfl, rfl, rfl⟩ := hkey h
    obtain ⟨v, he⟩ := he hsrcs hpreds
    exact ⟨_, he, formFrame_advanced (s := s) (u := setPred s c v) rfl (formFrame_setPred s c v) i⟩
  have hnone : registerForm i = some ([], [], none, none) → exec i s = .next (advanced s i) →
      ∃ t, exec i s = .next t ∧ FormFrame s t d k := by
    intro h he
    obtain ⟨rfl, rfl, rfl, rfl⟩ := hkey h
    exact ⟨_, he, formFrame_advanced rfl (formFrame_refl s) i⟩
  cases i with
  | add _ b a d' | sub _ b a d' | and _ b a d' | or _ b a d' | xor _ b a d' | andn _ b a d' | orn _ b a d' | shl _ b a d'
  | shr _ b a d' | sra _ b a d' | rol _ b a d' | ror _ b a d' | mul _ b a d' | mulh _ b a d' | mulhn _ b a d' | div _ b a d'
  | divn _ b a d' | rem _ b a d' | remn _ b a d' | min _ b a d' | max _ b a d' | minn _ b a d' | maxn _ b a d' | slt _ b a d'
  | sltn _ b a d' | seq _ b a d' | sne _ b a d' | lea _ b a d' | bfx b a d' | bfxz b a d' =>
    refine hdest rfl fun h => ?_
    simp only [List.all_cons, List.all_nil, Bool.and_true, Bool.and_eq_true] at h
    obtain ⟨ha, hb⟩ := h
    exact ⟨_, alu2_ok ha hb hr⟩
  | sel _ b a d' | bfi b a d' =>
    refine hdest rfl fun h => ?_
    simp only [List.all_cons, List.all_nil, Bool.and_true, Bool.and_eq_true] at h
    obtain ⟨ha, hb, hd⟩ := h
    exact ⟨_, alu3_ok ha hb hd hr⟩
  | clz _ a d' | ctz _ a d' | popc _ a d' | brev _ a d' | bswap _ a d' | addi _ a d' =>
    refine hdest rfl fun h => ?_
    simp only [List.all_cons, List.all_nil, Bool.and_true] at h
    exact ⟨_, alu1_ok h hr⟩
  | cmp c b a k' =>
    refine hpred rfl fun h _ => ?_
    simp only [List.all_cons, List.all_nil, Bool.and_true, Bool.and_eq_true] at h
    obtain ⟨ha, hb⟩ := h
    exact ⟨_, cmp_writesPred ha hb c k' hr⟩
  | kand b a k' | kor b a k' | kxor b a k' =>
    refine hpred rfl fun _ h => ?_
    simp only [List.all_cons, List.all_nil, Bool.and_true, Bool.and_eq_true] at h
    obtain ⟨ha, hb⟩ := h
    exact ⟨_, kop2_ok ha hb hr⟩
  | knot a k' | kmov a k' =>
    refine hpred rfl fun _ h => ?_
    simp only [List.all_cons, List.all_nil, Bool.and_true] at h
    exact ⟨_, kop1_ok h hr⟩
  | nop | ifence =>
    exact hnone rfl (completes_of_gate (m := retire _) rfl (fun hq => retire_passes hq _) hr)
  | _ => exact absurd hform.symm (Option.some_ne_none _)

end Sys2Proof.Proofs
end

section
/-! Vector members: the whole meanings of the element-wise members, without a shape and over one (07 R121 to R138). -/

namespace Sys2Proof.Proofs

open Sys2Proof Sys2Proof.Machine Sys2Proof.Laws

/-! What the vector members share. -/

theorem whole_ok {m : M Unit} {s t : State} (h : m s = .ok ((), t)) : whole m s = .ok ((), t) := by
  unfold whole
  rw [h]

/-- A member of the vector families: the gate, then a meaning whose traps leave the state. -/
theorem completesVia_whole {i : Instr} {s s1 t : State} {m : M Unit} (e : exec i s = runM (gate i >>= fun _ => whole m) s)
    (h : quiet s1 = true → m s = .ok ((), t)) : CompletesVia i s s1 t := by
  intro ha hq
  rw [e]
  apply runM_ok
  rw [bind_passes (gate_passes ha)]
  exact whole_ok (h hq)

theorem typeFor_passes {i : Instr} {c : Accepts} {t : Nat} (h : c.ok t = true) (s : State) :
    Passes (typeFor i c t) s (workType t) s := by
  unfold Passes typeFor
  rw [bind_require, if_pos h]
  rfl

theorem raiseFlags_passes {s : State} {fl : Nat} (h : enabledFlags s.t.vround fl = 0) :
    Passes (raiseFlags fl) s () (flagged s fl) := by
  unfold Passes raiseFlags
  rw [bind_modT, bind_readT_id]
  dsimp only
  rw [h]
  rfl

@[simp] theorem quiet_flagged (s : State) (fl : Nat) : quiet (flagged s fl) = quiet s := rfl

/-! Element-wise members without a shape. -/

theorem lanes_passes {i : Instr} {acc : Accepts} {a : Src} {b : Option Src} {d : Code} {useD : Bool} {f : ElemFn}
    {s s1 s2 s3 : State} {rd : List (Nat × Nat)} {xs ys zs : List Nat} (hacc : acc.ok s.t.elemType = true)
    (hread : Passes (laneSources i (typeBits (workType s.t.elemType)) (s.t.actives (typeBits (workType s.t.elemType))) a b d useD)
      s (rd, xs, ys, zs) s1)
    (hfl : enabledFlags s1.t.vround (flagsOf (s.t.actives (typeBits (workType s.t.elemType)))
      (map3 (f (workType s.t.elemType) s.t.rounding) xs ys zs)) = 0)
    (hwrite : Passes (writeVec d (typeBits (workType s.t.elemType)) rd (s.t.actives (typeBits (workType s.t.elemType)))
      ((map3 (f (workType s.t.elemType) s.t.rounding) xs ys zs).map (·.1)))
      (flagged s1 (flagsOf (s.t.actives (typeBits (workType s.t.elemType)))
        (map3 (f (workType s.t.elemType) s.t.rounding) xs ys zs))) () s2)
    (hmove : Passes (moveFields (srcHandle a) (b.bind srcHandle) (handleOf d) 64 64 64) s2 () s3) :
    Passes (lanes i acc a b d useD f) s () s3 := by
  unfold Passes lanes
  rw [bind_readT_id, bind_passes (typeFor_passes hacc s)]
  dsimp only
  rw [bind_passes hread]
  dsimp only
  rw [bind_passes (raiseFlags_passes hfl), bind_passes hwrite]
  exact hmove

theorem cForm_eq (i : Instr) (acc : Accepts) (x y : Src) (vd : BitVec 5) (useD : Bool) (f : ElemFn) :
    cForm i acc x y vd useD f = vecOp i 0 acc x (some y) (vd.setWidth 6) useD f := by
  unfold cForm vecOp
  rw [if_pos rfl]

/-- Every element-wise member is `vecOp` of what it is. -/
theorem exec_member {i : Instr} {m : Member} (h : memberOfInstr i = some m) (s : State) :
    exec i s = runM (vecOp i m.q m.acc m.a m.b m.d m.useD m.f) s := by
  cases i
  case vadd | vsub | vmul | vfma | vfms | vnfma | vmin | vmax | vabs | vneg | vand | vor | vxor | vshl | vshr | vsra | vmov | vmulh
      | vclz | vpopc | vadds | vsubs | vrndi | vscale | vgetexp | vexp2 | vlog2 | vrcp | vrsq | vsqrt | vsinpi | vcospi =>
    obtain rfl := Option.some.inj h
    rfl
  case cVadd | cVsub | cVmul | cVmin | cVmax | cVand | cVor | cVxor | cVshl | cVshr | cVsra | cVmac | cVmov | cVneg | cVabs =>
    obtain rfl := Option.some.inj h
    exact congrArg (fun m => runM m s) (cForm_eq ..)
  all_goals exact absurd h.symm (Option.some_ne_none _)

theorem exec_unshaped {i : Instr} {m : Member} (h : memberOfInstr i = some m) (hq : m.q = 0) (s : State) :
    exec i s = runM (gate i >>= fun _ => whole (lanes i m.acc m.a m.b m.d m.useD m.f >>= fun _ => retire i)) s := by
  rw [exec_member h, vecOp, if_pos hq]

theorem elementwiseComplete : ElementwiseComplete := by
  intro i m s s1 s2 s3 rd xs ys zs hm hq hacc ty w on rs fl hread hfl hwrite hmove
  refine completesVia_whole (exec_unshaped hm hq s) fun hquiet => ?_
  rw [bind_passes (lanes_passes hacc hread hfl hwrite hmove)]
  exact retire_passes hquiet i

/-! Element-wise members over a shape. -/

theorem quiet_with_t {s : State} {c : Ctx} (h : SameDue c s.t) : quiet { s with t := c } = quiet s := by
  obtain ⟨hw, ha, hs, ht⟩ := h
  simp only [quiet, hw, ha, hs, ht]

/-- What the meaning of a shaped instruction must be: after its gate it takes a step. -/
def IsShaped (i : Instr) (q : BitVec 3) (z : Nat) (a : Tensor) (b : Option Tensor) (d : Tensor) (useD : Bool)
    (f : Nat → Nat → Nat → Nat → Nat × Nat) (fin : Ctx → Ctx) (s : State) : Prop :=
  ∃ m, exec i s = runM (gate i >>= fun _ => whole m) s ∧ m s = shapedStep i q z a b d useD f fin s

section Shaped
variable {i : Instr} {q : BitVec 3} {z : Nat} {a : Tensor} {b : Option Tensor} {d : Tensor} {useD : Bool}
  {f : Nat → Nat → Nat → Nat → Nat × Nat} {fin : Ctx → Ctx} {s : State}

theorem IsShaped.run (h : IsShaped i q z a b d useD f fin s) (ha : admits i s = true) {t : State}
    (hm : shapedStep i q z a b d useD f fin s = .ok ((), t)) : exec i s = .next t := by
  obtain ⟨m, e, hstep⟩ := h
  rw [e]
  apply runM_ok
  rw [bind_passes (gate_passes ha)]
  exact whole_ok (hstep.trans hm)

/-- The checks of a shaped step pass. -/
theorem shapedStep_checked (hx : s.inExchange = false) (hfit : stridesFit (s.t.shape q.toNat) (typeBits z / 8) a b d = true)
    (htotal : shapeSteps (s.t.shape q.toNat) (stepElems a b d) ≤ 0xFFFFFFFF)
    (hj : s.t.vprog.toNat ≤ shapeSteps (s.t.shape q.toNat) (stepElems a b d)) :
    shapedStep i q z a b d useD f fin s =
      let r := s.t.shape q.toNat
      let p := stepElems a b d
      let total := shapeSteps r p
      let j := s.t.vprog.toNat
      (if j = total then do
        modT fun t => { (if total = 0 then t else fin t) with vprog := 0 }
        retire i
      else do
        let st := stepAt r p j
        let n := st.2.1
        let (rd, kd, xs, ys, zs) ← shapedRead i r (typeBits z / 8) st a b d useD
        let rs := map3 (f s.t.rounding) xs ys zs
        raiseFlags (flagsOf (List.replicate n true) rs)
        shapedWrite n rd kd a b d (rs.map (·.1))
        if j + 1 = total then
          modT fun t => { fin t with vprog := 0 }
          retire i
        else modT fun t => { t with vprog := BitVec.ofNat 32 (j + 1), mode := .running, issued := true } : M Unit) s := by
  unfold shapedStep
  rw [bind_readT_id, bind_readS, hx]
  simp only [Bool.false_eq_true, if_false]
  rw [bind_require, if_pos hfit, bind_require, if_pos (by simp [htotal, hj])]

/-- With every step done the instruction completes. -/
theorem shaped_done (e : IsShaped i q z a b d useD f fin s) (hfin : SameDue (fin s.t) s.t) (hx : s.inExchange = false)
    (hfit : stridesFit (s.t.shape q.toNat) (typeBits z / 8) a b d = true)
    (htotal : shapeSteps (s.t.shape q.toNat) (stepElems a b d) ≤ 0xFFFFFFFF)
    (hj : s.t.vprog.toNat = shapeSteps (s.t.shape q.toNat) (stepElems a b d)) :
    let c := if shapeSteps (s.t.shape q.toNat) (stepElems a b d) = 0 then s.t else fin s.t
    Completes i s (advanced { s with t := { c with vprog := 0 } } i) := by
  intro c hr
  obtain ⟨ha, hq⟩ := ready_iff.1 hr
  have hdue : SameDue { c with vprog := 0 } s.t := by
    unfold c
    split
    · exact ⟨rfl, rfl, rfl, rfl⟩
    · exact hfin
  refine e.run ha ?_
  rw [shapedStep_checked hx hfit htotal (Nat.le_of_eq hj)]
  dsimp only
  rw [if_pos hj, bind_modT]
  exact retire_passes ((quiet_with_t hdue).trans hq) i

/-- A step reads, raises its flags and writes. -/
theorem shapedStep_taken {s1 s2 : State} {rd : List (Nat × Nat)} {kd : List (Word × Nat)} {xs ys zs : List Nat}
    (hx : s.inExchange = false) (hfit : stridesFit (s.t.shape q.toNat) (typeBits z / 8) a b d = true)
    (htotal : shapeSteps (s.t.shape q.toNat) (stepElems a b d) ≤ 0xFFFFFFFF)
    (hj : s.t.vprog.toNat < shapeSteps (s.t.shape q.toNat) (stepElems a b d)) :
    let r := s.t.shape q.toNat
    let st := stepAt r (stepElems a b d) s.t.vprog.toNat
    let rs := map3 (f s.t.rounding) xs ys zs
    let fl := flagsOf (List.replicate st.2.1 true) rs
    Passes (shapedRead i r (typeBits z / 8) st a b d useD) s (rd, kd, xs, ys, zs) s1 → enabledFlags s1.t.vround fl = 0 →
    Passes (shapedWrite st.2.1 rd kd a b d (rs.map (·.1))) (flagged s1 fl) () s2 →
    shapedStep i q z a b d useD f fin s = (if s.t.vprog.toNat + 1 = shapeSteps (s.t.shape q.toNat) (stepElems a b d) then do
        modT fun t => { fin t with vprog := 0 }
        retire i
      else modT fun t => { t with vprog := BitVec.ofNat 32 (s.t.vprog.toNat + 1), mode := .running, issued := true } : M Unit) s2 := by
  intro r st rs fl hread hfl hwrite
  rw [shapedStep_checked hx hfit htotal (Nat.le_of_lt hj)]
  dsimp only
  rw [if_neg (Nat.ne_of_lt hj), bind_passes hread]
  dsimp only
  rw [bind_passes (raiseFlags_passes hfl), bind_passes hwrite]

theorem shapedCompletes_of (e : IsShaped i q z a b d useD f fin s) (hfin : SameDue (fin s.t) s.t) :
    ShapedCompletes i q z a b d useD f fin s := by
  intro hx hfit htotal
  refine ⟨fun hj hne => ?_, fun hj h0 => ?_, fun hlt s1 s2 rd kd xs ys zs hread hfl hwrite ha => ?_⟩
  · have h := shaped_done e hfin hx hfit htotal hj
    rwa [if_neg hne] at h
  · have h := shaped_done e hfin hx hfit htotal hj
    rwa [if_pos h0] at h
  · have hstep := shapedStep_taken (fin := fin) hx hfit htotal hlt hread hfl hwrite
    refine ⟨fun hlast hq => e.run ha ?_, fun hmore => e.run ha ?_⟩
    · rw [hstep, if_pos hlast, bind_modT]
      exact retire_passes hq i
    · rw [hstep, if_neg (Nat.ne_of_lt hmore)]
      rfl

end Shaped

theorem shapedElementwise : ShapedElementwise := by
  intro i m s hm hq ty z hacc
  refine shapedCompletes_of ⟨_, exec_member hm s, ?_⟩ ⟨rfl, rfl, rfl, rfl⟩
  rw [if_neg hq, bind_readT_id]
  exact bind_passes (typeFor_passes hacc s)

/-- Settles O11: without a shape the member is `lanes` (`elementwiseComplete`),
  over one it takes a step (`shapedCompletes_of`). -/
theorem elementwiseMembersComplete : Obligations.ElementwiseMembersComplete := ⟨elementwiseComplete, shapedElementwise⟩

/-! Vector registers under a mask of all ones (07 R121). -/

theorem touchFields_none (i : Instr) (na nb nd : Nat) (s : State) :
    Passes (touchFields i none none none na nb nd) s ([], [], []) s := rfl

theorem moveFields_none (na nb nd : Nat) (s : State) : Passes (moveFields none none none na nb nd) s () s := rfl

theorem handleOf_register {c : Code} (h : c.toNat < 32) : handleOf c = none := by
  simp [handleOf, show ¬ 32 ≤ c.toNat by omega]

theorem readV_passes {s : State} {n : Nat} (h : regReadable s (32 + n) = true) : Passes (readV n) s (s.t.v[n]!) s := by
  unfold Passes readV
  rw [bind_passes (regOk_passes h)]
  rfl

theorem readElems_register {s : State} {c : Code} (hc : c.toNat < 32) (h : regReadable s (32 + c.toNat) = true) (w : Nat)
    (on : List Bool) (runs : List (Nat × Nat)) : Passes (readElems w on runs (.code c)) s (elems w s.t.v[c.toNat]!) s := by
  unfold Passes readElems
  dsimp only
  rw [if_pos hc, bind_passes (readV_passes h)]
  rfl

/-- The third source: the old destination where the member reads it. -/
theorem addend_run {d : Code} {useD : Bool} {s : State} (hd : d.toNat < 32) (hrd : regReadable s (32 + d.toNat) = true) (w : Nat)
    (on : List Bool) {β : Type} (n : Nat) (f : List Nat → M β) :
    (if useD then readElems w on [] (.code d) >>= f else pure (elems w s.t.v[n]!) >>= f) s =
      f (elems w s.t.v[if useD then d.toNat else n]!) s := by
  cases useD
  · rfl
  · exact bind_passes (readElems_register hd hrd ..)

theorem laneSources_registers {i : Instr} {a b d : Code} {y : Option Src} {useD : Bool} {s : State} (ha : a.toNat < 32)
    (hb : b.toNat < 32) (hd : d.toNat < 32) (hy : y.getD (.code a) = .code b) (hra : regReadable s (32 + a.toNat) = true)
    (hrb : regReadable s (32 + b.toNat) = true) (hrd : regReadable s (32 + d.toNat) = true) (w : Nat) (on : List Bool) :
    Passes (laneSources i w on (.code a) y d useD) s
      ([], elems w s.t.v[a.toNat]!, elems w s.t.v[b.toNat]!, elems w s.t.v[if useD then d.toNat else a.toNat]!) s := by
  have hsa : srcHandle (.code a) = none := handleOf_register ha
  have hsb : srcHandle (.code b) = none := handleOf_register hb
  cases y with
  | none =>
    obtain rfl : a = b := by injection hy
    unfold Passes laneSources
    rw [hsa, handleOf_register hd, Option.bind_none, bind_passes (touchFields_none i 64 64 64 s)]
    dsimp only
    rw [bind_passes (readElems_register ha hra ..)]
    exact (addend_run hd hrd w on a.toNat _).trans rfl
  | some y =>
    obtain rfl : y = .code b := hy
    unfold Passes laneSources
    rw [hsa, handleOf_register hd, Option.bind_some, hsb, bind_passes (touchFields_none i 64 64 64 s)]
    dsimp only
    rw [bind_passes (readElems_register ha hra ..), bind_passes (readElems_register hb hrb ..)]
    exact (addend_run hd hrd w on a.toNat _).trans rfl

theorem length_elems (w : Nat) (x : Line) : (elems w x).length = 512 / w := by simp [elems]

theorem length_map3 (f : Nat → Nat → Nat → Nat × Nat) (xs ys zs : List Nat) :
    (map3 f xs ys zs).length = min xs.length (min ys.length zs.length) := by
  induction xs generalizing ys zs with
  | nil => simp [map3]
  | cons x xs ih => cases ys <;> cases zs <;> simp [map3, ih]

theorem mergeElems_all {on : List Bool} {xs ys : List Nat} (hon : on.all id = true) (h1 : on.length = ys.length)
    (h2 : xs.length = ys.length) : mergeElems on xs ys = xs := by
  induction on generalizing xs ys with
  | nil => cases ys <;> cases xs <;> simp_all [mergeElems]
  | cons m on ih => cases ys <;> cases xs <;> simp_all [mergeElems]

theorem actives_all {t : Ctx} (h : t.vmask = BitVec.allOnes 64) (w : Nat) : (t.actives w).all id = true := by
  simp only [Ctx.actives, List.all_map, List.all_eq_true, List.mem_range, Function.comp_apply, id_eq]
  intro i hi
  have hw : 0 < w := by
    rcases Nat.eq_zero_or_pos w with rfl | h
    · simp at hi
    · exact h
  have hlt : i * (w / 8) < 64 := by
    have h1 : i * w < 512 := (Nat.lt_div_iff_mul_lt hw).1 hi |>.trans_le (by omega)
    have h2 : i * (w / 8) * 8 ≤ i * w := by
      rw [Nat.mul_assoc]
      exact Nat.mul_le_mul_left i (Nat.div_mul_le_self w 8)
    omega
  rw [Ctx.active, h, bitOf_eq_testBit, BitVec.toNat_allOnes, Nat.testBit_two_pow_sub_one, decide_eq_true hlt]

theorem writeVec_register {s : State} {d : Code} {w : Nat} {xs : List Nat} (hd : d.toNat < 32)
  (hmask : s.t.vmask = BitVec.allOnes 64)
    (hlen : xs.length = 512 / w) (runs : List (Nat × Nat)) :
    Passes (writeVec d w runs (s.t.actives w) xs) s () { s with t := s.t.writeV d.toNat (BitVec.ofNat 512 (packElems w xs)) } := by
  have hmerge : mergeElems (s.t.actives w) xs (elems w s.t.v[d.toNat]!) = xs :=
    mergeElems_all (actives_all hmask w) (by simp [Ctx.actives, elems]) (by rw [hlen, length_elems])
  unfold Passes writeVec
  rw [if_pos hd]
  refine (modT_passes _ s).trans ?_
  dsimp only
  rw [hmerge, if_pos (actives_all hmask w)]

/-- Settles O10: on registers every access of `lanes` passes, and the merge under a full mask is the new elements. -/
theorem elementwiseOnRegisters : Obligations.ElementwiseOnRegisters := by
  unfold Obligations.ElementwiseOnRegisters
  intro i m s a b hm hq hacc hma ha hmb hb hd hra hrb hrd hmask ty w rs fl hfl hr
  obtain ⟨hadm, hquiet⟩ := ready_iff.1 hr
  have hlen : (rs.map (·.1)).length = 512 / w := by
    simp [rs, length_map3, length_elems]
  have hmove : srcHandle m.a = none ∧ m.b.bind srcHandle = none ∧ handleOf m.d = none := by
    refine ⟨by rw [hma]; exact handleOf_register ha, ?_, handleOf_register hd⟩
    cases hmb' : m.b with
    | none => rfl
    | some y =>
      rw [hmb'] at hmb
      rw [show y = .code b from hmb]
      exact handleOf_register hb
  obtain ⟨h1, h2, h3⟩ := hmove
  refine elementwiseComplete i m s s _ _ [] _ _ _ hm hq hacc ?_ hfl (writeVec_register (s := flagged s fl) hd hmask hlen []) ?_ hadm hquiet
  · rw [hma]
    exact laneSources_registers ha hb hd (hma ▸ hmb) hra hrb hrd _ _
  · rw [h1, h2, h3]
    exact moveFields_none ..

end Sys2Proof.Proofs
end

section
/-! The other vector members: conversions, groups, reductions, the exact accumulator, memory and handles (07 R126 to R141). -/

namespace Sys2Proof.Proofs

open Sys2Proof Sys2Proof.Machine Sys2Proof.Laws

/-! Conversions. -/

theorem conversionsComplete : ConversionsComplete := by
  intro t b a d s s1 s2 s3 s4 ra rb rd xs ty w on m qt all plan cvt codes dq
  dsimp only
  refine ⟨?_, ?_, ?_⟩
  · rintro ht hty ⟨htouch, hread⟩ ⟨hfl, hwrite, hmove⟩
    refine completesVia_whole rfl fun hq => ?_
    rw [bind_readT_id]
    dsimp only
    rw [bind_require, if_pos (by simpa using ht), if_pos rfl, bind_passes (typeFor_passes (by simpa [Accepts.ok] using hty) s),
      bind_passes htouch]
    dsimp only
    rw [bind_passes hread, bind_passes (raiseFlags_passes hfl), bind_passes hwrite]
    exact (bind_passes hmove).trans (retire_passes hq _)
  · rintro hty hb ⟨htouch, hread⟩ ⟨hfl, hwrite, hmove⟩
    refine completesVia_whole rfl fun hq => ?_
    rw [bind_readT_id]
    dsimp only
    rw [bind_passes (typeFor_passes (c := .floats) hty s), bind_passes (readSrc_passes hb), if_pos rfl, bind_passes htouch]
    dsimp only
    rw [bind_passes hread, bind_passes (raiseFlags_passes hfl), bind_passes hwrite, bind_modT, bind_passes hmove]
    exact retire_passes hq _
  · rintro hty hb ⟨htouch, hread⟩ ⟨hfl, hwrite, hmove⟩
    refine completesVia_whole rfl fun hq => ?_
    rw [bind_readT_id]
    dsimp only
    rw [bind_passes (readSrc_passes hb), if_pos rfl, bind_passes (typeFor_passes (c := .floats) hty s), bind_passes htouch]
    dsimp only
    rw [bind_passes hread, bind_passes (raiseFlags_passes hfl), bind_passes hwrite]
    exact (bind_passes hmove).trans (retire_passes hq _)

theorem shapedConversions : ShapedConversions := by
  intro q t b a d s hq rt z ty qt plan
  refine ⟨fun ht hrt => ?_, fun hty hb hrt => ?_, fun hrt hb => ?_⟩
  · refine shapedCompletes_of ⟨_, rfl, ?_⟩ ⟨rfl, rfl, rfl, rfl⟩
    rw [bind_readT_id]
    dsimp only
    rw [bind_require, if_pos (by simpa using ht), if_neg hq]
    exact bind_passes (typeFor_passes (by simpa [Accepts.ok] using hrt) s)
  · refine shapedCompletes_of ⟨_, rfl, ?_⟩ ⟨rfl, rfl, rfl, rfl⟩
    rw [bind_readT_id]
    dsimp only
    rw [bind_passes (typeFor_passes (c := .floats) hty s), bind_passes (readSrc_passes hb), if_neg hq, bind_require,
      if_pos (by simpa using hrt)]
  · refine shapedCompletes_of ⟨_, rfl, ?_⟩ ⟨rfl, rfl, rfl, rfl⟩
    rw [bind_readT_id]
    dsimp only
    rw [bind_passes (readSrc_passes hb), if_neg hq]
    exact bind_passes (typeFor_passes (c := .floats) hrt s)

/-- Settles O12: VCVT, VQNT and VDQ pass the accesses that the statement names, or are a shaped step. -/
theorem vectorConversionsComplete : Obligations.VectorConversionsComplete := ⟨conversionsComplete, shapedConversions⟩

/-! Groups. -/

theorem wholeCompletes_of {i : Instr} {acc : Accepts} {a : Src} {b : Option Src} {d : Code} {s : State} {ok : State → Prop}
    {used : State → Nat → List Bool → List Nat → List Bool} {f : State → Nat → List Nat → List Nat → List Nat}
    {use : Nat → List Bool → List Nat → M (List Bool)} {g : Nat → List Nat → List Nat → M (List Nat)}
    (e : exec i s = runM (wholeVec i acc a b d use g) s)
    (hu : ∀ x w m ys, ok x → Passes (use w m ys) x (used x w m ys) x)
    (hg : ∀ x w xs ys, ok x → Passes (g w xs ys) x (f x w xs ys) x) : WholeCompletes i acc a b d s ok used f := by
  intro s1 s2 s3 s4 s5 ra rb rd xs ys w on hacc htouch hb hok hread hok3 hwrite hmove
  refine completesVia_whole e fun hq => ?_
  rw [bind_readT_id, bind_passes (typeFor_passes hacc s)]
  dsimp only
  rw [bind_passes htouch]
  dsimp only
  cases b with
  | none =>
    obtain ⟨rfl, rfl⟩ := hb
    dsimp only
    rw [bind_pure_run, bind_passes (hu _ _ _ _ hok), bind_passes hread, bind_passes (hg _ _ _ _ hok3), bind_passes hwrite,
      bind_passes hmove]
    exact retire_passes hq _
  | some y =>
    dsimp only
    rw [bind_passes hb, bind_passes (hu _ _ _ _ hok), bind_passes hread, bind_passes (hg _ _ _ _ hok3), bind_passes hwrite,
      bind_passes hmove]
    exact retire_passes hq _

/-- Settles O13: VSEL, VPERM and VSLIDE are `wholeVec` of their function, the others read, write and move their fields. -/
theorem groupMembersComplete : Obligations.GroupMembersComplete := by
  unfold Obligations.GroupMembersComplete
  intro b a d k c vd s ty w p on
  refine ⟨?_, ?_, ?_, ?_, ?_, ?_⟩
  · refine wholeCompletes_of rfl (fun x w m ys _ => rfl) fun x w xs ys hk => ?_
    exact bind_passes (readK_passes hk)
  · exact wholeCompletes_of rfl (fun x w m ys _ => rfl) fun x w xs ys _ => rfl
  · refine wholeCompletes_of rfl (fun x w m ys hb => ?_) fun x w xs ys hb => ?_
    · exact bind_passes (readSrc_passes hb)
    · exact bind_passes (readSrc_passes hb)
  · intro hty s1 s2 s3 s4 ra rb rd xs
    have hacc : Accepts.bits.ok s.t.elemType = true := by simpa [Accepts.ok] using hty
    refine ⟨fun htouch ha hwrite hmove => ?_, fun htouch ha hb hwrite hmove => ?_, fun htouch hb hread hmove => ?_⟩
    · refine completesVia_whole rfl fun hq => ?_
      rw [bind_readT_id, bind_passes (typeFor_passes hacc s)]
      dsimp only
      rw [bind_passes htouch]
      dsimp only
      rw [bind_passes (readSrc_passes ha), bind_passes hwrite, bind_passes hmove]
      exact retire_passes hq _
    · refine completesVia_whole rfl fun hq => ?_
      rw [bind_readT_id, bind_passes (typeFor_passes hacc s)]
      dsimp only
      rw [bind_passes htouch]
      dsimp only
      rw [bind_passes (readSrc_passes ha), bind_passes (readSrc_passes hb), bind_passes hwrite, bind_passes hmove]
      exact retire_passes hq _
    · refine completesVia_whole rfl fun hq => ?_
      rw [bind_readT_id, bind_passes (typeFor_passes hacc s)]
      dsimp only
      rw [bind_passes htouch]
      dsimp only
      rw [bind_passes (readSrc_passes hb), bind_passes hread, bind_passes (writeD_passes ..), bind_passes hmove]
      exact retire_passes hq _
  · intro hacc hc s1 s2 s3 s4 ra rb rd xs ys i rs fl htouch hxs hys hfl hmove
    refine completesVia_whole rfl fun hq => ?_
    rw [bind_readT_id, bind_passes (typeFor_passes hacc s), bind_require, if_pos]
    · rw [bind_passes htouch]
      dsimp only
      rw [bind_passes hxs, bind_passes hys, bind_passes (raiseFlags_passes hfl), bind_passes (writeK_passes ..), bind_passes hmove]
      exact retire_passes hq _
    · revert hc
      change (if isIntT ty = true then c ≠ 6 else c ≠ 4 ∧ c ≠ 5) → (if isIntT ty then c != 6 else c != 4 && c != 5) = true
      split <;> simp
  · intro s1 hwrite ha hq
    apply runM_ok
    rw [bind_passes (gate_passes ha), bind_readT_id, bind_passes hwrite]
    exact retire_passes hq _

/-! Reductions. -/

theorem reduce_ok {i : Instr} {a : Src} {d : Code} {f : Nat → Nat → List Nat → Nat × Nat} {s s1 s2 : State} {ty : Nat}
  {xs : List Nat}
    (e : exec i s = runM (reduce i a d f) s) (hread : Passes (activeElems i .arith a) s (ty, xs) s1)
    (hfl : enabledFlags s1.t.vround (f ty s1.t.rounding xs).2 = 0)
    (hwrite : Passes (writeFirst d (f ty s1.t.rounding xs).1) (flagged s1 (f ty s1.t.rounding xs).2) () s2) :
    CompletesVia i s s2 (advanced s2 i) := by
  refine completesVia_whole e fun hq => ?_
  rw [bind_passes hread]
  dsimp only
  rw [bind_readT, bind_passes (raiseFlags_passes hfl), bind_passes hwrite]
  exact retire_passes hq _

theorem reductionsComplete : ReductionsComplete := by
  intro a d s s1 s2 ty xs m
  exact ⟨reduce_ok rfl, reduce_ok (f := fun t _ xs => redPick true t xs) rfl,
    reduce_ok (f := fun t _ xs => redPick false t xs) rfl,
    reduce_ok (f := fun t _ xs => redAmax t xs) rfl⟩

theorem rowMaximumCompletes : RowMaximumCompletes := by
  intro a d s s1 ty id p g xs i hacc hgang hx hread hfl s2 before s3 s4
  refine completesVia_whole rfl fun hq => ?_
  rw [bind_readT_id, bind_passes (typeFor_passes hacc s), bind_readS, hgang]
  dsimp only
  rw [bind_readS, hx, if_neg Bool.false_ne_true, bind_passes hread]
  dsimp only
  rw [bind_passes (raiseFlags_passes hfl), bind_readS, bind_modT, optional_modS]
  exact retire_passes hq _

/-- Settles O14: a reduction is `reduce` of its function; VROWMAX joins its maximum to the one before. -/
theorem vectorReductionsComplete : Obligations.VectorReductionsComplete := ⟨reductionsComplete, rowMaximumCompletes⟩

/-! The exact accumulator. -/

/-- Settles O15: the accumulator's place and data are checked as the statement has it, then it is written, read or cleared. -/
theorem exactAccumulatorCompletes : Obligations.ExactAccumulatorCompletes := by
  unfold Obligations.ExactAccumulatorCompletes
  intro b a d s s1 s2 s3 k ys ha va
  refine ⟨fun hys hk hwatch => ?_, fun hk hwatch => ?_, fun hk hwatch => ?_⟩
  · intro i xs old
    refine ⟨fun hnum hwords => completesVia_whole rfl fun hq => ?_, fun hnan hfl => completesVia_whole rfl fun hq => ?_⟩
    · rw [bind_passes (readSrc_passes ha), bind_readT_id, bind_passes hys, bind_passes hk, bind_passes (watch_passes hwatch)]
      dsimp only
      rw [if_neg (ne_true_of_eq_false hnum), bind_readS, bind_passes hwords, bind_modS]
      exact retire_passes hq _
    · rw [bind_passes (readSrc_passes ha), bind_readT_id, bind_passes hys, bind_passes hk, bind_passes (watch_passes hwatch)]
      dsimp only
      rw [if_pos hnan, bind_passes (raiseFlags_passes hfl)]
      exact retire_passes hq _
  · dsimp only
    intro hfl
    refine completesVia_whole rfl fun hq => ?_
    rw [bind_passes (readSrc_passes ha), bind_passes hk, bind_passes (watch_passes hwatch), bind_readT, bind_readS]
    dsimp only
    rw [bind_passes (raiseFlags_passes hfl), bind_modS]
    exact finishWith hq
  · intro t
    refine completesVia_whole rfl fun hq => ?_
    rw [bind_passes (readSrc_passes ha), bind_passes hk, bind_passes (watch_passes hwatch), bind_modS]
    exact retire_passes hq _

end Sys2Proof.Proofs
end

section
/-! Vector memory accesses, shape slots and ring handles (07 R134, R135, R139 to R141). -/

namespace Sys2Proof.Proofs

open Sys2Proof Sys2Proof.Machine Sys2Proof.Laws

/-! Vector memory. -/

theorem vload_ok {i : Instr} {gather one : Bool} {b a : Src} {d : Code} {s s1 s2 s3 s4 : State} {w z : Nat} {vas : List Word}
    {ks : List (Word × Nat)} {xs : List Nat} (e : exec i s = runM (vload i gather one b a d) s) (ha : readable s a = true)
    (htype : Passes (vmemType i) s (w, z) s) (haddr : Passes (vmemAddrs w gather (srcVal s a) b) s vas s1)
    (hloc : Passes (locate Acc.load z (marked (s1.t.actives w) (if one then List.replicate (512 / w)
      (vas.headD 0) else vas))) s1 ks s2)
    (hread : Passes (readFound z (if one then ks.take 1 else ks)) s2 xs s3)
    (hwrite : Passes (writeVec d w [] (s1.t.actives w) (spread (s1.t.actives w) (if one then ks.map fun _ => xs.headD 0 else xs)))
      s3 () s4) : CompletesVia i s s4 (advanced s4 i) := by
  refine completesVia_whole e fun hq => ?_
  rw [bind_passes htype]
  dsimp only
  rw [bind_passes (readSrc_passes ha), bind_passes haddr, bind_readT, bind_passes hloc]
  cases one
  · simp only [Bool.false_eq_true, if_false] at hread hwrite
    rw [if_neg Bool.false_ne_true, bind_passes hread, bind_passes hwrite]
    exact retire_passes hq _
  · simp only [if_true] at hread hwrite
    rw [if_pos rfl, bind_passes hread, bind_pure_run, bind_passes hwrite]
    exact retire_passes hq _

theorem vstore_ok {i : Instr} {gather : Bool} {b a d : Src} {s s1 s2 s3 s4 : State} {w z : Nat} {vas : List Word}
    {ks : List (Word × Nat)} {xs : List Nat} (e : exec i s = runM (vstore i gather b a d) s) (ha : readable s a = true)
    (htype : Passes (vmemType i) s (w, z) s) (haddr : Passes (vmemAddrs w gather (srcVal s a) b) s vas s1)
    (hdata : Passes (readElems w [] [] d) s1 xs s1) (hloc : Passes (locate Acc.store z (marked (s1.t.actives w) vas)) s1 ks s2)
    (hwatch : Passes (watchFound z ks) s2 () s3) (hwrite : Passes (writeFound z ks (marked (s1.t.actives w) xs)) s3 () s4) :
    CompletesVia i s s4 (advanced s4 i) := by
  refine completesVia_whole e fun hq => ?_
  rw [bind_passes htype]
  dsimp only
  rw [bind_passes (readSrc_passes ha), bind_passes haddr, bind_passes hdata, bind_readT, bind_passes hloc, bind_passes hwatch,
    bind_passes hwrite]
  exact retire_passes hq _

theorem vectorMemoryComplete : VectorMemoryComplete := by
  intro b a dv d s s1 s2 s3 s4 w z vas ks xs on ha
  exact ⟨vload_ok rfl ha, vload_ok (one := true) rfl ha, vload_ok rfl ha, vstore_ok rfl ha, vstore_ok rfl ha⟩

theorem shapeSlotsComplete : ShapeSlotsComplete := by
  intro q a s s1 s2 k x ha va
  refine ⟨fun hk hx htype hzero => completesVia_whole rfl fun hq => ?_, fun hk hwatch => completesVia_whole rfl fun hq => ?_⟩
  · rw [bind_passes (readSrc_passes ha), bind_passes hk, bind_passes hx, bind_require, if_pos (by simp [htype, hzero]), bind_modT]
    exact retire_passes hq _
  · rw [bind_passes (readSrc_passes ha), bind_passes hk, bind_readT, bind_passes (writePlain_passes (by rwa [length_leBytes]))]
    exact retire_passes hq _

/-- Settles O16: `vload` and `vstore` find, read and write the marked elements; a shape slot is read or written whole. -/
theorem vectorMemoryAndSlotsComplete : Obligations.VectorMemoryAndSlotsComplete := ⟨vectorMemoryComplete, shapeSlotsComplete⟩

/-! Ring handles. -/

theorem handleGate_passes {i : Instr} {s : State} (h : admits i s = true) (ht : s.transferOf s.t.coreid = none) :
    Passes (handleGate i) s () s := by
  unfold Passes handleGate
  rw [bind_passes (gate_passes h)]
  exact notInTransfer_passes ht

/-- A handle instruction outside a transfer phase. -/
theorem completesVia_handle {i : Instr} {s s1 t : State} {m : M Unit} (e : exec i s = runM (handleGate i >>= fun _ => whole m) s)
    (ht : s.transferOf s.t.coreid = none) (h : quiet s1 = true → m s = .ok ((), t)) : CompletesVia i s s1 t := by
  intro ha hq
  rw [e]
  apply runM_ok
  rw [bind_passes (handleGate_passes ha ht)]
  exact whole_ok (h hq)

theorem boundHandle_passes {i : Instr} {c : Code} {s : State} (h : (s.t.h[c.toNat - 32]!).role ≠ .unbound) :
    Passes (boundHandle i c) s (s.t.h[c.toNat - 32]!) s := by
  unfold Passes boundHandle
  rw [bind_readT_id, bind_require, if_pos (by simpa using h)]
  rfl

theorem handleBinds : HandleBinds := by
  intro b a d s s1 key loc ha hb i av bv producer core part o need duty os ht hfree hzero hfind hkind hlegal hrole hneed hroom s2 h t
  refine completesVia_handle rfl (by simpa using ht) fun hq => ?_
  rw [bind_passes (readSrc_passes ha), bind_passes (readSrc_passes hb), bind_readT_id, bind_require, if_pos (by simpa using hfree),
    bind_require, if_pos (by simpa using hzero), bind_passes hfind]
  dsimp only
  rw [bind_get, bind_require, if_pos (by simpa using hkind), bind_require, if_pos hlegal, bind_require,
    if_pos (by simpa using hrole),
    bind_require, if_pos (decide_eq_true hneed), if_neg (by simpa using hroom), bind_modS, bind_modT]
  exact retire_passes hq _

theorem advance_ok {i : Instr} {d : Code} {producer : Bool} {s s1 : State} {key loc : Nat}
    (e : exec i s = runM (advance i d producer) s) (ht : s.transferOf s.t.coreid = none)
    (hrole : (s.t.h[d.toNat - 32]!).role = if producer then .producer else .consumer)
    (hring : Passes (handleRing (s.t.h[d.toNat - 32]!)) s (key, loc) s1)
    (hhas : if producer then (s1.obj key).arrived < (s1.obj key).expected else (s1.obj key).arrived ≠ 0) :
    let s3 := s1.ownAdvance key loc producer
    let t := { s3 with t := { s3.t with h := vecMod s3.t.h (d.toNat - 32) fun h => { h with cursor := 0 } } }
    CompletesVia i s t (advanced t i) := by
  intro s3 t
  refine completesVia_handle e ht fun hq => ?_
  rw [bind_readT_id]
  dsimp only
  rw [bind_require, if_pos (by simpa using hrole), bind_passes hring]
  dsimp only
  rw [bind_get, bind_require, if_pos (by cases producer <;> simpa using hhas), bind_passes (release_passes _), bind_modS,
    bind_modT]
  exact retire_passes hq _

theorem arrived_passes (key : Nat) (s : State) : Passes (arrived key) s () (s.bankArrive key 32) := rfl

theorem handlesComplete : HandlesComplete := by
  intro d a s s1 key loc ht h o core os part stepped
  have ht : s.transferOf s.t.coreid = none := by simpa using ht
  refine ⟨fun hrole hring hne => advance_ok (producer := false) rfl ht hrole hring hne,
    fun hrole hring hlt => advance_ok (producer := true) rfl ht hrole hring hlt, ?_, fun hrole hsub hring hcur hempty => ?_⟩
  · intro g t x hrole hring
    refine completesVia_handle rfl ht fun hq => ?_
    rw [bind_passes (boundHandle_passes hrole), bind_passes hring]
    dsimp only
    rw [bind_passes (arrived_passes key s1), bind_readS]
    exact finishWith hq
  · intro s2 t
    refine completesVia_handle rfl ht fun hq => ?_
    rw [bind_passes (boundHandle_passes hrole), bind_readS, hsub, if_neg (by simp)]
    refine (bind_passes hring).trans ?_
    dsimp only
    rw [bind_get, bind_require, if_pos, bind_modS, bind_modT]
    · exact retire_passes hq _
    · rw [hcur, Bool.and_eq_true, Bool.or_eq_true]
      exact ⟨rfl, hempty.imp (fun h => by rw [h]; rfl) fun h => by rw [h]; rfl⟩

/-- Settles O17: each member's checks are the statement's hypotheses, and its change follows. -/
theorem ringHandlesComplete : Obligations.RingHandlesComplete := ⟨handleBinds, handlesComplete⟩

end Sys2Proof.Proofs
end

section
/-! The matrix members: their issue, JPOLL and JWAIT (08 R150 to R160). -/

namespace Sys2Proof.Proofs

open Sys2Proof Sys2Proof.Machine Sys2Proof.Laws

theorem mcfg_passes {ok : Bool} (h : ok = true) (code : Nat) (s : State) : Passes (mcfg ok code) s () s := by
  unfold mcfg
  subst h
  rfl

/-- Steps 3 to 7 of an issue whose ranges pass, whose done duty is held and whose rank is right, into a queue with room. -/
theorem issueJob_ok {i : Instr} {op : JobOp} {rs : List JobRange} {wait done : Option (Word × Nat × Nat)} {s s1 : State}
    (hrs : Passes (checkRanges rs) s () s1) (hroom : s1.queueFull = false) (howed : s1.jobOwed done = true)
    (hrank : s1.jobRankOk (s1.newJob op wait done) done = true)
    (hq : quiet (s1.admitJob (s1.newJob op wait done)) = true) :
    Passes (issueJob i op rs wait done) s () (advanced (s1.admitJob (s1.newJob op wait done)) i) := by
  unfold Passes issueJob
  rw [bind_passes hrs, bind_get]
  dsimp only
  rw [hroom, Bool.false_and, if_neg Bool.false_ne_true, bind_require, if_pos howed, hrank, if_neg (by simp)]
  refine (bind_passes (release_passes _)).trans ?_
  rw [if_neg Bool.false_ne_true, bind_modS]
  exact retire_passes hq _

/-- A matrix member whose checks before the issue end in `s1` with the job's operands is issued as the rules give it. -/
theorem issues_of {i : Instr} {op : JobOp} {rs : List JobRange} {wait done : Option (Word × Nat × Nat)} {s s1 s2 : State}
    {m : M Unit} (e : exec i s = runM (gate i >>= fun _ => m) s) (h : m s = issueJob i op rs wait done s1) :
    Issues i op rs wait done s s1 s2 :=
  fun hrs hroom howed hrank => completesVia_of e fun ha hq =>
    (bind_passes (gate_passes ha)).trans (h.trans (issueJob_ok hrs hroom howed hrank hq))

theorem multiply_issues {i : Instr} {ta tb w x y : Nat} {types : Nat → Nat → Option Nat} {op : Nat → Nat → JobOp}
    {s s1 s2 s3 : State} {wait done : Option (Word × Nat × Nat)}
    (e : exec i s = runM (multiply i ta tb w x y types op) s)
    {ca cb : BitVec 32} (hca : s.tileCfg (clusterOf s.t.coreid) ta = ca) (hcb : s.tileCfg (clusterOf s.t.coreid) tb = cb)
    {wv : Word} (hwv : srcVal s (.code (BitVec.ofNat 6 w)) = wv) (hw : readable s (.code (BitVec.ofNat 6 w)) = true)
    (hrows : cfgRows ca ≠ 0 ∧ cfgRows cb ≠ 0) (htypes : (types (cfgType ca) (cfgType cb)).any (fun l => cfgLen ca ≤ l) = true)
    (hlen : cfgLen ca = cfgLen cb)
    (hwin : fieldOf wv 10 6 = 0 ∧ fieldOf wv 23 41 = 0 ∧ windowFits (fieldOf wv 0 10) (fieldOf wv 16 7) (cfgRows ca)
      (cfgRows cb) = true)
    (hx : readable s (.code (BitVec.ofNat 6 x)) = true) (hy : readable s (.code (BitVec.ofNat 6 y)) = true)
    (hwait : Passes (jobRef x (srcVal s (.code (BitVec.ofNat 6 x)))) s wait s1)
    (hdone : Passes (jobRef y (srcVal s (.code (BitVec.ofNat 6 y)))) s1 done s2) :
    Issues i (op (fieldOf wv 0 10) (fieldOf wv 16 7)) [] wait done s s2 s3 := by
  subst hca hcb hwv
  obtain ⟨limit, hl, hle⟩ := (Option.any_eq_true _ _).1 htypes
  refine issues_of e ?_
  unfold readTcfg
  rw [bind_passes (readSrc_passes hw), bind_passes (readSrc_passes hx), bind_passes (readSrc_passes hy), bind_readS, bind_readS,
    bind_passes (mcfg_passes (by simpa using hrows) 1 s), hl]
  dsimp only
  rw [bind_passes (mcfg_passes (by simpa using hlen) 3 s), bind_passes (mcfg_passes hle 4 s),
    bind_passes (mcfg_passes (by simpa [and_assoc] using hwin) 5 s), bind_passes hwait, bind_passes hdone]

theorem multipliesIssue : MultipliesIssue := by
  intro z n p q ta tb w x y x4 y4 s s1 s2 s3 wait done tcfg ca cb reg wv r0 c0 lawful refs hw
  refine ⟨fun hl hr => ?_, fun hl hr => ?_, fun hl hr => ?_⟩
  all_goals
    obtain ⟨hra, hrb, ht, hlen, h10, h23, hwin⟩ := hl
    obtain ⟨hx, hy, hwait, hdone⟩ := hr
  · exact multiply_issues rfl rfl rfl rfl hw ⟨hra, hrb⟩ ht hlen ⟨h10, h23, hwin⟩ hx hy hwait hdone
  · exact multiply_issues rfl rfl rfl rfl hw ⟨hra, hrb⟩ ht hlen ⟨h10, h23, hwin⟩ hx hy hwait hdone
  · exact multiply_issues rfl rfl rfl rfl hw ⟨hra, hrb⟩ ht hlen ⟨h10, h23, hwin⟩ hx hy hwait hdone

theorem tileJobsIssue : TileJobsIssue := by
  intro tl a x y s s1 s2 done cfg av v rows data hdone
  refine ⟨fun hrows => issues_of rfl ?_, fun ha => ⟨fun hd => issues_of rfl ?_, fun hx => ⟨fun hrows hv => issues_of rfl ?_,
    fun htype hd hscale => issues_of rfl ?_, fun htype hd => issues_of rfl ?_⟩⟩⟩
  · unfold readTcfg
    rw [bind_readS, bind_passes (mcfg_passes (by simpa using hrows) 1 s), bind_passes hdone]
  · rw [bind_passes (readSrc_passes ha), bind_passes (mcfg_passes hd 5 s), bind_passes hdone]
  · unfold readTcfg
    rw [bind_passes (readSrc_passes ha), bind_passes (readSrc_passes hx), bind_readS,
      bind_passes (mcfg_passes (by simpa using hrows) 1 s), bind_passes hdone,
      bind_passes (mcfg_passes (by rcases hv with h | h <;> simp [v, cfg] at h <;> simp [h]) 7 s1)]
  · rw [bind_passes (readSrc_passes ha), bind_passes (readSrc_passes hx), bind_passes (mcfg_passes htype 2 s),
      bind_passes (mcfg_passes hd 5 s), bind_passes hdone, bind_readT_id, bind_passes (mcfg_passes (by simpa using hscale) 8 s1)]
  · rw [bind_passes (readSrc_passes ha), bind_passes (readSrc_passes hx), bind_passes (mcfg_passes htype 2 s),
      bind_passes (mcfg_passes hd 5 s), bind_passes hdone]

theorem jobPollsComplete : JobPollsComplete := by
  intro a d s ha cl
  refine ⟨completes_of_gate rfl fun hq => ?_, fun ht hv hn => completes_of_gate rfl fun hq => ?_⟩
  · rw [bind_passes (readSrc_passes ha), bind_readS]
    exact finishWith hq
  · rw [bind_passes (readSrc_passes ha), bind_passes (notInTransfer_passes (by simpa using ht)), bind_get, bind_require,
      if_pos hv, hn]
    dsimp only
    rw [bind_passes (acquire_passes s)]
    exact retire_passes (by rwa [quiet_acquire]) _

/-- Settles O18: each member's checks before `issueJob` pass, and `issueJob` admits the job. -/
theorem matrixMembersComplete : Obligations.MatrixMembersComplete := ⟨multipliesIssue, tileJobsIssue, jobPollsComplete⟩

end Sys2Proof.Proofs
end

section
/-! The events of matrix jobs and an engine's step at an object's home (08 R153, R161 to R163, 09 R185). -/

namespace Sys2Proof.Proofs

open Sys2Proof Sys2Proof.Machine Sys2Proof.Laws

/-- An event has no checks and no advance: what its meaning leaves is the next state. -/
theorem event_next (f : State → State) (s : State) : runM (event f) s = .next (f s) := rfl

/-- What runs through, answers its state. -/
theorem exec_ok {i : Instr} {s t : State} {m : M Unit} (e : exec i s = runM m s) (h : m s = .ok ((), t)) :
    exec i s = .next t := by
  rw [e]
  exact runM_ok h

/-! The step of an engine. -/

theorem engineStep_barrier {s : State} {key : Nat} (h : (s.obj key).isBarrier = true) (agent count status : Nat)
  (due : BitVec 16) :
    s.engineStep agent key due count status =
      if due.toNat = (s.obj key).phase then (s.addArrival agent key count status).settled agent key
      else if due.toNat = ((s.obj key).phase + 1) % 2 ^ 16 && !(s.obj key).broken then
        { s with pendings := s.pendings ++ [⟨key, agent, due, count, word status⟩] }
      else (s.setObj agent key { s.obj key with status := mergeStatus (s.obj key).status status }).breakObj agent key := by
  unfold State.engineStep
  dsimp only
  rw [if_pos h]

theorem isBarrier_iff (o : Obj) : o.isBarrier = true ↔ o.kind = Obj.bar ∨ o.kind = Obj.bbar := by
  unfold Obj.isBarrier
  rw [Bool.or_eq_true, beq_iff_eq, beq_iff_eq]

theorem not_barrier {o : Obj} (h1 : o.kind ≠ Obj.bar) (h2 : o.kind ≠ Obj.bbar) : ¬ o.isBarrier = true := by
  rw [isBarrier_iff]
  exact not_or.2 ⟨h1, h2⟩

theorem engineStep_counts {s : State} {key : Nat} (h : (s.obj key).kind = Obj.sig ∨ (s.obj key).kind = Obj.ctr)
    (agent count status : Nat) (due : BitVec 16) :
    s.engineStep agent key due count status = s.addCount agent key 1 status := by
  unfold State.engineStep
  dsimp only
  rw [if_neg (not_barrier (by rcases h with h | h <;> rw [h] <;> decide) (by rcases h with h | h <;> rw [h] <;> decide)),
    if_pos (by simpa using h)]

theorem engineStep_none {s : State} {key : Nat} (h : (s.obj key).kind = 0) (agent count status : Nat) (due : BitVec 16) :
    s.engineStep agent key due count status = s := by
  unfold State.engineStep
  dsimp only
  rw [if_neg (not_barrier (by rw [h]; decide) (by rw [h]; decide)), if_neg (by rw [h]; decide)]

/-- A condition does not read the status. -/
theorem satisfies_status (o : Obj) (st : Nat) (v : BitVec 16) : ({ o with status := st } : Obj).satisfies v = o.satisfies v := rfl

/-- A count of a SIG has no armed entry or slice to fire. -/
theorem addCount_sig {s : State} {key : Nat} (h : (s.obj key).kind = Obj.sig) (agent n status : Nat) :
    s.addCount agent key n status =
      let o := s.obj key
      let o1 := { o with arrived := (o.arrived + n) % 2 ^ 32, status := mergeStatus o.status status }
      (s.setObj agent key o1).wakeIf key
        (fun w => !w.lock && ({ o with arrived := (o.arrived + n) % 2 ^ 32 } : Obj).satisfies w.value) o1.status := by
  unfold State.addCount
  dsimp only
  rw [if_neg (by rw [h]; decide)]
  generalize s.obj key = o
  simp only [← satisfies_status { o with arrived := (o.arrived + n) % 2 ^ 32 } (mergeStatus o.status status)]

theorem addArrival_fits {s : State} {key count : Nat} (h : (s.obj key).arrived + count ≤ (s.obj key).expected)
  (agent status : Nat) :
    s.addArrival agent key count status =
      s.setObj agent key { s.obj key with arrived := (s.obj key).arrived + count, status := mergeStatus (s.obj key).status status } := by
  unfold State.addArrival
  dsimp only
  rw [if_neg (by omega)]

theorem engineStepsArrive : EngineStepsArrive := by
  intro s agent key count status due o t merged
  refine ⟨fun h => ?_, fun h => engineStep_counts (.inr h) agent count status due,
    fun h => engineStep_none h agent count status due,
    fun h => ⟨fun hd hc => ?_,
    fun hd hb => ?_, fun h1 h2 => ?_⟩⟩
  · exact (engineStep_counts (.inl h) agent count status due).trans (addCount_sig h agent 1 status)
  · exact (engineStep_barrier h agent count status due).trans (by rw [if_pos hd, addArrival_fits hc])
  · have hne : due.toNat ≠ (s.obj key).phase := fun he => by
      have hlt := due.isLt
      rw [he] at hd hlt
      change (s.obj key).phase = ((s.obj key).phase + 1) % 2 ^ 16 at hd
      omega
    exact (engineStep_barrier h agent count status due).trans (by rw [if_neg hne, if_pos (by simp [hd, hb, o])])
  · exact (engineStep_barrier h agent count status due).trans (by
      rw [if_neg h1, if_neg]
      rw [decide_eq_false (show ¬ due.toNat = ((s.obj key).phase + 1) % 2 ^ 16 from h2), Bool.false_and]
      exact Bool.false_ne_true)

/-! The events of jobs. -/

theorem matrixJobAdmission_ok {s : State} {j : Job} {r : Option Nat} (hroom : (s.cluster s.arg.x).jobs.length < 16)
    (hj : (s.cluster s.arg.x).offers.find? (fun j => (s.cluster s.arg.x).turnIs (laneOf j.core)) = some j)
    (hm : (s.ctx j.core).mode = .waiting (.jobQueue r)) :
    exec .matrixJobAdmission s = .next (((s.eventFor j.core fun s =>
        let s1 := s.admitJob j
        (s1.complete s1.t.len 0 0).afterTaken).pushTurn j.core).moreOffers s.arg.x) := by
  show execMatrixJobAdmission s = _
  unfold execMatrixJobAdmission
  rw [event_next]
  dsimp only
  rw [if_neg (by omega), hj]
  dsimp only
  rw [hm]
  rfl

theorem matrixJobStart_ok {s : State} {j : Job} (hj : (s.cluster s.arg.x).jobs.find? (·.id == s.arg.y) = some j)
    (hrun : j.running = false) (hready : s.jobReady (s.cluster s.arg.x) j = true)
    (harray : j.op.multiply = false ∨ ((s.cluster s.arg.x).jobs.any (fun q => q.running && q.op.multiply) = false ∧
      ((s.cluster s.arg.x).ahead j.id).any (fun q => q.op.multiply && !q.running && s.jobReady (s.cluster s.arg.x) q) = false)) :
    exec .matrixJobStart s = .next ((s.modCluster s.arg.x fun c => { c with
      jobs := c.jobs.map fun q => if q.id = j.id then
        { q with running := true, brk := match j.wait with | some (k, _) => (s.obj k).broken | none => j.brk } else q }).push
          .matrixJobCompletion { x := s.arg.x, y := j.id }) := by
  refine exec_ok (show exec .matrixJobStart s = execMatrixJobStart s from rfl) ?_
  rw [bind_get, hj]
  dsimp only
  rw [if_neg (by rw [hrun]; exact Bool.false_ne_true), if_neg]
  · rfl
  · rw [hready]
    rcases harray with h | ⟨h1, h2⟩
    · simp [h]
    · simp [h1, h2]

theorem matrixJobCompletion_ok {s : State} {j : Job} (hj : (s.cluster s.arg.x).jobs.find? (·.id == s.arg.y) = some j)
    (hrun : j.running = true)
    (hpads : j.op.addrs.all (fun a => classOf a != .pad || !s.padHeld engineAgent (padBase + padCoreOf j.core a)) = true)
    (hdone : ∀ k loc, j.done = some (k, loc) → s.padHeld engineAgent k = false) :
    let cl := s.arg.x
    let part := (s.partOf cl).getD 0
    let (s1, st, f) := (s.undoJob cl j).runJob cl part j s.arg.errs
    let s2 := s1.modCluster cl fun c => { c with jobs := c.jobs.filter (·.id != j.id) }
    exec .matrixJobCompletion s = .next (((match j.done with
      | some (k, _) => s2.engineStep j.core k j.due 1 (if j.brk then st + 2 ^ 63 else st)
      | none => s2).logJob cl part j st f).moreOffers cl) := by
  have hheld : (j.op.addrs.any fun a => classOf a == .pad && s.padHeld engineAgent (padBase + padCoreOf j.core a)) = false := by
    rw [List.any_eq_false]
    intro a ha
    have := List.all_eq_true.1 hpads a ha
    simp only [Bool.or_eq_true, bne_iff_ne, Bool.not_eq_true'] at this
    rcases this with h | h <;> simp [h]
  refine exec_ok (show exec .matrixJobCompletion s = execMatrixJobCompletion s from rfl) ?_
  rw [bind_get, hj]
  dsimp only
  rw [if_neg (by rw [hrun]; exact Bool.false_ne_true), if_neg]
  · rfl
  · rw [hheld, Bool.false_or]
    cases hd : j.done with
    | none => exact Bool.false_ne_true
    | some d => exact ne_true_of_eq_false (hdone d.1 d.2 hd)

theorem jobEvents : JobEvents := by
  intro s j cl c
  refine ⟨fun r hroom hj hm => matrixJobAdmission_ok hroom hj hm, fun hj => ⟨fun hrun hready harray => ?_, fun hrun hp hd => ?_⟩⟩
  · exact matrixJobStart_ok hj hrun hready harray
  · have h := matrixJobCompletion_ok hj hrun hp hd
    refine ⟨fun hn => ?_, fun k loc hs => ?_⟩
    · rw [hn] at h
      exact h
    · rw [hs] at h
      exact h

/-- Settles O19: the events by their conditions, the engine's step by the object's kind and the phase that is due. -/
theorem matrixEvents : Obligations.MatrixEvents := ⟨jobEvents, engineStepsArrive⟩

end Sys2Proof.Proofs
end

section
/-! The members of a copy program (10 R204). -/

namespace Sys2Proof.Proofs

open Sys2Proof Sys2Proof.Machine Sys2Proof.Laws

/-- What passes in two parts, passes part by part. -/
theorem passes_bind_iff {α β : Type} {m : M α} {f : α → M β} {s t : State} {b : β} :
    Passes (m >>= f) s b t ↔ ∃ a u, Passes m s a u ∧ Passes (f a) u b t := by
  refine ⟨fun h => ?_, fun ⟨a, u, hm, hf⟩ => (bind_passes hm).trans hf⟩
  cases hm : m s with
  | error e =>
    have he : (m >>= f) s = .error e := by simp [bind, StateT.bind, Except.bind, hm]
    cases he.symm.trans h
  | ok r => exact ⟨r.1, r.2, hm, (bind_passes (m := m) hm).symm.trans h⟩

/-! The kind of an access names it in the access log alone. -/

theorem tryResolve_kind {s s1 : State} {core part slice n : Nat} {via : Via} {va : Word} {acc : Acc} {p : Place}
    (h : s.tryResolve core part slice via va n acc = (s1, .ok p)) (k : Nat) :
    s.tryResolve core part slice via va n { acc with kind := k } = (s1, .ok p) := by
  revert h
  unfold State.tryResolve Acc.granted
  dsimp only
  split
  · split
    · exact id
    · exact fun h => by cases h
  · split
    · split
      · exact fun h => by cases h
      · exact id
    · exact id
    · exact fun h => by cases h
  · exact id

/-- How an access whose translation ends in `r` goes on (06 R101). -/
def resolved (va : Word) (sparse : Nat) (r : State × Except Cause Place) : M Place := do
  set { r.1 with t := { r.1.t with access := sparse, accessVa := va } }
  match r.2 with
  | .ok p =>
    match p with
    | .mem k => if r.1.padHeld r.1.t.coreid k then stayNow
    | _ => pure ()
    pure p
  | .error c => trapNow c va

/-- A copy hart's accesses are an engine's. -/
def namedAcc (s : State) (acc : Acc) : Acc := if s.t.kind = .hart then { acc with kind := 5 } else acc

def viaOf (s : State) : Via := if s.t.kind = .hart then .cluster else .core

theorem resolveAt_run (va : Word) (al n : Nat) (acc : Acc) (s : State) : resolveAt va al n acc s =
    if va.toNat % al == 0 then
      if acc.x || s.noseAllows s.t.coreid va then
        resolved va acc.sparse
          (s.tryResolve s.t.coreid (s.partNo s.t.coreid) s.t.sliceid.toNat (viaOf s) va n (namedAcc s acc)) s
      else .error (.trap .accv va .before s)
    else .error (.trap .align va .before s) := by
  unfold resolveAt
  rw [bind_require, bind_get, bind_require]
  rfl

theorem resolveAt_kind {va : Word} {al n : Nat} {acc : Acc} {s s1 : State} {p : Place} (h : Passes (resolveAt va al n acc) s p s1)
    (k : Nat) : Passes (resolveAt va al n { acc with kind := k }) s p s1 := by
  unfold Passes at h ⊢
  rw [resolveAt_run] at h ⊢
  split at h
  · next hal =>
    split at h
    · next hx =>
      rw [if_pos hal, if_pos hx]
      unfold namedAcc at h ⊢
      by_cases hh : s.t.kind = .hart
      · rwa [if_pos hh] at h ⊢
      · rw [if_neg hh] at h ⊢
        generalize hr : s.tryResolve s.t.coreid (s.partNo s.t.coreid) s.t.sliceid.toNat (viaOf s) va n acc = r at h
        obtain ⟨s2, r⟩ := r
        cases r with
        | ok q => rwa [tryResolve_kind hr k]
        | error c => cases h
    · cases h
  · cases h

theorem resolveMem_kind {va : Word} {n : Nat} {acc : Acc} {s s1 : State} {k : Nat} (h : Passes (resolveMem va n acc) s k s1)
    (x : Nat) : Passes (resolveMem va n { acc with kind := x }) s k s1 := by
  unfold resolveMem resolveMemAt at h ⊢
  obtain ⟨p, u, hp, hk⟩ := passes_bind_iff.1 h
  exact passes_bind_iff.2 ⟨p, u, resolveAt_kind hp x, hk⟩

theorem burstKeys_kind {acc : Acc} (x : Nat) : ∀ {n : Nat} {va : Word} {s s1 : State} {ks : List Nat},
    Passes (burstKeys acc n va) s ks s1 → Passes (burstKeys { acc with kind := x } n va) s ks s1
  | 0, _, _, _, _, h => h
  | n + 1, va, s, s1, ks, h => by
    unfold burstKeys at h ⊢
    obtain ⟨k, u, hk, h⟩ := passes_bind_iff.1 h
    obtain ⟨l, v, hl, h⟩ := passes_bind_iff.1 h
    exact passes_bind_iff.2 ⟨k, u, resolveMem_kind hk x, passes_bind_iff.2 ⟨l, v, burstKeys_kind x hl, h⟩⟩

/-- Settles O20: BURST makes the checks of `burstKeys` as an engine, which differ from a thread's in the access log alone. -/
theorem copyInstructionsComplete : Obligations.CopyInstructionsComplete := by
  intro b a dv d s s1 s2 c ks kd hc ha
  refine ⟨fun v hv => completes_of_gate rfl fun hq => ?_, fun hadm hz => ?_, fun hb hd hstop => ?_⟩
  · rw [bind_passes (readSrc_passes ha), bind_get, hc]
    dsimp only
    rw [hv]
    exact finishWith hq
  · show execCxdone a s = _
    refine runM_stay ?_
    rw [bind_passes (gate_passes hadm), bind_passes (readSrc_passes ha), bind_get, hc]
    dsimp only
    rw [if_neg (by simpa using hz)]
    rfl
  · intro len n dst remote h0 h512 hrem hload hstore
    dsimp only
    refine completesVia_of rfl fun hadm hq => ?_
    rw [bind_passes (gate_passes hadm), bind_passes (readSrc_passes hb), bind_passes (readSrc_passes ha),
      bind_passes (readSrc_passes hd), bind_get, hc]
    dsimp only
    rw [hstop, if_neg Bool.false_ne_true]
    have hload' : Passes (burstKeys Acc.engineLoad (srcVal s b).toNat (srcVal s a)) s ks s1 := burstKeys_kind 5 hload
    have hlen : ¬ (decide ((srcVal s b).toNat = 0) || decide (512 < (srcVal s b).toNat) ||
        decide (c.remaining < (srcVal s b).toNat)) = true := by
      change 0 < (srcVal s b).toNat at h0
      change (srcVal s b).toNat ≤ 512 at h512
      change (srcVal s b).toNat ≤ c.remaining at hrem
      simp only [Bool.or_eq_true, decide_eq_true_eq]
      omega
    rw [if_neg hlen, bind_passes hload']
    cases hr : remote with
    | true =>
      rw [hr, if_pos rfl] at hstore
      obtain ⟨rfl, rfl, hpeer⟩ := hstore
      rw [if_pos hr, bind_pure_run, bind_get, if_neg (by rw [hpeer]; simp)]
      rw [bind_modS, bind_modS, bind_modS]
      simp only [show (classOf (srcVal s dv) == .remote) = true from hr, if_true, hr] at hq ⊢
      exact retire_passes hq _
    | false =>
      rw [hr, if_neg Bool.false_ne_true] at hstore
      have hstore' : Passes (burstKeys Acc.engineStore (srcVal s b).toNat (srcVal s dv)) s1 kd s2 := burstKeys_kind 5 hstore
      rw [if_neg (by rw [show (classOf (srcVal s dv) == .remote) = false from hr]; simp), bind_passes hstore', bind_get,
        if_neg (by rw [show (classOf (srcVal s dv) == .remote) = false from hr]; simp)]
      rw [bind_modS, bind_modS, bind_modS]
      simp only [show (classOf (srcVal s dv) == .remote) = false from hr, Bool.false_eq_true, if_false, hr] at hq ⊢
      exact retire_passes hq _

end Sys2Proof.Proofs
end

section
/-! Tags, subscriptions and streams (10 R209 to R212). -/

namespace Sys2Proof.Proofs

open Sys2Proof Sys2Proof.Machine Sys2Proof.Laws

/-! Tags. -/

theorem and_or_ne_zero {m t : Word} (h : t &&& m ≠ 0) (p : Word) : m &&& (t ||| p) ≠ 0 := by
  intro h0
  apply h
  calc t &&& m = t &&& (m &&& (t ||| p)) := by ext i; simp; grind
    _ = 0 := by rw [h0]; simp

theorem and_not_or_eq_zero {m t : Word} (h : t &&& m = m) (p : Word) : m &&& ~~~(t ||| p) = 0 := by
  rw [← h]
  ext i
  simp
  grind

theorem quiet_tagrdy (s : State) (x : Word) : quiet { s with t := { s.t with tagrdy := x } } = quiet s :=
  quiet_with_t ⟨rfl, rfl, rfl, rfl⟩

/-- A wait member whose tags are there. -/
theorem tagWait_passes {i : Instr} {a : Src} {all : Bool} {s : State} (hadm : admits i s = true) (ha : readable s a = true)
    (ht : s.transferOf s.t.coreid = none)
    (h : if all then s.t.tagrdy &&& srcVal s a = srcVal s a else s.t.tagrdy &&& srcVal s a ≠ 0) :
    Passes (tagWait i a all) s (s.t.tagrdy &&& srcVal s a, srcVal s a) (s.acquire s.t.coreid) := by
  unfold Passes tagWait
  rw [bind_passes (gate_passes hadm), bind_passes (readSrc_passes ha), bind_passes (notInTransfer_passes ht), bind_get]
  dsimp only
  cases all with
  | true =>
    rw [if_pos rfl] at h
    rw [bind_require, if_pos rfl, if_pos (by simpa using and_not_or_eq_zero h _), if_pos (by simpa using h)]
    rfl
  | false =>
    rw [if_neg Bool.false_ne_true] at h
    rw [bind_require, if_neg Bool.false_ne_true, if_pos (by simpa using and_or_ne_zero h _), if_pos (by simpa using h)]
    rfl

theorem tagsComplete : TagsComplete := by
  intro a d s found acq
  have hacq : quiet s = true → quiet acq = true := fun hq => by rwa [quiet_acquire]
  refine ⟨completes_of_gate rfl fun hq => ?_, fun ha => ⟨completes_of_gate rfl fun hq => ?_, fun ht => ?_⟩⟩
  · rw [bind_readT]
    exact finishWith hq
  · rw [bind_passes (readSrc_passes ha), bind_modT]
    exact retire_passes ((quiet_tagrdy s _).trans hq) _
  · refine ⟨fun h => fun hr => ?_, fun h => fun hr => ?_, fun h => fun hr => ?_⟩
    all_goals obtain ⟨hadm, hq⟩ := ready_iff.1 hr
    · refine exec_ok (m := _) rfl ?_
      rw [bind_passes (tagWait_passes (all := false) hadm ha ht h)]
      exact finishWith (hacq hq)
    · refine exec_ok (m := _) rfl ?_
      rw [bind_passes (tagWait_passes (all := true) hadm ha ht h)]
      exact finishWith (hacq hq)
    · refine exec_ok (m := _) rfl ?_
      rw [bind_passes (tagWait_passes (all := false) hadm ha ht h)]
      dsimp only
      rw [bind_modT]
      exact finishWith ((quiet_tagrdy _ _).trans (hacq hq))

/-! Subscriptions. -/

theorem subscriptionsComplete : SubscriptionsComplete := by
  intro a d s s1 key loc ht h r loader o
  refine ⟨fun hrole hsub htype hring hfree hglobal hlen => ?_, fun hsub hmode => ?_⟩
  · refine completesVia_handle rfl ht fun hq => ?_
    rw [bind_readT_id, bind_require, if_pos (by simpa using hrole), bind_readS, hsub, if_neg (by simp)]
    refine (bind_require _ _ _ _ _).trans ?_
    rw [if_pos (by simpa using htype), bind_passes hring]
    dsimp only
    rw [bind_get, bind_require, if_pos (by simpa using hfree), bind_require, if_pos (by simpa using hglobal),
      bind_passes (release_passes _), if_neg hlen, bind_modS]
    exact retire_passes hq _
  · intro hr
    obtain ⟨hadm, hq⟩ := ready_iff.1 hr
    refine exec_ok (show exec (.unsub d) s = execUnsub d s from rfl) ?_
    rw [bind_passes (handleGate_passes hadm ht), bind_readT_id, bind_readS]
    rw [hsub, hmode]
    dsimp only
    rw [bind_passes (acquire_passes s)]
    exact retire_passes (by rwa [quiet_acquire]) _

/-- Settles O21: what waits for tags passes with its tags there; SUBSCR's checks are the statement's. -/
theorem tagsAndStreamsComplete : Obligations.TagsAndStreamsComplete := ⟨tagsComplete, subscriptionsComplete⟩

/-! Streams. -/

theorem loaderSlotFill_ok {s s1 : State} {x : Subscription} {key : Nat} {bs : List Byte} (hkey : s.locKey x.part x.loc = some key)
    (hring : (s.obj key).kind = Obj.ring) (hbroken : (s.obj key).broken = false) (hheld : s.padHeld engineAgent key = false)
    (hsub : s.eventSub true = some x) (hending : x.ending = false) (hfaulted : x.faulted = false)
    (hslot : s.padHeld engineAgent (padBase + (s.obj key).basePad x.loc + (s.obj key).producerIndex *
      (s.obj key).slotSize) = false)
    (hroom : (s.obj key).arrived < (s.obj key).expected) :
    let o := s.obj key
    let total := streamLength x.shape.toNat
    let m := min (o.slotSize / (typeBits (shapeType x.shape.toNat) / 8)) (total - x.done)
    State.loadElems x m x.done s = (s1, bs, none) →
    let s2 := s1.writeFor x.agent (padBase + o.basePad x.loc + o.producerIndex * o.slotSize) (padTo o.slotSize bs)
    let s3 := (s2.ringStep x.agent key true).modSub x fun y => { y with done := x.done + m, faulted := false }
    exec .loaderSlotFill s = .next (if total ≤ x.done + m then s3.endSub x else s3.nextSlot x) := by
  intro o total m hload
  refine exec_ok (show exec .loaderSlotFill s = execLoaderSlotFill s from rfl) ?_
  rw [bind_get, hsub]
  dsimp only
  rw [hkey]
  dsimp only
  rw [if_neg (by simp [hending, hring, hbroken]), if_neg (by simp [hheld, hslot, hroom])]
  unfold modS
  simp only [hfaulted, Bool.false_eq_true, if_false, Bool.false_or]
  rw [show State.loadElems x (min _ _) x.done s = (s1, bs, none) from hload]
  rfl

theorem storerSlotDrain_ok {s s1 : State} {x : Subscription} {key : Nat} (hkey : s.locKey x.part x.loc = some key)
    (hring : (s.obj key).kind = Obj.ring) (hbroken : (s.obj key).broken = false) (hheld : s.padHeld engineAgent key = false)
    (hsub : s.eventSub false = some x)
    (hslot : s.padHeld engineAgent (padBase + (s.obj key).basePad x.loc + (s.obj key).consumerIndex *
      (s.obj key).slotSize) = false)
    (hfilled : (s.obj key).arrived ≠ 0) :
    let o := s.obj key
    let total := streamLength x.shape.toNat
    let m := min (o.slotSize / (typeBits (shapeType x.shape.toNat) / 8)) (total - x.done)
    State.storeElems x m x.done (padBase + o.basePad x.loc + o.consumerIndex * o.slotSize) s = (s1, none) →
    let s2 := (s1.ringStep x.agent key false).modSub x fun y => { y with done := x.done + m }
    exec .storerSlotDrain s = .next (if total ≤ x.done + m then s2.endSub x else s2.nextSlot x) := by
  intro o total m hstore
  refine exec_ok (show exec .storerSlotDrain s = execStorerSlotDrain s from rfl) ?_
  rw [bind_get, hsub]
  dsimp only
  rw [hkey]
  dsimp only
  rw [if_neg (by simp [hring, hbroken, hfilled]), if_neg (by simp [hheld, hslot, hfilled])]
  unfold modS
  dsimp only
  rw [show State.storeElems x (min _ _) x.done _ s = (s1, none) from hstore]

/-- Settles O23: the ring's and the pads' conditions hold, so a slot's elements pass and the subscription goes on or ends. -/
theorem streamEvents : Obligations.StreamEvents := by
  intro s x key hkey o z total m slot hring hbroken hheld
  exact ⟨fun hsub hending hfaulted hslot hroom s1 bs => loaderSlotFill_ok hkey hring hbroken hheld hsub hending hfaulted hslot hroom,
    fun hsub hslot hfilled s1 => storerSlotDrain_ok hkey hring hbroken hheld hsub hslot hfilled⟩

end Sys2Proof.Proofs
end

section
/-! What takes effect once for an activity, and the members on objects (09 R167, R173 to R190). -/

namespace Sys2Proof.Proofs

open Sys2Proof Sys2Proof.Machine Sys2Proof.Laws

/-! Once for an activity. -/

/-- A value received by the destination, where there is one. -/
def received (s : State) (d : Option Code) (v : Word) : State :=
  match d with
  | some c => setDest s c v
  | none => s

/-- A follower does nothing but take its leader's value. -/
theorem shared_follower {i : Instr} {d : Option Code} {m : M Word} {s : State} {e : Skew}
    (he : exec i s = runM (shared i d m) s) (hl : s.leaderEntry = some e) :
    Completes i s (advanced (received s d e.dval) i) := by
  refine completes_of_gate he fun hq => ?_
  rw [bind_readS, hl]
  dsimp only
  cases d with
  | none => exact retire_passes hq i
  | some c => exact finishWith hq

/-- Another thread does what the instruction means. -/
theorem once_of {i : Instr} {d : Option Code} {m : M Word} {s s1 : State} {v : Word}
    (he : exec i s = runM (shared i d m) s) (h : Passes m s v s1) : OnceCompletes i d s s1 v := by
  intro hl hadm hq
  refine exec_ok he ?_
  unfold shared
  rw [bind_passes (gate_passes hadm), bind_readS, hl]
  dsimp only
  rw [bind_passes h]
  cases d with
  | none => exact retireWith_passes hq i 0 v
  | some c =>
    dsimp only
    rw [bind_passes (writeD_passes ..)]
    exact retireWith_passes (by rwa [quiet_setDest]) i 0 v

/-- What the instruction means holds the thread. -/
theorem once_stays {i : Instr} {d : Option Code} {m : M Word} {s s1 : State}
    (he : exec i s = runM (shared i d m) s) (hl : s.leaderEntry = none) (hadm : admits i s = true)
    (h : m s = .error (.stay s1)) : exec i s = .next s1 := by
  rw [he]
  refine runM_stay ?_
  unfold shared
  rw [bind_passes (gate_passes hadm), bind_readS, hl]
  simp [bind, StateT.bind, Except.bind, h]

theorem exec_of_onceDest {i : Instr} {d : Option Code} (h : onceDest i = some d) (s : State) :
    ∃ m, exec i s = runM (shared i d m) s := by
  cases i with
  | obnew | wait | lock | obrd | rankof | spawn | ttarm | now | sync | obdel | arrive | arriveLeave | arriveb | signal | unlock
  | obxfer | msgsend =>
    obtain rfl := Option.some.inj h
    exact ⟨_, rfl⟩
  | _ => exact absurd h.symm (Option.some_ne_none _)

/-- Settles O24: each of them is `shared`. -/
theorem followersTakeTheLeadersValue : Obligations.FollowersTakeTheLeadersValue := by
  intro i d e s hi hl
  obtain ⟨m, hm⟩ := exec_of_onceDest hi s
  exact shared_follower hm hl

end Sys2Proof.Proofs
end

section
/-! The members on objects (09 R173 to R190). -/

namespace Sys2Proof.Proofs

open Sys2Proof Sys2Proof.Machine Sys2Proof.Laws

/-- The first check of OBNEW on its descriptor. -/
theorem newKind_lawful {kind : Nat} {f42 f33 ctr : Bool} (h1 : 1 ≤ kind) (h6 : kind ≤ 6) (h42 : f42 = false) (h33 : f33 = false)
    (hctr : ctr = true → kind = Obj.ctr) :
    (decide (1 ≤ kind) && decide (kind ≤ 6) && !f42 && !f33 && (!ctr || kind == Obj.ctr)) = true := by
  subst h42 h33
  simp only [decide_eq_true h1, decide_eq_true h6, Bool.not_false, Bool.and_true, Bool.true_and]
  cases ctr with
  | false => rfl
  | true => simpa using hctr rfl

/-- The second, on what it expects. -/
theorem newCount_lawful {kind x : Nat} (hbar : kind = Obj.bar ∨ kind = Obj.bbar → x ≠ 0) (hlock : kind = Obj.lock → x = 0)
    (hring : kind = Obj.ring → x ≠ 0 ∧ x ≤ 255) :
    (!((kind == Obj.bar || kind == Obj.bbar) && x == 0) && !(kind == Obj.lock && x != 0) &&
      !(kind == Obj.ring && (x == 0 || decide (255 < x)))) = true := by
  simp only [Bool.and_eq_true, Bool.not_eq_true', Bool.and_eq_false_iff, Bool.or_eq_false_iff, beq_eq_false_iff_ne,
    bne_eq_false_iff_eq, decide_eq_false_iff_not]
  refine ⟨⟨?_, ?_⟩, ?_⟩
  · by_cases h : kind = Obj.bar ∨ kind = Obj.bbar
    · exact .inr (hbar h)
    · exact .inl (not_or.1 h)
  · by_cases h : kind = Obj.lock
    · exact .inr (hlock h)
    · exact .inl h
  · by_cases h : kind = Obj.ring
    · exact .inr ⟨(hring h).1, by have := (hring h).2; omega⟩
    · exact .inl h

theorem retirable {waited bound held owes : Bool} (hw : waited = false) (hb : bound = false) (hh : held = false)
    (ho : owes = false) : (!waited && !bound && !held && !owes) = true := by
  rw [hw, hb, hh, ho]
  rfl

theorem objectsComplete : ObjectsComplete := by
  intro b a d s s0 s1 key loc r ha av bv core os o
  refine ⟨?_, fun hfind => ⟨fun hw ho hbound hfree howes => ?_, ?_, fun hb h3 => ?_⟩⟩
  · intro hb hfind i kind x dutyCtr duty h1 h6 h42 h33 hctr hbar hlock hring hrank hduty new s2 s3 ref
    refine once_of rfl ?_
    unfold Passes
    rw [bind_passes (readSrc_passes ha), bind_passes (readSrc_passes hb), bind_passes hfind]
    dsimp only
    rw [bind_require, if_pos (newKind_lawful h1 h6 h42 h33 hctr), bind_require, if_pos (newCount_lawful hbar hlock hring),
      bind_passes hrank, bind_get]
    have hval : (if (decide (kind = Obj.lock) || decide (kind = Obj.ring)) = true then ref else ref + word (2 ^ 48)) =
        if kind = Obj.lock ∨ kind = Obj.ring then ref else ref + word (2 ^ 48) := by
      simp only [Bool.or_eq_true, decide_eq_true_eq]
    rw [← hval]
    rcases Option.eq_none_or_eq_some duty with hd | ⟨k, hd⟩
    · rw [show s3 = s2 from by simp only [s3, hd]]
      rw [show creatorDuty (fieldOf (srcVal s b) 44 4) (fieldOf (srcVal s b) 34 8 * 2 ^ 16 + fieldOf (srcVal s b) 48 16)
        (flagOf (srcVal s b) 43) = none from hd]
      rfl
    · obtain ⟨hfull, hphased⟩ := hduty k hd
      have hnone : (k.phased && ((findDuty (s1.table s1.t.coreid) loc .arrive).isSome ||
          (findDuty (s1.table s1.t.coreid) loc .bytes).isSome)) = false := by
        cases hk : k.phased with
        | false => rfl
        | true =>
          obtain ⟨ha, hb⟩ := hphased hk
          rw [show findDuty (s1.table s1.t.coreid) loc .arrive = none from ha,
            show findDuty (s1.table s1.t.coreid) loc .bytes = none from hb]
          rfl
      simp only [s3, hd]
      rw [show creatorDuty (fieldOf (srcVal s b) 44 4) (fieldOf (srcVal s b) 34 8 * 2 ^ 16 + fieldOf (srcVal s b) 48 16)
        (flagOf (srcVal s b) 43) = some k from hd]
      dsimp only
      rw [hnone, if_neg Bool.false_ne_true, show tableFull (s1.table s1.t.coreid) loc k = false from hfull,
        if_neg Bool.false_ne_true]
      rfl
  · refine once_of rfl ?_
    unfold Passes
    rw [bind_passes (readSrc_passes ha), bind_passes hfind]
    dsimp only
    rw [bind_get, bind_require, if_pos, bind_passes (release_passes _), bind_modS]
    · rfl
    · refine retirable ?_ ?_ ?_ howes
      · rw [hw, ho]
        rfl
      · by_cases h : o.kind = Obj.ring
        · simp [hbound h]
        · simp [o, h]
      · by_cases h : o.kind = Obj.lock
        · simp [hfree h]
        · simp [o, h]
  · refine once_of rfl ?_
    unfold Passes
    rw [bind_passes (readSrc_passes ha), bind_passes hfind]
    dsimp only
    rw [bind_passes (arrived_passes key s1)]
    rfl
  · refine once_of rfl ?_
    unfold Passes
    rw [bind_passes (readSrc_passes ha), bind_passes (readSrc_passes hb), bind_passes hfind]
    dsimp only
    rw [bind_require, if_pos (decide_eq_true h3), bind_passes (arrived_passes key s1)]
    rfl

/-! Arrivals. -/

/-- An arrival's further operand: none, or one that reads as `v`. -/
def ReadsBytes (bytes : Option (M Word)) (s : State) (n : Option Word) : Prop :=
  match bytes with
  | none => n = none
  | some m => ∃ v, n = some v ∧ Passes m s v s

/-- The units of an arrival: the entry's, or the operand's where they are held. -/
def UnitsOf (o : Obj) (held : List Nat) (count : Nat) : Option Word → Nat → Prop
  | none, c => c = count
  | some v, c => c = v.toNat ∧ o.kind = Obj.bbar ∧ v ≠ 0 ∧ v.toNat ≤ held.foldl (· + ·) 0

theorem arrival_retired {i : Instr} {a : Src} {leave orphan : Bool} {bytes : Option (M Word)} {n : Option Word} {s s1 : State}
    {key loc : Nat} {e : Oblig} (he : exec i s = runM (arriveOn i a leave bytes) s) (ha : readable s a = true)
    (hbytes : ReadsBytes bytes s n)
    (hfind : Passes (findDischarge [Obj.bar, Obj.bbar] (refOf (srcVal s a))) s (key, loc, s1.obj key) s1)
    (hkind : (s1.obj key).kind = 0) (hduty : s1.anyDuty s1.t.coreid loc [.arrive, .bytes] = some (e, orphan)) :
    OnceCompletes i none s (s1.updateDuty s1.t.coreid loc e.kind orphan none) 0 := by
  refine once_of he ?_
  unfold Passes
  rw [bind_passes (readSrc_passes ha)]
  cases bytes with
  | none =>
    dsimp only
    rw [bind_pure_run, bind_passes hfind]
    dsimp only
    rw [bind_get, if_pos hkind, hduty]
    rfl
  | some m =>
    obtain ⟨v, -, hm⟩ := hbytes
    dsimp only
    rw [bind_passes hm, bind_pure_run, bind_passes hfind]
    dsimp only
    rw [bind_get, if_pos hkind, hduty]
    rfl

theorem arrival_ok {i : Instr} {a : Src} {leave orphan : Bool} {bytes : Option (M Word)} {n : Option Word} {s s1 : State}
    {key loc c : Nat} {e : Oblig} {es : List (Oblig × Bool)} (he : exec i s = runM (arriveOn i a leave bytes) s)
    (ha : readable s a = true) (hbytes : ReadsBytes bytes s n)
    (hfind : Passes (findDischarge [Obj.bar, Obj.bbar] (refOf (srcVal s a))) s (key, loc, s1.obj key) s1)
    (hkind : (s1.obj key).kind ≠ 0)
    (hes : s1.dueAt s1.t.coreid loc (arrivalDuty (s1.obj key)) (s1.obj key).phase = (e, orphan) :: es)
    (hc : UnitsOf (s1.obj key) (((e, orphan) :: es).map (·.1.count)) e.count n c)
    (hfit : (s1.obj key).arrived + c ≤ (s1.obj key).expected) :
    let o := s1.obj key
    let core := s1.t.coreid
    let left := if leave then (if o.kind = Obj.bar then e.count else e.share) else 0
    OnceCompletes i none s (((State.arriveFrom core loc o.broken leave ((e, orphan) :: es) c s1).setObj core key { o with
      arrived := o.arrived + c, aux := putBits o.aux 0 32 (o.aux % 2 ^ 32 + left) }).settled core key) 0 := by
  refine once_of he ?_
  unfold Passes
  rw [bind_passes (readSrc_passes ha)]
  cases bytes with
  | none =>
    obtain rfl : n = none := hbytes
    obtain rfl : c = e.count := hc
    dsimp only
    rw [bind_pure_run, bind_passes hfind]
    dsimp only
    rw [bind_get, if_neg hkind, hes]
    dsimp only
    rw [bind_pure_run, bind_require, if_pos (decide_eq_true hfit)]
    rfl
  | some m =>
    obtain ⟨v, rfl, hm⟩ := hbytes
    obtain ⟨rfl, hbbar, hv, hle⟩ := hc
    dsimp only
    rw [bind_passes hm, bind_pure_run, bind_passes hfind]
    dsimp only
    rw [bind_get, if_neg hkind, hes]
    dsimp only
    rw [bind_require, if_pos (by rw [hbbar]; simpa using hv), bind_require, if_pos (decide_eq_true hle), bind_pure_run,
      bind_require,
      if_pos (decide_eq_true hfit)]
    rfl

theorem arrivalsComplete : ArrivalsComplete := by
  intro b a s s1 key loc e orphan ha o core hfind
  refine ⟨fun hkind hduty => ?_, fun hkind es hes => ?_⟩
  · intro ends
    exact ⟨arrival_retired (n := none) rfl ha rfl hfind hkind hduty, arrival_retired (n := none) rfl ha rfl hfind hkind hduty,
      fun hb => arrival_retired rfl ha ⟨_, rfl, readSrc_passes hb⟩ hfind hkind hduty⟩
  · intro arrives
    refine ⟨fun hfit => arrival_ok (n := none) rfl ha rfl hfind hkind hes rfl hfit,
      fun hfit => arrival_ok (n := none) rfl ha rfl hfind hkind hes rfl hfit, fun hb hbbar hv hle hfit =>
      arrival_ok rfl ha ⟨_, rfl, readSrc_passes hb⟩ hfind hkind hes ⟨rfl, hbbar, hv, ?_⟩ hfit⟩
    rwa [List.map_cons, List.foldl_cons, Nat.add_comm, List.foldl_assoc]

/-- Settles O25: each is `shared`, and the hypotheses are its checks in their order. -/
theorem objectMembersComplete : Obligations.ObjectMembersComplete := ⟨objectsComplete, arrivalsComplete⟩

end Sys2Proof.Proofs
end

section
/-! Waits, signals, locks and transfers of duties (09 R175, R176, R186 to R189). -/

namespace Sys2Proof.Proofs

open Sys2Proof Sys2Proof.Machine Sys2Proof.Laws

/-! The current context stays the current one. -/

theorem setCtx_coreid (s : State) (c : Ctx) : (s.setCtx c).t.coreid = s.t.coreid := by
  unfold State.setCtx
  split
  · next h => exact h
  · rfl

theorem bankArrive_coreid (s : State) (key n : Nat) : (s.bankArrive key n).t.coreid = s.t.coreid := by
  unfold State.bankArrive
  dsimp only
  split
  · rfl
  · split
    · split
      · rw [triggerStop_t]
        rfl
      · split
        · rfl
        · rw [setCtx_coreid]
          rfl
    · rfl

/-- A listed wait holds the thread. -/
theorem waitListed_run {α : Type} (i : Instr) (d : Code) (key loc : Nat) (v : BitVec 16) (lock : Bool) (s : State) :
    (waitListed i d key loc v lock : M α) s = .error (.stay { s with
      t := { s.t with dest := d, len := i.len, mode := .waiting (if lock then .lock key loc else .object key loc v) }
      waiters := s.waiters ++ [⟨key, s.t.coreid, v, lock⟩] }) := rfl

theorem waitCompletesOrWaits : WaitCompletesOrWaits := by
  intro a d s s1 key loc ha ht hl i ref o core v hfind hmay s2
  have hcore : core = s2.t.coreid := (bankArrive_coreid s1 key 32).symm
  refine ⟨fun h => once_of rfl ?_, fun h hadm => once_stays rfl hl hadm ?_⟩
  · unfold Passes
    rw [bind_passes (notInTransfer_passes ht), bind_passes (readSrc_passes ha), bind_passes hfind]
    dsimp only
    rw [bind_get, bind_require, if_pos hmay, bind_passes (arrived_passes key s1), if_pos h, bind_passes (acquire_passes _), hcore]
    rfl
  · rw [bind_passes (notInTransfer_passes ht), bind_passes (readSrc_passes ha), bind_passes hfind]
    dsimp only
    rw [bind_get, bind_require, if_pos hmay, bind_passes (arrived_passes key s1), if_neg (ne_true_of_eq_false h), waitListed_run,
      hcore]
    rfl

theorem signalsAndLocksComplete : SignalsAndLocksComplete := by
  intro b a d s s1 s2 key loc ha ref o core os
  refine ⟨fun hb hfind hkind hsig hmsg hnone => once_of rfl ?_, fun hb hfind hkind e orphan hduty => once_of rfl ?_,
    fun ht hfind hmay => ⟨fun hbroken => once_of rfl ?_, fun hroom hbroken hfree => ?_, fun hroom hbroken htaken hl hadm => ?_⟩,
    fun hfind e orphan hduty => once_of rfl ?_⟩
  · unfold Passes
    rw [bind_passes (readSrc_passes ha), bind_passes (readSrc_passes hb), bind_passes hfind]
    dsimp only
    rw [bind_get, if_neg hkind]
    by_cases hk : o.kind = Obj.sig
    · rw [if_pos hk]
      dsimp only
      rw [show s1.discharge s1.t.coreid loc .signal (max 1 (srcVal s b).toNat) = some s2 from hsig hk]
      rfl
    · rw [if_neg hk]
      cases hd : o.dutyCtr with
      | true =>
        rw [if_pos rfl]
        dsimp only
        rw [show s1.discharge s1.t.coreid loc .msg (max 1 (srcVal s b).toNat) = some s2 from hmsg hk hd]
        rfl
      | false =>
        rw [if_neg Bool.false_ne_true, hnone hk hd]
        rfl
  · unfold Passes
    rw [bind_passes (readSrc_passes ha), bind_passes (readSrc_passes hb), bind_passes hfind]
    dsimp only
    rw [bind_get, if_pos hkind, hduty]
    rfl
  · unfold Passes
    rw [bind_passes (notInTransfer_passes ht), bind_passes (readSrc_passes ha), bind_passes hfind]
    dsimp only
    rw [bind_get, bind_require, if_pos hmay, if_pos hbroken, bind_passes (arrived_passes key s1), bind_passes (acquire_passes _),
      bankArrive_coreid]
    rfl
  · refine once_of rfl ?_
    unfold Passes
    rw [bind_passes (notInTransfer_passes ht), bind_passes (readSrc_passes ha), bind_passes hfind]
    dsimp only
    rw [bind_get, bind_require, if_pos hmay, if_neg (ne_true_of_eq_false hbroken), if_neg (ne_true_of_eq_false hroom),
      if_pos hfree]
    rfl
  · intro s2
    have hcore : core = s2.t.coreid := (bankArrive_coreid s1 key 32).symm
    refine once_stays rfl hl hadm ?_
    rw [bind_passes (notInTransfer_passes ht), bind_passes (readSrc_passes ha), bind_passes hfind]
    dsimp only
    rw [bind_get, bind_require, if_pos hmay, if_neg (ne_true_of_eq_false hbroken), if_neg (ne_true_of_eq_false hroom),
      if_neg htaken, bind_passes (arrived_passes key s1), waitListed_run, hcore]
    rfl
  · unfold Passes
    rw [bind_passes (readSrc_passes ha), bind_passes hfind]
    dsimp only
    rw [bind_get, hduty]
    rfl

theorem transferOfDutiesCompletes : TransferOfDutiesCompletes := by
  intro b a dv s s0 s1 key loc o k e x ha hb hd hs1 bv n core p os moved hfind hk hn hfill hdrain hunlock hzero hduty hle hslice hlive
    hpart hother hmerge hroom hwaits s2 s3
  refine once_of rfl ?_
  unfold Passes
  rw [bind_passes (readSrc_passes hd), bind_passes (readSrc_passes ha), bind_passes (readSrc_passes hb), bind_passes hfind]
  dsimp only
  rw [bind_passes (arrived_passes key s0), ← hs1, hk]
  dsimp only
  rw [bind_require, if_pos, bind_get, hduty]
  · dsimp only
    rw [bind_require, if_pos (decide_eq_true hle), hslice]
    dsimp only
    rw [bind_require, if_pos, if_neg (ne_true_of_eq_false hmerge), if_neg (ne_true_of_eq_false hroom),
      show x.threads.find? (fun c => !s1.waitAllows c (s1.addDuty (s1.partNo s1.t.coreid) (s1.sliceTable x) ⟨loc, k,
        fieldOf (srcVal s b) 0 32, 0, e.due, false, false, false⟩)) = none from hwaits]
    · rfl
    · simp only [Bool.and_eq_true, beq_iff_eq, bne_iff_ne]
      exact ⟨⟨hlive, hpart⟩, hother⟩
  · have hu : (k == .unlock && n != 1) = false := by
      by_cases h : k = .unlock
      · simp [hunlock h]
      · simp [h]
    simp only [Bool.and_eq_true, bne_iff_ne, ne_eq, Bool.not_eq_true', beq_iff_eq]
    exact ⟨⟨⟨⟨hn, hfill⟩, hdrain⟩, hu⟩, hzero⟩

/-- Settles O26: each is `shared`; a wait that is not over yet lists the thread and stays. -/
theorem waitsAndSignalsComplete : Obligations.WaitsAndSignalsComplete :=
  ⟨waitCompletesOrWaits, signalsAndLocksComplete, transferOfDutiesCompletes⟩

end Sys2Proof.Proofs
end

section
/-! The members of TASK (09 R191 to R197, 18 R289 to R290, R303). -/

namespace Sys2Proof.Proofs

open Sys2Proof Sys2Proof.Machine Sys2Proof.Laws

theorem spawnAndArmComplete : SpawnAndArmComplete := by
  intro a d s s1 s2 r units counter ha hrec core p given
  refine ⟨fun hcheck hroom => ?_, fun hcheck => ?_⟩
  · dsimp only
    refine once_of rfl ?_
    unfold Passes
    rw [bind_passes (readSrc_passes ha), bind_passes hrec, bind_passes hcheck]
    dsimp only
    rw [bind_get, bind_require, if_pos hroom, bind_passes (release_passes _), bind_set]
    dsimp only [given, p, core]
    generalize ((s2.unrepeatable s2.t.coreid).setTable s2.t.coreid (s2.giveUnits (s2.partNo s2.t.coreid) (s2.table s2.t.coreid)
      units)).pushSlice s2.t.coreid (s2.partNo s2.t.coreid) r (s2.gather (s2.partNo s2.t.coreid) units) counter = x
    obtain ⟨s3, id⟩ := x
    dsimp only
    generalize s3.tryResolve s2.t.coreid (s2.partNo s2.t.coreid) 0 .core (srcVal s a + 56) 8 Acc.load = y
    obtain ⟨s4, y⟩ := y
    cases y with
    | error c => rfl
    | ok q => cases q <;> rfl
  · dsimp only
    refine once_of rfl ?_
    unfold Passes
    rw [bind_passes (readSrc_passes ha), bind_passes hrec, bind_passes hcheck]
    dsimp only
    rw [bind_passes (release_passes _), bind_get, bind_modS, optional_modS]
    rfl

theorem exit_alone {s : State} (hadm : admits .exit s = true) (ht : s.transferOf s.t.coreid = none)
    (hlow : s.lowestDuty s.t.coreid = none) (hgang : s.formedGang s.t.coreid = none) :
    exec .exit s = .next (s.exitSlice s.t.sliceid.toNat) := by
  refine exec_ok (show exec .exit s = execExit s from rfl) ?_
  rw [bind_passes (gate_passes hadm), bind_get, hgang]
  dsimp only
  rw [bind_passes (notInTransfer_passes ht), hlow]
  rfl

theorem exit_member {s : State} (hadm : admits .exit s = true) (ht : s.transferOf s.t.coreid = none)
    (hlow : s.lowestDuty s.t.coreid = none) {id : Nat} {g : Gang} {p : Nat} (hgang : s.formedGang s.t.coreid = some (id, g, p)) :
    let t := (s.complete 4 0 0).endMember id p true
    exec .exit s = .next (if p + 1 = g.members.length then t.exitSlice id else t) := by
  refine exec_ok (show exec .exit s = execExit s from rfl) ?_
  rw [bind_passes (gate_passes hadm), bind_get, hgang]
  dsimp only
  by_cases hp : p = 0
  · rw [if_pos hp, bind_passes (notInTransfer_passes ht), hlow]
    rfl
  · rw [if_neg hp]
    rfl

theorem tasksComplete : TasksComplete := by
  intro a d s ht
  refine ⟨once_of rfl rfl, fun hlow hadm => ⟨exit_alone hadm ht hlow, fun id g p hg => exit_member hadm ht hlow hg⟩,
    fun hl hadm => ?_, fun ha dst cref bs bad s1 s2 hread hsend => once_of rfl ?_⟩
  · intro id t x hx hrun
    have hyield : exec .yield s = .next (t.leave { x := id, y := yieldCode, z := s.t.coreid }) := by
      refine exec_ok (show exec .yield s = execYield s from rfl) ?_
      rw [bind_passes (gate_passes hadm), bind_readS, hl]
      dsimp only
      rw [bind_passes (notInTransfer_passes ht), bind_passes (release_passes _)]
      unfold modS
      dsimp only
      rw [show (s.complete 4 0 0).afterTaken.slice s.t.sliceid.toNat = some x from hx]
      dsimp only
      rw [if_pos (by simpa using hrun)]
    rw [hyield]
    unfold State.leave
    dsimp only
    rw [hx]
    dsimp only
    exact ⟨fun h => by rw [if_pos h]; rfl, fun h => by rw [if_neg (ne_true_of_eq_false h)]⟩
  · unfold Passes
    rw [bind_passes (readSrc_passes ha), bind_passes hread]
    dsimp only
    by_cases hr : (classOf dst == .remote) = true
    · rw [if_pos hr] at hsend ⊢
      rw [bind_passes hsend]
      rfl
    · rw [if_neg hr] at hsend ⊢
      rw [bind_passes hsend]
      rfl

/-- Settles O27: the checks pass as the statement has them, and the effect follows. -/
theorem taskMembersComplete : Obligations.TaskMembersComplete := ⟨spawnAndArmComplete, tasksComplete⟩

end Sys2Proof.Proofs
end

section
/-! Gangs, domains and the routers (11 R215 to R234). -/

namespace Sys2Proof.Proofs

open Sys2Proof Sys2Proof.Machine Sys2Proof.Laws

theorem weltComplete : WeltComplete := by
  intro a d s
  refine ⟨completes_of_gate rfl fun hq => ?_, fun hl => completes_of_gate rfl fun hq => ?_, fun id g p hl ha hg hf hn => ?_,
    fun id g p hg => ?_⟩
  · rw [bind_readT]
    exact finishWith hq
  · rw [bind_readS, if_pos hl]
    exact retire_passes hq _
  · refine completesVia_of rfl fun hadm hq => ?_
    rw [bind_passes (gate_passes hadm), bind_readS, hl, if_neg (by simp)]
    refine (bind_passes (readSrc_passes ha)).trans ?_
    rw [bind_get, bind_get, hg]
    dsimp only
    rw [bind_require, if_pos (by simp [hf, hn]), bind_modS]
    exact retire_passes hq _
  · dsimp only
    refine completesVia_of rfl fun hadm hq => ?_
    rw [bind_passes (gate_passes hadm), bind_get, bind_get, hg]
    exact afterInstr_passes hq

theorem syncArrives : SyncArrives := by
  intro a d s n dom ha hl av core l hfind hzero hphase hmay
  refine ⟨fun hb => once_of rfl ?_, fun hb hadm => once_stays rfl hl hadm ?_⟩
  · unfold Passes
    rw [bind_passes (readSrc_passes ha), bind_get, hfind]
    dsimp only
    rw [bind_require, if_pos (by simpa using hzero), bind_require, if_pos (by rw [hphase]; rfl), bind_require, if_pos hmay,
      bind_passes (release_passes _), if_pos hb]
    rfl
  · rw [bind_passes (readSrc_passes ha), bind_get, hfind]
    dsimp only
    rw [bind_require, if_pos (by simpa using hzero), bind_require, if_pos (by rw [hphase]; rfl), bind_require, if_pos hmay,
      bind_passes (release_passes _), if_neg (ne_true_of_eq_false hb)]
    rfl

/-- Settles O28: the members of WELT pass by the gang's state, SYNC by its domain's. -/
theorem gangsAndDomainsComplete : Obligations.GangsAndDomainsComplete := ⟨weltComplete, syncArrives⟩

/-! The routers. -/

theorem inTransfer_passes {s : State} {n : Nat} {d : Domain} (h : s.transferOf s.t.coreid = some (n, d)) (i : Instr) :
    Passes (inTransfer i) s (s.partNo s.t.coreid, n, d) s := by
  unfold Passes inTransfer
  rw [bind_get, h]
  rfl

theorem sameDue_recvInto (latch : Option (Line × Nat)) (a d : Nat) (c : Ctx) : SameDue (recvInto latch a d c) c := by
  unfold recvInto Ctx.writeK
  cases latch with
  | none => exact ⟨rfl, rfl, rfl, rfl⟩
  | some x =>
    dsimp only
    split <;> exact ⟨rfl, rfl, rfl, rfl⟩

theorem routersComplete : RoutersComplete := by
  intro b a v d s n dom ht core p now bv
  refine ⟨?_, ?_, ?_⟩
  · intro ha av hout hin hzero t
    refine completes_of_gate rfl fun hq => ?_
    rw [bind_passes (readSrc_passes ha), bind_passes (inTransfer_passes ht _)]
    dsimp only
    rw [bind_require, if_pos, bind_modS]
    · exact retire_passes (s := t) hq _
    · simp only [Bool.and_eq_true, Bool.or_eq_true, decide_eq_true_eq, beq_iff_eq]
      exact ⟨⟨hout, hin⟩, hzero⟩
  · intro hb hv hzero x link hentry
    refine ⟨fun hx => ?_, fun hx hadm => ?_⟩
    · intro t
      refine completesVia_of rfl fun hadm hq => ?_
      rw [bind_passes (gate_passes hadm), bind_passes (readSrc_passes hb), bind_passes (readV_passes hv), bind_require,
        if_pos (by simpa using hzero), bind_passes (inTransfer_passes ht _)]
      dsimp only
      rw [bind_get, if_neg (by simpa using hentry), if_neg (Nat.not_lt.2 (Nat.le_of_eq hx.symm)), if_pos hx, bind_modS]
      exact retire_passes hq _
    · intro s1 s2
      refine runM_stay (m := _) ?_
      rw [bind_passes (gate_passes hadm), bind_passes (readSrc_passes hb), bind_passes (readV_passes hv), bind_require,
        if_pos (by simpa using hzero), bind_passes (inTransfer_passes ht _)]
      dsimp only
      rw [bind_get, if_neg (by simpa using hentry), if_neg (Nat.not_lt.2 (Nat.le_of_lt hx)), if_neg (Nat.ne_of_gt hx)]
      rfl
  · intro hb hzero
    refine ⟨fun hx hcome => ?_, fun hx hadm => ?_⟩
    · intro t
      refine completes_of_gate rfl fun hq => ?_
      rw [bind_passes (readSrc_passes hb), bind_require, if_pos (by simpa using hzero), bind_passes (inTransfer_passes ht _)]
      dsimp only
      rw [bind_get, if_pos (by simpa using ⟨hx, hcome⟩), bind_modT]
      exact retire_passes (s := t) ((quiet_with_t (sameDue_recvInto ..)).trans hq) _
    · intro s1 s2
      refine runM_stay (m := _) ?_
      rw [bind_passes (gate_passes hadm), bind_passes (readSrc_passes hb), bind_require, if_pos (by simpa using hzero),
        bind_passes (inTransfer_passes ht _)]
      dsimp only
      rw [bind_get, if_neg (by simpa using fun h => absurd h (Nat.not_lt.2 hx))]
      rfl

/-! The events of gangs and routers. -/

theorem waitResume_ok {s : State} {redo : Bool} (hm : s.t.mode = .released redo) (hq : quiet s.finishWait = true) :
    exec .waitResume s = .next s.finishWait := by
  refine exec_ok (show exec .waitResume s = execWaitResume s from rfl) ?_
  rw [bind_readT, hm]
  dsimp only
  rw [bind_modS]
  exact afterInstr_passes hq

theorem gangSlot_ok {s : State} {g : Gang} (hg : s.gangs.find s.arg.x = some g) (hf : g.formed = true) (hs : g.stopped = false)
    (hb : s.slotBusy g.members = false) :
    exec .gangSlot s = .next { s with agenda := (((List.range g.members.length).filter g.advances).map fun q =>
      .member (g.members.getD q 0) (g.count q)) ++ s.agenda } := by
  show execGangSlot s = _
  unfold execGangSlot
  rw [event_next]
  dsimp only
  rw [hg]
  dsimp only
  rw [if_neg (by simp [hf, hs, hb])]

theorem routerValueArrival_ok {s : State} {f : Flit} {d : Domain}
    (hf : s.flits.find? (fun f => f.cluster == s.arg.x && f.input == s.arg.y && f.cycle == s.arg.z &&
      s.arg.nums == [f.part, f.dom]) = some f)
    (hd : (s.part f.part).domains[f.dom]? = some d) (ht : d.start + f.cycle ≤ s.time)
    (hcome : s.stillComing f.part f.dom (f.cycle - 1) = false) :
    exec .routerValueArrival s = .next (State.arrive { s with flits := s.flits.erase f } d f) := by
  refine exec_ok (show exec .routerValueArrival s = execRouterValueArrival s from rfl) ?_
  rw [bind_get, hf]
  dsimp only
  rw [hd]
  dsimp only
  rw [if_neg (by simpa using ⟨ht, hcome⟩)]
  rfl

theorem gangAndRouterEvents : GangAndRouterEvents := by
  intro s
  refine ⟨fun redo hm hq => waitResume_ok hm hq, fun g hg hf hs hb => gangSlot_ok hg hf hs hb,
    fun f d hf hd ht hcome => routerValueArrival_ok hf hd ht hcome, fun d hd ht => ?_⟩
  intro p n core
  refine ⟨fun hm hr htime => ?_, fun hm hr htime hcome => ?_⟩
  · refine exec_ok (show exec .slotSend s = execSlotSend s from rfl) ?_
    rw [bind_get]
    rw [if_neg (by rw [hm, hr]; simp), hd]
    dsimp only
    rw [ht, if_neg (by simp), if_neg (by omega)]
    rfl
  · refine exec_ok (show exec .xrecvCyclePassed s = execXrecvCyclePassed s from rfl) ?_
    rw [bind_get]
    rw [if_neg (by rw [hm, hr]; simp), hd]
    dsimp only
    rw [ht, if_neg (by simp), if_neg]
    · rfl
    · rw [Bool.or_eq_true, not_or]
      exact ⟨by simpa using htime, ne_true_of_eq_false hcome⟩

/-- Settles O29: a router member passes in its transfer phase; the events by their conditions. -/
theorem routersAndGangEvents : Obligations.RoutersAndGangEvents := ⟨routersComplete, gangAndRouterEvents⟩

end Sys2Proof.Proofs
end

section
/-! Remote stores and atomics, and the members of FAB (13 R253 to R269). -/

namespace Sys2Proof.Proofs

open Sys2Proof Sys2Proof.Machine Sys2Proof.Laws

/-- Checks 3 to 6 of a remote element pass, and its elements are created. -/
theorem remoteIssue_ok {i : Instr} {a : Word} {n bit : Nat} {multi : Option Word} {e : Element} {s : State} {slots : List Nat}
    (halign : fieldOf a 0 57 % n = 0) (hslots : slots = match multi with | none => [fieldOf a 58 6] | some m => setBits 64 m.toNat)
    (hclass : match multi with | none => classOf a = .remote | some _ => fieldOf a 57 7 = 0)
    (haudit : s.auditable s.t.coreid = false) (hpeers : slots.all (s.peerOk s.t.coreid) = true)
    (ht : s.transferOf s.t.coreid = none) (hwatch : unwatched s bit a n = true) (hq : quiet (s.create e slots) = true) :
    Passes (remoteIssue i a n multi bit e) s () (advanced (s.create e slots) i) := by
  subst hslots
  unfold Passes remoteIssue
  rw [bind_require, if_pos (by simpa using halign)]
  cases multi
  all_goals
    dsimp only at hclass hpeers hq ⊢
    rw [bind_require, if_pos (by simpa using hclass), bind_get, bind_require, if_pos (by rw [haudit]; rfl), hpeers,
      if_neg (by simp)]
    refine (bind_passes (notInTransfer_passes ht)).trans ?_
    rw [bind_passes (watch_passes hwatch), bind_modS]
    exact retire_passes hq i

/-- A member of RAMO; `c` is what CAS compares with. -/
theorem ramo_ok {i : Instr} {op : Nat} {wide : Bool} {b a : Src} {cmp : M Word} {c : Word} {s : State}
    (he : exec i s = runM (ramo i op wide b a cmp) s) (hc : Passes cmp s c s) : RemoteCompletes i op wide b a c s := by
  intro ha hb va n slot halign hclass haudit hpeer ht hwatch t
  refine completesVia_of he fun hadm hq => ?_
  unfold ramo
  rw [bind_passes (gate_passes hadm), bind_passes (readSrc_passes ha), bind_passes (readSrc_passes hb), bind_passes hc, bind_get]
  exact remoteIssue_ok halign rfl hclass haudit (by simpa using hpeer) ht hwatch hq

theorem readDest_passes {s : State} {d : Code} (h : readable s (.code d) = true) : Passes (readDest d) s (srcVal s
  (.code d)) s := by
  unfold readDest
  exact readSrc_passes h

/-- Settles O30: every member of RAMO is `ramo`; RST issues by the same checks. -/
theorem remoteOperationsComplete : Obligations.RemoteOperationsComplete := by
  intro w sz b a d s
  have h0 : Passes (pure 0 : M Word) s 0 s := pure_passes 0 s
  refine ⟨ramo_ok rfl h0, ramo_ok rfl h0, ramo_ok rfl h0, ramo_ok rfl h0, ramo_ok rfl h0, ramo_ok rfl h0, ramo_ok rfl h0,
    ramo_ok rfl h0, ramo_ok rfl h0, fun hd => ramo_ok rfl (readDest_passes hd), ramo_ok rfl h0, ramo_ok rfl h0,
    fun ha hb hd hzero => completes_of_gate rfl fun hq => ?_, fun ha hb haudit ht => ?_⟩
  · rw [bind_passes (readSrc_passes ha), bind_passes (readSrc_passes hb), if_pos rfl, bind_passes (readDest_passes hd)]
    dsimp only
    rw [if_pos (by simpa using hzero)]
    exact retire_passes hq _
  · intro va n halign hwatch
    refine ⟨fun hclass hpeer => completesVia_of rfl fun hadm hq => ?_, fun hd hclass hmask hpeers =>
      completesVia_of rfl fun hadm hq => ?_⟩
    · rw [bind_passes (gate_passes hadm), bind_passes (readSrc_passes ha), bind_passes (readSrc_passes hb),
        if_neg Bool.false_ne_true, bind_pure_run]
      dsimp only
      rw [if_neg (by simp), bind_get]
      exact remoteIssue_ok (multi := none) halign rfl hclass haudit (by simpa using hpeer) ht hwatch hq
    · rw [bind_passes (gate_passes hadm), bind_passes (readSrc_passes ha), bind_passes (readSrc_passes hb), if_pos rfl,
        bind_passes (readDest_passes hd)]
      dsimp only
      rw [if_neg (by simpa using hmask), bind_get]
      exact remoteIssue_ok (multi := some _) halign rfl hclass haudit hpeers ht hwatch hq

/-- Settles O31: what is outstanding is none, so FENCEF goes on; the others change their one thing. -/
theorem fabricComplete : Obligations.FabricComplete := by
  intro a d s core flushed
  refine ⟨completesVia_of rfl fun hadm hq => ?_, fun ha hlt hpeer => completesVia_of rfl fun hadm hq => ?_,
    fun ht hout => completesVia_of rfl fun hadm hq => ?_, completesVia_of rfl fun hadm hq => ?_⟩
  · rw [bind_passes (gate_passes hadm), bind_modS]
    exact retire_passes hq _
  · rw [bind_passes (gate_passes hadm), bind_passes (readSrc_passes ha), bind_require, if_pos (decide_eq_true hlt), bind_get,
      bind_require, if_pos hpeer, bind_modS]
    exact retire_passes hq _
  · rw [bind_passes (gate_passes hadm), bind_passes (notInTransfer_passes ht), bind_modS, bind_get, if_neg (by simpa using hout)]
    refine (bind_passes (acquire_passes _)).trans ?_
    exact finishWith hq
  · rw [bind_passes (gate_passes hadm), bind_readS, bind_modS]
    exact finishWith hq

/-! The events of the fabric. -/

theorem sachetAgeDeparture_ok {s : State} {x : Sachet} {e : Element} {es : List Element}
    (hx : s.sachets.find? (fun x => x.die == s.arg.x && x.index == s.arg.y) = some x) (hes : x.elements = e :: es)
    (hz : e.accepted = s.arg.z) (ht : e.accepted + (s.part (s.partNo e.core)).sachage.toNat ≤ s.time) :
    exec .sachetAgeDeparture s = .next (s.depart x) := by
  refine exec_ok (show exec .sachetAgeDeparture s = execSachetAgeDeparture s from rfl) ?_
  rw [bind_get, hx]
  dsimp only
  rw [hes]
  dsimp only
  rw [if_neg (by simpa using hz), if_neg (by omega)]
  rfl

theorem elementApply_ok {s : State} {pk : Packet} (hp : s.arg.packet = some pk) (hheld : pk.elements.any s.elementHeld = false) :
    let (s1, cs) := State.applyAll pk.part pk.elements s
    exec .elementApply s = .next (if pk.src = s.fabric then
        (pk.elements.zip cs).foldl (fun x (e, c) => (x.noteElement e c).acknowledge (pk.dest + pk.part * 2 ^ 16) pk e c) s1
      else { s1 with outbox := s1.outbox ++ [.status pk.src pk cs] }) := by
  refine exec_ok (show exec .elementApply s = execElementApply s from rfl) ?_
  rw [bind_get, hp]
  dsimp only
  rw [if_neg (ne_true_of_eq_false hheld)]
  rfl

theorem elementAckTimeout_ok {s : State} {pk : Packet} (hp : s.arg.packet = some pk) :
    let late := s.flying.filter fun f => f.departed == s.arg.x && pk.elements.contains f.element
    late ≠ [] → s.arg.x + 100000 ≤ s.time →
    exec .elementAckTimeout s = .next
      (late.foldl (fun x f => (x.landed f.element).statusOf f.element f.dest 6) (s.unsend (late.map (·.element)))) := by
  intro late hlate ht
  refine exec_ok (show exec .elementAckTimeout s = execElementAckTimeout s from rfl) ?_
  rw [bind_get, hp]
  dsimp only
  rw [if_neg (by rwa [List.isEmpty_iff]), if_neg (by omega)]
  rfl

theorem elementStatus_ok {s : State} {pk : Packet} (hp : s.arg.packet = some pk) :
    exec .elementStatus s = .next (pk.elements.foldl (fun x e =>
      if x.flying.any (·.element == e) then (x.landed e).statusOf e s.arg.y s.arg.x else x) s) := by
  show execElementStatus s = _
  unfold execElementStatus
  rw [event_next, hp]

theorem remoteNotice_ok {s : State} (hdue : s.t.remoteDue = true) (h2 : flagOf s.t.tstat 2 = true)
  (h0 : flagOf s.t.tstat 0 = false)
    (ht : s.transferOf s.t.coreid = none) :
    let w := s.withdraw s.t.coreid
    exec .remoteNotice s = .next
      (State.takeTrap { w with t := { w.t with remoteDue := false } } .remote s.activity.sticky .between) := by
  intro w
  show execRemoteNotice s = _
  refine runM_trap ?_
  rw [bind_get]
  dsimp only
  rw [if_pos (by rw [hdue, h2, h0, ht]; rfl)]
  rfl

theorem elementEvents : ElementEvents := by
  intro s pk
  exact ⟨fun x e es hx hes hz ht => sachetAgeDeparture_ok hx hes hz ht,
    fun hp => ⟨fun hheld => elementApply_ok hp hheld, elementAckTimeout_ok hp, elementStatus_ok hp⟩,
    fun hdue h2 h0 ht => remoteNotice_ok hdue h2 h0 ht⟩

theorem setLink_neighbour {s : State} {port : Nat} (h : hasNeighbour s.fabric port = true) (v : BitVec 8) :
    s.setLink port v = { s with links := s.links.set! port v } := if_pos h

theorem setLink_idle {s : State} {port : Nat} (h : hasNeighbour s.fabric port = false) (v : BitVec 8) : s.setLink port v = s :=
  if_neg (ne_true_of_eq_false h)

theorem linkEvents : LinkEvents := by
  intro s
  refine ⟨fun hx => ?_, fun hn => ⟨?_, ?_⟩, fun hn => ⟨?_, ?_, fun hl ht => ?_⟩⟩
  · show execFabricInterfaceReset s = _
    unfold execFabricInterfaceReset
    rw [event_next, if_pos hx]
  · show execLinkFailure s = _
    unfold execLinkFailure
    rw [event_next, hn, if_pos (by rfl)]
  · show execLinkRetrainComplete s = _
    unfold execLinkRetrainComplete
    rw [event_next, setLink_idle hn]
  · show execLinkFailure s = _
    unfold execLinkFailure
    rw [event_next, hn, if_neg (by simp), setLink_neighbour hn]
  · show execLinkRetrainComplete s = _
    unfold execLinkRetrainComplete
    rw [event_next, setLink_neighbour hn]
  · refine exec_ok (show exec .linkFailureReset s = execLinkFailureReset s from rfl) ?_
    rw [bind_get]
    rw [if_neg (by simpa [hn] using hl), if_neg (by omega)]
    rfl

/-- Settles O32: each event by the case of its conditions. -/
theorem fabricEvents : Obligations.FabricEvents := ⟨elementEvents, linkEvents⟩

end Sys2Proof.Proofs
end

section
/-! The members of VM (19 R313 to R319). -/

namespace Sys2Proof.Proofs

open Sys2Proof Sys2Proof.Machine Sys2Proof.Laws

/-- A page operation: it walks to its entry, and `f` is what it does there. -/
theorem completesVia_walked {i : Instr} {a : Src} {s s1 s2 t : State} {f : Word → PageWalk → M Unit} {w : PageWalk}
    (e : exec i s = runM (gate i >>= fun _ => notInTransfer i >>= fun _ => readSrc a >>= fun va => release >>= fun _ =>
      walkToPage va >>= f va) s)
    (ha : readable s a = true) (ht : s.transferOf s.t.coreid = none) (hw : Passes (walkToPage (srcVal s a)) s w s1)
    (h : quiet s2 = true → f (srcVal s a) w s1 = .ok ((), t)) : CompletesVia i s s2 t := by
  refine completesVia_of e fun hadm hq => ?_
  rw [bind_passes (gate_passes hadm), bind_passes (notInTransfer_passes ht), bind_passes (readSrc_passes ha),
    bind_passes (release_passes _), bind_passes hw]
  exact h hq

/-- The reserved fields and two further bits of an entry are 0. -/
theorem entry_lawful {m n : Nat} {x y : Bool} (hm : m = 0) (hn : n = 0) (hx : x = false) (hy : y = false) :
    (m == 0 && n == 0 && !x && !y) = true := by
  rw [hm, hn, hx, hy]
  rfl

/-- Settles O33: a page operation by how its walk ends and by the bits of its entry. -/
theorem pagesComplete : Obligations.PagesComplete := by
  intro b a d s s1 ha ht va p
  refine ⟨completes_of_gate rfl fun hq => ?_, fun pte lvl hw => completesVia_walked rfl ha ht hw fun hq => ?_, fun addr hw => ?_,
    fun hb hmode hsup hclass => completesVia_of rfl fun hadm hq => ?_⟩
  · rw [bind_passes (notInTransfer_passes ht), bind_passes (readSrc_passes ha), bind_readS]
    exact finishWith hq
  · dsimp only
    rw [bind_pure_run]
    exact finishWith hq
  · intro e
    refine ⟨fun h0 => completesVia_walked rfl ha ht hw fun hq => ?_, fun h0 h7 =>
      ⟨completesVia_walked rfl ha ht hw fun hq => ?_, fun h8 h52 h1 h6 => ?_⟩, fun h0 h8 h52 h7 h1 h6 => ?_⟩
    · dsimp only
      rw [bind_get, if_pos h0, bind_pure_run]
      exact finishWith hq
    · dsimp only
      rw [bind_get, if_pos (by rw [h0]; rfl), bind_require, if_pos h7, bind_pure_run]
      exact finishWith hq
    · have hlawful := entry_lawful h8 h52 h1 h6
      refine ⟨fun hn => completesVia_walked rfl ha ht hw fun hq => ?_, fun k q rest hn => ?_⟩
      · dsimp only
        rw [bind_get, if_neg (ne_true_of_eq_false h0), bind_require, if_pos h7, bind_require, if_pos hlawful, hn]
        exact finishWith hq
      · intro t
        refine completesVia_walked rfl ha ht hw fun hq => ?_
        dsimp only
        rw [bind_get, if_neg (ne_true_of_eq_false h0), bind_require, if_pos h7, bind_require, if_pos hlawful, hn]
        exact finishWith hq
    · intro page hwin t
      refine completesVia_walked rfl ha ht hw fun hq => ?_
      dsimp only
      rw [bind_get, if_neg (by rw [h0]; exact Bool.false_ne_true), bind_require, if_pos (entry_lawful h8 h52 h7 h1), bind_require,
        if_pos (by rw [h6]; rfl), if_neg (by rw [hwin]; exact Bool.false_ne_true), bind_modS, bind_pure_run]
      exact finishWith hq
  · rw [bind_passes (gate_passes hadm), bind_passes (notInTransfer_passes ht), bind_passes (readSrc_passes ha),
      bind_passes (readSrc_passes hb), bind_require, if_pos (decide_eq_true hmode), bind_get, bind_require,
        if_pos (by simpa using hsup),
      bind_require, if_pos (by simpa using hclass), bind_passes (release_passes _), bind_modS, bind_passes (acquire_passes _)]
    exact retire_passes hq _

end Sys2Proof.Proofs
end

section
/-! The events of copies (10 R199 to R206, 22 R364, R365). -/

namespace Sys2Proof.Proofs

open Sys2Proof Sys2Proof.Machine Sys2Proof.Laws

theorem kick_ok {s s1 : State} (hy : s.arg.y < 8) (hm : (s.ctx s.arg.x).mode = .running)
    (hk : Passes (kickStore .kick 0 s.arg.y s.arg.v) (s.swapIn s.arg.x) () s1) :
    exec .kick s = .next (s1.swapIn s.t.coreid) := by
  show execKick s = _
  unfold execKick
  rw [event_next]
  dsimp only
  rw [if_neg (by simp [hm, hy])]
  unfold State.asCtx
  dsimp only
  rw [hk]

theorem copyAccept_ok {s : State} (hm : (s.ctx s.arg.x).mode = .waiting .copyQueue)
    (hfree : (s.freeRecord s.arg.x (s.ctx s.arg.x).sliceid.toNat).isSome = true) :
    exec .copyAccept s = .next ((s.setCtx { s.ctx s.arg.x with mode := .running }).pushTurn s.arg.x) := by
  show execCopyAccept s = _
  unfold execCopyAccept
  rw [event_next]
  dsimp only
  rw [if_pos (by simp [hm, hfree])]

theorem templateSlotWrite_ok {s : State} (hsup : s.isSup s.arg.x = true) (hy : s.arg.y < 64) :
    exec .templateSlotWrite s = .next (s.setTemplate (clusterOf s.arg.x) s.arg.y s.arg.v) := by
  show execTemplateSlotWrite s = _
  unfold execTemplateSlotWrite
  rw [event_next]
  rw [if_pos (by simp [hsup, hy])]

theorem copyStart_ok {s : State} {c : Copy} {cs : List Copy} (hq : s.channelQueue s.arg.x s.arg.y = c :: cs)
    (hrun : c.running = false) :
    let v := (s.cluster s.arg.x).templates.getD c.template 0
    let s2 := s.modCopy c fun x => { x with started := true, running := true, ord := if x.started then x.ord else flagOf v 0 }
    let s3 := (s2.setCtx (startCtx c (v &&& ~~~(1#64)))).acquire (channelCore s.arg.x s.arg.y)
    let stalled := ((s3.t.coreid, s3.t) :: s3.others).filter fun x => x.2.mode == .waiting .copyQueue
    exec .copyStart s = .next
      (stalled.foldl (fun x w => x.push .copyAccept { x := w.1 }) (s3.pushTurn (channelCore s.arg.x s.arg.y))) := by
  show execCopyStart s = _
  unfold execCopyStart
  rw [event_next, hq]
  refine congrArg Host.Outcome.next ?_
  dsimp only
  rw [hrun, if_neg Bool.false_ne_true]

theorem copyEventsStart : CopyEventsStart := by
  intro s s1 c cs x y
  exact ⟨fun hy hm hk => kick_ok hy hm hk, fun hm hfree => copyAccept_ok hm hfree, fun hsup hy => templateSlotWrite_ok hsup hy,
    fun hq hrun => copyStart_ok hq hrun⟩

/-- A transfer's acknowledgement, where its copy still stands. -/
theorem burstAck_of {s : State} {c : Copy} (hc : s.copyOf s.arg = some c) :
    exec .burstAck s = .next (if s.arg.nums.getD 1 0 = 1 then s.modCopy c fun x => { x with inFlight := x.inFlight - 1 } else
      match c.resend.find? fun r => r.num == s.arg.v.toNat with
      | none => s
      | some r =>
        if s.arg.z = 6 && c.collective then s.push .collectiveResend { s.arg with z := 0 }
        else s.packetEnds c r (if s.arg.z = 0 then 0 else cfault)) := by
  show execBurstAck s = _
  unfold execBurstAck
  rewrite [event_next, hc]
  rfl

theorem copyCompletion_ok {s : State} {c : Copy} (hc : s.copyOf s.arg = some c) (he : c.ended = true) (hh : c.held = false)
    (hb : s.copyBlocked c = false) (hf : c.inFlight = 0) (hp : s.padHeld engineAgent c.key = false) :
    let s1 := s.copyDone c
    let s2 := if (s1.ctx c.core).mode = .waiting .copyQueue then s1.push .copyAccept { x := c.core } else s1
    exec .copyCompletion s = .next
      (if (s2.channelQueue c.cluster c.channel).isEmpty then s2 else s2.push .copyStart { x := c.cluster, y := c.channel }) := by
  refine exec_ok (show exec .copyCompletion s = execCopyCompletion s from rfl) ?_
  rw [bind_get, hc]
  dsimp only
  rw [if_neg (by simp [he, hh]), if_neg (by simp [hf, hb]), if_neg (by simp [hp])]
  rfl

/-- A packet whose resend is due goes on to its round, or fails. -/
theorem collectiveResend_of {s : State} {c : Copy} {r : Sent} (hc : s.copyOf s.arg = some c)
    (hr : c.resend.find? (fun r => r.num == s.arg.v.toNat) = some r)
    (hz : s.arg.z = 0 ∨ (s.arg.z = r.time ∧ r.time + 100000 ≤ s.time)) :
    exec .collectiveResend s = .next (
      if (decide ((s.part c.part).collretry.toNat ≤ c.retries) && decide (c.retries ≤ r.tries)) = true then
        (s.packetEnds c r (2 ^ 16)).logError c.part
          { slice := c.slice.toNat, location := c.core, kind := 14, detailA := c.retries, detailB := c.node r.dst % 2 ^ 14 }
      else s.resent c r) := by
  refine exec_ok (show exec .collectiveResend s = execCollectiveResend s from rfl) ?_
  rw [bind_get, hc]
  dsimp only
  rw [hr]
  dsimp only
  rw [if_neg (by rcases hz with h | ⟨h, -⟩ <;> simp [h]), if_neg (by
    rcases hz with h | ⟨-, h⟩
    · simp [h]
    · simpa using fun _ => h)]
  split <;> rfl

theorem copyEventsEnd : CopyEventsEnd := by
  intro s c hc
  refine ⟨fun h1 => ?_, fun h1 hn => ?_, fun r h1 hr => ⟨fun hz hcoll => ?_, fun hz => ?_⟩,
    fun he hh hb hf hp => copyCompletion_ok hc he hh hb hf hp, fun r hr hz => ?_⟩
  · rw [burstAck_of hc, if_pos h1]
  · rw [burstAck_of hc, if_neg h1, hn]
  · rw [burstAck_of hc, if_neg h1, hr]
    dsimp only
    rw [if_pos (by simp [hz, hcoll])]
  · rw [burstAck_of hc, if_neg h1, hr]
    dsimp only
    rw [if_neg (by rcases hz with h | h <;> simp [h])]
    rfl
  · intro rounds
    refine ⟨fun h => ?_, fun h1 h2 => ?_⟩
    · rw [collectiveResend_of hc hr hz, if_neg]
      rw [Bool.and_eq_true, decide_eq_true_eq, decide_eq_true_eq]
      omega
    · rw [collectiveResend_of hc hr hz, if_pos]
      · rfl
      · rw [Bool.and_eq_true, decide_eq_true_eq, decide_eq_true_eq]
        exact ⟨h1, h2⟩

/-- Settles O22: each event by the case of its conditions. -/
theorem copyEvents : Obligations.CopyEvents := ⟨copyEventsStart, copyEventsEnd⟩

end Sys2Proof.Proofs
end

section
/-! The events of registers and of full/empty requests (02 R20, 06 R93, R95, R114 to R116). -/

namespace Sys2Proof.Proofs

open Sys2Proof Sys2Proof.Machine Sys2Proof.Laws

theorem registerEvents : RegisterEvents := by
  intro s
  refine ⟨fun h => ?_, fun hy h => ?_, ?_⟩
  · show execPadcfgChange s = _
    unfold execPadcfgChange
    rw [event_next, if_pos h]
  · show execVicgrpChange s = _
    unfold execVicgrpChange
    rw [event_next, if_pos]
    rw [Bool.and_eq_true, Bool.or_eq_true]
    exact ⟨decide_eq_true hy, h.imp (fun h => beq_iff_eq.2 h) id⟩
  · intro u hon hlegal hinfo
    show execRegisterWrite s = _
    unfold execRegisterWrite
    rw [event_next]
    unfold State.asCtx
    dsimp only
    rw [if_pos]
    rw [Bool.and_eq_true, Bool.and_eq_true]
    refine ⟨⟨hon, ?_⟩, hlegal⟩
    revert hinfo
    cases csrInfo s.arg.y with
    | none => exact id
    | some c =>
      obtain ⟨acc, laneOnly⟩ := c
      cases acc <;> simp [u]

/-! What an event does to the instruction in progress. -/

theorem swapIn_t (s : State) (core : Nat) : (s.swapIn core).t = s.ctx core := by
  unfold State.swapIn State.ctx
  split <;> rfl

theorem closeSlot_ctx (s : State) (id : Nat) (cs : List Nat) (core : Nat) : (s.closeSlot id cs).ctx core = s.ctx core := by
  unfold State.closeSlot
  split <;> rfl

/-- Only what a function does with the context in place counts. -/
theorem eventFor_congr {s : State} {core : Nat} {f g : State → State} (h : ∀ x : State, x.t = s.ctx core → f x = g x) :
    s.eventFor core f = s.eventFor core g := by
  have hself : s.asCtx core f = s.asCtx core g := by
    unfold State.asCtx
    rw [h _ (swapIn_t s core)]
  unfold State.eventFor
  split
  · split
    · unfold State.asCtx
      rw [h _ ((swapIn_t _ core).trans (closeSlot_ctx ..))]
    · exact hself
  · exact hself

/-! Full/empty requests. -/

theorem feTimeout_ok {s : State} {r : FeReq} {q : Parked} (hr : s.arg.fe = some r)
    (hq : s.parked.find? (fun p => p.req == r && p.key == s.arg.y && p.arrival == s.arg.z) = some q)
    (ht : s.arg.z + r.limit ≤ s.time) :
    let t := { s with parked := s.parked.erase q }
    exec .feTimeout s = .next (if q.remote then t.answer r .timeout else t.feFinish r.core (!r.store) none 0) := by
  refine exec_ok (show exec .feTimeout s = execFeTimeout s from rfl) ?_
  rw [bind_get, hr]
  dsimp only
  rw [bind_get, hq]
  dsimp only
  rw [if_neg (by omega)]
  rfl

theorem feResend_ok {s : State} {r : FeReq} {q : Parked} (hr : s.arg.fe = some r)
    (hq : s.parked.find? (fun p => p.bounced && p.req == r && p.key == s.arg.y && p.arrival == s.arg.z) = some q)
    (ht : s.arg.x + 64 ≤ s.time) (hheld : s.parkedHeld q = false) :
    let t := { s with parked := s.parked.erase q }
    exec .feResend s = .next ((t.feTry q.remote r q.key).getD (t.fePark q.remote r q.key q.arrival true)) := by
  intro t
  refine exec_ok (show exec .feResend s = execFeResend s from rfl) ?_
  rw [bind_get, hr]
  dsimp only
  rw [bind_get, hq]
  dsimp only
  rw [if_neg (by simpa using ⟨ht, hheld⟩)]
  unfold modS
  dsimp only
  cases t.feTry q.remote r q.key <;> rfl

theorem remoteFeRequest_ok {s s1 : State} {r : FeReq} {k : Nat} (hr : s.arg.fe = some r)
    (hk : s.targetFind r.part r.core 0 r.addr r.size (if r.store then Acc.stx else Acc.ldx (r.after != 0)) = (s1, .ok k))
    (hy : s.arg.y = 0) (hheld : s.requestHeld r = false) (hclean : r.store = true ∨ s1.poisoned k r.size = false) :
    exec .remoteFeRequest s = .next
      (if Config.lacksRemote 19 ((if r.store then 64 else 0) + 16 * r.size.log2 + 4 * r.cond + r.after) then
        s.answer r (.rejected 5) else (s1.feTry true r k).getD (s1.fePark true r k s1.time false)) := by
  refine exec_ok (show exec .remoteFeRequest s = execRemoteFeRequest s from rfl) ?_
  rw [bind_get, hr]
  dsimp only
  rw [if_neg (by simpa using hy), if_neg (ne_true_of_eq_false hheld)]
  unfold modS
  dsimp only
  rw [hk]
  dsimp only
  rw [if_neg (show ¬ (!r.store && s1.poisoned k r.size) = true by rcases hclean with h | h <;> simp [h])]
  cases s1.feTry true r k <;> rfl

theorem remoteFeRequest_withdrawn {s : State} {r : FeReq} {q : Parked} (hr : s.arg.fe = some r) (hy : s.arg.y ≠ 0)
    (hq : s.parked.find? (fun p => p.remote && p.req == r) = some q) :
    exec .remoteFeRequest s = .next ({ s with parked := s.parked.erase q }.answer r .withdrawn) := by
  refine exec_ok (show exec .remoteFeRequest s = execRemoteFeRequest s from rfl) ?_
  rw [bind_get, hr]
  dsimp only
  rw [if_pos (by simpa using hy), hq]
  rfl

/-- An answer to a request that its thread waits for. -/
theorem remoteFeResponse_ok {s : State} {r : FeReq} {dest : Nat} {asked : Bool} (hr : s.arg.fe = some r)
    (hm : (s.ctx s.arg.x).mode = .waiting (.feRemote dest r asked)) {f : State → State}
    (hf : ∀ x : State, x.t.mode = .waiting (.feRemote dest r asked) →
      (if s.arg.answer = .withdrawn then x.feAnswered r s.arg.answer else (x.feAnswered r s.arg.answer).afterTaken) = f x) :
    exec .remoteFeResponse s = .next ((s.eventFor s.arg.x f).modCtx s.arg.x fun c =>
      if asked && c.mode == .running then { c with mode := .stopping } else c) := by
  show execRemoteFeResponse s = _
  unfold execRemoteFeResponse
  rw [event_next, hr, hm]
  dsimp only
  rw [if_neg (by simp)]
  rw [eventFor_congr (g := f) fun x hx => hf x (by rw [hx, hm])]

theorem fullEmptyEvents : FullEmptyEvents := by
  intro s r hr core
  refine ⟨fun q hq ht => feTimeout_ok hr hq ht, fun q hq ht hheld => feResend_ok hr hq ht hheld,
    fun s1 k hk hy hheld hclean => remoteFeRequest_ok hr hk hy hheld hclean, fun q hy hq => remoteFeRequest_withdrawn hr hy hq,
    fun dest asked hm => ?_⟩
  intro answers ends
  refine ⟨fun v full ha => ?_, fun ha => ?_, fun st ha => ?_, fun ha => ?_⟩
  all_goals
    refine remoteFeResponse_ok hr hm fun x hx => ?_
    rw [ha]
    unfold State.feAnswered
    rw [hx]
  · rw [if_neg (by simp)]
  · rw [if_neg (by simp)]
  · rw [if_neg (by simp)]
  · rw [if_pos rfl]

/-- Settles O35: the events by their conditions; an answer acts on the context that waits for it. -/
theorem registerAndRequestEvents : Obligations.RegisterAndRequestEvents := ⟨registerEvents, fullEmptyEvents⟩

end Sys2Proof.Proofs
end

section
/-! The commands of the configuration window (19 R327). -/

namespace Sys2Proof.Proofs

open Sys2Proof Sys2Proof.Machine Sys2Proof.Laws

/-- A command in progress whose arguments pass. -/
theorem commanded_ok {s t : State} {code : Nat} {f : Nat → Partition → State → State × Nat}
    (hst : (s.part s.arg.x).cfgStatus = 1) (hcode : bitsOf (s.part s.arg.x).cfg.toNat 0 16 = code)
    (hres : bitsOf (s.part s.arg.x).cfg.toNat 32 32 = 0) (hf : f s.arg.x (s.part s.arg.x) s = (t, 0)) :
    s.commanded code f = t.modPart s.arg.x fun y => { y with cfgStatus := 0 } := by
  unfold State.commanded
  dsimp only
  rw [if_neg (by simp [hst, hcode]), hres, hf]
  rfl

theorem commandEnds_of {i : Instr} {code : Nat} {s t : State} {f : Nat → Partition → State → State × Nat}
    (he : exec i s = command code f s) (hf : f s.arg.x (s.part s.arg.x) s = (t, 0)) : CommandEnds i code s t := by
  unfold CommandEnds
  intro y hst hcode hres
  rw [he]
  unfold command
  rw [event_next, commanded_ok hst hcode hres hf]

theorem formatRegion_ends {s : State} :
    let x := s.part s.arg.x
    let n := x.cfgIndex
    let r := BitVec.ofNat 256 (x.cfgVal 0 32)
    1 ≤ n → n ≤ 31 → (regionLen r = 0 ∨ (regionLawful r = true ∧ x.mayName (regionBase r) (regionLen r) = true ∧
      x.mayName (regionScales r) (regionScaleBytes r) = true ∧
      x.regions.any (fun (k, q) => k != n && regionLen q != 0 &&
        rangesMeet (regionBase q, regionLen q) (regionBase r, regionLen r)) = false)) →
    CommandEnds .cfgFormatRegion 1 s (s.modPart s.arg.x fun y => { y with regions := y.regions.put n r }) := by
  intro x n r h1 h31 hr
  refine commandEnds_of (show exec .cfgFormatRegion s = execCfgFormatRegion s from rfl) ?_
  change (if (decide (n = 0) || decide (31 < n) || (regionLen r != 0 && !regionLawful r)) = true then _
    else if (regionLen r != 0 && !(x.mayName (regionBase r) (regionLen r) && x.mayName (regionScales r) (regionScaleBytes r))) = true
      then _ else if (regionLen r != 0 && x.regions.any _) = true then _ else _) = _
  have hn : (decide (n = 0) || decide (31 < n)) = false := by
    rw [decide_eq_false (by omega), decide_eq_false (by omega)]
    rfl
  rw [hn]
  rcases hr with h0 | ⟨hlawful, hbase, hscales, hfree⟩
  · rw [h0]
    rfl
  · rw [hlawful, hbase, hscales, hfree]
    simp only [Bool.not_true, Bool.and_false, Bool.or_false, Bool.and_true, Bool.false_eq_true, if_false]
    rfl

theorem queue_ends {s : State} :
    let x := s.part s.arg.x
    let n := x.cfgIndex
    let f := x.cfgVal
    n ≤ 1023 → queueLawful x = true →
      CommandEnds .cfgQueue 2 s (s.modPart s.arg.x fun y => { y with
        queues := y.queues.put n ⟨f 0 1 == 1, f 1 1, f 4 4, (x.queue n).occupancy⟩ }) := by
  intro x n f hn hq
  unfold CommandEnds
  intro y hst hcode hres
  show execCfgQueue s = _
  unfold execCfgQueue
  rw [event_next]
  dsimp only
  rw [if_neg (by rw [hq]; simp)]
  refine congrArg Host.Outcome.next (commanded_ok hst hcode hres ?_)
  have hpass : ¬ (decide (1023 < (s.part s.arg.x).cfgIndex) || !queueLawful (s.part s.arg.x)) = true := by
    rw [hq, decide_eq_false (Nat.not_lt.2 hn)]
    exact Bool.false_ne_true
  rw [if_neg hpass]

theorem domain_ends {s : State} {d : Domain} (hd : s.domainNamed (s.part s.arg.x) = .ok d) :
    CommandEnds .cfgDomain 3 s (s.modPart s.arg.x fun y => y.putDomain d) := by
  refine commandEnds_of (show exec .cfgDomain s = execCfgDomain s from rfl) ?_
  rw [hd]

theorem poolPages_ends {s : State} :
    let x := s.part s.arg.x
    let n := x.cfgIndex
    let a := x.cfgVal 0 8
    let m := x.cfgVal 8 4
    let pool := x.pools.getD n []
    n ≤ 11 → a % 4096 = 0 → (m = 0 ∨ (stackOf a = n ∧ stackOf (a + 4096 * (m - 1)) = n)) → x.mayName a (4096 * m) = true →
    pool.any (fun q => a ≤ q && q < a + 4096 * m) = false → pool.length + m ≤ 2 ^ 20 →
      CommandEnds .cfgPoolPages 4 s (s.modPart s.arg.x fun y => { y with
        pools := y.pools.put n (pool ++ (List.range m).map fun i => a + 4096 * i) }) := by
  intro x n a m pool hn ha hm hname hfree hlen
  refine commandEnds_of (show exec .cfgPoolPages s = execCfgPoolPages s from rfl) ?_
  change (if (decide (11 < n) || a % 4096 != 0 || (m != 0 && (stackOf a != n || stackOf (a + 4096 * (m - 1)) != n))) = true then _
    else if (!x.mayName a (4096 * m)) = true then _ else if pool.any _ = true then _ else if 2 ^ 20 < pool.length + m then _ else _) = _
  rw [if_neg, hname, if_neg (by simp), hfree, if_neg Bool.false_ne_true, if_neg (by omega)]
  rw [decide_eq_false (by omega), ha]
  rcases hm with h | ⟨h1, h2⟩
  · rw [h]
    simp
  · rw [h1, h2]
    simp

theorem migrate_ends {s : State} :
    let x := s.part s.arg.x
    let pte := x.cfgVal 0 8
    let q := x.cfgVal 8 8
    let e := s.mem.readNat pte 8
    let a := bitsOf e 12 40 * 4096
    x.cfgIndex = 0 → pte % 8 = 0 → q % 4096 = 0 → x.mayName pte 8 = true → x.mayName q 4096 = true → bitOf e 0 = true →
    bitOf e 1 = false → bitOf e 6 = false → bitOf e 7 = false → bitsOf e 8 2 = 0 → bitsOf e 52 7 = 0 →
    x.mayName a 4096 = true → x.pools.any (fun k => k.2.contains q) = false →
      CommandEnds .cfgMigrate 5 s (s.migrate s.arg.x pte a q) := by
  intro x pte q e a hn hpte hq hnp hnq h0 h1 h6 h7 h8 h52 hna hfree
  refine commandEnds_of (show exec .cfgMigrate s = execCfgMigrate s from rfl) ?_
  change (if (x.cfgIndex != 0 || pte % 8 != 0 || q % 4096 != 0) = true then _
    else if (!x.mayName pte 8 || !x.mayName q 4096) = true then _
    else if (!bitOf e 0 || bitOf e 1 || bitOf e 6 || bitOf e 7 || bitsOf e 8 2 != 0 || bitsOf e 52 7 != 0) = true then _
    else if (!x.mayName a 4096) = true then _ else if x.pools.any _ = true then _ else _) = _
  rw [hn, hpte, hq, hnp, hnq, h0, h1, h6, h7, h8, h52, hna, hfree]
  rfl

theorem tableCommandsComplete : TableCommandsComplete := by
  intro s p x n f
  exact ⟨formatRegion_ends, queue_ends, fun d hd => domain_ends hd, poolPages_ends, migrate_ends⟩

/-! The places of logs and areas, and clusters. -/

theorem logCommand_ends {i : Instr} {code size : Nat} {put : Partition → Nat → Partition} {s : State}
    (he : exec i s = logCommand code size put s) (hn : (s.part s.arg.x).cfgIndex = 0)
    (ha : (s.part s.arg.x).mayName ((s.part s.arg.x).cfgVal 0 8) size = true) :
    CommandEnds i code s (s.modPart s.arg.x fun y => put y ((s.part s.arg.x).cfgVal 0 8)) := by
  refine commandEnds_of he ?_
  dsimp only
  rw [hn, ha]
  rfl

theorem undoLog_ends {s : State} :
    let x := s.part s.arg.x
    let a := x.cfgVal 0 8
    let m := x.cfgVal 8 8
    m % 128 = 0 → 2 ^ 20 ≤ m → x.mayName a m = true → ∀ i d,
    (((List.range x.domains.length).zip x.domains).filter fun d => d.2.level * 256 + d.2.number == x.cfgIndex).getLast? = some
      (i, d) →
      CommandEnds .cfgUndoLog 10 s (s.modDomain s.arg.x i fun d => { d with undoLog := some (a, m) }) := by
  intro x a m hm hbig hname i d hd
  refine commandEnds_of (show exec .cfgUndoLog s = execCfgUndoLog s from rfl) ?_
  change (if (m % 128 != 0 || decide (m < 2 ^ 20)) = true then _ else if (!x.mayName a m) = true then _ else
    match (List.filter _ ((List.range x.domains.length).zip x.domains)).getLast? with | none => _ | some (i, _) => _) = _
  rw [hm, decide_eq_false (by omega), hname, hd]
  rfl

theorem auditArea_ends {s : State} :
    let x := s.part s.arg.x
    let a := x.cfgVal 0 8
    let m := x.cfgVal 8 8
    x.cfgIndex = 0 → m % 4096 = 0 → x.mayName a m = true →
      CommandEnds .cfgAuditArea 11 s (s.modPart s.arg.x fun y => { y with auditArea := if m = 0 then none else some (a, m) }) := by
  intro x a m hn hm hname
  refine commandEnds_of (show exec .cfgAuditArea s = execCfgAuditArea s from rfl) ?_
  change (if (x.cfgIndex != 0 || m % 4096 != 0) = true then _ else if (!x.mayName a m) = true then _ else _) = _
  rw [hn, hm, hname]
  rfl

theorem clusterStatus_ok {x : Partition} (hn : x.cfgIndex ≤ 1023) (hv : x.cfgVal 0 48 = 0)
  (hc : x.clusters.contains x.cfgIndex = true)
    (hs : x.cfgIndex ≠ clusterOf x.supervisor) : x.clusterStatus = 0 := by
  unfold Partition.clusterStatus
  rw [if_neg (by rw [hv, decide_eq_false (by omega)]; simp), hc, if_neg (by simp), if_neg hs]

theorem clusterCommanded_ok {s : State} {code : Nat} {f : Nat → Nat → State → State}
    (hst : (s.part s.arg.x).cfgStatus = 1) (hcode : bitsOf (s.part s.arg.x).cfg.toNat 0 16 = code)
    (hres : bitsOf (s.part s.arg.x).cfg.toNat 32 32 = 0) (hcl : (s.part s.arg.x).clusterStatus = 0) :
    s.clusterCommanded code f =
      (f s.arg.x (s.part s.arg.x).cfgIndex s).modPart s.arg.x fun y => { y with cfgStatus := 0 } :=
  commanded_ok hst hcode hres (by rw [if_pos hcl])

theorem clusterCommand_ends {i : Instr} {s : State} {code : Nat} {f : Nat → Nat → State → State}
    (he : exec i s = clusterCommand code f s) (hcl : (s.part s.arg.x).clusterStatus = 0) :
    CommandEnds i code s (f s.arg.x (s.part s.arg.x).cfgIndex s) := by
  unfold CommandEnds
  intro y hst hcode hres
  rw [he]
  unfold clusterCommand
  rw [event_next, clusterCommanded_ok hst hcode hres hcl]

theorem resetCluster_ends {s : State} (hcl : (s.part s.arg.x).clusterStatus = 0)
    (hready : (s.slicesOn (s.part s.arg.x).cfgIndex).all s.readyToLeave = true) :
    CommandEnds .cfgResetCluster 13 s (s.resetCluster (s.part s.arg.x).cfgIndex 0) := by
  unfold CommandEnds
  intro y hst hcode hres
  refine exec_ok (show exec .cfgResetCluster s = execCfgResetCluster s from rfl) ?_
  have hto : s.toReset = s.slicesOn (s.part s.arg.x).cfgIndex := by
    unfold State.toReset
    dsimp only
    rw [if_pos (by simpa [hcl] using ⟨⟨hst, hcode⟩, hres⟩)]
  have hend : Passes (endSlots .cfgResetCluster State.toReset) s () s := by
    unfold Passes endSlots
    rw [bind_readS, hto, hready]
    rfl
  rw [bind_passes hend]
  unfold modS
  dsimp only
  rw [clusterCommanded_ok hst hcode hres hcl]

theorem placeAndClusterCommandsComplete : PlaceAndClusterCommandsComplete := by
  intro s p x n a m place
  refine ⟨?_, ?_, ?_, ?_, undoLog_ends, auditArea_ends, fun hn hv hc hs => ?_⟩
  · exact fun hn ha => logCommand_ends (show exec .cfgRemoteFaultLog s = execCfgRemoteFaultLog s from rfl) hn ha
  · exact fun hn ha => logCommand_ends (show exec .cfgAccessLog s = execCfgAccessLog s from rfl) hn ha
  · exact fun hn ha => logCommand_ends (show exec .cfgSparseFaultQueue s = execCfgSparseFaultQueue s from rfl) hn ha
  · exact fun hn ha => logCommand_ends (show exec .cfgErrorLog s = execCfgErrorLog s from rfl) hn ha
  · have hcl := clusterStatus_ok hn hv hc hs
    exact ⟨clusterCommand_ends (show exec .cfgReleaseQuarantine s = execCfgReleaseQuarantine s from rfl) hcl,
      fun hready => resetCluster_ends hcl hready,
      clusterCommand_ends (show exec .cfgStopCluster s = execCfgStopCluster s from rfl) hcl⟩

/-- Settles O36: each command's function passes its checks, and `commanded_ok` gives the status 0. -/
theorem configurationCommandsComplete : Obligations.ConfigurationCommandsComplete :=
  ⟨tableCommandsComplete, placeAndClusterCommandsComplete⟩

end Sys2Proof.Proofs
end

section
/-! The events of the scheduler (18 R292 to R303). -/

namespace Sys2Proof.Proofs

open Sys2Proof Sys2Proof.Machine Sys2Proof.Laws

theorem sliceReady_ok {s : State} {x : Slice} (hx : s.slice s.arg.x = some x) (hp : x.state = .pending) :
    exec .sliceReady s = .next (State.push (State.modSlice { s with arrivals := s.arrivals + 1 } x.id fun y => { y with
      state := .ready, arrival := s.arrivalOf engineAgent, die := ((s.part x.part).queue (recQueue x.record)).die })
      .dispatchMatch { x := x.part }) := by
  show execSliceReady s = _
  unfold execSliceReady
  rw [event_next, hx]
  dsimp only
  rw [if_neg (by simp [hp])]

theorem armedEntryPush_ok {s : State} {e : Armed} (he : (s.cluster s.arg.x).armed.find s.arg.y = some e) (hf : e.fired = true)
    (hv : ((s.part e.part).queue (recQueue e.record)).valid = true) (hr : (s.part e.part).hasRoom (recQueue e.record) = true)
    (hfirst : s.clusters.any (fun (k, c) => c.armed.any fun (n, f) => (n < s.arg.y || (n = s.arg.y && k < s.arg.x)) && f.fired &&
      f.part == e.part && recQueue f.record == recQueue e.record) = false) :
    exec .armedEntryPush s = .next ((State.pushSlice (s.modCluster s.arg.x fun c => { c with
      armed := c.armed.erase s.arg.y }) engineAgent e.part e.record e.obls none).1) := by
  refine exec_ok (show exec .armedEntryPush s = execArmedEntryPush s from rfl) ?_
  rw [bind_get, he]
  dsimp only
  rw [hf, if_neg (by simp), hv, hr, hfirst, if_neg (by simp)]
  rfl

theorem dispatchEvents : DispatchEvents := by
  intro s x e
  refine ⟨fun hx hp => sliceReady_ok hx hp, ?_, ?_, fun he hf hv hr hfirst => armedEntryPush_ok he hf hv hr hfirst⟩
  · show execDispatchMatch s = _
    unfold execDispatchMatch
    rw [event_next]
  · show execPreemption s = _
    unfold execPreemption
    rw [event_next]

/-! Slices. -/

theorem budget_traps {s : State} (hb : s.counter.budget = 0) :
    (s.counter.grace = false → exec .budgetExhausted s = .next (s.takeTrap .budget 0 .before)) ∧
      (s.counter.grace = true → exec .budgetGraceExhausted s = .next (s.takeTrap .budget 0 .before)) := by
  refine ⟨fun hg => ?_, fun hg => ?_⟩
  · show execBudgetExhausted s = _
    refine runM_trap ?_
    rw [bind_readS, hg, hb]
    rfl
  · show execBudgetGraceExhausted s = _
    refine runM_trap ?_
    rw [bind_readS, hg, hb]
    rfl

theorem lead_of_slice {s : State} {x : Slice} (hx : s.slice s.arg.x = some x) :
    ((s.slice s.arg.x).bind (·.threads.head?)).getD 0 = x.threads.headD 0 := by
  rw [hx]
  cases h : x.threads <;> simp [h]

theorem footprintStaging_of {s : State} {x : Slice} (hx : s.slice s.arg.x = some x)
    (hp : s.padHeld engineAgent (padOf (x.threads.headD 0)) = false) : exec .footprintStaging s = .next s.stageSlice := by
  refine exec_ok (show exec .footprintStaging s = execFootprintStaging s from rfl) ?_
  rw [bind_readS, lead_of_slice hx, bind_get, hp]
  rfl

theorem retireWriteback_of {s : State} {x : Slice} (hx : s.slice s.arg.x = some x)
    (hp : s.padHeld engineAgent (padOf (x.threads.headD 0)) = false) : exec .retireWriteback s = .next s.retireNow := by
  refine exec_ok (show exec .retireWriteback s = execRetireWriteback s from rfl) ?_
  rw [bind_readS, lead_of_slice hx, bind_get, hp]
  rfl

theorem stageSlice_replay {s : State} {x : Slice} {id : Nat} {u : Audit} (hx : s.slice s.arg.x = some x) (hst : x.state = .staging)
    (hs : x.saved = []) (hr : x.replayOf = some id) (hu : s.audits.find? (·.id == id) = some u) :
    s.stageSlice = ((State.copyFeet x.record isInput true (x.threads.headD 0) 4 0 u.base
      (x.threads.foldl State.acquire s)).start x).frozenIf (s.stoppedEarly x) x := by
  unfold State.stageSlice
  rw [hx]
  dsimp only
  rw [if_neg (by simp [hst, hs]), hr]
  simp only [Option.bind_some]
  rw [hu]

theorem stageSlice_memory {s s1 : State} {x : Slice} {k : Nat} {f : Option (Cause × Word)} (hx : s.slice s.arg.x = some x)
    (hst : x.state = .staging) (hs : x.saved = []) (hr : x.replayOf = none)
    (hstage : State.stageFrom (x.threads.headD 0) x.part x.record 4 0 (x.threads.foldl State.acquire s) = (s1, k, f)) :
    s.stageSlice = (match f with
      | none => (((s1.modSlice x.id fun y => { y with staged := k }).auditInputs x (x.threads.headD 0)).start x)
      | some (c, va) => State.asCtx ((s1.modSlice x.id fun y => { y with staged := k }).start x) (x.threads.headD 0) fun y =>
        y.stageTrap c va).frozenIf (s.stoppedEarly x) x := by
  unfold State.stageSlice
  rw [hx]
  dsimp only
  rw [if_neg (by simp [hst, hs]), hr]
  simp only [Option.bind_none]
  rw [hstage]
  cases f <;> rfl

/-- The condition on which a suspension is dropped, where it fails. -/
theorem goes_on {early moved victim none trapped : Bool} (hm : moved = false) (hv : victim = true → none = false ∧
  trapped = false) :
    ¬ (early && (moved || victim && (none || trapped))) = true := by
  rw [hm]
  cases victim with
  | false => simp
  | true =>
    obtain ⟨hn, ht⟩ := hv rfl
    rw [hn, ht]
    simp

/-- What a suspension that is to go on does at boundaries. -/
theorem suspension_of {s : State} {x : Slice} (hx : s.slice s.arg.x = some x) (hready : s.readyToLeave x = true)
    (hgo : s.arg.y < killCode → x.state = .running ∧ (s.arg.y = 0 → x.victimOf ≠ none ∧
      s.agenda.any (fun e => match e with | .event .suspension a => a.x == x.id && a.y != 0 | _ => false) = false))
    (hwait : s.arg.y = 0 → x.threads.any (fun c => (s.transferOf c).isSome || (s.ctx c).mode == .frozen) = false) :
    exec .suspension s = .next (s.leaveAt x s.arg) := by
  refine exec_ok (show exec .suspension s = execSuspension s from rfl) ?_
  rw [bind_get, hx]
  dsimp only
  rw [if_neg, if_neg, hready, if_neg (by simp)]
  · rfl
  · by_cases h0 : s.arg.y = 0
    · rw [hwait h0]
      simp
    · simp [h0]
  · by_cases hk : s.arg.y < killCode
    · obtain ⟨hrun, hvict⟩ := hgo hk
      refine goes_on (by rw [hrun]; rfl) fun h0 => ?_
      obtain ⟨hv, htrap⟩ := hvict (by simpa using h0)
      exact ⟨Option.isNone_eq_false_iff.2 (Option.isSome_iff_ne_none.2 hv), htrap⟩
    · simp [hk]

theorem leaveAt_kill {s : State} {x : Slice} {a : EventArg} (h : killCode ≤ a.y) : s.leaveAt x a = s.killNow x.id
  (a.y - killCode) :=
  if_pos h

theorem leaveAt_victim {s : State} {x : Slice} {a : EventArg} (h : a.y = 0) : s.leaveAt x a = s.displace x := by
  unfold State.leaveAt
  rw [h]
  rfl

theorem resumption_ok {s : State} {x : Slice} (hx : s.slice s.arg.x = some x) (hst : x.state = .staging) (hs : x.saved ≠ [])
    (hheld : x.held = false) : exec .resumption s = .next (s.resume x) := by
  refine exec_ok (show exec .resumption s = execResumption s from rfl) ?_
  rw [bind_get, hx]
  dsimp only
  rw [if_neg (by simp [hst, hs]), if_neg (by simp [hheld])]
  rfl

theorem retireNow_of {s : State} {x : Slice} (hx : s.slice s.arg.x = some x) (hst : x.state = .retiring) (hr : x.replayOf = none) :
    let lead := x.threads.headD 0
    let s1 := State.writeBack x lead 4 0 s
    (s1.audits.find? (·.id == x.id) = none → s.retireNow = s1.retireSlice x.id) ∧
    ∀ u, s1.audits.find? (·.id == x.id) = some u →
      s.retireNow = (((s1.endRun u (clusterOf lead) (s.signature x.record lead) (some s.time)).push .noseAuditPush
        { x := x.id }).push .auditAbandon { x := x.id }).retireSlice x.id := by
  intro lead s1
  unfold State.retireNow
  rw [hx]
  dsimp only
  rw [if_neg (by simp [hst]), hr]
  dsimp only
  refine ⟨fun h => ?_, fun u h => ?_⟩
  · rw [show List.find? _ (State.writeBack x (x.threads.headD 0) 4 0 s).audits = none from h]
  · rw [show List.find? _ (State.writeBack x (x.threads.headD 0) 4 0 s).audits = some u from h]

theorem retireNow_replay {s : State} {x : Slice} {id : Nat} {u : Audit} (hx : s.slice s.arg.x = some x) (hst : x.state = .retiring)
    (hr : x.replayOf = some id) (hu : s.audits.find? (·.id == id) = some u) :
    let lead := x.threads.headD 0
    let s1 := State.copyFeet x.record isOutput false lead 4 0 (u.base + footBytes x.record isInput) s
    s.retireNow =
      (((s1.endRun u (clusterOf lead) (s.signature x.record lead) u.since).push .noseVerdict { x := id }).retireSlice x.id) := by
  unfold State.retireNow
  rw [hx]
  dsimp only
  rw [if_neg (by simp [hst]), hr]
  dsimp only
  rw [hu]

theorem sliceEvents : SliceEvents := by
  intro s x lead
  refine ⟨fun hb => budget_traps hb, fun hx => ⟨fun hst hs hp => ?_, fun hk hready => ?_,
    fun hrun hready => ⟨fun h0 hv hfree htrap => ?_,
    fun h0 => ?_⟩, fun hst hs hheld => resumption_ok hx hst hs hheld, fun hst hp => ?_⟩⟩
  · intro s0 begins
    refine ⟨fun id u hr hu => ?_, fun hr s1 k => ⟨fun hstage => ?_, fun c va hstage => ?_⟩⟩
    · exact (footprintStaging_of hx hp).trans (congrArg _ (stageSlice_replay hx hst hs hr hu))
    · exact (footprintStaging_of hx hp).trans (congrArg _ (stageSlice_memory hx hst hs hr hstage))
    · exact (footprintStaging_of hx hp).trans (congrArg _ (stageSlice_memory hx hst hs hr hstage))
  · rw [suspension_of hx hready (fun h => absurd hk (Nat.not_le.2 h)) (fun h => absurd hk (by rw [h]; decide)), leaveAt_kill hk]
  · rw [suspension_of hx hready (fun _ => ⟨hrun, fun _ => ⟨hv, htrap⟩⟩) (fun _ => hfree), leaveAt_victim h0]
  · exact suspension_of hx hready (fun _ => ⟨hrun, fun h => absurd h h0⟩) (fun h => absurd h h0)
  · rw [retireWriteback_of hx hp]
    refine ⟨fun hr => ?_, fun id u hr hu => ?_⟩
    · obtain ⟨hnone, hsome⟩ := retireNow_of hx hst hr
      exact ⟨fun h => congrArg _ (hnone h), fun u h => congrArg _ (hsome u h)⟩
    · exact congrArg _ (retireNow_replay hx hst hr hu)

/-- Settles O37: each event by the state of its slice. -/
theorem schedulerEvents : Obligations.SchedulerEvents := ⟨dispatchEvents, sliceEvents⟩

end Sys2Proof.Proofs
end

section
/-! Dispositions, stops, resets, rollbacks and soft errors (20 R335, R345, 22 R350 to R366, 23 R370 to R372). -/

namespace Sys2Proof.Proofs

open Sys2Proof Sys2Proof.Machine Sys2Proof.Laws

theorem dispositionRelease_of {s : State} {u : Nat × Report} {x : Slice} (hacts : u.2.acts = true)
    (hu : s.disposed s.arg.x s.arg.y 1 = some u) (hx : (s.dispose s.arg.x u).slice u.2.slice = some x) :
    let t := s.dispose s.arg.x u
    (u.2.kind = 5 → exec .dispositionRelease s = .next (t.unfreeze x)) ∧
      (u.2.kind ≠ 5 → x.state = .suspended → exec .dispositionRelease s = .next
        ((t.modSlice x.id fun y => { y with refill := y.refill || u.2.kind == 1 }).makeReady x.id false)) := by
  intro t
  have hrun : exec .dispositionRelease s = .next (if u.2.kind = 5 then t.unfreeze x else if x.state != .suspended then t else
      (t.modSlice x.id fun y => { y with refill := y.refill || u.2.kind == 1 }).makeReady x.id false) := by
    show execDispositionRelease s = _
    unfold execDispositionRelease
    rw [event_next]
    dsimp only
    rw [hu]
    dsimp only
    rw [if_neg (by simp [hacts]), hx]
  rw [hrun]
  refine ⟨fun h => by rw [if_pos h], fun h hst => ?_⟩
  rw [if_neg h, if_neg (by simp [hst])]

theorem dispositionKill_of {s : State} {u : Nat × Report} (hacts : u.2.acts = true)
    (hu : s.disposed s.arg.x s.arg.y 2 = some u) :
    exec .dispositionKill s = .next ((s.dispose s.arg.x u).kill u.2.slice 0) := by
  show execDispositionKill s = _
  unfold execDispositionKill
  rw [event_next]
  dsimp only
  rw [hu]
  dsimp only
  rw [if_pos hacts]

theorem dispositionStep_of {s : State} {u : Nat × Report} (hacts : u.2.acts = true) (hz : s.arg.z = 0)
    (hu : s.disposed s.arg.x s.arg.y 3 = some u) (hk : u.2.kind = 5) :
    exec .dispositionStep s =
      .next ((s.dispose s.arg.x u).push .dispositionStep { x := s.arg.x, z := u.2.slice }) := by
  refine exec_ok (show exec .dispositionStep s = execDispositionStep s from rfl) ?_
  rw [bind_get, if_pos hz, hu]
  dsimp only
  rw [if_pos (by simp [hk, hacts])]
  rfl

/-- The step of a frozen slice begins. -/
theorem stepBegins {s : State} {x : Slice} (hz : s.arg.z ≠ 0) (hx : s.slice s.arg.z = some x) (hy : s.arg.y = 0)
    (hf : s.isFrozen x = true) (hst : x.state ≠ .staging) (hcore : (s.swapIn (s.stepper x)).yieldsCore = false) :
    exec .dispositionStep s = .next ((s.unfreeze x).nextTurn x) := by
  refine exec_ok (show exec .dispositionStep s = execDispositionStep s from rfl) ?_
  rw [bind_get, if_neg hz, hx]
  dsimp only
  rw [if_neg (by simp [hy]), if_neg (by simp [hf]), if_neg (by simp [hst, hcore])]
  rfl

/-- The turn of a slice's step has been made, and the slice has not left its threads meanwhile. -/
theorem stepTurned {s t : State} {x : Slice} (hz : s.arg.z ≠ 0) (hx : s.slice s.arg.z = some x) (hy : s.arg.y ≠ 0)
    (hst : x.state = .running) (h : s.endStep x s = .ok ((), t)) : exec .dispositionStep s = .next t := by
  refine exec_ok (show exec .dispositionStep s = execDispositionStep s from rfl) ?_
  rw [bind_get, if_neg hz, hx]
  dsimp only
  rw [if_pos hy, if_pos (by simp [hst])]
  exact h

theorem stays_put {frozen leaves : Bool} (hf : frozen = false) (hl : leaves = false) : ¬ (frozen || leaves) = true := by
  rw [hf, hl]
  exact Bool.false_ne_true

theorem endStep_of {s : State} {x : Slice} (hf : s.isFrozen x = false) (hslot : s.slotBusy x.threads = false)
    (hl : s.agenda.any (fun e => match e with | .event .suspension a => a.x == x.id | _ => false) = false) :
    (s.midInstr x = true → s.endStep x s = .ok ((), s.nextTurn x)) ∧
      (s.midInstr x = false → x.threads.any s.awaitsModule = false →
        s.endStep x s = .ok ((), (x.threads.foldl State.freeze (s.halt x.id)).frozenSlices Cause.step.code [x])) := by
  unfold State.endStep
  dsimp only
  rw [if_neg, hslot, if_neg Bool.false_ne_true]
  refine ⟨fun h => ?_, fun h hm => ?_⟩
  · rw [h]
    rfl
  · rw [h, if_neg Bool.false_ne_true, hm]
    rfl
  · exact stays_put hf hl

/-- Settles O38: the event of each disposition word, with the two halves of a step. -/
theorem dispositionsComplete : Obligations.DispositionsComplete := by
  intro s u x p t hacts
  refine ⟨fun hu hx => dispositionRelease_of hacts hu hx, fun hu => dispositionKill_of hacts hu,
    fun hz hu hk => dispositionStep_of hacts hz hu hk, fun hz hx => ⟨fun hy hf hst hcore => stepBegins hz hx hy hf hst hcore,
    fun hy hst hf hslot hl => ?_⟩⟩
  obtain ⟨hmid, hends⟩ := endStep_of hf hslot hl
  exact ⟨fun h => stepTurned hz hx hy hst (hmid h), fun h hm => stepTurned hz hx hy hst (hends h hm)⟩

/-! Resets, stops, rollbacks. -/

/-- Slices that can all leave their threads hold no event up. -/
theorem endSlots_passes {i : Instr} {xs : State → List Slice} {s : State} (h : (xs s).all s.readyToLeave = true) :
    Passes (endSlots i xs) s () s := by
  unfold Passes endSlots
  rw [bind_readS, h]
  rfl

theorem clusterReset_of {s : State} (h : (s.slicesOn s.arg.x).all s.readyToLeave = true) :
    exec .clusterReset s = .next (s.resetCluster s.arg.x s.arg.y) := by
  refine exec_ok (show exec .clusterReset s = execClusterReset s from rfl) ?_
  rw [bind_passes (endSlots_passes h)]
  rfl

theorem clusterStop_again {s : State} (hn : s.arg.nums = []) (hf : s.clusterFrozen s.arg.x = true) :
    exec .clusterStop s = .next s := by
  refine exec_ok (show exec .clusterStop s = execClusterStop s from rfl) ?_
  rw [bind_get]
  dsimp only
  rw [if_pos (by simp [hn, hf])]
  rfl

theorem halt_gangs (s : State) (id : Nat) : ∃ g, s.halt id = { s with gangs := g } := by
  unfold State.halt
  split
  · split
    · exact ⟨_, rfl⟩
    · exact ⟨s.gangs, rfl⟩
  · exact ⟨s.gangs, rfl⟩

/-- Gangs brought to a halt: nothing else changes. -/
theorem foldl_halt_gangs (xs : List Slice) (s : State) :
    ∃ g, xs.foldl (fun y x => y.halt x.id) s = { s with gangs := g } := by
  induction xs generalizing s with
  | nil => exact ⟨s.gangs, rfl⟩
  | cons x xs ih =>
    obtain ⟨g, hg⟩ := halt_gangs s x.id
    obtain ⟨g', hg'⟩ := ih (s.halt x.id)
    exact ⟨g', hg'.trans (by rw [hg])⟩

theorem awaitsModule_gangs (s : State) (g : Tab Gang) : State.awaitsModule { s with gangs := g } = s.awaitsModule := rfl

theorem stopThreads_gangs (s : State) (g : Tab Gang) (a : EventArg) (xs : List Slice) :
    State.stopThreads { s with gangs := g } a xs = s.stopThreads a xs := rfl

theorem midSlot_gangs (s : State) (g : Tab Gang) (xs : List Slice) : State.midSlot { s with gangs := g } xs = s.midSlot xs := rfl

theorem clusterStop_of {s : State} :
    let xs := s.stopSet s.arg
    let t := xs.foldl (fun y x => y.halt x.id) s
    (s.arg.nums ≠ [] ∨ s.clusterFrozen s.arg.x = false) → t.midSlot xs = false →
      (t.stopThreads s.arg xs).any t.awaitsModule = false → exec .clusterStop s = .next (t.stopAll s.arg xs) := by
  intro xs t h hslot hmod
  obtain ⟨g, hg⟩ := foldl_halt_gangs xs s
  have hslot' : s.midSlot xs = false := by
    rw [← midSlot_gangs s g xs, ← hg]
    exact hslot
  have hmod' : (s.stopThreads s.arg xs).any s.awaitsModule = false := by
    rw [← stopThreads_gangs s g, ← awaitsModule_gangs s g, ← hg]
    exact hmod
  refine exec_ok (show exec .clusterStop s = execClusterStop s from rfl) ?_
  rw [bind_get]
  dsimp only
  rw [if_neg (by rcases h with h | h <;> simp [h]), bind_modS, hslot', if_neg Bool.false_ne_true, hmod', if_neg Bool.false_ne_true]
  have harg : t.arg = s.arg := (congrArg State.arg hg :)
  show Except.ok ((), t.stopAll t.arg xs) = _
  rw [harg]

theorem rollback_of {s : State} {d : Domain} (hd : (s.part s.arg.x).domains[s.arg.y]? = some d) :
    (s.arg.z = 0 → d.snapshot = true → d.repeatable = true → d.rolledBack = false →
      exec .rollback s = .next (s.rollBack s.arg.x s.arg.y d)) ∧
    (s.arg.z ≠ 0 → (s.memberSlices d).all s.readyToLeave = true →
      exec .rollback s = .next (s.killMembers s.arg.x d)) := by
  refine ⟨fun hz hs hr hb => ?_, fun hz hready => ?_⟩
  · refine exec_ok (show exec .rollback s = execRollback s from rfl) ?_
    rw [bind_get, hd]
    dsimp only
    rw [if_pos hz, if_pos (by simp [hs, hr, hb])]
    rfl
  · refine exec_ok (show exec .rollback s = execRollback s from rfl) ?_
    rw [bind_get, hd]
    dsimp only
    rw [if_neg hz, bind_passes (endSlots_passes hready)]
    rfl

theorem softError_of {s : State} {e : StorageError} (h : s.arg.error = some e) : exec .softError s = .next (s.strike e) := by
  show execSoftError s = _
  unfold execSoftError
  rw [event_next, h]

theorem patrolScrub_of {s : State} (h : s.arg.z + 8 * 3600 * 1000000000 ≤ s.time) :
    let t := match s.arg.error with | some e => s.strike e | none => s
    exec .patrolScrub s = .next (t.push .patrolScrub { x := s.arg.x, z := s.time }) := by
  refine exec_ok (show exec .patrolScrub s = execPatrolScrub s from rfl) ?_
  rw [bind_get]
  dsimp only
  rw [if_neg (Nat.not_lt.2 h)]
  rfl

/-- Settles O39: each event once what holds it up has ended. -/
theorem reliabilityEventsComplete : Obligations.ReliabilityEventsComplete := fun _ =>
  ⟨clusterReset_of, ⟨clusterStop_again, clusterStop_of⟩, fun _ hd => rollback_of hd, fun _ he => softError_of he, patrolScrub_of⟩

end Sys2Proof.Proofs
end

section
/-! The host link (24 R374 to R385). -/

namespace Sys2Proof.Proofs

open Sys2Proof Sys2Proof.Machine Sys2Proof.Laws

/-- A message to this module goes on to its opcode's meaning. -/
theorem received_own {s : State} {i : Instr} {own n : Nat} {f : State → State} (hd : s.board.discards s.arg.host n = false)
    (hb : s.board.booted = true) (himg : s.board.imageOk = true ∨ own = 7 ∨ own = 8) (hop : s.arg.host.opcode = own) :
    s.received i own n f = f s := by
  unfold State.received
  dsimp only
  rw [hop, if_pos rfl, if_neg]
  rcases himg with h | rfl | rfl <;> simp [*]

/-- A request in its session's order is carried out. -/
theorem replies_of {i : Instr} {own opcode n : Nat} {s : State} {f : State → Reply} {r : Reply}
    (he : exec i s = .next (s.request i own opcode n f)) (hf : f s = r) : Replies i own n s r := by
  unfold Replies
  intro h x hop hd hb himg hx hp hseq
  have hin : s.inOrder i h x f = s.carryOut h x fun _ => r := by
    unfold State.inOrder
    rw [if_pos hseq, ← hf]
    rfl
  rw [he]
  unfold State.request
  rw [received_own hd hb (.inl himg) hop]
  dsimp only
  rw [hx]
  dsimp only
  rw [if_pos hp, hin]

theorem hostWrite_done {s : State} (h8 : 8 ≤ s.arg.bytes.length)
    (hw : (s.part s.arg.host.partition).inWindows (at_ s.arg.bytes 0 8) (s.arg.bytes.length - 8) = true) :
    RequestDone .hostWrite 1 s (s.write (at_ s.arg.bytes 0 8) (s.arg.bytes.drop 8)) 5 0 [] := by
  refine replies_of (show exec .hostWrite s = execHostWrite s from rfl) ?_
  dsimp only
  rw [if_neg (Nat.not_lt.2 h8), hw]
  rfl

theorem hostRead_done {s : State} (h12 : s.arg.bytes.length = 12) (h0 : at_ s.arg.bytes 8 4 ≠ 0)
    (hmax : at_ s.arg.bytes 8 4 ≤ 8192)
    (hw : (s.part s.arg.host.partition).inWindows (at_ s.arg.bytes 0 8) (at_ s.arg.bytes 8 4) = true) :
    RequestDone .hostRead 2 s s 2 0 (s.mem.readBytes (at_ s.arg.bytes 0 8) (at_ s.arg.bytes 8 4)) := by
  refine replies_of (show exec .hostRead s = execHostRead s from rfl) ?_
  dsimp only
  rw [if_neg (by simp [h12, h0, Nat.not_lt.2 hmax]), hw]
  rfl

theorem hostLaunch_done {s s1 : State} {us : List Oblig} {k : Option Nat} :
    let bs := s.arg.bytes
    let p := s.arg.host.partition
    let r := BitVec.ofNat 2048 (leNat (bs.drop 8))
    let dep := refOf (word (recCounter r))
    bs.length = 264 → at_ bs 2 6 = 0 → recField r 128 64 = 0 → at_ bs 0 2 = recQueue r →
      (flagOf dep 32 = false ∨ flagOf dep 31 = false) →
      s.recordChecks (s.part p).supervisor p 0 [] 0 0 r false = (s1, .ok (us, k)) →
      (s1.part p).hasRoom (recQueue r) = true →
      RequestDone .hostLaunch 3 s (s1.pushSlice engineAgent p r [] k).1 3 0
        (leBytes 8 (s1.pushSlice engineAgent p r [] k).2) := by
  intro bs p r dep hlen hz hrec hq hown hchecks hroom
  refine replies_of (show exec .hostLaunch s = execHostLaunch s from rfl) ?_
  have hnot : (flagOf dep 32 && flagOf dep 31) = false := by rcases hown with h | h <;> simp [h]
  dsimp only
  rw [if_neg (by simp [bs, hlen, hz] at *), if_neg (by simp [r, bs, hrec] at *), if_neg (by simpa using hq), hchecks]
  dsimp only
  rw [hnot, if_neg Bool.false_ne_true, hq, hroom]
  rfl

theorem hostNotice_of {s : State} {m : Notice} (h : (s.part s.arg.x).notices.find? (·.sent.isNone) = some m) :
    exec .hostNotice s = .next (s.sendNotice s.arg.x m) := by
  show execHostNotice s = _
  unfold execHostNotice
  rw [event_next, h]

theorem noticeResend_of {s : State} {m : Notice} {t : Nat} (hm : (s.part s.arg.x).notices.find? (·.seq == s.arg.y) = some m)
    (ht : m.sent = some t) (htime : t + 1000000 ≤ s.time) : exec .noticeResend s = .next (s.sendNotice s.arg.x m) := by
  refine exec_ok (show exec .noticeResend s = execNoticeResend s from rfl) ?_
  rw [bind_get, hm]
  dsimp only
  rw [ht]
  dsimp only
  rw [if_neg (Nat.not_lt.2 htime)]
  rfl

/-- A request that needs no session, outside any. -/
theorem anywhere_none {s : State} {i : Instr} {f : State → Reply} {s1 : State} {op st : Nat} {bs : List Byte}
    (h : s.sessions.find s.arg.host.session = none) (hf : f s = (s1, op, st, bs)) :
    s.anywhere i f = s1.respond s.arg.host op st bs := by
  unfold State.anywhere
  dsimp only
  rw [h, hf]

theorem hostAck_of {s : State} (hd : s.board.discards s.arg.host s.arg.bytes.length = false) (hb : s.board.booted = true)
    (himg : s.board.imageOk = true) (hop : s.arg.host.opcode = 5) :
    exec .hostAck s = .next (s.modPart s.arg.host.partition fun x => { x with
      notices := x.notices.filter fun n => !(n.seq == s.arg.host.tag && n.sent.isSome) }) :=
  congrArg _ (received_own hd hb (.inl himg) hop)

/-- A query outside any session. -/
theorem query_of {s s1 : State} {i : Instr} {own op st : Nat} {bs : List Byte} {f : State → Reply}
    (he : exec i s = .next (s.query i own f)) (hd : s.board.discards s.arg.host s.arg.bytes.length = false)
    (hb : s.board.booted = true) (hown : own = 7 ∨ own = 8) (hop : s.arg.host.opcode = own)
    (hx : s.sessions.find s.arg.host.session = none) (hf : f s = (s1, op, st, bs)) :
    exec i s = .next (s1.respond s.arg.host op st bs) := by
  rw [he]
  unfold State.query
  rw [received_own hd hb (.inr hown) hop, anywhere_none hx hf]

theorem unknownOpcode_of {s : State} (hd : s.board.discards s.arg.host s.arg.bytes.length = false) (hb : s.board.booted = true)
    (himg : s.board.imageOk = true) (hop : s.arg.host.opcode ∉ [1, 2, 3, 5, 6, 7, 8])
    (hx : s.sessions.find s.arg.host.session = none) :
    exec .hostWrite s = .next (s.respond s.arg.host s.arg.host.opcode 1 []) := by
  have hown : s.arg.host.opcode ≠ 1 := fun h => hop (by rw [h]; decide)
  refine congrArg Host.Outcome.next ?_
  show s.received .hostWrite 1 s.arg.bytes.length _ = _
  unfold State.received
  dsimp only
  rw [if_neg (by simp [hb, hd, himg]), if_neg hown, if_neg (by simpa [hostOpcodes] using hop)]
  exact anywhere_none hx rfl

/-! A message's datagram. -/

theorem at_skip {k x off n : Nat} {bs : List Byte} (h : k ≤ off) : at_ (leBytes k x ++ bs) off n = at_ bs (off - k) n := by
  unfold at_
  rw [List.drop_append, length_leBytes, List.drop_of_length_le (by simpa using h), List.nil_append]

theorem at_field {n x : Nat} {bs : List Byte} : at_ (leBytes n x ++ bs) 0 n = x % 256 ^ n := by
  unfold at_
  rw [List.drop_zero, List.take_append_of_le_length (by simp), List.take_of_length_le (by simp), leNat_leBytes]

theorem datagram_layout (r : Response) :
    r.datagram.drop 32 = r.payload ∧ at_ r.datagram 0 2 = 0x5C4D ∧ at_ r.datagram 2 1 = 1 ∧
      at_ r.datagram 3 1 = r.opcode % 256 ∧ at_ r.datagram 4 4 = r.session % 2 ^ 32 ∧ at_ r.datagram 8 8 = r.sequence % 2 ^ 64 ∧
      at_ r.datagram 16 1 = r.partition % 256 ∧ at_ r.datagram 17 1 = 0 ∧ at_ r.datagram 18 2 = r.payload.length % 2 ^ 16 ∧
      at_ r.datagram 20 4 = r.status % 2 ^ 32 ∧ at_ r.datagram 24 8 = r.tag % 2 ^ 64 := by
  unfold Response.datagram
  refine ⟨List.drop_left' (by simp), ?_⟩
  simp only [List.append_assoc]
  simp [at_skip, at_field]

theorem hostRequestsComplete : HostRequestsComplete := by
  intro s bs h x pa n
  refine ⟨hostWrite_done, hostRead_done, fun s1 us k hlen hz hrec hq hown hchecks hroom =>
    hostLaunch_done hlen hz hrec hq hown hchecks hroom, fun m hm => hostNotice_of hm,
    fun m t hm ht htime => noticeResend_of hm ht htime, fun hd hb => ⟨hostAck_of hd hb, fun hx => ⟨fun hop => ?_,
      fun hop hlen => ?_,
    fun himg hop => unknownOpcode_of hd hb himg hop hx⟩⟩, datagram_layout⟩
  · exact query_of (show exec .telemetry s = execTelemetry s from rfl) hd hb (.inl rfl) hop hx rfl
  · exact query_of (show exec .attest s = execAttest s from rfl) hd hb (.inr rfl) hop hx (if_pos hlen)

/-! Signed commands. -/

/-- A signed command in session 0, of this event's code or of none. -/
theorem signedCommand_request {s : State} {i : Instr} {command : Nat} {f : SignedCommand → State → State × Nat}
    (hs : s.arg.host.session = 0) (hp : s.arg.host.partition = 255)
    (hc : s.arg.signed.command = command ∨ s.arg.signed.command = 0 ∨ 5 < s.arg.signed.command) :
    ∃ g, s.signedCommand i command f = s.request i 6 6 (signedLength s.arg.signed) g ∧
      ∀ key, s.board.hostKey s.arg.signed.keyIndex = some key → s.arg.signed.bootCount = s.board.bootCount →
        g s = if mldsaVerify key (shake256 (signedBytes s.arg.host s.arg.signed)) s.arg.signed.signature then
          if s.arg.signed.command != command || s.arg.signed.length != s.arg.signed.args.length || s.arg.signed.zeroByte != 0 ||
              s.arg.signed.zeroWord != 0 || 4867 < s.arg.signed.args.length then (s, 6, 2, [])
          else (if (f s.arg.signed s).2 = 0 then (f s.arg.signed s).1 else s, 6, (f s.arg.signed s).2, [])
        else (s, 6, 5, []) := by
  unfold State.signedCommand
  dsimp only
  rw [if_neg, if_neg (by simp [hs, hp])]
  · refine ⟨_, rfl, fun key hkey hboot => ?_⟩
    rw [hkey]
    dsimp only
    rw [hboot]
    cases mldsaVerify key (shake256 (signedBytes s.arg.host s.arg.signed)) s.arg.signed.signature with
    | false => simp
    | true => simp
  · rcases hc with h | h | h
    · simp [h]
    · simp [h]
    · simp [Nat.not_le.2 h]

theorem signedDone_of {s t : State} {i : Instr} {command : Nat} {f : SignedCommand → State → State × Nat}
    (he : exec i s = .next (s.signedCommand i command f)) (hf : f s.arg.signed s = (t, 0)) : SignedDone i command s t := by
  unfold SignedDone
  intro h c key hs hp hkey hboot hcmd hlen hzb hzw hmax
  obtain ⟨g, hg, hrun⟩ := signedCommand_request (i := i) (f := f) hs hp (.inl hcmd)
  refine replies_of (he.trans (congrArg _ hg)) ((hrun key hkey hboot).trans (if_congr Iff.rfl ?_ rfl))
  rw [if_neg, hf]
  · rfl
  · simp [c, hcmd, hlen, hzb, hzw, Nat.not_lt.2 hmax] at *

theorem signedCommandRefused : SignedCommandRefused := by
  intro s key h c hs hp hkey hboot hver hbad
  have hc : c.command = 1 ∨ c.command = 0 ∨ 5 < c.command := by
    rcases hbad with h0 | h5 | ⟨h1, -⟩
    · exact .inr (.inl h0)
    · exact .inr (.inr h5)
    · exact .inl h1
  obtain ⟨g, hg, hrun⟩ := signedCommand_request (i := .openSession) hs hp hc
  refine replies_of ((show exec .openSession s = execOpenSession s from rfl).trans (congrArg _ hg)) ((hrun key hkey hboot).trans ?_)
  rw [if_pos hver, if_pos]
  rcases hbad with h0 | h5 | ⟨-, hlen⟩
  · simp [c, h0] at *
  · simp [show s.arg.signed.command ≠ 1 from fun h1 => absurd (h1 ▸ h5) (by decide)]
  · simp [show s.arg.signed.length ≠ s.arg.signed.args.length from hlen]

theorem signedCommandsComplete : SignedCommandsComplete := by
  intro s a n
  refine ⟨fun hlen hn hp hz => ?_, fun hlen hn hz hx => ?_, fun hok => ?_, fun hlen hd hz => ?_, ?_⟩
  · refine signedDone_of (show exec .openSession s = execOpenSession s from rfl) (if_neg ?_)
    simp [a, n, hlen, hn, hz, Nat.not_lt.2 hp] at *
  · refine signedDone_of (show exec .closeSession s = execCloseSession s from rfl) ?_
    dsimp only
    rw [if_neg (by simp [a, n, hlen, hn, hz] at *), if_neg (by simpa [Option.isNone_iff_eq_none] using hx)]
  · refine signedDone_of (show exec .partitionTable s = execPartitionTable s from rfl) (if_neg ?_)
    rw [hok]
    exact Bool.false_ne_true
  · refine signedDone_of (show exec .dieReset s = execDieReset s from rfl) (if_neg ?_)
    simp [a, hlen, hz, Nat.not_lt.2 hd] at *
  · intro off bs hlen hoff hend erased
    refine signedDone_of (show exec .recordWrite s = execRecordWrite s from rfl) (if_neg ?_)
    simp only [Bool.or_eq_true, decide_eq_true_eq, not_or]
    exact ⟨⟨Nat.not_lt.2 hlen, Nat.not_le.2 hoff⟩, Nat.not_lt.2 hend⟩

/-- Settles O41: requests through `replies_of`, signed commands through `signedDone_of`. -/
theorem hostLinkEvents : Obligations.HostLinkEvents := ⟨hostRequestsComplete, signedCommandsComplete, signedCommandRefused⟩

/-! Power and heat. -/

theorem notice_arg (s : State) (p kind detail : Nat) : (s.notice p kind detail).arg = s.arg := by
  unfold State.notice
  dsimp only
  split
  · rfl
  · simp

theorem foldl_notice_arg (ps : Tab Partition) (kind detail : Nat) (s : State) :
    (ps.foldl (fun x p => x.notice p.1 kind detail) s).arg = s.arg := by
  induction ps generalizing s with
  | nil => rfl
  | cons p ps ih => exact (ih _).trans (notice_arg s p.1 kind detail)

theorem setLevel_arg (s : State) (l : Nat) : (s.setLevel l).arg = s.arg := by
  unfold State.setLevel
  split
  · rfl
  · exact foldl_notice_arg _ _ _ _

/-- The sensors' readings leave the event as it came. -/
theorem measured_arg (s : State) : s.measured.arg = s.arg := by
  unfold State.measured
  dsimp only
  split
  · rfl
  · exact setLevel_arg _ _

theorem thermalFloor_of (s : State) :
    let m := s.measured
    let ts := m.board.dieTemp.set s.arg.x s.arg.y
    exec .thermalFloor s = .next (State.setLevel { m with board := { m.board with dieTemp := ts, floor := floorOf ts } }
      (max m.board.level (floorOf ts))) := by
  show execThermalFloor s = _
  unfold execThermalFloor
  rw [event_next]
  dsimp only
  rw [measured_arg]

theorem thermalShutdown_of {s : State} (h : 1200 ≤ s.arg.y ∨ 450 < s.arg.z) :
    let m := s.measured
    let ts := m.board.dieTemp.set s.arg.x s.arg.y
    exec .thermalShutdown s = .next (State.shutdown { m with board := { m.board with dieTemp := ts, inlet := s.arg.z } }) := by
  show execThermalShutdown s = _
  unfold execThermalShutdown
  rw [event_next]
  dsimp only
  rw [measured_arg, if_pos (by simpa using h)]

/-- Settles O42: each event is its definition at the readings that come with it. -/
theorem powerEvents : Obligations.PowerEvents := by
  intro s x m p ts
  refine ⟨?_, fun h => ?_, fun h => ?_, thermalFloor_of s, thermalShutdown_of⟩
  · intro count nor t
    exact ⟨rfl, rfl, fun i => ⟨rfl, rfl⟩⟩
  · exact congrArg Host.Outcome.next (if_pos h)
  · exact congrArg Host.Outcome.next (if_pos h)

end Sys2Proof.Proofs
end

section
/-! Every operation of the state keeps the memory's canonical form: one rule for each, in the order of the model. A rule's proof
follows the operation's definition. -/

namespace Sys2Proof

open Sys2Proof.Machine Sys2Proof.Laws

/-! The rules' shapes. -/

namespace Inv

/-- An update of fields other than the memory. -/
theorem same {s : State} {t others cores clusters walks parts full bad copies subs waiters pendings parked slices gangs audits
    arrivals tokens sachets flying outbox flits links sessions responses board fabric time turned agenda arg fresh} (h : Inv s) :
    Inv ⟨t, others, cores, clusters, walks, parts, s.mem, full, bad, copies, subs, waiters, pendings, parked, slices, gangs,
      audits, arrivals, tokens, sachets, flying, outbox, flits, links, sessions, responses, board, fabric, time, turned, agenda,
      arg, fresh⟩ := h

theorem ite {c : Prop} [Decidable c] {s t : State} (hs : Inv s) (ht : Inv t) : Inv (if c then s else t) := by
  split
  · exact hs
  · exact ht

theorem ite_fst {α : Type} {c : Prop} [Decidable c] {z w : State × α} (hz : Inv z.1) (hw : Inv w.1) :
    Inv (if c then z else w).1 := by
  split
  · exact hz
  · exact hw

theorem foldl {α : Type} {f : State → α → State} {l : List α} {s : State} (hf : ∀ y x, Inv y → Inv (f y x)) (h : Inv s) :
    Inv (l.foldl f s) := by
  induction l generalizing s with
  | nil => exact h
  | cons x l ih => exact ih (hf s x h)

theorem foldl_fst {α β : Type} {f : State × β → α → State × β} {l : List α} {z : State × β} (hf : ∀ y x, Inv y.1 → Inv (f y x).1)
    (h : Inv z.1) : Inv (l.foldl f z).1 := by
  induction l generalizing z with
  | nil => exact h
  | cons x l ih => exact ih (hf z x h)

/-- The state that a pair begins with, under its own name. -/
theorem of_eq {α : Type} {z : State × α} {t : State} {r : α} (h : Inv z.1) (e : z = (t, r)) : Inv t := by
  subst e
  exact h

end Inv

/-- A meaning keeps the canonical form, however it ends. -/
def Keeps {α : Type} (m : M α) : Prop :=
  ∀ s, Inv s → match m s with
    | .ok (_, t) => Inv t
    | .error (.trap _ _ _ t) => Inv t
    | .error (.stay t) => Inv t

/-- A next state is in the canonical form. -/
def Answers (o : Host.Outcome State Fault Refusal) : Prop := ∀ t, o = .next t → Inv t

namespace Keeps

variable {α β : Type}

theorem ite {c : Prop} [Decidable c] {m n : M α} (hm : Keeps m) (hn : Keeps n) : Keeps (if c then m else n) := by
  split
  · exact hm
  · exact hn

theorem pure {x : α} : Keeps (pure x : M α) := fun _ h => h

theorem bind {m : M α} {f : α → M β} (hm : Keeps m) (hf : ∀ a, Keeps (f a)) : Keeps (m >>= f) := by
  intro s h
  have hs := hm s h
  cases e : m s with
  | error r =>
    rw [show (m >>= f) s = .error r from by show (m s >>= fun p => f p.1 p.2) = _; rw [e]; rfl]
    rw [e] at hs
    cases r with
    | trap c v k t => exact hs
    | stay t => exact hs
  | ok p =>
    rw [show (m >>= f) s = f p.1 p.2 from by show (m s >>= fun p => f p.1 p.2) = _; rw [e]; rfl]
    rw [e] at hs
    exact hf p.1 p.2 hs

/-- A check ahead of the rest. -/
theorem guard {c : Prop} [Decidable c] {m : M PUnit} {f : PUnit → M β} (hm : Keeps m) (hf : ∀ a, Keeps (f a)) :
    Keeps (if c then m >>= f else f ⟨⟩) := by
  split
  · exact bind hm hf
  · exact hf _

theorem guard₂ {c : Prop} [Decidable c] {m : M α} {n : M PUnit} {f : PUnit → M β} (hm : Keeps m) (hn : Keeps n)
    (hf : ∀ a, Keeps (f a)) : Keeps (if c then m >>= fun _ => n >>= f else f ⟨⟩) := by
  split
  · exact bind hm fun _ => bind hn hf
  · exact hf _

theorem pureBind {a : α} {f : α → M β} (hf : Keeps (f a)) : Keeps (Pure.pure a >>= f) := fun s h => hf s h

/-- What follows a trap is not run. -/
theorem trapThen {c : Cause} {v : Word} {f : α → M β} : Keeps (Machine.trapNow c v >>= f) := fun _ h => h

theorem get {f : State → M β} (hf : ∀ s, Inv s → Keeps (f s)) : Keeps (get >>= f) := fun s h => hf s h s h

theorem set {t : State} (h : Inv t) : Keeps (set t : M PUnit) := fun _ _ => h

theorem modS {f : State → State} (hf : ∀ s, Inv s → Inv (f s)) : Keeps (Machine.modS f) := fun s h => hf s h

theorem modT {f : Ctx → Ctx} : Keeps (Machine.modT f) := fun _ h => Inv.same h

theorem readT {f : Ctx → α} : Keeps (Machine.readT f) := fun _ h => h

theorem readS {f : State → α} : Keeps (Machine.readS f) := fun _ h => h

theorem trapNow {c : Cause} {v : Word} : Keeps (Machine.trapNow c v : M α) := fun _ h => h

theorem trapAs {c : Cause} {v : Word} {k : TrapClass} : Keeps (Machine.trapAs c v k : M α) := fun _ h => h

theorem stayNow : Keeps (Machine.stayNow : M α) := fun _ h => h

theorem nextFresh : Keeps Machine.nextFresh := fun _ h => Inv.same h

/-- A meaning run through leaves the canonical form. -/
theorem ok {m : M α} {s t : State} {a : α} (hm : Keeps m) (h : Inv s) (e : m s = .ok (a, t)) : Inv t := by
  have := hm s h
  rw [e] at this
  exact this

theorem trap {m : M α} {s t : State} {c : Cause} {v : Word} {k : TrapClass} (hm : Keeps m) (h : Inv s)
    (e : m s = .error (.trap c v k t)) : Inv t := by
  have := hm s h
  rw [e] at this
  exact this

theorem stay {m : M α} {s t : State} (hm : Keeps m) (h : Inv s) (e : m s = .error (.stay t)) : Inv t := by
  have := hm s h
  rw [e] at this
  exact this

theorem forM {l : List α} {f : α → M PUnit} (hf : ∀ a, Keeps (f a)) : Keeps (l.forM f) := by
  induction l with
  | nil => exact .pure
  | cons x l ih => exact .bind (hf x) fun _ => ih

end Keeps

/-! The state of one module, as plain data. -/

theorem Inv.reset : Inv State.reset := wf_nil

/-! The monad in which meanings are written, and the accessors of the state. -/

theorem Keeps.require {p : Bool} {c : Cause} {tval : Word} : Keeps (require p c tval) := .ite .pure .trapNow

theorem Inv.setCtx {s : State} {c : Ctx} (h : Inv s) : Inv (s.setCtx c) := .ite (.same h) (.same h)

theorem Inv.setCore {s : State} {core : Nat} {c : CoreSt} (h : Inv s) : Inv (s.setCore core c) := .same h

theorem Inv.setCluster {s : State} {cl : Nat} {c : Cluster} (h : Inv s) : Inv (s.setCluster cl c) := .same h

theorem Inv.setPart {s : State} {p : Nat} {x : Partition} (h : Inv s) : Inv (s.setPart p x) := .same h

theorem Inv.modCtx {s : State} {core : Nat} {f : Ctx → Ctx} (h : Inv s) : Inv (s.modCtx core f) := .setCtx h

theorem Inv.modCluster {s : State} {cl : Nat} {f : Cluster → Cluster} (h : Inv s) : Inv (s.modCluster cl f) := .setCluster h

theorem Inv.modCore {s : State} {core : Nat} {f : CoreSt → CoreSt} (h : Inv s) : Inv (s.modCore core f) := .setCore h

theorem Inv.modPart {s : State} {p : Nat} {f : Partition → Partition} (h : Inv s) : Inv (s.modPart p f) := .setPart h

theorem Inv.modSlice {s : State} {id : Nat} {f : Slice → Slice} (h : Inv s) : Inv (s.modSlice id f) := .same h

theorem Keeps.trapOpen {α : Type} {c : Cause} : Keeps (trapOpen c : M α) := .bind .nextFresh fun _ => .trapNow

theorem Inv.push {s : State} {i : Instr} {a : EventArg} (h : Inv s) : Inv (s.push i a) := .same h

theorem Inv.pushTurn {s : State} {core : Nat} (h : Inv s) : Inv (s.pushTurn core) := .ite h (.same h)

theorem Keeps.notYet {α : Type} {i : Instr} : Keeps (notYet i : M α) := fun _ h => Inv.same (.pushTurn h)

/-! Writing the memory as an agent does. -/

theorem Inv.unown {s : State} {key n : Nat} (h : Inv s) : Inv (s.unown key n) := .ite h (.same h)

theorem Inv.write {s : State} {key : Nat} {bs : List Byte} (h : Inv s) : Inv (s.write key bs) := Inv_write h key bs

theorem Inv.cleanStore {s : State} {key n : Nat} (h : Inv s) : Inv (s.cleanStore key n) := .ite (.same h) h

theorem Inv.lay {s : State} {key : Nat} {bs : List Byte} (h : Inv s) : Inv (s.lay key bs) := .same (.write h)

theorem Inv.writeNat {s : State} {key n x : Nat} (h : Inv s) : Inv (s.writeNat key n x) := .lay h

theorem Inv.poison {s : State} {key n : Nat} (h : Inv s) : Inv (s.poison key n) := .same h

theorem Inv.modDomain {s : State} {p i : Nat} {f : Domain → Domain} (h : Inv s) : Inv (s.modDomain p i f) := .modPart h

theorem Inv.unrepeatable {s : State} {core : Nat} (h : Inv s) : Inv (s.unrepeatable core) := by
  unfold State.unrepeatable
  split
  · exact .modDomain h
  · exact h

theorem Inv.undoEntry {s : State} {core space block : Nat} {old : List Byte} {full bad : List Nat} {fullBits : Nat} (h : Inv s) :
    Inv (s.undoEntry core space block old full bad fullBits) := by
  unfold State.undoEntry
  extract_lets _
  split
  · exact h
  · refine .ite h ?_
    split
    · exact h
    · extract_lets _ s1 s2
      have h1 : Inv s1 := .foldl (fun _ _ hy => .lay hy) h
      have h2 : Inv s2 := .foldl (fun _ _ hy => .poison hy) h1
      exact .ite (.unrepeatable h) (.modDomain h2)

theorem Inv.undoBlock {s : State} {core key : Nat} (h : Inv s) : Inv (s.undoBlock core key) := .undoEntry h

theorem Inv.writeFor {s : State} {core key : Nat} {bs : List Byte} (h : Inv s) : Inv (s.writeFor core key bs) :=
  .write (.foldl (fun _ _ hy => .undoBlock hy) h)

theorem Inv.setFull {s : State} {core key : Nat} {f : Bool} (h : Inv s) : Inv (s.setFull core key f) := by
  unfold State.setFull
  extract_lets _ s1
  have h1 : Inv s1 := .undoBlock h
  exact .ite h (.same h1)

theorem Inv.notice {s : State} {p kind detail : Nat} (h : Inv s) : Inv (s.notice p kind detail) := by
  unfold State.notice
  extract_lets _ _
  exact .ite (.setPart h) (.push (.setPart h))

theorem Inv.ringLog {s : State} {p : Nat} {log : Option Nat} {cap size : Nat} {entry : Nat → List Byte} (h : Inv s) :
    Inv (s.ringLog p log cap size entry) := by
  unfold State.ringLog
  split
  · exact h
  · exact .writeNat (.ite (.notice (.writeNat (.lay h))) (.lay h))

theorem Inv.logAccess {s : State} {p addr slice core cause kind : Nat} (h : Inv s) :
    Inv (s.logAccess p addr slice core cause kind) :=
  .ringLog h

theorem Inv.logSparse {s : State} {p addr slice core access : Nat} (h : Inv s) : Inv (s.logSparse p addr slice core access) :=
  .ringLog h

theorem Inv.logError {s : State} {p : Nat} {e : ErrorEntry} (h : Inv s) : Inv (s.logError p e) := .ringLog h

/-! Address classes, pads, the five-level walk, the translation caches, and the checks every access passes. -/

theorem Inv.walkFill {s : State} {die part va : Nat} (h : Inv s) : Inv (s.walkFill die part va) := .same h

theorem Inv.microFill {s : State} {via : Via} {core part va : Nat} {e : TlbEntry} (h : Inv s) :
    Inv (s.microFill via core part va e) :=
  .ite (.modCore h) h

theorem Inv.translate {s : State} {via : Via} {core part va : Nat} (h : Inv s) : Inv (s.translate via core part va).1 := by
  unfold State.translate
  extract_lets s1
  have h1 : Inv s1 := .walkFill h
  split
  · exact .microFill h
  · split
    · exact .ite_fst h1 (.microFill (.modCluster h1))
    · exact h1

theorem Inv.tryResolve {s : State} {core part slice : Nat} {via : Via} {va : Word} {n : Nat} {acc : Acc} (h : Inv s) :
    Inv (s.tryResolve core part slice via va n acc).1 := by
  unfold State.tryResolve
  split
  · split
    · exact h
    · exact .logAccess h
  · split
    rename_i e
    have h1 := (Inv.translate h).of_eq e
    split
    · exact .ite_fst (.logAccess h1) (.ite_fst h1 h1)
    · exact h1
    · exact .logAccess h1
  · exact h

theorem Keeps.resolveAt {va : Word} {al n : Nat} {acc : Acc} : Keeps (resolveAt va al n acc) := by
  unfold Machine.resolveAt
  refine .bind .require fun _ => .get fun _ h => .bind .require fun _ => ?_
  extract_lets _ _
  split
  rename_i e
  have h1 := (Inv.tryResolve h).of_eq e
  refine .bind (.set (.same h1)) fun _ => ?_
  split
  · extract_lets jp
    have hjp : ∀ r, Keeps (jp r) := fun _ => .pure
    clear_value jp
    split
    · exact .ite (.bind .stayNow fun _ => hjp _) (hjp _)
    · exact hjp _
  · exact .trapNow

theorem Keeps.resolve {va : Word} {n : Nat} {acc : Acc} : Keeps (resolve va n acc) := .resolveAt

theorem Keeps.resolveMemAt {va : Word} {al n : Nat} {acc : Acc} : Keeps (resolveMemAt va al n acc) := by
  unfold Machine.resolveMemAt
  refine .bind .resolveAt fun _ => ?_
  split
  · exact .pure
  · exact .trapNow
  · exact .get fun _ h => .ite .trapNow (.bind (.set (.logAccess h)) fun _ => .trapNow)

theorem Keeps.resolveMem {va : Word} {n : Nat} {acc : Acc} : Keeps (resolveMem va n acc) := .resolveMemAt

/-! Watchpoints, the cache portion and the victim pool, acquire and release,
  and reads and writes by the thread whose turn it is. -/

theorem Inv.wpHit {s : State} {core : Nat} {is : List Nat} (h : Inv s) : Inv (s.wpHit core is) := .modCore h

theorem Inv.triggerStop {s : State} {cl cause core : Nat} (h : Inv s) : Inv (s.triggerStop cl cause core) := .ite h (.same h)

theorem Keeps.watch {bit : Nat} {va : Word} {n : Nat} : Keeps (watch bit va n) := by
  unfold Machine.watch
  refine .get fun _ h => ?_
  extract_lets _ jp
  have hjp : ∀ r, Keeps (jp r) := fun _ => .modT
  clear_value jp
  split
  · exact .pure
  · exact .bind (.set (.wpHit h)) fun _ => .ite .pure (.ite (.ite .pure (.bind (.modS fun _ h1 => .triggerStop h1) fun _ =>
      .ite (.bind .stayNow fun _ => hjp _) (hjp _))) (.bind .modT fun _ => .ite .trapNow .pure))

theorem Inv.bankArrive {s : State} {key n : Nat} (h : Inv s) : Inv (s.bankArrive key n) := by
  unfold State.bankArrive
  extract_lets _ _ _ s1
  have h1 : Inv s1 := .wpHit h
  exact .ite h (.ite (.ite (.triggerStop h1) (.ite h1 (.setCtx h1))) h)

theorem Inv.placeLine {s : State} {core : Nat} {l : CacheLine} (h : Inv s) : Inv (s.placeLine core l) := .modCore h

theorem Inv.atHome {s : State} {core key n : Nat} (h : Inv s) : Inv (s.atHome core key n) := .ite (.modCore h) h

theorem Inv.writeHome {s : State} {core key : Nat} {bs : List Byte} (h : Inv s) : Inv (s.writeHome core key bs) :=
  .atHome (.writeFor h)

theorem Inv.loadVia {s : State} {core key n : Nat} (h : Inv s) : Inv (s.loadVia core key n).1 := by
  unfold State.loadVia
  extract_lets _ _
  refine .ite_fst ?_ h
  split
  · exact .ite h (.placeLine h)
  · exact .placeLine h

theorem Inv.storeVia {s : State} {core key : Nat} {bs : List Byte} (h : Inv s) : Inv (s.storeVia core key bs) := by
  unfold State.storeVia
  extract_lets s1
  have h1 : Inv s1 := .writeFor h
  exact .ite (.placeLine h1) h1

theorem Inv.acquire {s : State} {core : Nat} (h : Inv s) : Inv (s.acquire core) := .ite (.modCore h) h

theorem Keeps.acquire : Keeps acquire := .modS fun _ h => .acquire h

theorem Keeps.release : Keeps release := .pure

theorem Inv.leavePool {s : State} {core : Nat} (h : Inv s) : Inv (s.leavePool core) := by
  unfold State.leavePool
  extract_lets _ _
  refine .foldl (fun _ _ hy => ?_) h
  extract_lets _
  exact .ite hy (.modCore hy)

theorem Keeps.dataOk {va : Word} {key n : Nat} : Keeps (dataOk va key n) := .get fun _ _ => .ite .trapNow .pure

theorem Keeps.readPlain {bit : Nat} {va : Word} {key n : Nat} {acq : Bool} : Keeps (readPlain bit va key n acq) :=
  .bind .dataOk fun _ => .bind .watch fun _ => .guard .acquire fun _ => .get fun _ h => .bind (.set (.loadVia h)) fun _ => .pure

theorem Inv.noteDisposition {s : State} {core key n : Nat} (h : Inv s) : Inv (s.noteDisposition core key n) := by
  unfold State.noteDisposition
  extract_lets _ _ _ _
  exact .ite h (.ite h (.ite (.ite (.push h) (.ite (.push h) (.ite (.push h) h))) h))

theorem Inv.storeBy {s : State} {key : Nat} {bs : List Byte} (h : Inv s) : Inv (s.storeBy key bs) :=
  .noteDisposition (.cleanStore (.storeVia h))

theorem Keeps.writePlain {va : Word} {key : Nat} {bs : List Byte} : Keeps (writePlain va key bs) :=
  .bind .watch fun _ => .modS fun _ h => .storeBy h

/-! Slices pushed into queues, objects, obligations, the wait rule and engines' completion steps. -/

theorem Inv.occupy {s : State} {p q : Nat} {up : Bool} (h : Inv s) : Inv (s.occupy p q up) := .modPart h

theorem Inv.setObj {s : State} {agent key : Nat} {o : Obj} (h : Inv s) : Inv (s.setObj agent key o) :=
  .bankArrive (.atHome (.writeFor h))

theorem Inv.tryPadObject {s : State} {core part slice compact : Nat} {acc : Acc} (h : Inv s) :
    Inv (s.tryPadObject core part slice compact acc).1 := by
  unfold State.tryPadObject
  split
  · exact h
  · exact .logAccess h

theorem Inv.tryObject {s : State} {core part slice : Nat} {via : Via} {ref : Word} {acc : Acc} (h : Inv s) :
    Inv (s.tryObject core part slice via ref acc).1 := by
  unfold State.tryObject
  extract_lets _
  refine .ite_fst h (.ite_fst h (.ite_fst (.tryPadObject h) (.ite_fst h ?_)))
  split
  · next e => exact (Inv.tryResolve h).of_eq e
  · rename_i e
    have h1 := (Inv.tryResolve h).of_eq e
    exact .ite_fst (.logAccess h1) (.ite_fst h1 (.logAccess h1))
  · rename_i e
    have h1 := (Inv.tryResolve h).of_eq e
    exact .ite_fst (.logAccess h1) h1
  · next e => exact (Inv.tryResolve h).of_eq e

theorem Keeps.checkObjectAs {ref tval : Word} : Keeps (checkObjectAs ref tval) := by
  unfold Machine.checkObjectAs
  refine .get fun _ h => .bind .require fun _ => ?_
  split
  rename_i e
  have h1 := (Inv.tryObject h).of_eq e
  refine .bind (.set (.same h1)) fun _ => ?_
  split
  · exact .trapNow
  · exact .guard .trapNow fun _ => .guard .stayNow fun _ => .bind (.modS fun _ h2 => .atHome h2) fun _ => .pure

theorem Keeps.checkObject {ref : Word} : Keeps (checkObject ref) := .checkObjectAs

theorem Keeps.watchObject {ref : Word} : Keeps (watchObject ref) := .get fun _ _ => .get fun _ _ => .watch

theorem Keeps.findObjectAs {ref tval : Word} : Keeps (findObjectAs ref tval) :=
  .bind .checkObjectAs fun _ => .bind .watchObject fun _ => .pure

theorem Keeps.findObject {ref : Word} : Keeps (findObject ref) := .findObjectAs

theorem Keeps.findWhere {allows : Obj → Bool} {ref : Word} : Keeps (findWhere allows ref) :=
  .bind .checkObject fun _ => .get fun _ _ => .bind .require fun _ => .bind .watchObject fun _ => .pure

theorem Keeps.findKind {kinds : List Nat} {ref : Word} : Keeps (findKind kinds ref) := .findWhere

theorem Keeps.arrived {key : Nat} : Keeps (arrived key) := .modS fun _ h => .bankArrive h

theorem Inv.poisonEntries {s : State} {slotAddr : Nat} {p : Oblig → Bool} {os : List Oblig} (h : Inv s) :
    Inv (s.poisonEntries slotAddr p os) :=
  .foldl (fun _ _ hy => .poison hy) h

theorem Inv.laySpill {s : State} {slotAddr : Nat} {os : List Oblig} (h : Inv s) : Inv (s.laySpill slotAddr os) :=
  .poisonEntries (.writeNat (.lay h))

theorem Inv.setTable {s : State} {core : Nat} {os : List Oblig} (h : Inv s) : Inv (s.setTable core os) := by
  unfold State.setTable
  extract_lets _ s1
  have h1 : Inv s1 := .modCtx h
  refine .ite h1 ?_
  split
  · exact .laySpill h1
  · exact h1

theorem Inv.spend {s t : State} {core loc n : Nat} {k : Duty} (h : Inv s) (e : s.spend core loc k n = some t) : Inv t := by
  unfold State.spend at e
  extract_lets _ _ _ _ s1 at e
  have h1 : Inv s1 := by
    unfold s1
    split
    · exact .setTable h
    · exact h
  split at e
  · exact absurd e nofun
  · split at e
    · exact Option.some.inj e ▸ h1
    · exact Option.some.inj e ▸ .modPart h1

theorem Inv.handLocks {s : State} {agent part token : Nat} {obls : List Oblig} (h : Inv s) :
    Inv (s.handLocks agent part token obls) := by
  unfold State.handLocks
  refine .foldl (fun _ _ hy => ?_) h
  split
  · exact .setObj hy
  · exact hy

theorem Inv.pushSlice {s : State} {source p : Nat} {r : BitVec 2048} {obls : List Oblig} {counter : Option Nat} (h : Inv s) :
    Inv (s.pushSlice source p r obls counter).1 := by
  unfold State.pushSlice
  extract_lets _ _ _ _ _ _ s1 s2
  have h1 : Inv s1 := .handLocks (.occupy (.setPart h))
  have h2 : Inv s2 := .same h1
  exact .ite (.push h2) h2

theorem Inv.wake {s : State} {core status : Nat} {redo : Bool} (h : Inv s) : Inv (s.wake core status redo) :=
  .pushTurn (.modCtx h)

theorem Inv.wakeIf {s : State} {key : Nat} {p : Waiter → Bool} {status : Nat} (h : Inv s) : Inv (s.wakeIf key p status) :=
  .foldl (fun _ _ hy => .wake hy) (.same h)

theorem Inv.readyOn {s : State} {key : Nat} (h : Inv s) : Inv (s.readyOn key) := .foldl (fun _ _ hy => .push hy) h

theorem Inv.dropPendings {s : State} {key : Nat} (h : Inv s) : Inv (s.dropPendings key) := .same h

theorem Inv.breakObj {s : State} {agent key : Nat} (h : Inv s) : Inv (s.breakObj agent key) :=
  .readyOn (.wakeIf (.setObj (.dropPendings h)))

theorem Inv.addArrival {s : State} {agent key c status : Nat} (h : Inv s) : Inv (s.addArrival agent key c status) := by
  unfold State.addArrival
  extract_lets _ _
  exact .ite (.breakObj (.setObj h)) (.setObj h)

theorem Inv.settlePending {agent key phase : Nat} {again : State → State} {ps : List PendingStep} {s : State}
    (hagain : ∀ y, Inv y → Inv (again y)) (h : Inv s) : Inv (State.settle.State.settlePending agent key phase again ps s) := by
  induction ps generalizing s with
  | nil => exact hagain s h
  | cons p ps ih =>
    unfold State.settle.State.settlePending
    split
    · exact ih (.addArrival (.same h))
    · exact ih h

theorem Inv.settle {agent key n : Nat} {s : State} (h : Inv s) : Inv (State.settle agent key n s) := by
  induction n generalizing s with
  | zero => exact h
  | succ n ih => exact .ite (.settlePending (fun _ hy => ih hy) (.wakeIf (.setObj h))) h

theorem Inv.settled {s : State} {agent key : Nat} (h : Inv s) : Inv (s.settled agent key) := .settle h

theorem Inv.fireCounter {s : State} {key : Nat} (h : Inv s) : Inv (s.fireCounter key) :=
  .foldl (fun _ _ hy => .foldl (fun _ _ hy1 => .push (.modCluster hy1)) hy) (.foldl (fun _ _ hy => .push hy) h)

theorem Inv.addCount {s : State} {agent key n status : Nat} (h : Inv s) : Inv (s.addCount agent key n status) := by
  unfold State.addCount
  extract_lets _ _ s1
  have h1 : Inv s1 := .wakeIf (.setObj h)
  exact .ite (.fireCounter h1) h1

theorem Inv.engineStep {s : State} {agent key : Nat} {due : BitVec 16} {count status : Nat} (h : Inv s) :
    Inv (s.engineStep agent key due count status) := by
  unfold State.engineStep
  extract_lets _
  exact .ite (.ite (.settled (.addArrival h)) (.ite (.same h) (.breakObj (.setObj h)))) (.ite (.addCount h) h)

theorem Keeps.waitOn {α : Type} {w : Wait} : Keeps (waitOn w : M α) := .bind .modT fun _ => .stayNow

theorem Inv.withdraw {s : State} {core : Nat} (h : Inv s) : Inv (s.withdraw core) := by
  unfold State.withdraw
  extract_lets _ _ s1
  have h1 : Inv s1 := .same h
  split
  · exact .modCtx h1
  · exact h

/-! How an instruction completes. -/

theorem Inv.finish {s : State} {next : Ctx} {decision dval : Word} (h : Inv s) : Inv (s.finish next decision dval) := by
  unfold State.finish
  extract_lets _
  split
  · exact .same h
  · extract_lets _ _ _
    exact .ite (.same h) (.same h)

theorem Inv.complete {s : State} {len : Nat} {decision dval : Word} (h : Inv s) : Inv (s.complete len decision dval) := by
  unfold State.complete
  extract_lets _
  split
  · exact .ite (.same h) (.finish h)
  · exact .finish h

theorem Inv.swapIn {s : State} {core : Nat} (h : Inv s) : Inv (s.swapIn core) := .ite h (.same h)

theorem Inv.asCtx {s : State} {core : Nat} {f : State → State} (h : Inv s) (hf : ∀ y, Inv y → Inv (f y)) : Inv (s.asCtx core f) :=
  .swapIn (hf _ (.swapIn h))

theorem Inv.closeSlot {s : State} {id : Nat} {cs : List Nat} (h : Inv s) : Inv (s.closeSlot id cs) := by
  unfold State.closeSlot
  split
  · exact .same h
  · exact h

theorem Inv.eventFor {s : State} {core : Nat} {f : State → State} (h : Inv s) (hf : ∀ y, Inv y → Inv (f y)) :
    Inv (s.eventFor core f) := by
  unfold State.eventFor
  split
  · exact .ite (.closeSlot (.asCtx (.closeSlot h) hf)) (.asCtx h hf)
  · exact .asCtx h hf

theorem Inv.endSlot {s : State} {id : Nat} (h : Inv s) : Inv (s.endSlot id) := by
  unfold State.endSlot
  split
  · exact h
  · extract_lets _ _
    split
    · exact h
    · exact .ite h (.foldl (fun _ _ hy => .modCtx hy) (.same h))

theorem Inv.finishWait {s : State} (h : Inv s) : Inv (s.finishWait) := by
  unfold State.finishWait
  extract_lets _
  split
  · exact .complete (.acquire (.same h))
  · exact h

/-! Taking an activity off its threads. -/

theorem Inv.send {s : State} {pk : Packet} (h : Inv s) : Inv (s.send pk) := .ite (.push h) (.same h)

theorem Inv.launch {s : State} {die dest : Nat} {es : List Element} (h : Inv s) : Inv (s.launch die dest es) :=
  .push (.send (.same h))

theorem Inv.depart {s : State} {x : Sachet} (h : Inv s) : Inv (s.depart x) := .launch (.same h)

theorem Inv.departIf {s : State} {p : Sachet → Bool} (h : Inv s) : Inv (s.departIf p) := .foldl (fun _ _ hy => .depart hy) h

theorem Inv.flushFor {s : State} {core slice : Nat} (h : Inv s) : Inv (s.flushFor core slice) := .departIf h

theorem Inv.modCopy {s : State} {c : Copy} {f : Copy → Copy} (h : Inv s) : Inv (s.modCopy c f) := .same h

theorem Inv.copyDone {s : State} {c : Copy} (h : Inv s) : Inv (s.copyDone c) := by
  unfold State.copyDone
  extract_lets s1 _ s2
  have h1 : Inv s1 := .same h
  have h2 : Inv s2 := .ite h1 (.logError h1)
  exact .ite (.ite h2 (.setCtx h2)) (.engineStep h2)

theorem Inv.stopChannel {s : State} {cl ch : Nat} (h : Inv s) : Inv (s.stopChannel cl ch) := .setCtx h

theorem Inv.holdCopies {s : State} {core slice : Nat} (h : Inv s) : Inv (s.holdCopies core slice) :=
  .foldl (fun _ _ hy => .push hy) (.foldl (fun _ _ hy => .modCopy hy) h)

theorem Inv.holdRunning {s : State} {c : Copy} (h : Inv s) : Inv (s.holdRunning c) := .push (.stopChannel (.modCopy h))

theorem Inv.releaseCopies {s : State} {core slice : Nat} (h : Inv s) : Inv (s.releaseCopies core slice) :=
  .foldl (fun _ _ hy => .push hy) (.foldl (fun _ _ hy => .modCopy hy) (.same h))

theorem Inv.quiesce {s : State} {core slice : Nat} (h : Inv s) : Inv (s.quiesce core slice) :=
  .foldl (fun _ _ hy => .copyDone hy) (.foldl (fun _ _ hy => .modCopy hy) (.same (.foldl (fun _ _ hy =>
    .holdRunning hy) (.holdCopies h))))

theorem Inv.modActivity {s : State} {core slice : Nat} {f : Ctx → Ctx} (h : Inv s) : Inv (s.modActivity core slice f) := by
  unfold State.modActivity
  split
  · exact .ite (.modCtx h) h
  · extract_lets _
    split
    · exact .writeNat (.writeNat (.modSlice h))
    · exact .modCtx h
    · exact h

theorem Inv.logRemote {s : State} {e : Element} {dest status : Nat} (h : Inv s) : Inv (s.logRemote e dest status) := by
  unfold State.logRemote
  exact .ringLog h

theorem Inv.remoteFailure {s : State} {e : Element} {dest status : Nat} (h : Inv s) : Inv (s.remoteFailure e dest status) :=
  .modActivity (.logRemote h)

theorem Inv.statusOf {s : State} {e : Element} {dest status : Nat} (h : Inv s) : Inv (s.statusOf e dest status) :=
  .modActivity (.ite h (.remoteFailure h))

theorem Inv.saveTable {s : State} {slotAddr : Nat} {os : List Oblig} (h : Inv s) : Inv (s.saveTable slotAddr os) :=
  .poisonEntries (.laySpill (.lay h))

theorem Inv.copyRange {s : State} {src dst n : Nat} (h : Inv s) : Inv (s.copyRange src dst n) := by
  refine .foldl (fun _ _ hy => .poison hy) (.unown ?_)
  exact wf_foldl (fun _ _ hm => wf_write hm _ _) _ (wf_clear h dst n)

theorem Inv.saveMarks {s : State} {c : Ctx} {slotAddr : Nat} (h : Inv s) : Inv (s.saveMarks c slotAddr) :=
  .foldl (fun _ _ hy => .poison hy) h

theorem Inv.saveCtx {s : State} {c : Ctx} {i : SaveInfo} (h : Inv s) : Inv (s.saveCtx c i) := by
  unfold State.saveCtx
  extract_lets s1
  have h1 : Inv s1 := .saveMarks (.saveTable (.lay h))
  exact .ite h1 (.copyRange h1)

theorem Inv.feWrite {s : State} {load : Bool} {v : Option Word} {k7 : Word} (h : Inv s) : Inv (s.feWrite load v k7) :=
  .complete (.same h)

theorem Inv.feRejected {s : State} {r : FeReq} {status : Nat} (h : Inv s) : Inv (s.feRejected r status) := .remoteFailure h

theorem Inv.feAnswered {s : State} {r : FeReq} {a : FeAnswer} (h : Inv s) : Inv (s.feAnswered r a) := by
  unfold State.feAnswered
  extract_lets asked done
  have hdone : ∀ x, Inv x → Inv (done x) := fun x hx => .ite (.same hx) hx
  split
  · exact hdone _ (.feWrite h)
  · exact hdone _ (.feWrite h)
  · exact .same h
  · exact hdone _ (.feWrite (.feRejected h))

theorem Inv.resolveRemote {s : State} {core : Nat} (h : Inv s) : Inv (s.resolveRemote core) := by
  unfold State.resolveRemote
  split
  · refine .ite ?_ (.ite h (.modCtx (.same h)))
    split
    · exact .eventFor (.same h) fun _ hy => .same (.feAnswered hy)
    · exact .modCtx (.same h)
  · exact h

theorem Inv.stopThread {s : State} {core : Nat} (h : Inv s) : Inv (s.stopThread core) := by
  unfold State.stopThread
  extract_lets s1 s2
  have h1 : Inv s1 := by
    unfold s1
    split
    · exact h
    · exact .eventFor h fun _ hy => .same (.finishWait hy)
    · exact .modCtx h
    · exact .modCtx h
  have h2 : Inv s2 := .resolveRemote h1
  exact .ite h2 (.modCtx (.withdraw h2))

theorem Inv.makeReady {s : State} {id : Nat} {fresh : Bool} (h : Inv s) : Inv (s.makeReady id fresh) := by
  unfold State.makeReady
  split
  · exact h
  · exact .push (.modSlice (.same h))

theorem Inv.report {s : State} {p : Nat} {r : Report} (h : Inv s) : Inv (s.report p r) := by
  unfold State.report
  extract_lets _ _ _ _ _ s1
  have h1 : Inv s1 := .writeNat (.lay h)
  exact .ite (.setPart h) (.notice (.ite (.modPart h1) h1))

theorem Inv.noticed {s : State} {r : Report} (h : Inv s) : Inv (s.noticed r) := by
  unfold State.noticed
  split
  · exact .ite (.makeReady h) h
  · exact h

theorem Inv.drainReports {s : State} {p n : Nat} (h : Inv s) : Inv (s.drainReports p n) := by
  induction n generalizing s with
  | zero => exact h
  | succ n ih =>
    unfold State.drainReports
    split
    · exact h
    · exact .ite (ih (.noticed (.modPart (.report (.modPart h))))) h

theorem Inv.laySkid {s : State} {id : Nat} (h : Inv s) : Inv (s.laySkid id) := by
  unfold State.laySkid
  split
  · exact .ite (.lay h) h
  · exact h

theorem Inv.dropMembers {s : State} {threads : List Nat} (h : Inv s) : Inv (s.dropMembers threads) := .same h

theorem Inv.stopSlice {s : State} {x : Slice} (h : Inv s) : Inv (s.stopSlice x) := by
  unfold State.stopSlice
  refine .foldl (fun _ _ hy => ?_) h
  extract_lets s1
  have h1 : Inv s1 := .holdCopies (.stopThread hy)
  split
  · exact .modCtx h1
  · exact h1

theorem Inv.unstop {s : State} {x : Slice} (h : Inv s) : Inv (s.unstop x) := .foldl (fun _ _ hy => .releaseCopies (.modCtx hy)) h

theorem Inv.halt {s : State} {id : Nat} (h : Inv s) : Inv (s.halt id) := by
  unfold State.halt
  split
  · exact .ite (.same h) h
  · exact h

theorem Inv.towardLeaving {s : State} {x : Slice} (h : Inv s) : Inv (s.towardLeaving x) := by
  unfold State.towardLeaving
  extract_lets s1
  have h1 : Inv s1 := .halt h
  exact .ite h1 (.stopSlice h1)

theorem Inv.saveSlice {s : State} {x : Slice} {ctxs : List Ctx} {bounds : List Bool} {reason : Nat} {padcfgs : List Nat}
    (h : Inv s) : Inv (s.saveSlice x ctxs bounds reason padcfgs) := by
  unfold State.saveSlice
  refine .foldl (fun _ _ hy => .saveCtx hy) ?_
  split
  · exact .lay h
  · exact h

theorem Inv.suspend {s : State} {id reason : Nat} {event : Bool} (h : Inv s) : Inv (s.suspend id reason event) := by
  unfold State.suspend
  extract_lets _
  split
  · exact h
  · extract_lets s1 s2 s3 _ _ _ s4 s5 s6
    have h1 : Inv s1 := .dropMembers (.foldl (fun _ _ hy => .stopThread hy) h)
    have h2 : Inv s2 := .flushFor h1
    have h3 : Inv s3 := .foldl (fun _ _ hy => .quiesce hy) h2
    have h4 : Inv s4 := .saveSlice h3
    have h5 : Inv s5 := .foldl (fun _ _ hy => .setCtx hy) h4
    have h6 : Inv s6 := by
      unfold s6
      split
      · exact .same h5
      · exact h5
    exact .push (.modSlice h6)

theorem Inv.writeOrphans {s : State} {p : Nat} (h : Inv s) : Inv (s.writeOrphans p) := .lay h

theorem Inv.orphan {s : State} {p core : Nat} {o : Oblig} (h : Inv s) : Inv (s.orphan p core o) := by
  unfold State.orphan
  extract_lets _ _ _ s1
  have h1 : Inv s1 := .ite h (.modPart h)
  split
  · extract_lets s2
    have h2 : Inv s2 := .ite h1 (.breakObj h1)
    exact .ite (.setObj h2) h2
  · exact h1

theorem Inv.breakDomain {s : State} {p i : Nat} (h : Inv s) : Inv (s.breakDomain p i) := by
  unfold State.breakDomain
  extract_lets s1
  have h1 : Inv s1 := .modDomain h
  split
  · exact h
  · exact .foldl (fun _ _ hy => .wake hy) h1

theorem Inv.retireSlice {s : State} {id : Nat} (h : Inv s) : Inv (s.retireSlice id) := by
  unfold State.retireSlice
  split
  · exact h
  · exact .push (.same (.modPart (.foldl (fun _ _ hy => .modCtx hy) h)))

theorem Inv.killNow {s : State} {id cause : Nat} (h : Inv s) : Inv (s.killNow id cause) := by
  unfold State.killNow
  split
  · exact h
  · extract_lets _ _ s1 s2 s3 _ s4 _ s5 s6 _ s7 s8
    have h1 : Inv s1 := .dropMembers (.foldl (fun _ _ hy => .stopThread hy) h)
    have h2 : Inv s2 := .flushFor h1
    have h3 : Inv s3 := .foldl (fun _ _ hy => .quiesce hy) h2
    have h4 : Inv s4 := .same h3
    have h5 : Inv s5 := .foldl (fun _ _ hy => .orphan hy) h4
    have h6 : Inv s6 := .ite h5 (.writeOrphans h5)
    have h7 : Inv s7 := .foldl (fun _ _ hy => .breakDomain hy) h6
    have h8 : Inv s8 := .ite (.occupy h7) h7
    exact .report (.retireSlice h8)

/-! The operations every meaning shares. -/

theorem Inv.clearWatch {s : State} {c : Cause} {cls : TrapClass} (h : Inv s) : Inv (s.clearWatch c cls) := .same h

theorem Inv.endCopy {s : State} {core status cause : Nat} {tval : Word} (h : Inv s) : Inv (s.endCopy core status cause tval) := by
  unfold State.endCopy
  extract_lets _ _
  split
  · exact .push (.push (.stopChannel (.same h)))
  · exact .stopChannel h

theorem Inv.again {s : State} {id : Nat} (h : Inv s) : Inv (s.again id) := by
  unfold State.again
  split
  · exact .same h
  · exact h

theorem Inv.tileFaultOf {s : State} {core id : Nat} (h : Inv s) : Inv (s.tileFaultOf core id) := by
  unfold State.tileFaultOf
  extract_lets _ _
  split
  · exact .ite (.modPart (.modCtx (.logSparse h))) (.modSlice (.suspend (.logSparse h)))
  · split
    · exact .again (.unstop h)
    · exact h

theorem Inv.supSuspend {s : State} {core id : Nat} {c : Cause} {tval : Word} (h : Inv s) : Inv (s.supSuspend core id c tval) := by
  unfold State.supSuspend
  extract_lets _
  split
  · exact h
  · exact .report (.suspend h)

theorem Inv.displace {s : State} {x : Slice} (h : Inv s) : Inv (s.displace x) := by
  unfold State.displace
  extract_lets s1 _ s2
  have h1 : Inv s1 := .modSlice (.suspend h)
  have h2 : Inv s2 := .report h1
  exact .ite (.makeReady h1) (.ite h2 (.makeReady h2))

theorem Inv.yieldNow {s : State} {x : Slice} (h : Inv s) : Inv (s.yieldNow x) := .makeReady (.modSlice (.suspend h))

theorem Inv.leaveAt {s : State} {x : Slice} {a : EventArg} (h : Inv s) : Inv (s.leaveAt x a) := by
  unfold State.leaveAt
  refine .ite (.killNow h) (.ite (.yieldNow h) ?_)
  split
  · exact .ite (.tileFaultOf h) (.supSuspend h)
  · exact .displace h

theorem Inv.leave {s : State} {a : EventArg} (h : Inv s) : Inv (s.leave a) := by
  unfold State.leave
  split
  · exact h
  · exact .ite (.leaveAt h) (.push (.towardLeaving h))

theorem Inv.kill {s : State} {id cause : Nat} (h : Inv s) : Inv (s.kill id cause) := .leave h

theorem Inv.leaveFor {s : State} {c : Cause} {tval : Word} (h : Inv s) : Inv (s.leaveFor c tval) := by
  unfold State.leaveFor
  extract_lets _ _
  exact .ite (.tileFaultOf h) (.leave h)

theorem Inv.supTrap {s : State} {c : Cause} {tval : Word} (h : Inv s) : Inv (s.supTrap c tval) := by
  unfold State.supTrap
  extract_lets _ _ _
  refine .ite (.notice (.modPart (.same h))) ?_
  split
  · exact .same h
  · exact .leaveFor (.same h)

theorem Inv.deliver {s : State} {c : Cause} {tval : Word} {cls : TrapClass} {due : Option (Nat × Word)} {gpos : Nat}
    (h : Inv s) : Inv (State.takeTrap.State.deliver s c tval cls due gpos) := by
  unfold Sys2Proof.Machine.State.takeTrap.State.deliver
  extract_lets _ s1 s2
  have h1 : Inv s1 := .same h
  have h2 : Inv s2 := .supTrap h1
  split
  · exact .same h
  · refine .ite (.leaveFor h1) (.ite ?_ (.same h1))
    split
    · exact .same h2
    · exact h2

theorem Inv.takeTrap {s : State} {c : Cause} {tval : Word} {cls : TrapClass} (h : Inv s) : Inv (s.takeTrap c tval cls) := by
  unfold State.takeTrap
  extract_lets _ _ s1
  have h1 : Inv s1 := .clearWatch h
  refine .ite (.endCopy h1) ?_
  split
  · extract_lets s2
    have h2 : Inv s2 := .ite (.laySkid (.same h1)) h1
    exact .ite (.same h) (.deliver h2)
  · exact .deliver h1

theorem Answers.runM {m : M Unit} {s : State} (hm : Keeps m) (h : Inv s) : Answers (runM m s) := by
  intro t e
  unfold Machine.runM at e
  split at e
  · next hr => cases e; exact hm.ok h hr
  · next hr => cases e; exact .takeTrap (hm.trap h hr)
  · next hr => cases e; exact hm.stay h hr

theorem Keeps.decodeTrap {α : Type} {c : Cause} {tval : Word} : Keeps (decodeTrap c tval : M α) := by
  intro s h
  unfold Machine.decodeTrap
  by_cases hk : s.t.kind = .hart
  · rw [if_pos hk]
    exact Inv.endCopy (.clearWatch h)
  · rw [if_neg hk]
    exact h

theorem Keeps.decodeRequire {p : Bool} {c : Cause} {tval : Word} : Keeps (decodeRequire p c tval) := .ite .pure .decodeTrap

theorem Keeps.gateContext {i : Instr} {w : Word} : Keeps (gateContext i w) :=
  .get fun _ _ => .bind .decodeRequire fun _ => .bind .decodeRequire fun _ => .bind .decodeRequire fun _ => .require

theorem Keeps.gatePorts {i : Instr} : Keeps (gatePorts i) := by
  unfold Machine.gatePorts
  refine .get fun _ _ => ?_
  split
  · exact .require
  · exact .pure

theorem Keeps.gateMarks {i : Instr} : Keeps (gateMarks i) := .get fun _ _ => .bind .require fun _ => .require

theorem Keeps.gate {i : Instr} : Keeps (gate i) := .bind .gateContext fun _ => .bind .gatePorts fun _ => .gateMarks

theorem Keeps.afterInstr : Keeps afterInstr := by
  unfold Machine.afterInstr
  refine .bind .readT fun _ => ?_
  split
  · exact .trapAs
  · exact .pure

theorem Keeps.retireWith {i : Instr} {decision dval : Word} : Keeps (retireWith i decision dval) :=
  .bind (.modS fun _ h => .complete h) fun _ => .afterInstr

theorem Keeps.retire {i : Instr} : Keeps (retire i) := .retireWith

theorem Keeps.jumpTo {target : Word} {f : Ctx → Ctx} : Keeps (jumpTo target f) :=
  .bind (.modS fun _ h => .finish h) fun _ => .afterInstr

theorem Inv.afterTaken {s : State} (h : Inv s) : Inv s.afterTaken := by
  unfold State.afterTaken
  split
  · next e => exact .takeTrap (Keeps.afterInstr.trap h e)
  · exact h

theorem Inv.takeLate {s : State} (h : Inv s) : Inv (s.takeLate) := by
  unfold State.takeLate
  extract_lets _
  split
  · exact .takeTrap (.same h)
  · exact h

theorem Keeps.notInTransfer {i : Instr} : Keeps (notInTransfer i) := .get fun _ _ => .ite .trapNow .pure

theorem Keeps.event {f : State → State} (hf : ∀ y, Inv y → Inv (f y)) : Keeps (event f) := .modS fun _ h => hf _ h

/-! Operands. -/

theorem Keeps.regOk {n : Nat} : Keeps (regOk n) := .get fun _ _ => .require

theorem Keeps.readSrc {x0 : Src} : Keeps (readSrc x0) := by
  unfold Machine.readSrc
  split
  · exact .get fun _ _ => .ite (.bind .regOk fun _ => .pure) (.ite .pure (.ite .pure .pure))
  · exact .pure
  · exact .pure

theorem Keeps.readDest {d : Code} : Keeps (readDest d) := .readSrc

theorem Keeps.writeD {d : Code} {v : Word} : Keeps (writeD d v) := .modT

theorem Keeps.readK {k : Nat} : Keeps (readK k) := .bind .regOk fun _ => .readT

theorem Keeps.writeK {k : Nat} {v : Word} : Keeps (writeK k v) := .modT

theorem Keeps.readV {n : Nat} : Keeps (readV n) := .bind .regOk fun _ => .readT

theorem Inv.ringStep {s : State} {agent key : Nat} {producer : Bool} (h : Inv s) : Inv (s.ringStep agent key producer) :=
  .setObj h

theorem Keeps.handleRing {h : Handle} : Keeps (handleRing h) := .bind .findKind fun _ => .pure

theorem Inv.ownAdvance {s : State} {key loc : Nat} {producer : Bool} (h : Inv s) : Inv (s.ownAdvance key loc producer) := by
  unfold State.ownAdvance
  extract_lets _ _ s1
  have h1 : Inv s1 := by
    unfold s1
    split
    · exact .setTable h
    · exact h
  exact .ringStep h1

theorem Keeps.advanceAtEnd {hn key loc : Nat} {producer : Bool} : Keeps (advanceAtEnd hn key loc producer) :=
  .get fun _ _ => .ite (.bind .require fun _ => .bind .release fun _ => .bind (.modS fun _ h1 => .ownAdvance h1) fun _ =>
    .modT) .pure

theorem Keeps.handleWait {key loc : Nat} {producer : Bool} {need : Nat} {ref : Word} :
    Keeps (handleWait key loc producer need ref) := by
  unfold Machine.handleWait
  refine .get fun _ _ => .guard .trapNow fun _ => .guard₂ .modT .trapNow fun _ => ?_
  extract_lets jp jp1 jp2
  have hjp : ∀ r, Keeps (jp r) := fun _ => .acquire
  clear_value jp
  have hjp1 : ∀ r, Keeps (jp1 r) := fun _ => .ite (.bind .modT fun _ => hjp _) (hjp _)
  clear_value jp1
  have hjp2 : ∀ r, Keeps (jp2 r) := fun _ => .bind .waitOn fun _ => hjp1 _
  clear_value jp2
  refine .ite ?_ (hjp1 _)
  split
  · exact .bind (.modS fun _ h1 => .asCtx (.withdraw h1) fun _ hy => .takeTrap hy) fun _ => hjp2 _
  · exact .ite (.bind .trapNow fun _ => hjp2 _) (hjp2 _)

theorem Keeps.touchHandle {i : Instr} {hn : Nat} {producer : Bool} {n : Nat} : Keeps (touchHandle i hn producer n) := by
  unfold Machine.touchHandle
  refine .bind .notInTransfer fun _ => .bind .readT fun _ => .bind .require fun _ => .bind .handleRing fun _ =>
    .bind .advanceAtEnd fun _ => .get fun _ _ => .guard .handleWait fun _ => ?_
  extract_lets _ _ jp
  have hjp : ∀ r, Keeps (jp r) := fun _ => .pure
  clear_value jp
  split
  · exact .bind .trapNow fun _ => hjp _
  · exact .ite (.bind .stayNow fun _ => hjp _) (hjp _)

theorem Inv.ringSteps {key loc n : Nat} {producer : Bool} {s : State} (h : Inv s) :
    Inv (State.ringSteps key loc producer n s) := by
  induction n generalizing s with
  | zero => exact h
  | succ n ih => exact ih (.ownAdvance h)

theorem Keeps.moveHandle {hn : Nat} {producer : Bool} {n : Nat} : Keeps (moveHandle hn producer n) := by
  unfold Machine.moveHandle
  refine .get fun _ _ => ?_
  extract_lets _
  split
  · exact .pure
  · exact .bind (.modS fun _ h1 => .ringSteps h1) fun _ => .modT

theorem Keeps.readRuns {rs : List (Nat × Nat)} : Keeps (readRuns rs) := by
  induction rs with
  | nil => exact .pure
  | cons r rs ih => exact .bind .dataOk fun _ => .bind .watch fun _ => .bind .readS fun _ => .bind ih fun _ => .pure

theorem Keeps.writeRuns {rs : List (Nat × Nat)} {bs : List Byte} : Keeps (writeRuns rs bs) := by
  induction rs generalizing bs with
  | nil => exact .pure
  | cons r rs ih => exact .bind .watch fun _ => .bind (.modS fun _ h => .writeFor h) fun _ => ih

theorem Inv.relog {s s1 : State} (h : Inv s) : Inv (s.relog s1) := by
  unfold State.relog
  extract_lets _
  split
  · exact h
  · extract_lets _
    exact .ite h (.ringLog h)

theorem Keeps.whole {m : M Unit} (hm : Keeps m) : Keeps (whole m) := by
  intro s h
  have hs := hm s h
  unfold Machine.whole
  cases e : m s with
  | ok p =>
    rw [e] at hs
    exact hs
  | error r =>
    rw [e] at hs
    cases r with
    | stay t => exact hs
    | trap c v k t =>
      cases k with
      | before => exact Inv.same (.relog h)
      | between => exact hs
      | after => exact hs

/-! ALU, ADDI and ADDR. -/

theorem Keeps.alu2 {i : Instr} {b a : Src} {d : Code} {f : Word → Word → Word} : Keeps (alu2 i b a d f) :=
  .bind .gate fun _ => .bind .readSrc fun _ => .bind .readSrc fun _ => .bind .writeD fun _ => .retire

theorem Keeps.alu1 {i : Instr} {a : Src} {d : Code} {f : Word → Word} : Keeps (alu1 i a d f) :=
  .bind .gate fun _ => .bind .readSrc fun _ => .bind .writeD fun _ => .retire

theorem Keeps.alu3 {i : Instr} {b a : Src} {d : Code} {f : Word → Word → Word → Word} : Keeps (alu3 i b a d f) :=
  .bind .gate fun _ => .bind .readSrc fun _ => .bind .readSrc fun _ => .bind .readDest fun _ => .bind .writeD fun _ => .retire

/-! OBJ. -/

theorem Keeps.shared {i : Instr} {d : Option Code} {m : M Word} (hm : Keeps m) : Keeps (shared i d m) := by
  unfold Machine.shared
  refine .bind .gate fun _ => .bind .readS fun _ => ?_
  split
  · extract_lets jp
    have hjp : ∀ r, Keeps (jp r) := fun _ => .retire
    clear_value jp
    split
    · exact .bind .writeD fun _ => hjp _
    · exact hjp _
  · refine .bind hm fun _ => ?_
    extract_lets jp
    have hjp : ∀ r, Keeps (jp r) := fun _ => .retireWith
    clear_value jp
    split
    · exact .bind .writeD fun _ => hjp _
    · exact hjp _

theorem Inv.showOrphans {s : State} {core : Nat} (h : Inv s) : Inv (s.showOrphans core) := by
  unfold State.showOrphans
  extract_lets _
  exact .ite (.writeOrphans h) h

theorem Inv.updateDuty {s : State} {core loc : Nat} {k : Duty} {orphan : Bool} {o : Option Oblig} (h : Inv s) :
    Inv (s.updateDuty core loc k orphan o) := by
  unfold State.updateDuty
  extract_lets _
  refine .ite (.showOrphans (.modPart h)) ?_
  split
  · exact .setTable h
  · exact .setTable h

theorem Inv.discharge {s t : State} {core loc n : Nat} {k : Duty} (h : Inv s) (e : s.discharge core loc k n = some t) :
    Inv t := by
  unfold State.discharge at e
  obtain ⟨x, hx, rfl⟩ := Option.map_eq_some_iff.1 e
  exact .ite (.showOrphans (h.spend hx)) (h.spend hx)

theorem Inv.passLock {s : State} {agent key : Nat} (h : Inv s) : Inv (s.passLock agent key) := by
  unfold State.passLock
  extract_lets _
  split
  · exact .setObj h
  · exact .wake (.setTable (.setObj (.same h)))

theorem Keeps.rankSpec {i : Instr} {a : Word} : Keeps (rankSpec i a) := by
  unfold Machine.rankSpec
  refine .bind .readT fun _ => ?_
  extract_lets jp
  have hjp : ∀ r, Keeps (jp r) := fun _ => .guard .trapOpen fun _ => .pure
  clear_value jp
  split
  · exact .bind .require fun _ => .bind .pure fun _ => hjp _
  · exact .bind .require fun _ => .bind .readS fun _ => .guard .trapOpen fun _ => .bind .pure fun _ => hjp _
  · exact .bind .require fun _ => .bind .findKind fun _ => .bind .arrived fun _ => .bind .pure fun _ => hjp _
  · exact .bind .trapNow fun _ => hjp _

theorem Inv.placeObj {s : State} {core key : Nat} {o : Obj} (h : Inv s) : Inv (s.placeObj core key o) := by
  unfold State.placeObj
  extract_lets s1 s2
  have h1 : Inv s1 := .setObj h
  have h2 : Inv s2 := .wakeIf h1
  exact .ite (.passLock h1) (.ite (.settled (.settlePending (fun _ hy => hy) (.wakeIf h1))) (.ite h1 (.ite (.fireCounter h2) h2)))

theorem Keeps.findDischarge {kinds : List Nat} {ref : Word} : Keeps (findDischarge kinds ref) := .findWhere

theorem Inv.arriveFrom {core loc c : Nat} {broken leave : Bool} {es : List (Oblig × Bool)} {s : State} (h : Inv s) :
    Inv (State.arriveFrom core loc broken leave es c s) := by
  induction es generalizing c s with
  | nil => exact h
  | cons e es ih => exact .ite h (ih (.updateDuty h))

theorem Keeps.arriveOn {i : Instr} {a : Src} {leave : Bool} {bytes : Option (M Word)} (hbytes : ∀ m, bytes = some m → Keeps m) :
    Keeps (arriveOn i a leave bytes) := by
  unfold Machine.arriveOn
  refine .shared (.bind .readSrc fun _ => ?_)
  extract_lets _ jp1 jp
  have hjp1 : ∀ r, Keeps (jp1 r) := fun _ => .pure
  clear_value jp1
  have hjp : ∀ r, Keeps (jp r) := by
    intro _
    unfold jp
    refine .bind .findDischarge fun _ => .get fun _ _ => .ite ?_ ?_
    · split
      · exact .bind .trapNow fun _ => hjp1 _
      · exact .bind (.modS fun _ h => .updateDuty h) fun _ => hjp1 _
    · extract_lets es
      clear_value es
      split
      · exact .bind .trapNow fun _ => hjp1 _
      · extract_lets _ jp
        have hjp : ∀ r, Keeps (jp r) := fun _ => .bind .require fun _ => .bind .release fun _ => .bind (.modS fun _ h =>
          .settled (.setObj (.arriveFrom h))) fun _ => hjp1 _
        clear_value jp
        split
        · exact .bind .pure fun _ => hjp _
        · exact .bind .require fun _ => .bind .require fun _ => .bind .pure fun _ => hjp _
  clear_value jp
  split
  · exact .bind (hbytes _ rfl) fun _ => .bind .pure fun _ => hjp _
  · exact .bind .pure fun _ => hjp _

theorem Keeps.waitListed {α : Type} {i : Instr} {d : Code} {key loc : Nat} {v : BitVec 16} {lock : Bool} :
    Keeps (waitListed i d key loc v lock : M α) :=
  .bind .modT fun _ => .bind (.modS fun _ h => .same h) fun _ => .waitOn

theorem Inv.setSliceTable {s : State} {x : Slice} {os : List Oblig} (h : Inv s) : Inv (s.setSliceTable x os) := by
  unfold State.setSliceTable
  split
  · exact .saveTable (.modSlice h)
  · exact .setTable h
  · exact .modSlice h

/-! BSP. -/

theorem Inv.writeSnapshot {s : State} {x : Slice} {pos : Nat} {c : Ctx} (h : Inv s) : Inv (s.writeSnapshot x pos c) :=
  .poisonEntries (.saveMarks (.lay h))

theorem Inv.beginSuperstep {s : State} {p i : Nat} {d : Domain} (h : Inv s) : Inv (s.beginSuperstep p i d) := by
  unfold State.beginSuperstep
  extract_lets _ _ s1 _ _ s2 s3
  have h1 : Inv s1 := .foldl (fun _ _ hy => .asCtx hy fun _ hy1 => .finishWait hy1) h
  have h2 : Inv s2 := .ite (.foldl (fun _ _ hy => .writeSnapshot hy) h) h
  have h3 : Inv s3 := .same h2
  exact .ite h (.modDomain h3)

theorem Inv.releaseDomain {s : State} {p i : Nat} {d : Domain} (h : Inv s) : Inv (s.releaseDomain p i d) :=
  .beginSuperstep (.foldl (fun _ _ hy => .wake hy) (.ite (.foldl (fun _ _ hy =>
    .ite (.modCore hy) hy) (.ite (.foldl (fun _ _ hy => .modCluster hy) (.modDomain (.same h))) (.modDomain (.same h)))) (.ite
    (.foldl (fun _ _ hy => .modCluster hy) (.modDomain (.same h))) (.modDomain (.same h)))))

theorem Inv.tryDomain {s : State} {p i : Nat} (h : Inv s) : Inv (s.tryDomain p i) := by
  unfold State.tryDomain
  split
  · exact h
  · exact .ite (.releaseDomain h) h

theorem Inv.leaveDomains {s : State} {core : Nat} (h : Inv s) : Inv (s.leaveDomains core) :=
  .foldl (fun _ _ hy => .tryDomain (.modDomain hy)) h

theorem Inv.joinDomains {s : State} {core : Nat} (h : Inv s) : Inv (s.joinDomains core) := .foldl (fun _ _ hy => .modDomain hy) h

theorem Inv.sendOn {s : State} {p i cl out x : Nat} {v : Line} (h : Inv s) : Inv (s.sendOn p i cl out x v) := by
  unfold State.sendOn
  split
  · exact .modDomain h
  · exact .push (.same h)

theorem Inv.arrive {s : State} {d : Domain} {f : Flit} (h : Inv s) : Inv (s.arrive d f) := by
  unfold State.arrive
  extract_lets _
  exact .ite (.modDomain h) (.foldl (fun _ _ hy => .ite (.sendOn hy) (.modCore hy)) h)

theorem Keeps.inTransfer {i : Instr} : Keeps (inTransfer i) := by
  unfold Machine.inTransfer
  refine .get fun _ _ => ?_
  split
  · exact .pure
  · exact .trapNow

theorem Inv.tryAgain {s : State} {core : Nat} (h : Inv s) : Inv (s.tryAgain core) := .pushTurn (.modCtx h)

theorem Inv.completeFor {s : State} {core : Nat} {f : Ctx → Ctx} (h : Inv s) : Inv (s.completeFor core f) :=
  .pushTurn (.eventFor h fun _ hy => .afterTaken (.complete (.same hy)))

/-! Footprints. -/

theorem Inv.engineFind {s : State} {core part : Nat} {via : Via} {va : Word} {n : Nat} {acc : Acc} (h : Inv s) :
    Inv (s.engineFind core part via va n acc).1 := by
  unfold State.engineFind
  split
  · next e => exact (Inv.tryResolve h).of_eq e
  · next e => exact .logAccess ((Inv.tryResolve h).of_eq e)
  · next e => exact (Inv.tryResolve h).of_eq e

theorem Inv.stageBlocks {core part n va key : Nat} {s : State} (h : Inv s) : Inv (State.stageBlocks core part n va key s).1 := by
  induction n generalizing va key s with
  | zero => exact h
  | succ n ih =>
    unfold State.stageBlocks
    split
    · next e => exact (Inv.engineFind h).of_eq e
    · next e =>
      have h1 := (Inv.engineFind h).of_eq e
      split
      · exact h1
      · exact ih (.write h1)

theorem Inv.stageFrom {core part n k : Nat} {r : BitVec 2048} {s : State} (h : Inv s) :
    Inv (State.stageFrom core part r n k s).1 := by
  induction n generalizing k s with
  | zero => exact h
  | succ n ih =>
    unfold State.stageFrom
    split
    · split
      · next e => exact (Inv.stageBlocks h).of_eq e
      · next e => exact ih ((Inv.stageBlocks h).of_eq e)
    · exact ih h

theorem Inv.stageTrap {s : State} {c : Cause} {va : Word} (h : Inv s) : Inv (s.stageTrap c va) := by
  unfold State.stageTrap
  extract_lets _ s1 s2
  have h1 : Inv s1 := .same h
  have h2 : Inv s2 := .modSlice h1
  exact .ite (.leaveFor h2) (.ite (.supTrap h2) (.same h1))

theorem Inv.backBlocks {core part n va key : Nat} {s : State} (h : Inv s) : Inv (State.backBlocks core part n va key s).1 := by
  induction n generalizing va key s with
  | zero => exact h
  | succ n ih =>
    unfold State.backBlocks
    split
    · next e => exact (Inv.engineFind h).of_eq e
    · next e => exact ih (.foldl (fun _ _ hy => .poison hy) (.write ((Inv.engineFind h).of_eq e)))

theorem Inv.copyFeet {r : BitVec 2048} {p : Nat → Bool} {toPad : Bool} {core n k a : Nat} {s : State} (h : Inv s) :
    Inv (State.copyFeet r p toPad core n k a s) := by
  induction n generalizing k a s with
  | zero => exact h
  | succ n ih => exact .ite (ih (.ite (.copyRange h) (.copyRange h))) (ih h)

theorem Inv.auditInputs {s : State} {x : Slice} {core : Nat} (h : Inv s) : Inv (s.auditInputs x core) := by
  unfold State.auditInputs
  refine .ite h ?_
  split
  · exact h
  · exact .same (.copyFeet h)

theorem Inv.stageRest {s : State} (h : Inv s) : Inv (s.stageRest) := by
  unfold State.stageRest
  extract_lets _
  split
  · exact .same h
  · extract_lets _
    split
    · next e => exact .auditInputs (.modSlice (.same ((Inv.stageFrom h).of_eq e)))
    · next e => exact .stageTrap (.modSlice ((Inv.stageFrom h).of_eq e))

/-! The control and status registers. -/

theorem Inv.changePadcfg {s : State} {core v : Nat} (h : Inv s) : Inv (s.changePadcfg core v) := by
  unfold State.changePadcfg
  extract_lets _ _ _ _ _ s1
  have h1 : Inv s1 := .modCore (.leavePool h)
  clear_value s1
  exact .ite h (wf_clear h1 _ _)

theorem Inv.changeVicgrp {s : State} {core : Nat} {v : BitVec 8} (h : Inv s) : Inv (s.changeVicgrp core v) :=
  .ite h (.modCore (.leavePool h))

theorem Inv.setSnapen {s : State} {core : Nat} {v : Bool} (h : Inv s) : Inv (s.setSnapen core v) := by
  unfold State.setSnapen
  extract_lets _
  split
  · exact .modDomain h
  · exact .modPart h

theorem Inv.csrStore {s : State} {n : Nat} {v : Word} (h : Inv s) : Inv (s.csrStore n v) := by
  unfold State.csrStore
  extract_lets _ _ _ _
  exact .ite (.same h) (.ite (.same h) (.ite (.same h) (.ite (.same h) (.ite (.same h) (.ite (.same h) (.ite (.same h) (.ite
    (.changePadcfg h) (.ite (.changeVicgrp h) (.ite (.same h) (.ite (.same h) (.ite (.same h) (.ite (.modCluster h) (.ite
    (.same h) (.ite (.same h) (.ite (.modPart h) (.ite (.same h) (.ite (.modPart h) (.ite (.modPart h) (.ite (.modPart h) (.ite
    (.modPart (.same h)) (.ite (.modPart h) (.ite (.same h) (.ite (.same h) (.ite (.same h) (.ite (.same h) (.ite (.same h)
    (.ite (.setSnapen h) (.ite (.modPart h) (.ite (.modCore h) (.ite (.modCore h) (.ite (.same h) h)))))))))))))))))))))))))))))))

/-! The block-transfer aperture and the configuration window as a thread's loads and stores reach them. -/

theorem Keeps.kickTarget {len : Nat} {c : Word} : Keeps (kickTarget len c) := by
  unfold Machine.kickTarget
  refine .ite .pure (.bind .checkObject fun _ => .get fun _ _ => .bind .require fun _ => .ite ?_ (.ite ?_ .pure))
  · split
    · exact .bind .require fun _ => .pure
    · exact .trapNow
  · extract_lets _
    split
    · exact .pure
    · exact .trapNow

theorem Keeps.kickStore {i : Instr} {va : Word} {ch : Nat} {data : Word} : Keeps (kickStore i va ch data) := by
  unfold Machine.kickStore
  refine .get fun _ _ => .bind .require fun _ => .bind .require fun _ => .bind .require fun _ => .guard .trapNow fun _ =>
    .bind .require fun _ => .bind .kickTarget fun _ => .bind .watch fun _ => .get fun _ _ => .guard .trapNow fun _ => ?_
  split
  · split
    extract_lets _ _ _ jp1 jp
    have hjp : ∀ r, Keeps (jp r) := fun _ => .guard .modT fun _ => .bind (.modS fun _ h => .ite h (.writeFor h)) fun _ =>
      .bind (.modS fun _ h => .push (.same h)) fun _ => .release
    clear_value jp
    beta_reduce
    split
    · refine .bind (.modS fun _ h => ?_) fun _ => hjp _
      split
      · exact .setTable h
      · exact h
    · exact hjp _
  · exact .waitOn

theorem Inv.setTemplate {s : State} {cl slot : Nat} {v : Word} (h : Inv s) : Inv (s.setTemplate cl slot v) := .modCluster h

theorem Keeps.apertureStore {i : Instr} {va : Word} {off : Nat} {v : Word} : Keeps (apertureStore i va off v) :=
  .get fun _ _ => .guard .trapNow fun _ => .ite .kickStore (.ite (.bind .require fun _ => .bind .watch fun _ =>
    .modS fun _ h1 => .setTemplate h1) .trapNow)

theorem Keeps.apertureLoad {va : Word} {off : Nat} : Keeps (apertureLoad va off) :=
  .get fun _ _ => .guard .trapNow fun _ => .ite (.bind .watch fun _ => .pure) (.ite (.bind .watch fun _ => .pure) .trapNow)

theorem Keeps.refuseConfig {α : Type} {va : Word} : Keeps (refuseConfig va : M α) :=
  .bind (.modS fun _ h => .logAccess h) fun _ => .trapNow

theorem Keeps.configStore {va : Word} {off : Nat} {v : Word} : Keeps (configStore va off v) := by
  unfold Machine.configStore
  refine .get fun _ _ => .guard .refuseConfig fun _ => .bind .require fun _ => .bind .watch fun _ =>
    .ite .pure (.ite (.modS fun _ h1 => .setPart h1) (.ite ?_ .pure))
  split
  · exact .modS fun _ h1 => .push (.setPart h1)
  · exact .modS fun _ h1 => .setPart h1

theorem Keeps.configLoad {va : Word} {off : Nat} : Keeps (configLoad va off) :=
  .get fun _ _ => .guard .refuseConfig fun _ => .bind .require fun _ => .bind .watch fun _ => .pure

/-! Remote elements and full/empty requests. -/

theorem Keeps.refusePeer {α : Type} {addr tval : Word} : Keeps (refusePeer addr tval : M α) :=
  .bind (.modS fun _ h => .logAccess h) fun _ => .trapNow

theorem Inv.accept {s : State} {die dest : Nat} {e : Element} (h : Inv s) : Inv (s.accept die dest e) := by
  have hput (y : List Sachet) : Inv { s with sachets := y } := h
  unfold State.accept
  split
  · split
    · exact .same h
    · exact .ite (.depart (.same h)) (.same h)
  · refine .push (.same (.ite ?_ h))
    split
    · exact .depart h
    · exact h

theorem Inv.flushDest {s : State} {die dest : Nat} (h : Inv s) : Inv (s.flushDest die dest) := .departIf h

theorem Inv.targetFind {s : State} {part core slice a n : Nat} {acc : Acc} (h : Inv s) :
    Inv (s.targetFind part core slice a n acc).1 := by
  unfold State.targetFind
  extract_lets _
  refine .ite_fst (.logAccess h) ?_
  split
  · next e => exact (Inv.tryResolve h).of_eq e
  · next e => exact .logAccess ((Inv.tryResolve h).of_eq e)
  · next e => exact (Inv.tryResolve h).of_eq e

theorem Inv.targetWrite {s : State} {part core slice a n : Nat} (h : Inv s) : Inv (s.targetWrite part core slice a n).1 := by
  unfold State.targetWrite
  extract_lets _
  split
  · next e => exact (Inv.targetFind h).of_eq e
  · rename_i e
    have h1 := (Inv.targetFind h).of_eq e
    refine .ite_fst h1 ?_
    split
    · next e => exact (Inv.targetFind h1).of_eq e
    · next e => exact (Inv.targetFind h1).of_eq e

theorem Inv.targetPut {s : State} {p : Nat × Nat × Nat} {bs : List Byte} {bad : List Nat} (h : Inv s) :
    Inv (s.targetPut p bs bad) :=
  .foldl (fun _ _ hy => .poison hy) (.write (.write h))

theorem Inv.messageStep {s : State} {agent key : Nat} (h : Inv s) : Inv (s.messageStep agent key) := .addCount h

theorem Inv.targetCounter {s : State} {part core slice : Nat} {ref : Word} (h : Inv s) :
    Inv (s.targetCounter part core slice ref).1 := by
  unfold State.targetCounter
  extract_lets _ _ _
  refine .ite_fst (.logAccess h) ?_
  split
  · next e => exact (Inv.tryObject h).of_eq e
  · rename_i e
    have h1 := (Inv.tryObject h).of_eq e
    exact .ite_fst h1 (.ite_fst h1 (.ite_fst h1 h1))

theorem Inv.writeMarked {s : State} {agent key : Nat} {bs : List Byte} {bad : List Nat} (h : Inv s) :
    Inv (s.writeMarked agent key bs bad) :=
  .foldl (fun _ _ hy => .poison hy) (.writeFor h)

theorem Inv.applyElement {s : State} {part : Nat} {e : Element} (h : Inv s) : Inv (s.applyElement part e).1 := by
  unfold State.applyElement
  extract_lets _ found
  have hf : Inv found.1 := .ite_fst h (.targetWrite h)
  clear_value found
  refine .ite_fst h (.ite_fst ?_ (.ite_fst ?_ ?_))
  · split
    · next e1 => exact (Inv.targetFind h).of_eq e1
    · next e1 =>
      have h1 := (Inv.targetFind h).of_eq e1
      exact .ite_fst h1 (.bankArrive (.ite (.writeNat h1) h1))
  · split
    · exact hf
    · split
      · next e2 => exact (Inv.targetCounter hf).of_eq e2
      · next e2 =>
        have h2 := (Inv.targetCounter hf).of_eq e2
        exact .messageStep (.ite h2 (.targetPut h2))
  · split
    · next e1 => exact (Inv.targetWrite h).of_eq e1
    · next e1 =>
      have h1 := (Inv.targetWrite h).of_eq e1
      exact .ite (.cleanStore (.targetPut h1)) (.targetPut h1)

theorem Inv.applyAll {part : Nat} {es : List Element} {s : State} (h : Inv s) : Inv (State.applyAll part es s).1 := by
  induction es generalizing s with
  | nil => exact h
  | cons e es ih => exact ih (.applyElement h)

theorem Inv.feStep {s : State} {remote : Bool} {r : FeReq} {key : Nat} (h : Inv s) : Inv (s.feStep remote r key).1 := by
  unfold State.feStep
  extract_lets _ _ _ s1 s2 s3 s4
  have h1 : Inv s1 := .ite h (.atHome h)
  have h2 : Inv s2 := .ite (.cleanStore (.writeFor h1)) h1
  have h3 : Inv s3 := .ite (.noteDisposition h2) h2
  have h4 : Inv s4 := .ite (.setFull h3) (.ite (.setFull h3) h3)
  exact .bankArrive h4

theorem Inv.feFinish {s : State} {core : Nat} {load : Bool} {v : Option Word} {k7 : Word} (h : Inv s) :
    Inv (s.feFinish core load v k7) := by
  unfold State.feFinish
  refine .eventFor h fun _ hy => ?_
  split
  · exact .afterTaken (.feWrite hy)
  · exact hy

theorem Inv.fePoison {s : State} {r : FeReq} (h : Inv s) : Inv (s.fePoison r) := by
  unfold State.fePoison
  refine .eventFor h fun _ hy => ?_
  extract_lets _
  split
  · exact .takeTrap (.same hy)
  · exact hy

theorem Inv.answer {s : State} {r : FeReq} {a : FeAnswer} (h : Inv s) : Inv (s.answer r a) := .ite (.push h) (.same h)

theorem Inv.feDeliver {s : State} {remote : Bool} {r : FeReq} {v : Word} {full : Bool} (h : Inv s) :
    Inv (s.feDeliver remote r v full) :=
  .ite (.answer h) (.feFinish h)

theorem Inv.fePerform {s : State} {remote : Bool} {r : FeReq} {key : Nat} (h : Inv s) : Inv (s.fePerform remote r key) :=
  .ite (.ite (.answer h) (.fePoison h)) (.feDeliver (.feStep h))

theorem Inv.feScan {dword : Nat} {ps : List Parked} {s : State} (h : Inv s) : Inv (State.feScan dword ps s).1 := by
  induction ps generalizing s with
  | nil => exact h
  | cons p ps ih =>
    unfold State.feScan
    split
    · exact ih h
    · split
      · exact ih (.push (.same h))
      · exact ih (.fePerform (.same h))

theorem Inv.feWake {dword n : Nat} {s : State} (h : Inv s) : Inv (State.feWake dword n s) := by
  induction n generalizing s with
  | zero => exact h
  | succ n ih =>
    unfold State.feWake
    split
    · next e => exact ih ((Inv.feScan h).of_eq e)
    · next e => exact (Inv.feScan h).of_eq e

theorem Inv.feTry {s t : State} {remote : Bool} {r : FeReq} {key : Nat} (h : Inv s) (e : s.feTry remote r key = some t) :
    Inv t := by
  unfold State.feTry at e
  dsimp only at e
  split at e
  · exact absurd e nofun
  · cases e
    exact .ite (.feWake (.fePerform h)) (.fePerform h)

theorem Inv.fePark {s : State} {remote : Bool} {r : FeReq} {key first : Nat} {again : Bool} (h : Inv s) :
    Inv (s.fePark remote r key first again) := by
  unfold State.fePark
  extract_lets _ s1 s2
  have h1 : Inv s1 := .same h
  have h2 : Inv s2 := .ite (.push h1) h1
  exact .ite h2 (.push h2)

/-! RST, RAMO and FAB. -/

theorem Inv.create {s : State} {e : Element} {slots : List Nat} (h : Inv s) : Inv (s.create e slots) :=
  .foldl (fun _ _ hy => .accept (.modActivity hy)) (.unrepeatable h)

theorem Keeps.remoteIssue {i : Instr} {a : Word} {n : Nat} {multi : Option Word} {bit : Nat} {e : Element} :
    Keeps (remoteIssue i a n multi bit e) := by
  unfold Machine.remoteIssue
  refine .bind .require fun _ => ?_
  extract_lets _ jp jp2
  have hjp : ∀ r, Keeps (jp r) := fun _ => .bind .notInTransfer fun _ => .bind .watch fun _ => .bind (.modS fun _ h =>
    .create h) fun _ => .retire
  clear_value jp
  have hjp2 : ∀ r, Keeps (jp2 r) := fun _ => .get fun _ _ => .bind .require fun _ => .ite (.bind .refusePeer fun _ =>
    hjp _) (hjp _)
  clear_value jp2
  split
  · exact .bind .require fun _ => hjp2 _
  · exact .bind .require fun _ => hjp2 _

theorem Keeps.ramo {i : Instr} {op : Nat} {wide : Bool} {b a : Src} {cmp : M Word} (hcmp : Keeps cmp) :
    Keeps (ramo i op wide b a cmp) :=
  .bind .gate fun _ => .bind .readSrc fun _ => .bind .readSrc fun _ => .bind hcmp fun _ => .get fun _ _ => .remoteIssue

theorem Inv.acknowledge {s : State} {dest : Nat} {pk : Packet} {e : Element} {c : Nat} (h : Inv s) :
    Inv (s.acknowledge dest pk e c) :=
  .ite (.push h) (.push h)

theorem Keeps.holdSource {α : Type} {i : Instr} {src part : Nat} : Keeps (holdSource i src part : M α) :=
  fun _ h => Inv.same (.pushTurn h)

theorem Inv.noteElement {s : State} {e : Element} {status : Nat} (h : Inv s) : Inv (s.noteElement e status) :=
  .ite (.noteDisposition h) h

theorem Inv.landed {s : State} {e : Element} (h : Inv s) : Inv (s.landed e) := .same h

theorem Inv.unsend {s : State} {es : List Element} (h : Inv s) : Inv (s.unsend es) := .same h

theorem Inv.setLink {s : State} {port : Nat} {v : BitVec 8} (h : Inv s) : Inv (s.setLink port v) := .ite (.same h) h

theorem Inv.resetInterface {s : State} {die mask : Nat} (h : Inv s) : Inv (s.resetInterface die mask) :=
  .foldl (fun _ _ hy => .logError hy) (.setLink (.setLink (.foldl (fun _ _ hy => .push hy) (.foldl (fun _ _ hy =>
    .statusOf hy) (.unsend (.same h))))))

/-! Tiles, sidecars, format regions, accumulator windows, and what each job of the matrix engine computes. -/

theorem Inv.jobKeys {core part : Nat} {acc : Acc} {a : Word} {ls : List (Nat × Nat)} {s : State} (h : Inv s) :
    Inv (State.jobKeys core part acc a ls s).1 := by
  induction ls generalizing s with
  | nil => exact h
  | cons l ls ih =>
    unfold State.jobKeys
    split
    · next e => exact (Inv.engineFind h).of_eq e
    · next e => exact ih ((Inv.engineFind h).of_eq e)

theorem Inv.runTld {s : State} {cl core part t : Nat} {a x : Word} {cfg : BitVec 32} (h : Inv s) :
    Inv (s.runTld cl core part t a x cfg).1 := by
  unfold State.runTld
  extract_lets _ _ _ failed
  have hfailed : ∀ x st f, Inv x → Inv (failed x st f).1 := fun _ _ _ hx => .modCluster hx
  split
  rename_i e1
  have h1 := (Inv.jobKeys h).of_eq e1
  split
  · exact hfailed _ _ _ h1
  · split
    · exact hfailed _ _ _ h1
    · split
      rename_i e2
      have h2 := (Inv.ite_fst h1 (.jobKeys h1)).of_eq e2
      split
      · exact hfailed _ _ _ h2
      · exact .modCluster h2

theorem Inv.runAcrd {core part cl acscale st : Nat} {a v : Word} {ls : List (Nat × Nat)} {s : State} (h : Inv s) :
    Inv (State.runAcrd core part cl a v acscale ls s st).1 := by
  induction ls generalizing s st with
  | nil => exact h
  | cons l ls ih =>
    unfold State.runAcrd
    split
    · next e => exact (Inv.engineFind h).of_eq e
    · next e => exact ih (.foldl (fun _ _ hy => .poison hy) (.writeFor ((Inv.engineFind h).of_eq e)))

theorem Inv.runAcwr {core part cl st : Nat} {a v : Word} {ls : List (Nat × Nat)} {s : State} (h : Inv s) :
    Inv (State.runAcwr core part cl a v ls s st).1 := by
  induction ls generalizing s st with
  | nil => exact h
  | cons l ls ih =>
    unfold State.runAcwr
    split
    · next e => exact .modCluster ((Inv.engineFind h).of_eq e)
    · next e => exact ih (.modCluster ((Inv.engineFind h).of_eq e))

/-! The matrix engine. -/

theorem Keeps.mcfg {ok : Bool} {code : Nat} : Keeps (mcfg ok code) := .require

theorem Keeps.jobRef {r : Nat} {v : Word} : Keeps (jobRef r v) :=
  .ite .pure (.bind .mcfg fun _ => .bind .checkObject fun _ => .get fun _ _ => .bind .mcfg fun _ => .pure)

theorem Keeps.checkRange {r : JobRange} : Keeps (checkRange r) :=
  .bind .require fun _ => .forM fun _ => .bind .resolveMemAt fun _ => .pure

theorem Keeps.checkRanges {rs : List JobRange} : Keeps (checkRanges rs) := .forM fun _ => .checkRange

theorem Inv.admitJob {s : State} {j : Job} (h : Inv s) : Inv (s.admitJob j) := .push (.same (.modCluster (.setTable h)))

theorem Keeps.issueJob {i : Instr} {op : JobOp} {rs : List JobRange} {wait done : Option (Word × Nat × Nat)} :
    Keeps (issueJob i op rs wait done) := by
  unfold Machine.issueJob
  refine .bind .checkRanges fun _ => .get fun _ _ => .guard .trapNow fun _ => .bind .require fun _ => ?_
  extract_lets _ low _ jp
  have hjp : ∀ r, Keeps (jp r) := by
    intro _
    unfold jp
    refine .bind .release fun _ => .ite ?_ (.bind (.modS fun _ h => .admitJob h) fun _ => .retire)
    clear_value low
    split
    · exact .guard .trapOpen fun _ => .bind .modT fun _ => .bind (.modS fun _ h => .modCluster h) fun _ => .waitOn
    · exact .bind .modT fun _ => .bind (.modS fun _ h => .modCluster h) fun _ => .waitOn
  clear_value jp
  refine .ite ?_ (hjp _)
  split
  · exact .bind .trapNow fun _ => hjp _
  · exact .bind .trapOpen fun _ => hjp _

theorem Keeps.readTcfg {t : Nat} : Keeps (readTcfg t) := .readS

theorem Keeps.multiply {i : Instr} {ta tb w x y : Nat} {types : Nat → Nat → Option Nat} {op : Nat → Nat → JobOp} :
    Keeps (multiply i ta tb w x y types op) := by
  unfold Machine.multiply
  refine .bind .gate fun _ => .bind .readSrc fun _ => .bind .readSrc fun _ => .bind .readSrc fun _ => .bind .readTcfg fun _ =>
    .bind .readTcfg fun _ => .bind .mcfg fun _ => ?_
  extract_lets _ _ jp
  have hjp : ∀ r, Keeps (jp r) := fun _ => .bind .mcfg fun _ => .bind .jobRef fun _ => .bind .jobRef fun _ => .issueJob
  clear_value jp
  split
  · exact .bind .mcfg fun _ => hjp _
  · exact .bind .mcfg fun _ => .bind .mcfg fun _ => hjp _

theorem Keeps.matDone {y : BitVec 5} : Keeps (matDone y) := .bind .readSrc fun _ => .jobRef

theorem Inv.moreOffers {s : State} {cl : Nat} (h : Inv s) : Inv (s.moreOffers cl) := by
  unfold State.moreOffers
  extract_lets _
  exact .ite (.push h) h

theorem Inv.undoRow {s : State} {core cl row : Nat} (h : Inv s) : Inv (s.undoRow core cl row) := .undoEntry h

theorem Inv.undoTile {s : State} {core cl t row start n : Nat} (h : Inv s) : Inv (s.undoTile core cl t row start n) :=
  .undoEntry h

theorem Inv.undoTileRows {s : State} {core cl t : Nat} {cfg : BitVec 32} (h : Inv s) : Inv (s.undoTileRows core cl t cfg) :=
  .foldl (fun _ _ hy => .undoTile hy) h

theorem Inv.undoJob {s : State} {cl : Nat} {j : Job} (h : Inv s) : Inv (s.undoJob cl j) := by
  unfold State.undoJob
  extract_lets _
  split
  · exact .undoTileRows h
  · exact .undoTileRows h
  · exact h
  · exact .foldl (fun _ _ hy => .undoRow hy) h

theorem Inv.runJob {s : State} {cl part : Nat} {j : Job} {errs : List CellError} (h : Inv s) :
    Inv (s.runJob cl part j errs).1 := by
  unfold State.runJob
  extract_lets _
  split
  · exact .runTld h
  · exact .modCluster h
  · exact .modCluster h
  · exact .runAcrd h
  · exact .runAcwr h
  · split
    · exact .setCluster h
    · exact h

theorem Inv.logJob {s : State} {cl part : Nat} {j : Job} {st : Nat} {f : Option (Cause × Word)} (h : Inv s) :
    Inv (s.logJob cl part j st f) := by
  unfold State.logJob
  extract_lets _ s1 s2
  have h1 : Inv s1 := .ite (.logError h) h
  have h2 : Inv s2 := .ite (.logError h1) h1
  split
  · exact .logError h2
  · exact .ite (.logError h2) h2

/-! The scheduler's events. -/

theorem Inv.takeOn {s : State} {x : Slice} {core : Nat} (h : Inv s) : Inv (s.takeOn x core) := by
  unfold State.takeOn
  extract_lets s1
  have h1 : Inv s1 := .joinDomains h
  exact .ite h1 (.unrepeatable h1)

theorem Inv.zeroSlot {s : State} {a : Nat} (h : Inv s) : Inv (s.zeroSlot a) := wf_clear h a 0x20000

theorem Inv.place {s : State} {x : Slice} {threads slots : List Nat} (h : Inv s) : Inv (s.place x threads slots) := by
  unfold State.place
  extract_lets _ _ s1 s2 s3 _ s4 s5 s6 s7 s8
  have h1 : Inv s1 := .ite (.occupy h) h
  have h2 : Inv s2 := .foldl (fun _ _ hy => .zeroSlot hy) (.modPart h1)
  have h3 : Inv s3 := .ite (.ite (.laySpill h2) h2) h1
  have h4 : Inv s4 := .foldl (fun _ _ hy => .setCtx hy) h3
  have h5 : Inv s5 := .ite h4 (.same h4)
  have h6 : Inv s6 := .modSlice h5
  have h7 : Inv s7 := .same h6
  have h8 : Inv s8 := .foldl (fun _ _ hy => .takeOn hy) h7
  exact .push h8

theorem Inv.round {s t : State} {pool : List Slice} (h : Inv s) (e : s.round pool = some t) : Inv t := by
  unfold State.round at e
  obtain ⟨x, -, hx⟩ := List.exists_of_findSome?_eq_some e
  split at hx
  · exact absurd hx nofun
  · split at hx
    · cases hx
      exact .place h
    · split at hx
      · cases hx
        exact .place h
      · exact absurd hx nofun

theorem Inv.reserve {s : State} {p die : Nat} (h : Inv s) : Inv (s.reserve p die) := by
  unfold State.reserve
  split
  · refine .ite h ?_
    split
    · exact .modSlice h
    · exact h
  · exact h

theorem Inv.rounds {p die n : Nat} {s : State} (h : Inv s) : Inv (State.rounds p die n s) := by
  induction n generalizing s with
  | zero => exact .reserve h
  | succ n ih =>
    unfold State.rounds
    extract_lets s1
    have h1 : Inv s1 := .reserve h
    split
    · next e => exact ih (h1.round e)
    · exact h1

theorem Inv.start {s : State} {x : Slice} (h : Inv s) : Inv (s.start x) := by
  unfold State.start
  split
  · exact h
  · exact .pushTurn (.modSlice (.foldl (fun _ _ hy => .modCtx hy) (.modCtx h)))

theorem Inv.frozenIf {s : State} {stop : Bool} {x : Slice} (h : Inv s) : Inv (s.frozenIf stop x) :=
  .ite (.foldl (fun _ _ hy => .modCtx hy) h) h

theorem Inv.stageSlice {s : State} (h : Inv s) : Inv (s.stageSlice) := by
  unfold State.stageSlice
  split
  · exact h
  · extract_lets _ _ s1
    have h1 : Inv s1 := .foldl (fun _ _ hy => .acquire hy) h
    refine .ite h ?_
    split
    · exact .frozenIf (.start (.copyFeet h1))
    · split
      · next e => exact .frozenIf (.start (.auditInputs (.modSlice ((Inv.stageFrom h1).of_eq e))))
      · next e => exact .frozenIf (.asCtx (.start (.modSlice ((Inv.stageFrom h1).of_eq e))) fun _ hy => .stageTrap hy)

theorem Inv.preemptFor {s : State} {x : Slice} (h : Inv s) : Inv (s.preemptFor x) :=
  .ite h (.foldl (fun _ _ hy => .ite hy (.push (.modSlice hy))) h)

theorem Inv.preempt {s : State} {p : Nat} (h : Inv s) : Inv (s.preempt p) := by
  unfold State.preempt
  refine .foldl (fun _ _ hy => ?_) h
  split
  · exact .preemptFor hy
  · exact hy

theorem Inv.requeue {s : State} {x : Slice} {old core : Nat} (h : Inv s) : Inv (s.requeue x old core) := by
  unfold State.requeue
  exact .foldl (fun _ _ hy => .push hy) (.same h)

theorem Inv.resume {s : State} {x : Slice} (h : Inv s) : Inv (s.resume x) := by
  unfold State.resume
  extract_lets _ _ s1 s2 s3 s4 s5 s6 _ s7 _ s8
  have h1 : Inv s1 := .foldl (fun _ _ hy => .setCtx hy) h
  have h2 : Inv s2 := .foldl (fun _ _ hy => .ite hy (.copyRange hy)) h1
  have h3 : Inv s3 := .foldl (fun _ _ hy => .requeue hy) h2
  have h4 : Inv s4 := .foldl (fun _ _ hy => .acquire hy) h3
  have h5 : Inv s5 := by
    unfold s5
    split
    · exact .again (.same h4)
    · exact h4
  have h6 : Inv s6 := .modSlice (.start h5)
  have h7 : Inv s7 := .ite (.foldl (fun _ _ hy => .modCtx hy) h6) h6
  have h8 : Inv s8 := .ite (.asCtx (.modSlice h7) fun _ hy => .stageRest hy) h7
  exact .frozenIf h8

theorem Inv.writeBack {x : Slice} {lead n k : Nat} {s : State} (h : Inv s) : Inv (State.writeBack x lead n k s) := by
  induction n generalizing k s with
  | zero => exact h
  | succ n ih =>
    unfold State.writeBack
    split
    · split
      · next e => exact ih ((Inv.backBlocks h).of_eq e)
      · next e => exact ih (.report (.logError ((Inv.backBlocks h).of_eq e)))
    · exact ih h

theorem Inv.endRun {s : State} {u : Audit} {cl sig : Nat} {since : Option Nat} (h : Inv s) : Inv (s.endRun u cl sig since) :=
  .writeNat (.same h)

theorem Inv.retireNow {s : State} (h : Inv s) : Inv (s.retireNow) := by
  unfold State.retireNow
  split
  · exact h
  · extract_lets _ s1
    have h1 : Inv s1 := .writeBack h
    refine .ite h ?_
    split
    · split
      · exact .retireSlice (.push (.endRun (.copyFeet h)))
      · exact .retireSlice h
    · split
      · exact .retireSlice (.push (.push (.endRun h1)))
      · exact .retireSlice h1

/-! Dispositions, stops, resets, rollback, soft errors and the Nose. -/

theorem Keeps.endSlots {i : Instr} {xs : State → List Slice} : Keeps (endSlots i xs) :=
  .bind .readS fun _ => .ite (.bind (.modS fun _ h => .foldl (fun _ _ hy => .towardLeaving hy) h) fun _ => .notYet) .pure

theorem Inv.killArmed {s : State} {cl n : Nat} (h : Inv s) : Inv (s.killArmed cl n) := by
  unfold State.killArmed
  extract_lets s1
  have h1 : Inv s1 := .modCluster h
  split
  · exact h
  · exact .report (.ite (.foldl (fun _ _ hy => .orphan hy) h1) (.writeOrphans (.foldl (fun _ _ hy => .orphan hy) h1)))

theorem Inv.killTable {s : State} {cl : Nat} (h : Inv s) : Inv (s.killTable cl) := .foldl (fun _ _ hy => .killArmed hy) h

theorem Inv.freeze {s : State} {core : Nat} (h : Inv s) : Inv (s.freeze core) := by
  unfold State.freeze
  extract_lets s1
  have h1 : Inv s1 := .stopThread h
  exact .ite h1 (.modCtx h1)

theorem Inv.halted {s : State} {core : Nat} (h : Inv s) : Inv (s.halted core) := .modCtx (.stopThread h)

theorem Inv.reportStop {s : State} {x : Slice} {cause : Nat} (h : Inv s) : Inv (s.reportStop x cause) :=
  .foldl (fun _ _ hy => .report hy) h

theorem Inv.frozenSlices {s : State} {cause : Nat} {xs : List Slice} (h : Inv s) : Inv (s.frozenSlices cause xs) :=
  .foldl (fun _ _ hy => .reportStop (.laySkid hy)) h

theorem Inv.stopAll {s : State} {a : EventArg} {xs : List Slice} (h : Inv s) : Inv (s.stopAll a xs) :=
  .frozenSlices (.foldl (fun _ _ hy => .freeze hy) h)

theorem Inv.dispose {s : State} {p : Nat} {u : Nat × Report} (h : Inv s) : Inv (s.dispose p u) := .drainReports (.modPart h)

theorem Inv.unfreeze {s : State} {x : Slice} (h : Inv s) : Inv (s.unfreeze x) := by
  unfold State.unfreeze
  extract_lets _ s1
  have h1 : Inv s1 := .foldl (fun _ _ hy => .modCtx hy) h
  split
  · exact .pushTurn (.again h1)
  · exact h1

theorem Inv.nextTurn {s : State} {x : Slice} (h : Inv s) : Inv (s.nextTurn x) := .same h

theorem Keeps.endStep {s : State} {x : Slice} : Keeps (s.endStep x) :=
  .ite .pure (.ite (.guard (.modS fun _ h1 => .halt h1) fun _ => .bind (.modS fun _ h1 => .same h1) fun _ =>
    .notYet) (.ite (.modS fun _ h1 => .nextTurn h1) (.ite (.bind (.modS fun _ h1 => .foldl (fun _ _ hy =>
    .halted hy) h1) fun _ => .notYet) (.modS fun _ h1 => .frozenSlices (.foldl (fun _ _ hy => .freeze hy) (.halt h1))))))

theorem Inv.discardJobs {s : State} {cl : Nat} (h : Inv s) : Inv (s.discardJobs cl) := by
  unfold State.discardJobs
  extract_lets _ _ s1
  have h1 : Inv s1 := .modCluster h
  refine .foldl (fun _ _ hy => ?_) h1
  split
  · exact hy
  · split
    · exact .writeOrphans (.orphan hy)
    · exact .ite hy (.breakObj hy)

theorem Inv.timeoutPads {s : State} {cl : Nat} (h : Inv s) : Inv (s.timeoutPads cl) := by
  unfold State.timeoutPads
  extract_lets _
  refine .foldl (fun _ _ hy => ?_) h
  extract_lets s1
  have h1 : Inv s1 := .same hy
  exact .ite (.answer h1) (.feFinish h1)

theorem Inv.wakeHandle {s : State} {core loc : Nat} (h : Inv s) : Inv (s.wakeHandle core loc) := .pushTurn (.modCtx h)

theorem Inv.wakePads {s : State} {cl : Nat} (h : Inv s) : Inv (s.wakePads cl) := by
  unfold State.wakePads
  extract_lets _ s1 s2
  have h1 : Inv s1 := .foldl (fun _ _ hy => .wake (.same hy)) h
  have h2 : Inv s2 := by
    refine .foldl (fun _ _ hy => ?_) h1
    split
    split
    · exact .ite (.wakeHandle hy) hy
    · exact hy
  exact .same h2

theorem Inv.resetCluster {s : State} {cl reason : Nat} (h : Inv s) : Inv (s.resetCluster cl reason) := by
  unfold State.resetCluster
  split
  · exact h
  · extract_lets _ _ _ s1 s2 _ s3 s4 s5
    have h1 : Inv s1 := .foldl (fun _ _ hy => .killNow hy) h
    have h2 : Inv s2 := .wakePads (.timeoutPads (.discardJobs (.killTable h1)))
    clear_value s2
    have h3 : Inv s3 := wf_foldl (fun _ _ hm => wf_clear hm _ _) _ h2
    have h4 : Inv s4 := .modCluster h3
    have h5 : Inv s5 := .foldl (fun _ _ hy => .ite hy (.modCore hy)) h4
    exact .logError h5

theorem Inv.resetDie {s : State} {die : Nat} (h : Inv s) : Inv (s.resetDie die) :=
  .resetInterface (.foldl (fun _ _ hy => .push hy) h)

theorem Inv.applyUndo {d : Domain} {s : State} {u : Undo} (h : Inv s) : Inv (s.applyUndo d u) := by
  unfold State.applyUndo
  extract_lets _ _ s1
  have h1 : Inv s1 := .write h
  exact .ite (.same h1) (.ite (.modCluster h) (.modCluster h))

theorem Inv.discardEngines {s : State} {ids : List Nat} (h : Inv s) : Inv (s.discardEngines ids) :=
  .foldl (fun _ _ hy => .moreOffers hy) (.foldl (fun _ _ hy => .push hy) (.same (.foldl (fun _ _ hy => .stopChannel hy) h)))

theorem Inv.restoreMember {s : State} {c : Ctx} {pos : Nat} (h : Inv s) : Inv (s.restoreMember c pos) := by
  unfold State.restoreMember
  split
  · exact h
  · extract_lets _ _ _ _ s1 _ s2
    have h1 : Inv s1 := .saveMarks (.saveTable (.lay h))
    have h2 : Inv s2 := .modSlice (.joinDomains (.setCtx (.withdraw h)))
    exact .ite (.modSlice h1) (.ite h2 (.pushTurn h2))

theorem Inv.rollBack {s : State} {p i : Nat} {d : Domain} (h : Inv s) : Inv (s.rollBack p i d) :=
  .logError (.modDomain (.same (.foldl (fun _ _ hy => .acquire hy) (.foldl (fun _ _ hy =>
    .restoreMember hy) (.foldl (fun _ _ hy => .applyUndo hy) (.same (.discardEngines (.dropMembers (.foldl (fun _ _ hy =>
    .withdraw hy) h)))))))))

theorem Inv.killMembers {s : State} {p : Nat} {d : Domain} (h : Inv s) : Inv (s.killMembers p d) :=
  .logError (.foldl (fun _ _ hy => .killNow hy) h)

theorem Inv.logSoft {s : State} {p : Option Nat} {row addr location : Nat} {corrected : Bool} (h : Inv s) :
    Inv (s.logSoft p row addr location corrected) := by
  unfold State.logSoft
  extract_lets _ s1
  have h1 : Inv s1 := .same h
  split
  · exact h
  · split
    · exact h1
    · extract_lets _
      split
      · exact .writeNat h1
      · exact .logError h1

theorem Inv.strike {s : State} {e : StorageError} (h : Inv s) : Inv (s.strike e) := by
  unfold State.strike
  split
  · exact .logSoft (.ite h (.poison h))
  · exact .logSoft (.ite h (.modCluster h))
  · exact .logSoft (.ite h (.modCluster h))
  · exact .logSoft (.ite h (.modCtx h))
  · exact .logSoft (.ite h (.modCtx h))
  · exact .logSoft h

theorem Inv.suspected {s : State} {cl : Nat} (h : Inv s) : Inv (s.suspected cl) := .modCluster h

theorem Inv.quarantine {s : State} {cl : Nat} (h : Inv s) : Inv (s.quarantine cl) := by
  unfold State.quarantine
  extract_lets s1 _ s2 _ s3 s4 s5
  have h1 : Inv s1 := .suspected h
  have h2 : Inv s2 := .foldl (fun _ _ hy => .suspend hy) h1
  have h3 : Inv s3 := .foldl (fun _ _ hy => .makeReady hy) h2
  have h4 : Inv s4 := .foldl (fun _ _ hy => .killNow hy) h3
  have h5 : Inv s5 := .killTable h4
  split
  · exact h
  · exact .notice (.logError h5)

theorem Inv.unquarantine {s : State} {p cl : Nat} (h : Inv s) : Inv (s.unquarantine p cl) :=
  .ite h (.push (.logError (.modCluster h)))

theorem Inv.logVerdict {s : State} {u : Audit} {mask runs : Nat} (h : Inv s) : Inv (s.logVerdict u mask runs) := .logError h

theorem Inv.verdict {s : State} (h : Inv s) : Inv (s.verdict) := by
  unfold State.verdict
  split
  · exact h
  · extract_lets s1
    have h1 : Inv s1 := .same h
    split
    · exact .ite h1 (.push h)
    · extract_lets _ s2
      have h2 : Inv s2 := .logVerdict h1
      split
      · exact .quarantine h2
      · exact .report h2
    · exact h

/-! VM. -/

theorem Keeps.refuseWalk {α : Type} {va : Word} : Keeps (refuseWalk va : M α) :=
  .bind (.modS fun _ h => .logAccess h) fun _ => .trapNow

theorem Keeps.walkToPage {va : Word} : Keeps (walkToPage va) := by
  unfold Machine.walkToPage
  refine .bind .require fun _ => .get fun _ _ => ?_
  extract_lets _
  split
  · exact .ite .pure .refuseWalk
  · exact .refuseWalk
  · exact .ite .trapNow (.ite .pure .refuseWalk)

theorem Inv.unparkSup {s : State} {addr : Nat} (h : Inv s) : Inv (s.unparkSup addr) :=
  .foldl (fun _ _ hy => .pushTurn (.modCtx (.modPart hy))) h

theorem Inv.unpark {s : State} {addr : Nat} (h : Inv s) : Inv (s.unpark addr) :=
  .unparkSup (.foldl (fun _ _ hy => .makeReady hy) h)

theorem Inv.commitPage {s : State} {part addr stack q : Nat} {rest : List Nat} (h : Inv s) :
    Inv (s.commitPage part addr stack q rest) :=
  .unpark (.writeNat (.same (.modPart h)))

theorem Inv.dropLeaves {s : State} {drops : TlbEntry → Bool} (h : Inv s) : Inv (s.dropLeaves drops) := .same h

theorem Inv.retranslate {s : State} {part : Nat} (h : Inv s) : Inv (s.retranslate part) :=
  .foldl (fun _ _ hy => .ite (.push hy) (.modCtx hy)) (.same h)

theorem Inv.shootdown {s : State} {part page : Nat} (h : Inv s) : Inv (s.shootdown part page) := .same (.dropLeaves h)

theorem Inv.poolPage {s : State} {part page : Nat} (h : Inv s) : Inv (s.poolPage part page) := .modPart h

theorem Inv.freePage {s : State} {part addr page : Nat} (h : Inv s) : Inv (s.freePage part addr page) :=
  .poolPage (.retranslate (.shootdown (.writeNat h)))

theorem Inv.invalidate {s : State} {part mode va : Nat} (h : Inv s) : Inv (s.invalidate part mode va) :=
  .retranslate (.same (.dropLeaves h))

/-! The commands of the configuration window. -/

theorem Inv.commanded {s : State} {code : Nat} {f : Nat → Partition → State → State × Nat} (h : Inv s)
    (hf : ∀ a b y, Inv y → Inv (f a b y).1) : Inv (s.commanded code f) := by
  unfold State.commanded
  extract_lets _ _
  exact .ite h (.modPart (.ite (.ite_fst h (hf _ _ _ h)) h))

theorem Answers.command {code : Nat} {f : Nat → Partition → State → State × Nat} {s : State}
    (hf : ∀ a b y, Inv y → Inv (f a b y).1) (h : Inv s) : Answers (command code f s) :=
  .runM (.event fun _ h1 => .commanded h1 hf) h

theorem Inv.rekey {s : State} {a b : Nat} (h : Inv s) : Inv (s.rekey a b) := .same h

theorem Inv.migrate {s : State} {p pte a b : Nat} (h : Inv s) : Inv (s.migrate p pte a b) :=
  .poolPage (.rekey (.shootdown (.writeNat (.same (.copyRange h)))))

theorem Answers.logCommand {code size : Nat} {put : Partition → Nat → Partition} {s : State} (h : Inv s) :
    Answers (logCommand code size put s) :=
  .command (fun _ _ _ hy => .ite_fst hy (.ite_fst hy (.modPart hy))) h

theorem Inv.clusterCommanded {s : State} {code : Nat} {f : Nat → Nat → State → State} (h : Inv s)
    (hf : ∀ a b y, Inv y → Inv (f a b y)) : Inv (s.clusterCommanded code f) :=
  .commanded h fun _ _ _ hy => .ite_fst (hf _ _ _ hy) hy

theorem Answers.clusterCommand {code : Nat} {f : Nat → Nat → State → State} {s : State} (hf : ∀ a b y, Inv y → Inv (f a b y))
    (h : Inv s) : Answers (clusterCommand code f s) :=
  .runM (.event fun _ h1 => .clusterCommanded h1 hf) h

/-! Fetching instructions, REP's checks and repetitions, and the bookkeeping of a step. -/

theorem Inv.noteCode {s : State} {va : Word} {v : Nat} (h : Inv s) : Inv (s.noteCode va v) := by
  unfold State.noteCode
  split
  · exact .ite h (.same h)
  · exact h

theorem Inv.newCode {s : State} (h : Inv s) : Inv (s.newCode) := by
  unfold State.newCode
  split
  · exact .ite h (.same h)
  · exact h

theorem Keeps.fetchHalf {va : Word} : Keeps (fetchHalf va) := by
  unfold Machine.fetchHalf
  refine .bind .readS fun _ => ?_
  split
  · exact .pure
  · exact .bind .resolveMem fun _ => .bind .readS fun _ => .bind (.modS fun _ h => .noteCode h) fun _ => .pure

theorem Keeps.fetchHead {pc : Word} : Keeps (fetchHead pc) :=
  .bind .fetchHalf fun _ => .ite .pure (.bind .fetchHalf fun _ => .pure)

theorem Keeps.fetchLit {n : Nat} {va : Word} : Keeps (fetchLit n va) := by
  induction n generalizing va with
  | zero => exact .pure
  | succ n ih => exact .bind .fetchHalf fun _ => .bind ih fun _ => .pure

theorem Keeps.repChecks {sd sa sb : ℤ} {image : Word} {len : Nat} : Keeps (repChecks sd sa sb image len) := by
  unfold Machine.repChecks
  refine .bind .readT fun _ => .bind .fetchHead fun _ => ?_
  split
  · exact .decodeTrap
  · exact .bind .gateContext fun _ => .guard .decodeTrap fun _ => .guard .decodeTrap fun _ => .bind .readT fun _ =>
      .guard .decodeTrap fun _ => .pure

theorem Keeps.fetchInstr : Keeps fetchInstr := by
  unfold Machine.fetchInstr
  refine .bind (.modS fun _ h => .newCode h) fun _ => .bind .readT fun _ => .bind .fetchHead fun _ => .bind .watch fun _ => ?_
  split
  · exact .decodeTrap
  · refine .bind .gate fun _ => .ite .pure ?_
    extract_lets jp
    have hjp : ∀ r, Keeps (jp r) := by
      intro _
      unfold jp
      refine .bind .fetchLit fun _ => ?_
      split
      · exact .pure
      · exact .decodeTrap
    clear_value jp
    split
    · exact .bind .repChecks fun _ => hjp _
    · exact hjp _

theorem Keeps.repLiteral {r : Rep} : Keeps (repLiteral r) := by
  unfold Machine.repLiteral
  split
  · exact .pure
  · extract_lets _ jp
    have hjp : ∀ r, Keeps (jp r) := fun _ => .bind .modT fun _ => .pure
    clear_value jp
    exact .ite (.bind .pure fun _ => hjp _) (.bind .fetchLit fun _ => hjp _)

theorem Keeps.fetchRepetition {r : Rep} : Keeps (fetchRepetition r) := by
  unfold Machine.fetchRepetition
  refine .bind .watch fun _ => .bind .repLiteral fun _ => ?_
  split
  · split
    · exact .pure
    · exact .trapNow
  · exact .trapNow

theorem Keeps.nextInstr : Keeps nextInstr := by
  unfold Machine.nextInstr
  refine .bind .readT fun _ => ?_
  split
  · exact .fetchRepetition
  · exact .fetchInstr

theorem Inv.charge {s : State} {core : Nat} {id : Word} (h : Inv s) : Inv (s.charge core id) := by
  unfold State.charge
  extract_lets _ _
  exact .ite (.setCtx h) h

theorem Inv.tick {s : State} (h : Inv s) : Inv (s.tick) := .same h

/-! CMP, KOP and the transfers of control. -/

theorem Keeps.kop2 {i : Instr} {b a d : BitVec 3} {f : Word → Word → Word} : Keeps (kop2 i b a d f) :=
  .bind .gate fun _ => .bind .readK fun _ => .bind .readK fun _ => .bind .writeK fun _ => .retire

theorem Keeps.kop1 {i : Instr} {a d : BitVec 3} {f : Word → Word} : Keeps (kop1 i a d f) :=
  .bind .gate fun _ => .bind .readK fun _ => .bind .writeK fun _ => .retire

theorem Keeps.branch {i : Instr} {off : BitVec 21} {k : BitVec 3} {sense : Bool} : Keeps (branch i off k sense) := by
  unfold Machine.branch
  refine .bind .gate fun _ => .bind .readS fun _ => ?_
  split
  · exact .retire
  · exact .bind .readK fun _ => .bind .readT fun _ => .ite .jumpTo .retire

theorem Keeps.jumpReg {target : M Word} {f : Ctx → Ctx} (htarget : Keeps target) : Keeps (jumpReg target f) := by
  unfold Machine.jumpReg
  refine .bind .readS fun _ => ?_
  split
  · exact .jumpTo
  · exact .bind htarget fun _ => .bind .require fun _ => .jumpTo

theorem Keeps.endIteration {i : Instr} {l : BitVec 2} {last : Bool} : Keeps (endIteration i l last) := by
  unfold Machine.endIteration
  refine .bind .gate fun _ => .bind .readS fun _ => ?_
  split
  · exact .jumpTo
  · exact .bind .readT fun _ => .bind .require fun _ => .jumpTo

theorem Keeps.repRange {p : Instr} {w : Nat} {sd sa sb : ℤ} {n : Nat} : Keeps (repRange p w sd sa sb n) :=
  .bind .require fun _ => .ite .decodeTrap .pure

/-! Raising flags. -/

theorem Keeps.raiseFlags {fl : Nat} : Keeps (raiseFlags fl) := .bind .modT fun _ => .bind .readT fun _ => .ite .trapNow .pure

/-! Vector operands and the two ways a vector instruction runs. -/

theorem Keeps.typeFor {i : Instr} {c : Accepts} {t : Nat} : Keeps (typeFor i c t) := .bind .require fun _ => .pure

theorem Keeps.roleOk {i : Instr} {producer : Bool} {h : Option Nat} : Keeps (roleOk i producer h) := by
  unfold Machine.roleOk
  split
  · exact .pure
  · exact .bind .readT fun _ => .require

theorem Keeps.touchField {i : Instr} {producer : Bool} {n : Nat} {h : Option Nat} : Keeps (touchField i producer n h) := by
  unfold Machine.touchField
  split
  · exact .pure
  · exact .touchHandle

theorem Keeps.touchFields {i : Instr} {a b d : Option Nat} {na nb nd : Nat} : Keeps (touchFields i a b d na nb nd) := by
  unfold Machine.touchFields
  refine .guard .notInTransfer fun _ => .bind .roleOk fun _ => .bind .roleOk fun _ => .bind .roleOk fun _ => ?_
  extract_lets jp
  have hjp : ∀ r, Keeps (jp r) := fun _ => .bind .touchField fun _ => .pure
  clear_value jp
  exact .ite (.bind .touchField fun _ => .bind .pure fun _ => hjp _) (.bind .touchField fun _ => .bind .touchField fun _ =>
    .bind .pure fun _ => hjp _)

theorem Keeps.moveField {producer : Bool} {n : Nat} {h : Option Nat} : Keeps (moveField producer n h) := by
  unfold Machine.moveField
  split
  · exact .pure
  · exact .moveHandle

theorem Keeps.moveFields {a b d : Option Nat} {na nb nd : Nat} : Keeps (moveFields a b d na nb nd) :=
  .bind .moveField fun _ => .bind .moveField fun _ => .moveField

theorem Keeps.readMarked {w : Nat} {ms : List Bool} {runs : List (Nat × Nat)} : Keeps (readMarked w ms runs) := by
  induction ms generalizing runs with
  | nil => exact .pure
  | cons m ms ih => exact .ite (.bind .readRuns fun _ => .bind ih fun _ => .pure) (.bind .pure fun _ => .bind ih fun _ => .pure)

theorem Keeps.readElems {w : Nat} {on : List Bool} {runs : List (Nat × Nat)} {x : Src} : Keeps (readElems w on runs x) := by
  unfold Machine.readElems
  split
  · exact .ite (.bind .readV fun _ => .pure) (.ite (.ite (.bind .readRuns fun _ =>
      .pure) .readMarked) (.bind .readSrc fun _ => .pure))
  · exact .bind .readSrc fun _ => .pure

theorem Keeps.writeElems {w : Nat} {ms : List Bool} {xs : List Nat} {runs : List (Nat × Nat)} :
    Keeps (writeElems w ms xs runs) := by
  induction ms generalizing xs runs with
  | nil => exact .pure
  | cons m ms ih =>
    cases xs with
    | nil => exact .pure
    | cons x xs => exact .ite (.bind .writeRuns fun _ => ih) ih

theorem Keeps.writeVec {d : Code} {w : Nat} {runs : List (Nat × Nat)} {on : List Bool} {xs : List Nat} :
    Keeps (writeVec d w runs on xs) :=
  .ite .modT (.ite (.ite .writeRuns .writeElems) .modT)

theorem Keeps.laneSources {i : Instr} {w : Nat} {on : List Bool} {a : Src} {b : Option Src} {d : Code} {useD : Bool} :
    Keeps (laneSources i w on a b d useD) := by
  unfold Machine.laneSources
  refine .bind .touchFields fun _ => .bind .readElems fun _ => ?_
  extract_lets jp
  have hjp : ∀ r, Keeps (jp r) := by
    intro _
    unfold jp
    extract_lets jp
    have hjp : ∀ r, Keeps (jp r) := fun _ => .pure
    clear_value jp
    exact .ite (.bind .readElems fun _ => hjp _) (.bind .pure fun _ => hjp _)
  clear_value jp
  split
  · exact .bind .readElems fun _ => hjp _
  · exact .bind .pure fun _ => hjp _

theorem Keeps.lanes {i : Instr} {acc : Accepts} {a : Src} {b : Option Src} {d : Code} {useD : Bool} {f : ElemFn} :
    Keeps (lanes i acc a b d useD f) :=
  .bind .readT fun _ => .bind .typeFor fun _ => .bind .laneSources fun _ => .bind .raiseFlags fun _ =>
    .bind .writeVec fun _ => .moveFields

theorem Keeps.locate {acc : Acc} {z : Nat} {vas : List Word} : Keeps (locate acc z vas) := by
  induction vas with
  | nil => exact .pure
  | cons va vas ih =>
    exact .bind .resolveMem fun _ => .ite (.bind .dataOk fun _ => .bind ih fun _ => .pure) (.bind ih fun _ => .pure)

theorem Keeps.readFound {z : Nat} {ks : List (Word × Nat)} : Keeps (readFound z ks) := by
  induction ks with
  | nil => exact .pure
  | cons k ks ih => exact .bind .readPlain fun _ => .bind ih fun _ => .pure

theorem Keeps.watchFound {z : Nat} {ks : List (Word × Nat)} : Keeps (watchFound z ks) := by
  induction ks with
  | nil => exact .pure
  | cons k ks ih => exact .bind .watch fun _ => ih

theorem Keeps.writeFound {z : Nat} {ks : List (Word × Nat)} {xs : List Nat} : Keeps (writeFound z ks xs) := by
  induction ks generalizing xs with
  | nil => exact .pure
  | cons k ks ih =>
    cases xs with
    | nil => exact .pure
    | cons x xs => exact .bind (.modS fun _ h => .noteDisposition (.storeVia h)) fun _ => ih

theorem Keeps.locateTensor {acc : Acc} {r zz : Nat} {st : Nat × Nat × Nat × Nat × Nat} {x : Tensor} :
    Keeps (locateTensor acc r zz st x) :=
  .ite (.bind .readSrc fun _ => .locate) .pure

theorem Keeps.readTensor {n : Nat} {runs : List (Nat × Nat)} {ks : List (Word × Nat)} {x : Tensor} :
    Keeps (readTensor n runs ks x) :=
  .ite .readFound (.ite (.bind .readRuns fun _ => .pure) (.bind .readSrc fun _ => .pure))

theorem Keeps.shapedRead {i : Instr} {r zz : Nat} {st : Nat × Nat × Nat × Nat × Nat} {a : Tensor} {b : Option Tensor}
    {d : Tensor} {useD : Bool} : Keeps (shapedRead i r zz st a b d useD) := by
  unfold Machine.shapedRead
  refine .bind .touchFields fun _ => .bind .locateTensor fun _ => ?_
  extract_lets jp
  have hjp : ∀ r, Keeps (jp r) := by
    intro _
    unfold jp
    extract_lets jp
    have hjp : ∀ r, Keeps (jp r) := by
      intro _
      unfold jp
      refine .bind .locateTensor fun _ => .bind .readTensor fun _ => ?_
      extract_lets jp
      have hjp : ∀ r, Keeps (jp r) := by
        intro _
        unfold jp
        extract_lets jp
        have hjp : ∀ r, Keeps (jp r) := fun _ => .pure
        clear_value jp
        exact .ite (.bind .readTensor fun _ => hjp _) (.bind .pure fun _ => hjp _)
      clear_value jp
      split
      · exact .bind .readTensor fun _ => hjp _
      · exact .bind .pure fun _ => hjp _
    clear_value jp
    exact .ite (.bind .locateTensor fun _ => hjp _) (.bind .pure fun _ => hjp _)
  clear_value jp
  split
  · exact .bind .locateTensor fun _ => hjp _
  · exact .bind .pure fun _ => hjp _

theorem Keeps.shapedWrite {n : Nat} {rd : List (Nat × Nat)} {kd : List (Word × Nat)} {a : Tensor} {b : Option Tensor}
    {d : Tensor} {rs : List Nat} : Keeps (shapedWrite n rd kd a b d rs) := by
  unfold Machine.shapedWrite
  extract_lets jp
  have hjp : ∀ r, Keeps (jp r) := fun _ => .moveFields
  clear_value jp
  exact .ite (.bind .watchFound fun _ => .bind .writeFound fun _ => hjp _) (.bind .writeRuns fun _ => hjp _)

theorem Keeps.shapedStep {i : Instr} {q : BitVec 3} {z : Nat} {a : Tensor} {b : Option Tensor} {d : Tensor} {useD : Bool}
    {f : Nat → Nat → Nat → Nat → Nat × Nat} {fin : Ctx → Ctx} : Keeps (shapedStep i q z a b d useD f fin) :=
  .bind .readT fun _ => .bind .readS fun _ => .guard .trapOpen fun _ => .bind .require fun _ => .bind .require fun _ =>
    .ite (.bind .modT fun _ => .retire) (.bind .shapedRead fun _ => .bind .raiseFlags fun _ => .bind .shapedWrite fun _ =>
    .ite (.bind .modT fun _ => .retire) .modT)

theorem Keeps.vecOp {i : Instr} {q : BitVec 3} {acc : Accepts} {a : Src} {b : Option Src} {d : Code} {useD : Bool} {f : ElemFn} :
    Keeps (vecOp i q acc a b d useD f) :=
  .bind .gate fun _ => .whole (.ite (.bind .lanes fun _ => .retire) (.bind .readT fun _ => .bind .typeFor fun _ => .shapedStep))

/-! The copy unit. -/

theorem Keeps.endWith {α : Type} {status : Nat} : Keeps (endWith status : M α) := fun _ h => Inv.endCopy h

theorem Keeps.burstKeys {acc : Acc} {n : Nat} {va : Word} : Keeps (burstKeys acc n va) := by
  induction n generalizing va with
  | zero => exact .pure
  | succ n ih => exact .bind .resolveMem fun _ => .bind ih fun _ => .pure

theorem Inv.scatterBytes {s : State} {agent : Nat} {ks : List Nat} {bs : List Byte} {bad : List Nat} (h : Inv s) :
    Inv (s.scatterBytes agent ks bs bad) := by
  unfold State.scatterBytes
  extract_lets s1
  have h1 : Inv s1 := .foldl (fun _ _ hy => .writeFor hy) h
  split
  · exact h
  · exact .ite (.writeMarked h) (.foldl (fun _ _ hy => .poison hy) h1)

theorem Inv.packetEnds {s : State} {c : Copy} {r : Sent} {bits : Nat} (h : Inv s) : Inv (s.packetEnds c r bits) := .modCopy h

theorem Inv.rereadKeys {s : State} {c : Copy} {src : Word} {n : Nat} (h : Inv s) : Inv (s.rereadKeys c src n).1 := by
  unfold State.rereadKeys
  refine .foldl_fst (fun _ _ hy => ?_) h
  split
  · exact hy
  · split
    · next e => exact (Inv.engineFind hy).of_eq e
    · next e => exact (Inv.engineFind hy).of_eq e

theorem Inv.countError {s : State} {p : Nat} {entry : Option Nat} (h : Inv s) : Inv (s.countError p entry) := by
  unfold State.countError
  split
  · extract_lets _
    exact .ite (.writeNat h) h
  · exact h

theorem Inv.inRound {s : State} {c : Copy} {r : Sent} (h : Inv s) : Inv (s.inRound c r) :=
  .ite (.countError h) (.logError (.modCopy h))

theorem Inv.resent {s : State} {c : Copy} {r : Sent} (h : Inv s) : Inv (s.resent c r) := by
  unfold State.resent
  extract_lets _
  split
  · next e => exact .packetEnds ((Inv.rereadKeys h).of_eq e)
  · next e => exact .push (.send (.modCopy (.inRound ((Inv.rereadKeys h).of_eq e))))

/-! WELT. -/

theorem Inv.formGang {s : State} {id : Nat} {g : Gang} (h : Inv s) : Inv (s.formGang id g) :=
  .foldl (fun _ _ hy => .modCtx hy) (.same h)

theorem Inv.endMember {s : State} {id p : Nat} {exiting : Bool} (h : Inv s) : Inv (s.endMember id p exiting) := by
  unfold State.endMember
  split
  · exact .same h
  · exact h

theorem Inv.dissolve {s : State} {id : Nat} (h : Inv s) : Inv (s.dissolve id) := by
  unfold State.dissolve
  split
  · exact h
  · exact .foldl (fun _ _ hy => .modCtx hy) (.same h)

/-! TASK. -/

theorem Inv.recordChecks {s : State} {core part slice : Nat} {table : List Oblig} {a img : Word} {r : BitVec 2048} {arm : Bool}
    (h : Inv s) : Inv (s.recordChecks core part slice table a img r arm).1 := by
  unfold State.recordChecks
  extract_lets
  refine .ite_fst h ?_
  split
  · exact h
  · refine .ite_fst h ?_
    split
    rename_i e
    have h1 := (Inv.tryObject h).of_eq e
    split
    · exact .ite h h1
    · exact .atHome h1

theorem Keeps.readRecord {a : Word} : Keeps (readRecord a) := by
  unfold Machine.readRecord
  refine .bind .require fun _ => ?_
  extract_lets jp
  have hjp : ∀ r, Keeps (jp r) := fun _ => .bind .resolveMem fun _ => .bind .dataOk fun _ => .bind (.modS fun _ h =>
    .atHome h) fun _ => .readS
  clear_value jp
  exact .bind (hjp _) fun _ => .bind (hjp _) fun _ => .bind (hjp _) fun _ => .bind (hjp _) fun _ => .pure

theorem Keeps.checkRecord {i : Instr} {a : Word} {r : BitVec 2048} {arm : Bool} : Keeps (checkRecord i a r arm) := by
  unfold Machine.checkRecord
  refine .get fun _ h => ?_
  extract_lets _
  split
  rename_i e
  have h1 := (Inv.recordChecks h).of_eq e
  refine .bind (.set (.same h1)) fun _ => ?_
  split
  · exact .trapNow
  · exact .pure

theorem Inv.fireEntry {s : State} {cl n : Nat} (h : Inv s) : Inv (s.fireEntry cl n) := .push (.modCluster h)

theorem Inv.exitSlice {s : State} {id : Nat} (h : Inv s) : Inv (s.exitSlice id) := by
  unfold State.exitSlice
  extract_lets _
  split
  · exact .same h
  · exact .push (.modSlice (.same (.foldl (fun _ _ hy => .modCtx hy) (.foldl (fun _ _ hy => .leaveDomains hy) h))))

theorem Keeps.readMessage {i : Instr} {a : Word} : Keeps (readMessage i a) :=
  .bind .require fun _ => .bind .require fun _ => .bind .resolveMem fun _ => .bind .dataOk fun _ => .bind .readS fun _ =>
    .bind .require fun _ => .ite .pure (.bind .require fun _ => .bind .resolveMemAt fun _ => .bind .require fun _ =>
    .bind .require fun _ => .readS)

theorem Keeps.sendMessage {dst cref : Word} {bs : List Byte} {bad : List Nat} : Keeps (sendMessage dst cref bs bad) :=
  .get fun _ _ => .guard .refusePeer fun _ => .modS fun _ h1 => .launch (.modActivity (.flushDest (.unrepeatable h1)))

theorem Keeps.localMessage {dst cref : Word} {bs : List Byte} {bad : List Nat} : Keeps (localMessage dst cref bs bad) := by
  unfold Machine.localMessage
  extract_lets _ jp
  have hjp : ∀ r, Keeps (jp r) := by
    intro _
    unfold jp
    refine .bind .findKind fun _ => .get fun _ h => ?_
    extract_lets _ put jp
    have hput : ∀ y, Inv y → Inv (put y) := fun _ hy => .foldl (fun _ _ hz => .poison hz) (.writeHome hy)
    have hjp : ∀ y, Inv y → Keeps (jp y) := fun _ hy =>
      .bind (.set (.unrepeatable hy)) fun _ => .bind .release fun _ => .modS fun _ hz =>
        .addCount (.ite hz (.noteDisposition (hput _ hz)))
    refine .ite ?_ (.pureBind (hjp _ h))
    split
    · exact .trapThen
    · next e => exact .pureBind (hjp _ (h.discharge e))
  clear_value jp
  exact .ite (.bind .pure fun _ => hjp _) (.bind .resolveMemAt fun _ => hjp _)

/-! The host link. -/

theorem Inv.respond {s : State} {hd : HostHeader} {opcode status : Nat} {payload : List Byte} (h : Inv s) :
    Inv (s.respond hd opcode status payload) := by
  unfold State.respond
  extract_lets _ s1
  have h1 : Inv s1 := by
    unfold s1
    split
    · exact .same h
    · exact h
  exact .same h1

theorem Inv.carryOut {s : State} {hd : HostHeader} {x : Session} {f : State → Reply} (h : Inv s)
    (hf : ∀ y, Inv y → Inv (f y).1) : Inv (s.carryOut hd x f) := by
  unfold State.carryOut
  split
  rename_i e
  have h1 := (hf s h).of_eq e
  extract_lets _ s2 s3
  have h2 : Inv s2 := by
    unfold s2
    split
    · exact .ite (.same h1) h1
    · exact h1
  have h3 : Inv s3 := .respond h2
  split
  · exact .push h3
  · exact h3

theorem Inv.inOrder {s : State} {i : Instr} {hd : HostHeader} {x : Session} {f : State → Reply} (h : Inv s)
    (hf : ∀ y, Inv y → Inv (f y).1) : Inv (s.inOrder i hd x f) := by
  unfold State.inOrder
  extract_lets _
  refine .ite (.carryOut h hf) (.ite ?_ (.ite (.ite h (.same h)) h))
  split
  · exact .respond h
  · exact h

theorem Inv.anywhere {s : State} {i : Instr} {f : State → Reply} (h : Inv s) (hf : ∀ y, Inv y → Inv (f y).1) :
    Inv (s.anywhere i f) := by
  unfold State.anywhere
  extract_lets _
  split
  · exact .ite (.inOrder h hf) (.respond (hf _ h))
  · exact .respond (hf _ h)

theorem Inv.received {s : State} {i : Instr} {own n : Nat} {f : State → State} (h : Inv s) (hf : ∀ y, Inv y → Inv (f y)) :
    Inv (s.received i own n f) := by
  unfold State.received
  extract_lets _
  exact .ite h (.ite (hf _ h) (.ite h (.anywhere h fun _ hy => hy)))

theorem Inv.request {s : State} {i : Instr} {own opcode n : Nat} {f : State → Reply} (h : Inv s)
    (hf : ∀ y, Inv y → Inv (f y).1) : Inv (s.request i own opcode n f) := by
  unfold State.request
  refine .received h fun _ hy => ?_
  extract_lets _
  split
  · exact .ite (.inOrder hy hf) (.respond hy)
  · exact .respond hy

theorem Inv.query {s : State} {i : Instr} {own : Nat} {f : State → Reply} (h : Inv s) (hf : ∀ y, Inv y → Inv (f y).1) :
    Inv (s.query i own f) :=
  .received h fun _ hy => .anywhere hy hf

theorem Inv.outside {s : State} {p addr kind opcode : Nat} (h : Inv s) : Inv (s.outside p addr kind opcode).1 := .logAccess h

theorem Inv.rejection {s : State} {k : LaunchCheck} {c : Cause} {v : Word} (h : Inv s) : Inv (rejection s k c v).1 := h

theorem Inv.sendNotice {s : State} {p : Nat} {n : Notice} (h : Inv s) : Inv (s.sendNotice p n) := .push (.same (.modPart h))

theorem Inv.setLevel {s : State} {l : Nat} (h : Inv s) : Inv (s.setLevel l) := by
  unfold State.setLevel
  extract_lets _
  exact .ite h (.foldl (fun _ _ hy => .notice hy) (.same h))

theorem Inv.measured {s : State} (h : Inv s) : Inv (s.measured) := by
  unfold State.measured
  extract_lets _ _ _ _
  exact .ite h (.setLevel (.same h))

theorem Inv.signedCommand {s : State} {i : Instr} {command : Nat} {f : SignedCommand → State → State × Nat} (h : Inv s)
    (hf : ∀ c y, Inv y → Inv (f c y).1) : Inv (s.signedCommand i command f) := by
  unfold State.signedCommand
  extract_lets c
  refine .ite h (.ite (.received h fun _ hy => .respond hy) (.request h fun y hy => ?_))
  split
  · exact hy
  · exact .ite_fst hy (.ite_fst hy (.ite (hf _ _ hy) hy))

theorem Inv.clearPartition {s : State} {p : Nat} {cls : List Nat} {ws : List (Nat × Nat)} (h : Inv s) :
    Inv (s.clearPartition p cls ws) := wf_filter h _

theorem Inv.startSupervisor {s : State} {core : Nat} (h : Inv s) : Inv (s.startSupervisor core) := .pushTurn (.setCtx h)

/-! LD, LDA, ST, STL, AMO, LDX, STX and ORD. -/

theorem Keeps.eightOnly {va : Word} {n : Nat} : Keeps (eightOnly va n) := .require

theorem Keeps.loadFrom {f : BitVec 3} {va : Word} {n : Nat} {acq : Bool} {x4 : Place} : Keeps (loadFrom f va n acq x4) := by
  unfold Machine.loadFrom
  split
  · exact .bind .readPlain fun _ => .pure
  · exact .bind .eightOnly fun _ => .bind .apertureLoad fun _ => .guard .acquire fun _ => .pure
  · exact .get fun _ _ => .guard .refuseConfig fun _ => .bind .eightOnly fun _ => .bind .configLoad fun _ =>
      .guard .acquire fun _ => .pure

theorem Keeps.load {i : Instr} {imm : BitVec 10} {f : BitVec 3} {a : Src} {d : Code} {acq : Bool} :
    Keeps (load i imm f a d acq) :=
  .bind .gate fun _ => .bind .readSrc fun _ => .bind .resolve fun _ => .bind .loadFrom fun _ => .bind .writeD fun _ => .retire

theorem Keeps.storeTo {i : Instr} {va : Word} {n : Nat} {v : Word} {x4 : Place} : Keeps (storeTo i va n v x4) := by
  unfold Machine.storeTo
  split
  · exact .writePlain
  · exact .bind .eightOnly fun _ => .apertureStore
  · exact .get fun _ _ => .guard .refuseConfig fun _ => .bind .eightOnly fun _ => .configStore

theorem Keeps.store {i : Instr} {imm : BitVec 10} {f : BitVec 3} {a d : Src} {rel : Bool} : Keeps (store i imm f a d rel) :=
  .bind .gate fun _ => .bind .readSrc fun _ => .bind .readSrc fun _ => .guard .release fun _ => .bind .resolve fun _ =>
    .bind .storeTo fun _ => .retire

theorem Keeps.amo {i : Instr} {op : Nat} {wide acq rel : Bool} {b a : Src} {d : Code} : Keeps (amo i op wide acq rel b a d) := by
  unfold Machine.amo
  refine .bind .gate fun _ => .bind .readSrc fun _ => .bind .readSrc fun _ => ?_
  extract_lets _ jp
  have hjp : ∀ r, Keeps (jp r) := fun _ => .guard .release fun _ => .bind .resolveMem fun _ => .bind .dataOk fun _ =>
    .bind .watch fun _ => .bind .readS fun _ => .bind (.modS fun _ h => .atHome h) fun _ => .guard (.modS fun _ h =>
    .noteDisposition (.writeFor h)) fun _ => .bind (.modS fun _ h => .bankArrive h) fun _ => .guard .acquire fun _ =>
    .bind .writeD fun _ => .retire
  clear_value jp
  exact .ite (.bind .readDest fun _ => hjp _) (.bind .pure fun _ => hjp _)

theorem Keeps.feRemote {i : Instr} {a : Word} {r : FeReq} {d : Code} : Keeps (feRemote i a r d) := by
  unfold Machine.feRemote
  refine .bind .notInTransfer fun _ => .get fun _ _ => .guard .refusePeer fun _ => .bind .watch fun _ => .bind .modT fun _ =>
    .bind (.modS fun _ h1 => ?_) fun _ => .waitOn
  extract_lets s2
  have h2 : Inv s2 := .unrepeatable (.flushDest h1)
  exact .ite (.push h2) (.same h2)

theorem Keeps.fullEmpty {i : Instr} {isStore : Bool} {sz c e : BitVec 2} {a : Src} {data : M Word} {d : Code}
    (hdata : Keeps data) : Keeps (fullEmpty i isStore sz c e a data d) := by
  unfold Machine.fullEmpty
  refine .bind .gate fun _ => .bind .readSrc fun _ => .bind hdata fun _ => .get fun _ _ => .ite (.bind .require fun _ =>
    .bind .require fun _ => .feRemote) (.bind .resolveMem fun _ => .guard .dataOk fun _ => .guard .notInTransfer fun _ =>
    .bind .watch fun _ => .bind .modT fun _ => .modS fun _ h1 => ?_)
  split
  · next e => exact Inv.feTry h1 e
  · exact .fePark h1

/-! Power-on, boot and measurement, the configuration records, power and heat. -/

theorem Inv.applyRecords {s : State} {i : FlashImage} (h : Inv s) : Inv (s.applyRecords i) := .same h

theorem Inv.powerOn {s : State} : Inv (s.powerOn) := by
  unfold State.powerOn
  extract_lets _ _ _ _ s1 s2
  have h1 : Inv s1 := .reset
  have h2 : Inv s2 := .same h1
  split
  · exact .applyRecords h2
  · exact h2

theorem Inv.shutdown {s : State} : Inv s.shutdown := wf_nil

/-! VARI, VGRP and the C form. -/

theorem Keeps.cForm {i : Instr} {acc : Accepts} {x y : Src} {vd : BitVec 5} {useD : Bool} {f : ElemFn} :
    Keeps (cForm i acc x y vd useD f) :=
  .bind .gate fun _ => .whole (.bind .lanes fun _ => .retire)

theorem Keeps.wholeVec {i : Instr} {acc : Accepts} {a : Src} {b : Option Src} {d : Code}
    {used : Nat → List Bool → List Nat → M (List Bool)} {f : Nat → List Nat → List Nat → M (List Nat)} (hused : ∀ w ms xs,
    Keeps (used w ms xs)) (hf : ∀ w xs ys, Keeps (f w xs ys)) : Keeps (wholeVec i acc a b d used f) := by
  unfold Machine.wholeVec
  refine .bind .gate fun _ => .whole (.bind .readT fun _ => .bind .typeFor fun _ => .bind .touchFields fun _ => ?_)
  split
  extract_lets _ jp
  have hjp : ∀ r, Keeps (jp r) := fun _ => .bind (hused _ _ _) fun _ => .bind .readElems fun _ => .bind (hf _ _ _) fun _ =>
    .bind .writeVec fun _ => .bind .moveFields fun _ => .retire
  clear_value jp
  split
  · exact .bind .readElems fun _ => hjp _
  · exact .bind .pure fun _ => hjp _

/-! VRED. -/

theorem Keeps.activeElems {i : Instr} {acc : Accepts} {a : Src} : Keeps (activeElems i acc a) :=
  .bind .readT fun _ => .bind .typeFor fun _ => .bind .readElems fun _ => .pure

theorem Keeps.writeFirst {d : Code} {x : Nat} : Keeps (writeFirst d x) := .writeVec

theorem Keeps.reduce {i : Instr} {a : Src} {d : Code} {f : Nat → Nat → List Nat → Nat × Nat} : Keeps (reduce i a d f) :=
  .bind .gate fun _ => .whole (.bind .activeElems fun _ => .bind .readT fun _ => .bind .raiseFlags fun _ =>
    .bind .writeFirst fun _ => .retire)

theorem Keeps.accumulator {va : Word} {data : Bool} : Keeps (accumulator va data) :=
  .bind .require fun _ => .bind .require fun _ => .bind .resolveMemAt fun _ => .guard .dataOk fun _ => .pure

theorem Keeps.writeWords {key old new n : Nat} : Keeps (writeWords key old new n) := by
  induction n with
  | zero => exact .pure
  | succ n ih => exact .bind ih fun _ => .ite (.modS fun _ h => .writeFor h) .pure

/-! VMEM and RING. -/

theorem Keeps.vmemType {i : Instr} : Keeps (vmemType i) := .bind .readT fun _ => .bind .typeFor fun _ => .pure

theorem Keeps.vmemAddrs {w : Nat} {gather : Bool} {base : Word} {b : Src} : Keeps (vmemAddrs w gather base b) :=
  .ite (.bind .readElems fun _ => .pure) (.bind .readSrc fun _ => .pure)

theorem Keeps.vload {i : Instr} {gather one : Bool} {b a : Src} {d : Code} : Keeps (vload i gather one b a d) := by
  unfold Machine.vload
  refine .bind .gate fun _ => .whole (.bind .vmemType fun _ => .bind .readSrc fun _ => .bind .vmemAddrs fun _ =>
    .bind .readT fun _ => .bind .locate fun _ => ?_)
  extract_lets jp
  have hjp : ∀ r, Keeps (jp r) := fun _ => .bind .writeVec fun _ => .retire
  clear_value jp
  exact .ite (.bind .readFound fun _ => .bind .pure fun _ => hjp _) (.bind .readFound fun _ => hjp _)

theorem Keeps.vstore {i : Instr} {gather : Bool} {b a d : Src} : Keeps (vstore i gather b a d) :=
  .bind .gate fun _ => .whole (.bind .vmemType fun _ => .bind .readSrc fun _ => .bind .vmemAddrs fun _ =>
    .bind .readElems fun _ => .bind .readT fun _ => .bind .locate fun _ => .bind .watchFound fun _ =>
    .bind .writeFound fun _ => .retire)

theorem Keeps.handleGate {i : Instr} : Keeps (handleGate i) := .bind .gate fun _ => .notInTransfer

theorem Keeps.boundHandle {i : Instr} {c : Code} : Keeps (boundHandle i c) := .bind .readT fun _ => .bind .require fun _ => .pure

theorem Keeps.advance {i : Instr} {d : Code} {producer : Bool} : Keeps (advance i d producer) :=
  .bind .handleGate fun _ => .whole (.bind .readT fun _ => .bind .require fun _ => .bind .handleRing fun _ => .get fun _ _ =>
    .bind .require fun _ => .bind .release fun _ => .bind (.modS fun _ h1 => .ownAdvance h1) fun _ => .bind .modT fun _ =>
    .retire)

/-! TAG and STRM. -/

theorem Keeps.tagWait {i : Instr} {a : Src} {all : Bool} : Keeps (tagWait i a all) :=
  .bind .gate fun _ => .bind .readSrc fun _ => .bind .notInTransfer fun _ => .get fun _ _ => .bind .require fun _ =>
    .ite (.bind .acquire fun _ => .pure) (.bind .require fun _ => .waitOn)

theorem Inv.modSub {s : State} {x : Subscription} {f : Subscription → Subscription} (h : Inv s) : Inv (s.modSub x f) := .same h

theorem Inv.endSub {s : State} {x : Subscription} (h : Inv s) : Inv (s.endSub x) := by
  unfold State.endSub
  extract_lets s1
  have h1 : Inv s1 := .same h
  split
  · exact h1
  · exact .setObj h1

theorem Inv.nextSlot {s : State} {x : Subscription} (h : Inv s) : Inv (s.nextSlot x) := .push h

theorem Inv.streamFault {s : State} {x : Subscription} {key : Nat} {c : Cause} {va : Word} (h : Inv s) :
    Inv (s.streamFault x key c va) :=
  .logError (.setObj h)

theorem Inv.streamFind {s : State} {x : Subscription} {n : Nat} {acc : Acc} (h : Inv s) : Inv (s.streamFind x n acc).1 := by
  unfold State.streamFind
  extract_lets _ _
  refine .ite_fst h ?_
  split
  · rename_i e
    have h1 := (Inv.engineFind h).of_eq e
    exact .ite_fst h1 h1
  · next e => exact (Inv.engineFind h).of_eq e

theorem Inv.loadElems {x : Subscription} {m n : Nat} {s : State} (h : Inv s) : Inv (State.loadElems x m n s).1 := by
  induction m generalizing n s with
  | zero => exact h
  | succ m ih =>
    unfold State.loadElems
    split
    · next e => exact (Inv.streamFind h).of_eq e
    · next e => exact ih ((Inv.streamFind h).of_eq e)

theorem Inv.storeElems {x : Subscription} {m n key : Nat} {s : State} (h : Inv s) : Inv (State.storeElems x m n key s).1 := by
  induction m generalizing n key s with
  | zero => exact h
  | succ m ih =>
    unfold State.storeElems
    split
    · next e => exact (Inv.streamFind h).of_eq e
    · next e =>
      have h1 := (Inv.streamFind h).of_eq e
      exact ih (.ite (.poison (.writeFor h1)) (.writeFor h1))

/-! SYS and CSR. -/

theorem Keeps.trapAfter {i : Instr} {a : Src} {c : Cause} : Keeps (trapAfter i a c) :=
  .bind .gate fun _ => .bind .readSrc fun _ => .bind (.modS fun _ h => .complete h) fun _ => .trapAs

theorem Inv.reform {s : State} (h : Inv s) : Inv (s.reform) := by
  unfold State.reform
  split
  · exact .ite (.same h) h
  · exact h

theorem Inv.haltStop {s : State} {core : Nat} (h : Inv s) : Inv (s.haltStop core) := by
  unfold State.haltStop
  extract_lets _
  exact .ite (.same h) (.triggerStop h)

theorem Keeps.csrChange {i : Instr} {c : BitVec 11} {a : Src} {d : Code} {f : Word → Word → Word} : Keeps (csrChange i c a d f) :=
  .bind .gate fun _ => .bind .readSrc fun _ => .get fun _ _ => .guard .trapOpen fun _ => .bind .require fun _ =>
    .bind (.modS fun _ h1 => .csrStore h1) fun _ => .bind .modT fun _ => .bind .writeD fun _ => .retire

/-! Whose turn it is. -/

theorem Answers.mapNext {o : Host.Outcome State Fault Refusal} {f : State → State} (ho : Answers o)
    (hf : ∀ y, Inv y → Inv (f y)) :
    Answers (mapNext o f) := by
  intro t e
  cases o with
  | next s => cases e; exact hf s (ho s rfl)
  | fault r => exact absurd e nofun
  | refused r => exact absurd e nofun

theorem Inv.modGang {s : State} {id : Nat} {f : Gang → Gang} (h : Inv s) : Inv (s.modGang id f) := by
  unfold State.modGang
  split
  · exact .same h
  · exact h

theorem Inv.keepLate {s : State} {g : Gang} {taken : Option Nat} (h : Inv s) : Inv (s.keepLate g taken) :=
  .foldl (fun _ _ hy => .ite hy (.modCtx hy)) h

theorem Inv.slotEnds {s : State} {id : Nat} (h : Inv s) : Inv (s.slotEnds id) := by
  unfold State.slotEnds
  split
  · exact h
  · extract_lets s1 s2
    have h1 : Inv s1 := .modGang (.keepLate h)
    have h2 : Inv s2 := .laySkid (.endSlot h1)
    refine .ite h (.ite (.ite (.pushTurn h2) h2) ?_)
    split
    · exact .endSlot (.modGang h)
    · extract_lets s3
      have h3 : Inv s3 := .modGang (.keepLate h)
      split
      · exact .same h3
      · exact .asCtx (.endSlot h3) fun _ hy => .takeTrap hy

theorem Inv.goOn {s : State} {core : Nat} (h : Inv s) : Inv (s.goOn core) := .modCtx h

theorem Inv.endMemberTurn {s : State} {core : Nat} (h : Inv s) : Inv (s.endMemberTurn core) := .goOn (.stopThread h)

theorem Inv.memberAgain {s : State} {core idx : Nat} (h : Inv s) : Inv (s.memberAgain core idx) := .same (.pushTurn h)

theorem Inv.memberTrapped {s t : State} {id q core idx : Nat} {g k : Gang} {late : Option (Cause × Word)} (hs : Inv s)
    (ht : Inv t) : Inv (s.memberTrapped t id q core idx g k late) :=
  .ite (.ite (.modCtx (.modGang ht)) (.endMemberTurn hs)) (.ite ht (.modGang (.endMemberTurn hs)))

theorem Inv.inCycle {s : State} {core : Nat} (h : Inv s) : Inv (s.inCycle core) := .same (.ite (.tick h) h)

/-! The instructions and the events: a rule for each whose meaning is its own. -/

theorem Answers.execCmp {c : BitVec 7} {b a : Src} {k : BitVec 3} {s : State} (h : Inv s) : Answers (execCmp c b a k s) :=
  .runM (.bind .gate fun _ => .bind .readSrc fun _ => .bind .readSrc fun _ => .bind .writeK fun _ => .retire) h

theorem Answers.execJ {off : BitVec 25} {s : State} (h : Inv s) : Answers (execJ off s) :=
  .runM (.bind .gate fun _ => .bind .readT fun _ => .jumpTo) h

theorem Answers.execJal {off : BitVec 25} {s : State} (h : Inv s) : Answers (execJal off s) :=
  .runM (.bind .gate fun _ => .bind .readT fun _ => .jumpTo) h

theorem Answers.execJr {a : Src} {s : State} (h : Inv s) : Answers (execJr a s) :=
  .runM (.bind .gate fun _ => .jumpReg .readSrc) h

theorem Answers.execJalr {a : Src} {d : Code} {s : State} (h : Inv s) : Answers (execJalr a d s) :=
  .runM (.bind .gate fun _ => .bind .readT fun _ => .jumpReg .readSrc) h

theorem Answers.execRet {s : State} (h : Inv s) : Answers (execRet s) := .runM (.bind .gate fun _ => .jumpReg .readSrc) h

theorem Answers.execLoop {imm : BitVec 13} {a : Src} {l : BitVec 2} {s : State} (h : Inv s) : Answers (execLoop imm a l s) := by
  unfold Machine.execLoop
  refine .runM (.bind .gate fun _ => .bind .readS fun _ => ?_) h
  split
  · exact .jumpTo
  · exact .bind .readSrc fun _ => .bind .readT fun _ => .bind .require fun _ => .jumpTo

theorem Answers.execRep {sb sa sd : BitVec 3} {c : Src} {s : State} (h : Inv s) : Answers (execRep sb sa sd c s) := by
  unfold Machine.execRep
  refine .runM (.bind .gate fun _ => .bind .repChecks fun _ => .bind .readS fun _ => ?_) h
  extract_lets _ jp
  have hjp : ∀ r, Keeps (jp r) := fun _ => .bind .readT fun _ => .ite (.bind (.modS fun _ h1 => .finish h1) fun _ =>
    .afterInstr) (.bind .repRange fun _ => .bind .gatePorts fun _ => .bind .require fun _ => .modT)
  clear_value jp
  split
  · exact .bind .pure fun _ => hjp _
  · exact .bind .readSrc fun _ => hjp _

theorem Answers.execNop {s : State} (h : Inv s) : Answers (execNop s) := .runM (.bind .gate fun _ => .retire) h

theorem Answers.execEret {s : State} (h : Inv s) : Answers (execEret s) := by
  unfold Machine.execEret
  refine .runM (.bind .gate fun _ => .get fun _ _ => .bind .require fun _ => .bind .require fun _ => .bind .modT fun _ =>
    .bind (.modS fun _ h2 => .reform h2) fun _ => .guard (.modS fun _ h2 => .stageRest h2) fun _ => .bind .readT fun _ => ?_) h
  split
  · exact .trapAs
  · exact .pure

theorem Answers.execIfence {s : State} (h : Inv s) : Answers (execIfence s) := .runM (.bind .gate fun _ => .retire) h

theorem Answers.execBrkpt {s : State} (h : Inv s) : Answers (execBrkpt s) := .runM (.bind .gate fun _ => .trapNow) h

theorem Answers.execHalt {s : State} (h : Inv s) : Answers (execHalt s) :=
  .runM (.bind .gate fun _ => .bind .readT fun _ => .bind .require fun _ => .bind (.modS fun _ h1 =>
    .haltStop (.complete h1)) fun _ => .afterInstr) h

theorem Answers.execCsrr {c : BitVec 11} {d : Code} {s : State} (h : Inv s) : Answers (execCsrr c d s) :=
  .runM (.bind .gate fun _ => .get fun _ _ => .bind .writeD fun _ => .retireWith) h

theorem Answers.execAcq {s : State} (h : Inv s) : Answers (execAcq s) :=
  .runM (.bind .gate fun _ => .bind .acquire fun _ => .retire) h

theorem Answers.execRel {s : State} (h : Inv s) : Answers (execRel s) :=
  .runM (.bind .gate fun _ => .bind .release fun _ => .retire) h

theorem Answers.execFence {s : State} (h : Inv s) : Answers (execFence s) :=
  .runM (.bind .gate fun _ => .bind .release fun _ => .bind .acquire fun _ => .retire) h

theorem Answers.execCVzero {vd : BitVec 5} {s : State} (h : Inv s) : Answers (execCVzero vd s) :=
  .runM (.bind .gate fun _ => .bind .readT fun _ => .bind .writeVec fun _ => .retire) h

theorem Answers.execVcmp {c : BitVec 3} {b a : Src} {k : BitVec 3} {s : State} (h : Inv s) : Answers (execVcmp c b a k s) :=
  .runM (.bind .gate fun _ => .whole (.bind .readT fun _ => .bind .typeFor fun _ => .bind .require fun _ =>
    .bind .touchFields fun _ => .bind .readElems fun _ => .bind .readElems fun _ => .bind .raiseFlags fun _ =>
    .bind .writeK fun _ => .bind .moveFields fun _ => .retire)) h

theorem Answers.execVsel {k : BitVec 3} {b a : Src} {d : Code} {s : State} (h : Inv s) : Answers (execVsel k b a d s) :=
  .runM (.wholeVec (fun _ _ _ => .pure) fun _ _ _ => .bind .readK fun _ => .pure) h

theorem Answers.execVbcast {a : Src} {d : Code} {s : State} (h : Inv s) : Answers (execVbcast a d s) :=
  .runM (.bind .gate fun _ => .whole (.bind .readT fun _ => .bind .typeFor fun _ => .bind .touchFields fun _ =>
    .bind .readSrc fun _ => .bind .writeVec fun _ => .bind .moveFields fun _ => .retire)) h

theorem Answers.execVext {b a : Src} {d : Code} {s : State} (h : Inv s) : Answers (execVext b a d s) :=
  .runM (.bind .gate fun _ => .whole (.bind .readT fun _ => .bind .typeFor fun _ => .bind .touchFields fun _ =>
    .bind .readSrc fun _ => .bind .readElems fun _ => .bind .writeD fun _ => .bind .moveFields fun _ => .retire)) h

theorem Answers.execVins {b a : Src} {d : Code} {s : State} (h : Inv s) : Answers (execVins b a d s) :=
  .runM (.bind .gate fun _ => .whole (.bind .readT fun _ => .bind .typeFor fun _ => .bind .touchFields fun _ =>
    .bind .readSrc fun _ => .bind .readSrc fun _ => .bind .writeVec fun _ => .bind .moveFields fun _ => .retire)) h

theorem Answers.execVperm {b a : Src} {d : Code} {s : State} (h : Inv s) : Answers (execVperm b a d s) :=
  .runM (.wholeVec (fun _ _ _ => .pure) fun _ _ _ => .pure) h

theorem Answers.execVslide {b a : Src} {d : Code} {s : State} (h : Inv s) : Answers (execVslide b a d s) :=
  .runM (.wholeVec (fun _ _ _ => .bind .readSrc fun _ => .pure) fun _ _ _ => .bind .readSrc fun _ => .pure) h

theorem Answers.execVcvt {q : BitVec 3} {t : BitVec 4} {a : Src} {d : Code} {s : State} (h : Inv s) :
    Answers (execVcvt q t a d s) :=
  .runM (.bind .gate fun _ => .whole (.bind .readT fun _ => .bind .require fun _ => .ite (.bind .typeFor fun _ =>
    .bind .touchFields fun _ => .bind .readElems fun _ => .bind .raiseFlags fun _ => .bind .writeVec fun _ =>
    .bind .moveFields fun _ => .retire) (.bind .typeFor fun _ => .shapedStep))) h

theorem Answers.execVqnt {q : BitVec 3} {b a : Src} {d : Code} {s : State} (h : Inv s) : Answers (execVqnt q b a d s) :=
  .runM (.bind .gate fun _ => .whole (.bind .readT fun _ => .bind .typeFor fun _ => .bind .readSrc fun _ =>
    .ite (.bind .touchFields fun _ => .bind .readElems fun _ => .bind .raiseFlags fun _ => .bind .writeVec fun _ =>
    .bind .modT fun _ => .bind .moveFields fun _ => .retire) (.bind .require fun _ => .shapedStep))) h

theorem Answers.execVdq {q : BitVec 3} {b a : Src} {d : Code} {s : State} (h : Inv s) : Answers (execVdq q b a d s) :=
  .runM (.bind .gate fun _ => .whole (.bind .readT fun _ => .bind .readSrc fun _ => .ite (.bind .typeFor fun _ =>
    .bind .touchFields fun _ => .bind .readElems fun _ => .bind .raiseFlags fun _ => .bind .writeVec fun _ =>
    .bind .moveFields fun _ => .retire) (.bind .typeFor fun _ => .shapedStep))) h

theorem Answers.execVrowmax {a : Src} {d : Code} {s : State} (h : Inv s) : Answers (execVrowmax a d s) := by
  unfold Machine.execVrowmax
  refine .runM (.bind .gate fun _ => .whole (.bind .readT fun _ => .bind .typeFor fun _ => .bind .readS fun _ => ?_)) h
  split
  · exact .trapOpen
  · exact .bind .readS fun _ => .guard .trapOpen fun _ => .bind .activeElems fun _ => .bind .raiseFlags fun _ =>
      .bind .readS fun _ => .bind .modT fun _ => .guard (.modS fun _ h1 => .same h1) fun _ => .retire

theorem Answers.execVxadd {b a : Src} {s : State} (h : Inv s) : Answers (execVxadd b a s) := by
  unfold Machine.execVxadd
  refine .runM (.bind .gate fun _ => .whole (.bind .readSrc fun _ => .bind .readT fun _ => .bind .readElems fun _ =>
    .bind .accumulator fun _ => .bind .watch fun _ => ?_)) h
  extract_lets _ jp
  have hjp : ∀ r, Keeps (jp r) := fun _ => .retire
  clear_value jp
  exact .ite (.bind .raiseFlags fun _ => hjp _) (.bind .readS fun _ => .bind .writeWords fun _ => .bind (.modS fun _ h1 =>
    .bankArrive h1) fun _ => hjp _)

theorem Answers.execVxrd {a : Src} {d : Code} {s : State} (h : Inv s) : Answers (execVxrd a d s) := by
  unfold Machine.execVxrd
  refine .runM (.bind .gate fun _ => .whole (.bind .readSrc fun _ => .bind .accumulator fun _ => .bind .watch ?_)) h
  intro _
  refine .bind ?_ ?_
  · exact .readT
  intro _
  refine .bind ?_ ?_
  · exact .readS
  intro _
  split
  exact .bind .raiseFlags fun _ => .bind (.modS fun _ hy => .bankArrive hy) fun _ => .bind .writeD fun _ => .retire

theorem Answers.execVxclr {a : Src} {s : State} (h : Inv s) : Answers (execVxclr a s) :=
  .runM (.bind .gate fun _ => .whole (.bind .readSrc fun _ => .bind .accumulator fun _ => .bind .watch fun _ =>
    .bind (.modS fun _ h1 => .bankArrive (.writeFor h1)) fun _ => .retire)) h

theorem Answers.execShpld {q : BitVec 3} {a : Src} {s : State} (h : Inv s) : Answers (execShpld q a s) :=
  .runM (.bind .gate fun _ => .whole (.bind .readSrc fun _ => .bind .resolveMem fun _ => .bind .readPlain fun _ =>
    .bind .require fun _ => .bind .modT fun _ => .retire)) h

theorem Answers.execShpst {q : BitVec 3} {a : Src} {s : State} (h : Inv s) : Answers (execShpst q a s) :=
  .runM (.bind .gate fun _ => .whole (.bind .readSrc fun _ => .bind .resolveMem fun _ => .bind .readT fun _ =>
    .bind .writePlain fun _ => .retire)) h

theorem Answers.execHbind {b a : Src} {d : Code} {s : State} (h : Inv s) : Answers (execHbind b a d s) :=
  .runM (.bind .handleGate fun _ => .whole (.bind .readSrc fun _ => .bind .readSrc fun _ => .bind .readT fun _ =>
    .bind .require fun _ => .bind .require fun _ => .bind .findObjectAs fun _ => .get fun _ _ => .bind .require fun _ =>
    .bind .require fun _ => .bind .require fun _ => .bind .require fun _ => .guard .trapNow fun _ => .bind (.modS fun _ h2 =>
    .setTable (.setObj h2)) fun _ => .bind .modT fun _ => .retire)) h

theorem Answers.execHstat {a d : Code} {s : State} (h : Inv s) : Answers (execHstat a d s) :=
  .runM (.bind .handleGate fun _ => .whole (.bind .boundHandle fun _ => .bind .handleRing fun _ => .bind .arrived fun _ =>
    .bind .readS fun _ => .bind .writeD fun _ => .retire)) h

theorem Answers.execHunbind {d : Code} {s : State} (h : Inv s) : Answers (execHunbind d s) :=
  .runM (.bind .handleGate fun _ => .whole (.bind .boundHandle fun _ => .bind .readS fun _ => .guard .trapNow fun _ =>
    .bind .handleRing fun _ => .get fun _ _ => .bind .require fun _ => .bind (.modS fun _ h2 =>
    .setTable (.setObj h2)) fun _ => .bind .modT fun _ => .retire)) h

theorem Answers.execTld {t : BitVec 4} {a : Src} {y : BitVec 5} {x : Src} {s : State} (h : Inv s) : Answers (execTld t a y x s) :=
  .runM (.bind .gate fun _ => .bind .readSrc fun _ => .bind .readSrc fun _ => .bind .readTcfg fun _ => .bind .mcfg fun _ =>
    .bind .matDone fun _ => .bind .mcfg fun _ => .issueJob) h

theorem Answers.execTzero {t : BitVec 4} {y : BitVec 5} {s : State} (h : Inv s) : Answers (execTzero t y s) :=
  .runM (.bind .gate fun _ => .bind .readTcfg fun _ => .bind .mcfg fun _ => .bind .matDone fun _ => .issueJob) h

theorem Answers.execAcz {a : Src} {y : BitVec 5} {s : State} (h : Inv s) : Answers (execAcz a y s) :=
  .runM (.bind .gate fun _ => .bind .readSrc fun _ => .bind .mcfg fun _ => .bind .matDone fun _ => .issueJob) h

theorem Answers.execAcrd {a : Src} {y : BitVec 5} {x : Src} {s : State} (h : Inv s) : Answers (execAcrd a y x s) :=
  .runM (.bind .gate fun _ => .bind .readSrc fun _ => .bind .readSrc fun _ => .bind .mcfg fun _ => .bind .mcfg fun _ =>
    .bind .matDone fun _ => .bind .readT fun _ => .bind .mcfg fun _ => .issueJob) h

theorem Answers.execAcwr {a : Src} {y : BitVec 5} {x : Src} {s : State} (h : Inv s) : Answers (execAcwr a y x s) :=
  .runM (.bind .gate fun _ => .bind .readSrc fun _ => .bind .readSrc fun _ => .bind .mcfg fun _ => .bind .mcfg fun _ =>
    .bind .matDone fun _ => .issueJob) h

theorem Answers.execJpoll {a : Src} {x : Code} {s : State} (h : Inv s) : Answers (execJpoll a x s) :=
  .runM (.bind .gate fun _ => .bind .readSrc fun _ => .bind .readS fun _ => .bind .writeD fun _ => .retire) h

theorem Answers.execJwait {a : Src} {s : State} (h : Inv s) : Answers (execJwait a s) := by
  unfold Machine.execJwait
  refine .runM (.bind .gate fun _ => .bind .readSrc fun _ => .bind .notInTransfer fun _ => .get fun _ _ =>
    .bind .require fun _ => ?_) h
  split
  · exact .bind .acquire fun _ => .retire
  · extract_lets _ jp
    have hjp : ∀ r, Keeps (jp r) := fun _ => .waitOn
    clear_value jp
    split
    · exact .ite (.bind .trapOpen fun _ => hjp _) (hjp _)
    · exact hjp _

theorem Answers.execCxrd {a : Src} {d : Code} {s : State} (h : Inv s) : Answers (execCxrd a d s) := by
  unfold Machine.execCxrd
  refine .runM (.bind .gate fun _ => .bind .readSrc fun _ => .get fun _ _ => ?_) h
  split
  · exact .trapNow
  · split
    · exact .bind .writeD fun _ => .retire
    · exact .trapNow

theorem Answers.execBurst {b a d : Src} {s : State} (h : Inv s) : Answers (execBurst b a d s) := by
  unfold Machine.execBurst
  refine .runM (.bind .gate fun _ => .bind .readSrc fun _ => .bind .readSrc fun _ => .bind .readSrc fun _ => .get fun _ _ => ?_) h
  split
  · exact .trapNow
  · refine .guard₂ (.modS fun _ h2 => .holdRunning h2) .stayNow fun _ => .guard .endWith fun _ => .bind .burstKeys fun _ => ?_
    extract_lets _ _ jp
    have hjp : ∀ r, Keeps (jp r) := fun _ => .get fun _ _ => .guard₂ (.modS fun _ h3 => .logAccess h3) .trapNow fun _ =>
      .bind (.modS fun _ h3 => .ite (.send (.unrepeatable h3)) (.scatterBytes h3)) fun _ => .bind (.modS fun _ h3 =>
      .modCopy h3) fun _ => .bind (.modS fun _ h3 => .ite (.push h3) (.ite (.push h3) h3)) fun _ => .retire
    clear_value jp
    exact .ite (.bind .pure fun _ => hjp _) (.bind .burstKeys fun _ => hjp _)

theorem Answers.execCxdone {a : Src} {s : State} (h : Inv s) : Answers (execCxdone a s) := by
  unfold Machine.execCxdone
  refine .runM (.bind .gate fun _ => .bind .readSrc fun _ => .get fun _ _ => ?_) h
  split
  · exact .trapNow
  · exact .guard .endWith fun _ => .endWith

theorem Answers.execSubscr {a d : Code} {s : State} (h : Inv s) : Answers (execSubscr a d s) := by
  unfold Machine.execSubscr
  refine .runM (.bind .handleGate fun _ => .whole (.bind .readT fun _ => .bind .require fun _ => .bind .readS fun _ =>
    .guard .trapNow fun _ => .bind .require fun _ => .bind .handleRing fun _ => .get fun _ _ => .bind .require fun _ =>
    .bind .require fun _ => .bind .release fun _ => ?_)) h
  extract_lets _ jp
  have hjp : ∀ r, Keeps (jp r) := fun _ => .retire
  clear_value jp
  exact .ite (hjp _) (.bind (.modS fun _ h2 => .nextSlot (.same (.setObj h2))) fun _ => hjp _)

theorem Answers.execUnsub {d : Code} {s : State} (h : Inv s) : Answers (execUnsub d s) := by
  unfold Machine.execUnsub
  refine .runM (.bind .handleGate fun _ => .bind .readT fun _ => .bind .readS fun _ => ?_) h
  split
  · exact .bind .acquire fun _ => .retire
  · exact .trapNow
  · exact .bind .require fun _ => .bind .release fun _ => .bind (.modS fun _ h1 => .modSub h1) fun _ => .waitOn

theorem Answers.execTagwany {a : Src} {d : Code} {s : State} (h : Inv s) : Answers (execTagwany a d s) :=
  .runM (.bind .tagWait fun _ => .bind .writeD fun _ => .retire) h

theorem Answers.execTagwall {a : Src} {d : Code} {s : State} (h : Inv s) : Answers (execTagwall a d s) :=
  .runM (.bind .tagWait fun _ => .bind .writeD fun _ => .retire) h

theorem Answers.execTagff {a : Src} {d : Code} {s : State} (h : Inv s) : Answers (execTagff a d s) :=
  .runM (.bind .tagWait fun _ => .bind .modT fun _ => .bind .writeD fun _ => .retire) h

theorem Answers.execTagclr {a : Src} {s : State} (h : Inv s) : Answers (execTagclr a s) :=
  .runM (.bind .gate fun _ => .bind .readSrc fun _ => .bind .modT fun _ => .retire) h

theorem Answers.execTagrd {d : Code} {s : State} (h : Inv s) : Answers (execTagrd d s) :=
  .runM (.bind .gate fun _ => .bind .readT fun _ => .bind .writeD fun _ => .retire) h

theorem Answers.execObnew {b a : Src} {d : Code} {s : State} (h : Inv s) : Answers (execObnew b a d s) := by
  unfold Machine.execObnew
  refine .runM (.shared (.bind .readSrc fun _ => .bind .readSrc fun _ => .bind .findObject fun _ => .bind .require fun _ =>
    .bind .require fun _ => .bind .rankSpec fun _ => .get fun _ _ => ?_)) h
  extract_lets _ _ duty _ _ jp
  have hjp : ∀ r, Keeps (jp r) := by
    intro _
    refine .bind .release fun _ => .bind (.modS fun _ hy => ?_) fun _ => .pure
    clear_value duty
    split
    · exact .setTable (.placeObj hy)
    · exact .placeObj hy
  clear_value duty jp
  split
  · exact .guard .trapNow fun _ => .guard .trapNow fun _ => hjp _
  · exact hjp _

theorem Answers.execObdel {a : Src} {s : State} (h : Inv s) : Answers (execObdel a s) := by
  unfold Machine.execObdel
  refine .runM (.shared (.bind .readSrc fun _ => .bind .findKind fun _ => .get fun _ _ => .bind .require fun _ =>
    .bind .release fun _ => .bind (.modS fun _ h2 => ?_) fun _ => .pure)) h
  extract_lets s3
  have h3 : Inv s3 := .setObj (.dropPendings h2)
  exact .ite (.readyOn h3) h3

theorem Answers.execArrive {a : Src} {s : State} (h : Inv s) : Answers (execArrive a s) := .runM (.arriveOn nofun) h

theorem Answers.execArriveLeave {a : Src} {s : State} (h : Inv s) : Answers (execArriveLeave a s) := .runM (.arriveOn nofun) h

theorem Answers.execArriveb {b a : Src} {s : State} (h : Inv s) : Answers (execArriveb b a s) :=
  .runM (.arriveOn fun _ e => Option.some.inj e ▸ .readSrc) h

theorem Answers.execWait {a : Src} {d : Code} {s : State} (h : Inv s) : Answers (execWait a d s) :=
  .runM (.shared (.bind .notInTransfer fun _ => .bind .readSrc fun _ => .bind .findWhere fun _ => .get fun _ _ =>
    .bind .require fun _ => .bind .arrived fun _ => .ite (.bind .acquire fun _ => .pure) .waitListed)) h

theorem Answers.execSignal {b a : Src} {s : State} (h : Inv s) : Answers (execSignal b a s) := by
  unfold Machine.execSignal
  refine .runM (.shared (.bind .readSrc fun _ => .bind .readSrc fun _ => .bind .findDischarge fun _ => .get fun _ h1 => ?_)) h
  extract_lets _ jp1 needs jp
  have hjp1 : ∀ r, Keeps (jp1 r) := fun _ => .pure
  clear_value needs jp1
  have hjp : ∀ r, Keeps (jp r) := fun _ => .bind .release fun _ => .bind (.modS fun _ hy => .addCount hy) fun _ => hjp1 _
  clear_value jp
  refine .ite ?_ ?_
  · split
    · exact .bind .trapNow fun _ => hjp1 _
    · exact .bind (.modS fun _ hy => .updateDuty hy) fun _ => hjp1 _
  · split
    · split
      · exact .bind .trapNow fun _ => hjp _
      · next e => exact .bind (.set (h1.discharge e)) fun _ => hjp _
    · exact hjp _

theorem Answers.execLock {a : Src} {d : Code} {s : State} (h : Inv s) : Answers (execLock a d s) :=
  .runM (.shared (.bind .notInTransfer fun _ => .bind .readSrc fun _ => .bind .findKind fun _ => .get fun _ _ =>
    .bind .require fun _ => .ite (.bind .arrived fun _ => .bind .acquire fun _ => .pure) (.guard .trapNow fun _ =>
    .ite (.bind (.modS fun _ h2 => .setTable (.setObj h2)) fun _ => .bind .acquire fun _ => .pure) (.bind .arrived fun _ =>
    .waitListed)))) h

theorem Answers.execUnlock {a : Src} {s : State} (h : Inv s) : Answers (execUnlock a s) := by
  unfold Machine.execUnlock
  refine .runM (.shared (.bind .readSrc fun _ => .bind .findDischarge fun _ => .get fun _ _ => ?_)) h
  extract_lets _ jp
  have hjp : ∀ r, Keeps (jp r) := fun _ => .pure
  clear_value jp
  split
  · exact .bind .trapNow fun _ => hjp _
  · refine .bind .release fun _ => .bind (.modS fun _ h2 => ?_) fun _ => hjp _
    extract_lets s3
    have h3 : Inv s3 := .updateDuty h2
    exact .ite h3 (.passLock h3)

theorem Answers.execObxfer {b a d : Src} {s : State} (h : Inv s) : Answers (execObxfer b a d s) := by
  unfold Machine.execObxfer
  refine .runM (.shared (.bind .readSrc fun _ => .bind .readSrc fun _ => .bind .readSrc fun _ => .bind .findKind fun _ =>
    .bind .arrived fun _ => ?_)) h
  extract_lets _ jp
  have hjp : ∀ r, Keeps (jp r) := fun _ => .pure
  clear_value jp
  split
  · exact .bind .trapNow fun _ => hjp _
  · refine .bind .require fun _ => .get fun _ _ => ?_
    extract_lets _ _
    split
    · exact .bind .trapNow fun _ => hjp _
    · refine .bind .require fun _ => ?_
      split
      · exact .bind .trapNow fun _ => hjp _
      · refine .bind .require fun _ => .guard .trapNow fun _ => .guard .trapNow fun _ => ?_
        extract_lets _ jp
        have hjp1 : ∀ r, Keeps (jp r) := fun _ => .bind .release fun _ => .bind (.modS fun _ h2 =>
          .handLocks (.setSliceTable (.setTable (.unrepeatable h2)))) fun _ => hjp _
        clear_value jp
        split
        · split
          · exact .bind .trapNow fun _ => hjp1 _
          · exact .bind .trapOpen fun _ => hjp1 _
        · exact hjp1 _

theorem Answers.execObrd {b a : Src} {d : Code} {s : State} (h : Inv s) : Answers (execObrd b a d s) :=
  .runM (.shared (.bind .readSrc fun _ => .bind .readSrc fun _ => .bind .findKind fun _ => .bind .require fun _ =>
    .bind .arrived fun _ => .readS)) h

theorem Answers.execRankof {a : Src} {d : Code} {s : State} (h : Inv s) : Answers (execRankof a d s) :=
  .runM (.shared (.bind .readSrc fun _ => .bind .findKind fun _ => .bind .arrived fun _ => .pure)) h

theorem Answers.execSpawn {a : Src} {d : Code} {s : State} (h : Inv s) : Answers (execSpawn a d s) := by
  unfold Machine.execSpawn
  refine .runM (.shared (.bind .readSrc fun _ => .bind .readRecord fun _ => .bind .checkRecord fun _ => .get fun _ h1 =>
    .bind .require fun _ => .bind .release fun _ => ?_)) h
  split
  rename_i e
  have h11 := (Inv.pushSlice (.setTable (.unrepeatable h1))).of_eq e
  refine .bind (.set h11) fun _ => ?_
  extract_lets jp
  have hjp : ∀ r, Keeps (jp r) := fun _ => .pure
  clear_value jp
  split
  · next e => exact .bind (.set (.writeHome ((Inv.tryResolve h11).of_eq e))) fun _ => hjp _
  · exact hjp _

theorem Answers.execExit {s : State} (h : Inv s) : Answers (execExit s) := by
  unfold Machine.execExit
  refine .runM (.bind .gate fun _ => .get fun _ _ => ?_) h
  extract_lets _ jp
  have hjp : ∀ r, Keeps (jp r) := fun _ => .bind .release fun _ => .modS fun _ h2 => .exitSlice h2
  clear_value jp
  split
  · extract_lets jp
    have hjp1 : ∀ r, Keeps (jp r) := by
      intro _
      unfold jp
      refine .bind .release fun _ => .modS fun _ h2 => ?_
      extract_lets s3
      have h3 : Inv s3 := .endMember (.complete h2)
      exact .ite (.exitSlice h3) h3
    clear_value jp
    refine .ite (.bind .notInTransfer fun _ => ?_) (hjp1 _)
    split
    · exact .bind .trapNow fun _ => hjp1 _
    · exact hjp1 _
  · refine .bind .notInTransfer fun _ => ?_
    split
    · exact .bind .trapNow fun _ => hjp _
    · exact hjp _

theorem Answers.execYield {s : State} (h : Inv s) : Answers (execYield s) := by
  unfold Machine.execYield
  refine .runM (.bind .gate fun _ => .bind .readS fun _ => ?_) h
  split
  · exact .retire
  · refine .bind .notInTransfer fun _ => .bind .release fun _ => .modS fun _ h1 => ?_
    extract_lets _ _ s2
    have h2 : Inv s2 := .afterTaken (.complete h1)
    split
    · exact .ite (.leave h2) h2
    · exact h2

theorem Answers.execMsgsend {a : Src} {s : State} (h : Inv s) : Answers (execMsgsend a s) :=
  .runM (.shared (.bind .readSrc fun _ => .bind .readMessage fun _ => .ite (.bind .sendMessage fun _ =>
    .pure) (.bind .localMessage fun _ => .pure))) h

theorem Answers.execTtarm {a : Src} {d : Code} {s : State} (h : Inv s) : Answers (execTtarm a d s) :=
  .runM (.shared (.bind .readSrc fun _ => .bind .readRecord fun _ => .bind .checkRecord fun _ => .bind .release fun _ =>
    .get fun _ _ => .bind (.modS fun _ h2 => .modCluster (.setTable (.unrepeatable h2))) fun _ => .guard (.modS fun _ h2 =>
    .fireEntry h2) fun _ => .pure)) h

theorem Answers.execWstart {a : Src} {s : State} (h : Inv s) : Answers (execWstart a s) := by
  unfold Machine.execWstart
  refine .runM (.bind .gate fun _ => .bind .readS fun _ => .ite .retire (.bind .readSrc fun _ => .get fun _ _ =>
    .get fun _ _ => ?_)) h
  split
  · exact .trapNow
  · exact .bind .require fun _ => .bind (.modS fun _ h3 => .formGang h3) fun _ => .retire

theorem Answers.execWend {s : State} (h : Inv s) : Answers (execWend s) := by
  unfold Machine.execWend
  refine .runM (.bind .gate fun _ => .get fun _ _ => .get fun _ _ => ?_) h
  split
  · exact .trapOpen
  · refine .bind (.modS fun _ h3 => ?_) fun _ => .afterInstr
    extract_lets s4
    have h4 : Inv s4 := .endMember (.complete h3)
    exact .ite (.dissolve h4) h4

theorem Answers.execWpos {d : Code} {s : State} (h : Inv s) : Answers (execWpos d s) :=
  .runM (.bind .gate fun _ => .bind .readT fun _ => .bind .writeD fun _ => .retire) h

theorem Answers.execSync {a : Src} {d : Code} {s : State} (h : Inv s) : Answers (execSync a d s) := by
  unfold Machine.execSync
  refine .runM (.shared (.bind .readSrc fun _ => .get fun _ _ => ?_)) h
  extract_lets _ _ _
  split
  · exact .trapNow
  · exact .bind .require fun _ => .bind .require fun _ => .bind .require fun _ => .bind .release fun _ =>
      .ite (.bind .acquire fun _ => .pure) (.bind .modT fun _ => .bind (.modS fun _ h2 => .tryDomain h2) fun _ => .stayNow)

theorem Answers.execXmit {b : Src} {a : Code} {s : State} (h : Inv s) : Answers (execXmit b a s) := by
  unfold Machine.execXmit
  refine .runM (.bind .gate fun _ => .bind .readSrc fun _ => .bind .readV fun _ => .bind .require fun _ =>
    .bind .inTransfer fun _ => .get fun _ _ => ?_) h
  extract_lets _ _ jp
  have hjp : ∀ r, Keeps (jp r) := fun _ => .bind (.modS fun _ h2 => .modDomain h2) fun _ => .trapNow
  clear_value jp
  exact .ite (hjp _) (.ite (hjp _) (.ite (.bind (.modS fun _ h2 => .sendOn h2) fun _ => .retire) (.bind .modT fun _ =>
    .bind (.modS fun _ h2 => .push h2) fun _ => .waitOn)))

theorem Answers.execXrecv {b : Src} {d : Code} {s : State} (h : Inv s) : Answers (execXrecv b d s) :=
  .runM (.bind .gate fun _ => .bind .readSrc fun _ => .bind .require fun _ => .bind .inTransfer fun _ => .get fun _ _ =>
    .ite (.bind .modT fun _ => .retire) (.bind .modT fun _ => .bind (.modS fun _ h2 => .push h2) fun _ => .waitOn)) h

theorem Answers.execMuxsel {a : Src} {s : State} (h : Inv s) : Answers (execMuxsel a s) :=
  .runM (.bind .gate fun _ => .bind .readSrc fun _ => .bind .inTransfer fun _ => .bind .require fun _ =>
    .bind (.modS fun _ h1 => .modCluster h1) fun _ => .retire) h

theorem Answers.execRst {m : Bool} {sz : BitVec 2} {b a : Src} {d : Code} {s : State} (h : Inv s) :
    Answers (execRst m sz b a d s) := by
  unfold Machine.execRst
  refine .runM (.bind .gate fun _ => .bind .readSrc fun _ => .bind .readSrc fun _ => ?_) h
  extract_lets _ jp
  have hjp : ∀ r, Keeps (jp r) := fun _ => .ite .retire (.get fun _ _ => .remoteIssue)
  clear_value jp
  exact .ite (.bind .readDest fun _ => hjp _) (.bind .pure fun _ => hjp _)

theorem Answers.execSflush {a : Src} {s : State} (h : Inv s) : Answers (execSflush a s) :=
  .runM (.bind .gate fun _ => .bind .readSrc fun _ => .bind .require fun _ => .get fun _ _ => .bind .require fun _ =>
    .bind (.modS fun _ h2 => .flushDest h2) fun _ => .retire) h

theorem Answers.execSflusha {s : State} (h : Inv s) : Answers (execSflusha s) :=
  .runM (.bind .gate fun _ => .bind (.modS fun _ h1 => .flushFor h1) fun _ => .retire) h

theorem Answers.execFencef {d : Code} {s : State} (h : Inv s) : Answers (execFencef d s) :=
  .runM (.bind .gate fun _ => .bind .notInTransfer fun _ => .bind (.modS fun _ h1 => .flushFor h1) fun _ => .get fun _ _ =>
    .guard .waitOn fun _ => .bind .acquire fun _ => .bind .writeD fun _ => .retire) h

theorem Answers.execFerr {d : Code} {s : State} (h : Inv s) : Answers (execFerr d s) :=
  .runM (.bind .gate fun _ => .bind .readS fun _ => .bind (.modS fun _ h1 => .modCtx h1) fun _ => .bind .writeD fun _ =>
    .retire) h

theorem Answers.execPgcommit {a : Src} {d : Code} {s : State} (h : Inv s) : Answers (execPgcommit a d s) := by
  unfold Machine.execPgcommit
  refine .runM (.bind .gate fun _ => .bind .notInTransfer fun _ => .bind .readSrc fun _ => .bind .release fun _ =>
    .bind .walkToPage fun _ => ?_) h
  extract_lets jp
  have hjp : ∀ r, Keeps (jp r) := fun _ => .bind .writeD fun _ => .retire
  clear_value jp
  split
  · exact .bind .pure fun _ => hjp _
  · refine .get fun _ _ => .ite (.bind .pure fun _ => hjp _) (.bind .require fun _ => .bind .require fun _ => ?_)
    extract_lets _
    split
    · exact .bind .pure fun _ => hjp _
    · exact .bind (.modS fun _ h2 => .commitPage h2) fun _ => .bind .pure fun _ => hjp _

theorem Answers.execPgfree {a : Src} {d : Code} {s : State} (h : Inv s) : Answers (execPgfree a d s) := by
  unfold Machine.execPgfree
  refine .runM (.bind .gate fun _ => .bind .notInTransfer fun _ => .bind .readSrc fun _ => .bind .release fun _ =>
    .bind .walkToPage fun _ => ?_) h
  extract_lets jp
  have hjp : ∀ r, Keeps (jp r) := fun _ => .bind .writeD fun _ => .retire
  clear_value jp
  split
  · exact .bind .trapNow fun _ => hjp _
  · exact .get fun _ _ => .ite (.bind .require fun _ => .bind .pure fun _ => hjp _) (.bind .require fun _ =>
      .bind .require fun _ => .guard .refuseWalk fun _ => .bind (.modS fun _ h2 => .freePage h2) fun _ => .bind .pure fun _ =>
      hjp _)

theorem Answers.execTlbinv {b a : Src} {s : State} (h : Inv s) : Answers (execTlbinv b a s) :=
  .runM (.bind .gate fun _ => .bind .notInTransfer fun _ => .bind .readSrc fun _ => .bind .readSrc fun _ =>
    .bind .require fun _ => .get fun _ _ => .bind .require fun _ => .bind .require fun _ => .bind .release fun _ =>
    .bind (.modS fun _ h2 => .invalidate h2) fun _ => .bind .acquire fun _ => .retire) h

theorem Answers.execAddrq {a : Src} {d : Code} {s : State} (h : Inv s) : Answers (execAddrq a d s) :=
  .runM (.bind .gate fun _ => .bind .notInTransfer fun _ => .bind .readSrc fun _ => .bind .readS fun _ =>
    .bind .writeD fun _ => .retire) h

theorem Answers.execPadcfgChange {s : State} (h : Inv s) : Answers (execPadcfgChange s) :=
  .runM (.event fun _ h1 => .ite (.changePadcfg h1) h1) h

theorem Answers.execRegisterWrite {s : State} (h : Inv s) : Answers (execRegisterWrite s) := by
  unfold Machine.execRegisterWrite
  refine .runM (.event fun _ h1 => ?_) h
  extract_lets _ _
  refine .asCtx h1 fun _ hy => ?_
  extract_lets _
  exact .ite (.csrStore hy) hy

theorem Answers.execFeTimeout {s : State} (h : Inv s) : Answers (execFeTimeout s) := by
  unfold Machine.execFeTimeout
  refine .runM (.get fun _ _ => ?_) h
  split
  · exact .pure
  · refine .get fun _ _ => ?_
    extract_lets _
    split
    · exact .pure
    · refine .guard .notYet fun _ => .modS fun _ h3 => ?_
      extract_lets s4
      have h4 : Inv s4 := .same h3
      exact .ite (.answer h4) (.feFinish h4)

theorem Answers.execFeResend {s : State} (h : Inv s) : Answers (execFeResend s) := by
  unfold Machine.execFeResend
  refine .runM (.get fun _ _ => ?_) h
  split
  · exact .pure
  · refine .get fun _ _ => ?_
    extract_lets _
    split
    · exact .pure
    · refine .guard .notYet fun _ => .modS fun _ h3 => ?_
      extract_lets s4
      have h4 : Inv s4 := .same h3
      split
      · next e => exact Inv.feTry h4 e
      · exact .fePark h4

theorem Answers.execRemoteFeRequest {s : State} (h : Inv s) : Answers (execRemoteFeRequest s) := by
  unfold Machine.execRemoteFeRequest
  refine .runM (.get fun _ h1 => ?_) h
  split
  · exact .pure
  · refine .ite ?_ (.guard .holdSource fun _ => .modS fun _ h2 => ?_)
    · split
      · exact .set (.answer (.same h1))
      · exact .pure
    · extract_lets _ _
      refine .ite (.answer h2) ?_
      split
      · next e => exact .answer ((Inv.targetFind h2).of_eq e)
      · rename_i e
        have h11 := (Inv.targetFind h2).of_eq e
        refine .ite (.answer h11) ?_
        split
        · next e => exact Inv.feTry h11 e
        · exact .fePark h11

theorem Answers.execMatrixJobAdmission {s : State} (h : Inv s) : Answers (execMatrixJobAdmission s) := by
  unfold Machine.execMatrixJobAdmission
  refine .runM (.event fun _ h1 => ?_) h
  extract_lets _
  refine .ite h1 ?_
  split
  · exact .moreOffers (.ite (.pushTurn (.eventFor h1 fun _ hy => .afterTaken (.complete (.admitJob hy)))) (.modCluster h1))
  · exact h1

theorem Answers.execMatrixJobStart {s : State} (h : Inv s) : Answers (execMatrixJobStart s) := by
  unfold Machine.execMatrixJobStart
  refine .runM (.get fun _ _ => ?_) h
  extract_lets _
  split
  · exact .pure
  · exact .ite .pure (.ite .notYet (.modS fun _ h2 => .push (.modCluster h2)))

theorem Answers.execMatrixJobCompletion {s : State} (h : Inv s) : Answers (execMatrixJobCompletion s) := by
  unfold Machine.execMatrixJobCompletion
  refine .runM (.get fun _ _ => ?_) h
  extract_lets _
  split
  · exact .pure
  · refine .ite .pure (.ite .notYet (.modS fun _ h2 => ?_))
    extract_lets _
    refine .moreOffers (.logJob ?_)
    split
    · exact .engineStep (.modCluster (.runJob (.undoJob h2)))
    · exact .modCluster (.runJob (.undoJob h2))

theorem Answers.execKick {s : State} (h : Inv s) : Answers (execKick s) := by
  unfold Machine.execKick
  refine .runM (.event fun _ h1 => .ite h1 (.asCtx h1 fun _ hy => ?_)) h
  split
  · next e => exact Keeps.kickStore.ok hy e
  · next e => exact .takeTrap (Keeps.kickStore.trap hy e)
  · exact hy

theorem Answers.execCopyAccept {s : State} (h : Inv s) : Answers (execCopyAccept s) := by
  unfold Machine.execCopyAccept
  refine .runM (.event fun _ h1 => ?_) h
  extract_lets _
  exact .ite (.pushTurn (.setCtx h1)) h1

theorem Answers.execTemplateSlotWrite {s : State} (h : Inv s) : Answers (execTemplateSlotWrite s) :=
  .runM (.event fun _ h1 => .ite (.setTemplate h1) h1) h

theorem Answers.execCopyStart {s : State} (h : Inv s) : Answers (execCopyStart s) := by
  unfold Machine.execCopyStart
  refine .runM (.event fun _ h1 => ?_) h
  split
  · extract_lets _ s2 s3
    have h2 : Inv s2 := .modCopy h1
    have h3 : Inv s3 := .acquire (.setCtx h2)
    exact .ite h1 (.foldl (fun _ _ hy => .push hy) (.pushTurn h3))
  · exact h1

theorem Answers.execBurstAck {s : State} (h : Inv s) : Answers (execBurstAck s) := by
  unfold Machine.execBurstAck
  refine .runM (.event fun _ h1 => ?_) h
  extract_lets _
  split
  · exact h1
  · refine .ite (.modCopy h1) ?_
    split
    · exact h1
    · exact .ite (.push h1) (.packetEnds h1)

theorem Answers.execCopyCompletion {s : State} (h : Inv s) : Answers (execCopyCompletion s) := by
  unfold Machine.execCopyCompletion
  refine .runM (.get fun _ _ => ?_) h
  split
  · exact .pure
  · refine .ite .pure (.guard .notYet fun _ => .guard .notYet fun _ => .modS fun _ h2 => ?_)
    extract_lets s3 s4
    have h3 : Inv s3 := .copyDone h2
    have h4 : Inv s4 := .ite (.push h3) h3
    exact .ite h4 (.push h4)

theorem Answers.execLoaderSlotFill {s : State} (h : Inv s) : Answers (execLoaderSlotFill s) := by
  unfold Machine.execLoaderSlotFill
  refine .runM (.get fun _ _ => ?_) h
  split
  · exact .pure
  · split
    · exact .modS fun _ h2 => .endSub h2
    · refine .ite (.modS fun _ h2 => .endSub h2) (.guard .notYet fun _ => .modS fun _ h2 =>
        .ite (.endSub (.modSub (.ringStep (.ite (.poison (.writeFor ?_)) (.writeFor ?_))))) (.nextSlot (.modSub (.ringStep
        (.ite (.poison (.writeFor ?_)) (.writeFor ?_))))))
      · split
        · exact .streamFault (.ite_fst h2 (.loadElems h2))
        · exact .ite_fst h2 (.loadElems h2)
      · split
        · exact .streamFault (.ite_fst h2 (.loadElems h2))
        · exact .ite_fst h2 (.loadElems h2)
      · split
        · exact .streamFault (.ite_fst h2 (.loadElems h2))
        · exact .ite_fst h2 (.loadElems h2)
      · split
        · exact .streamFault (.ite_fst h2 (.loadElems h2))
        · exact .ite_fst h2 (.loadElems h2)

theorem Answers.execStorerSlotDrain {s : State} (h : Inv s) : Answers (execStorerSlotDrain s) := by
  unfold Machine.execStorerSlotDrain
  refine .runM (.get fun _ _ => ?_) h
  split
  · exact .pure
  · split
    · exact .modS fun _ h2 => .endSub h2
    · refine .ite (.modS fun _ h2 => .endSub h2) (.guard .notYet fun _ => .modS fun _ h2 =>
        .ite (.endSub (.modSub (.ringStep ?_))) (.nextSlot (.modSub (.ringStep ?_))))
      · split
        · exact .streamFault (.storeElems h2)
        · exact .storeElems h2
      · split
        · exact .streamFault (.storeElems h2)
        · exact .storeElems h2

theorem Answers.execWaitResume {s : State} (h : Inv s) : Answers (execWaitResume s) := by
  unfold Machine.execWaitResume
  refine .runM (.bind .readT fun _ => ?_) h
  split
  · exact .bind (.modS fun _ h1 => .finishWait h1) fun _ => .afterInstr
  · exact .pure

theorem Answers.execArmedEntryPush {s : State} (h : Inv s) : Answers (execArmedEntryPush s) := by
  unfold Machine.execArmedEntryPush
  refine .runM (.get fun _ _ => ?_) h
  extract_lets _
  split
  · exact .pure
  · exact .ite .pure (.guard .notYet fun _ => .modS fun _ h2 => .pushSlice (.modCluster h2))

theorem Answers.execGangSlot {s : State} (h : Inv s) : Answers (execGangSlot s) := by
  unfold Machine.execGangSlot
  refine .runM (.event fun _ h1 => ?_) h
  split
  · exact h1
  · extract_lets _
    exact .ite h1 (.same h1)

theorem Answers.execSlotSend {s : State} (h : Inv s) : Answers (execSlotSend s) := by
  unfold Machine.execSlotSend
  refine .runM (.get fun _ _ => .ite .pure ?_) h
  split
  · exact .ite (.modS fun _ h2 => .tryAgain h2) (.ite .notYet (.modS fun _ h2 => .completeFor (.sendOn h2)))
  · exact .modS fun _ h2 => .tryAgain h2

theorem Answers.execRouterValueArrival {s : State} (h : Inv s) : Answers (execRouterValueArrival s) := by
  unfold Machine.execRouterValueArrival
  refine .runM (.get fun _ _ => ?_) h
  split
  · exact .pure
  · split
    · exact .modS fun _ h2 => .same h2
    · exact .guard .notYet fun _ => .modS fun _ h2 => .arrive (.same h2)

theorem Answers.execSachetAgeDeparture {s : State} (h : Inv s) : Answers (execSachetAgeDeparture s) := by
  unfold Machine.execSachetAgeDeparture
  refine .runM (.get fun _ _ => ?_) h
  split
  · exact .pure
  · split
    · exact .pure
    · exact .ite .pure (.ite .notYet (.modS fun _ h2 => .depart h2))

theorem Answers.execElementApply {s : State} (h : Inv s) : Answers (execElementApply s) := by
  unfold Machine.execElementApply
  refine .runM (.get fun _ _ => ?_) h
  split
  · exact .pure
  · refine .guard .holdSource fun _ => .modS fun _ h2 => ?_
    split
    rename_i e
    have h11 := (Inv.applyAll h2).of_eq e
    exact .ite (.foldl (fun _ _ hy => .acknowledge (.noteElement hy)) h11) (.same h11)

theorem Answers.execElementAckTimeout {s : State} (h : Inv s) : Answers (execElementAckTimeout s) := by
  unfold Machine.execElementAckTimeout
  refine .runM (.get fun _ _ => ?_) h
  split
  · exact .pure
  · exact .ite .pure (.ite .notYet (.modS fun _ h2 => .foldl (fun _ _ hy => .statusOf (.landed hy)) (.unsend h2)))

theorem Answers.execElementStatus {s : State} (h : Inv s) : Answers (execElementStatus s) := by
  unfold Machine.execElementStatus
  refine .runM (.event fun _ h1 => ?_) h
  split
  · exact h1
  · exact .foldl (fun _ _ hy => .ite (.statusOf (.landed hy)) hy) h1

theorem Answers.execRemoteNotice {s : State} (h : Inv s) : Answers (execRemoteNotice s) :=
  .runM (.get fun _ _ => .ite (.bind (.modS fun _ h2 => .withdraw h2) fun _ => .bind .modT fun _ => .trapAs) .pure) h

theorem Answers.execFabricInterfaceReset {s : State} (h : Inv s) : Answers (execFabricInterfaceReset s) :=
  .runM (.event fun _ h1 => .ite (.resetInterface h1) h1) h

theorem Answers.execLinkFailureReset {s : State} (h : Inv s) : Answers (execLinkFailureReset s) :=
  .runM (.get fun _ _ => .ite .pure (.ite .notYet (.modS fun _ h2 => .resetInterface h2))) h

theorem Answers.execLinkRetrainComplete {s : State} (h : Inv s) : Answers (execLinkRetrainComplete s) :=
  .runM (.event fun _ h1 => .setLink h1) h

theorem Answers.execCollectiveResend {s : State} (h : Inv s) : Answers (execCollectiveResend s) := by
  unfold Machine.execCollectiveResend
  refine .runM (.get fun _ _ => ?_) h
  split
  · exact .pure
  · split
    · exact .pure
    · exact .ite .pure (.guard .notYet fun _ => .ite (.modS fun _ h2 => .logError (.packetEnds h2)) (.modS fun _ h2 =>
        .resent h2))

theorem Answers.execCfgFormatRegion {s : State} (h : Inv s) : Answers (execCfgFormatRegion s) :=
  .command (fun _ _ _ hy => .ite_fst hy (.ite_fst hy (.ite_fst hy (.modPart hy)))) h

theorem Answers.execCfgQueue {s : State} (h : Inv s) : Answers (execCfgQueue s) := by
  unfold Machine.execCfgQueue
  refine .runM (.event fun _ h1 => ?_) h
  extract_lets _ _ _ s2
  have h2 : Inv s2 := .commanded h1 fun _ _ _ hy => .ite_fst hy (.modPart hy)
  exact .ite (.modPart h2) h2

theorem Answers.execCfgDomain {s : State} (h : Inv s) : Answers (execCfgDomain s) := by
  unfold Machine.execCfgDomain
  refine .command (fun _ _ _ hy => ?_) h
  split
  · exact hy
  · exact .modPart hy

theorem Answers.execCfgPoolPages {s : State} (h : Inv s) : Answers (execCfgPoolPages s) :=
  .command (fun _ _ _ hy => .ite_fst hy (.ite_fst hy (.ite_fst hy (.ite_fst hy (.modPart hy))))) h

theorem Answers.execCfgMigrate {s : State} (h : Inv s) : Answers (execCfgMigrate s) :=
  .command (fun _ _ _ hy => .ite_fst hy (.ite_fst hy (.ite_fst hy (.ite_fst hy (.ite_fst hy (.migrate hy)))))) h

theorem Answers.execCfgRemoteFaultLog {s : State} (h : Inv s) : Answers (execCfgRemoteFaultLog s) := .logCommand h

theorem Answers.execCfgAccessLog {s : State} (h : Inv s) : Answers (execCfgAccessLog s) := .logCommand h

theorem Answers.execCfgSparseFaultQueue {s : State} (h : Inv s) : Answers (execCfgSparseFaultQueue s) := .logCommand h

theorem Answers.execCfgErrorLog {s : State} (h : Inv s) : Answers (execCfgErrorLog s) := .logCommand h

theorem Answers.execCfgUndoLog {s : State} (h : Inv s) : Answers (execCfgUndoLog s) := by
  unfold Machine.execCfgUndoLog
  refine .command (fun _ _ _ hy => ?_) h
  extract_lets _ _ _
  refine .ite_fst hy (.ite_fst hy ?_)
  split
  · exact hy
  · exact .modDomain hy

theorem Answers.execCfgAuditArea {s : State} (h : Inv s) : Answers (execCfgAuditArea s) :=
  .command (fun _ _ _ hy => .ite_fst hy (.ite_fst hy (.modPart hy))) h

theorem Answers.execCfgReleaseQuarantine {s : State} (h : Inv s) : Answers (execCfgReleaseQuarantine s) :=
  .clusterCommand (fun _ _ _ hy => .unquarantine hy) h

theorem Answers.execCfgResetCluster {s : State} (h : Inv s) : Answers (execCfgResetCluster s) :=
  .runM (.bind .endSlots fun _ => .modS fun _ h1 => .clusterCommanded h1 fun _ _ _ hy => .resetCluster hy) h

theorem Answers.execCfgStopCluster {s : State} (h : Inv s) : Answers (execCfgStopCluster s) :=
  .clusterCommand (fun _ _ _ hy => .triggerStop hy) h

theorem Answers.execSliceReady {s : State} (h : Inv s) : Answers (execSliceReady s) := by
  unfold Machine.execSliceReady
  refine .runM (.event fun _ h1 => ?_) h
  split
  · exact h1
  · exact .ite h1 (.push (.modSlice (.same h1)))

theorem Answers.execDispatchMatch {s : State} (h : Inv s) : Answers (execDispatchMatch s) := by
  unfold Machine.execDispatchMatch
  refine .runM (.event fun _ h1 => ?_) h
  extract_lets _ s2
  have h2 : Inv s2 := .foldl (fun _ _ hy => .rounds hy) h1
  exact .ite (.push h2) h2

theorem Answers.execFootprintStaging {s : State} (h : Inv s) : Answers (execFootprintStaging s) :=
  .runM (.bind .readS fun _ => .get fun _ _ => .guard .notYet fun _ => .modS fun _ h2 => .stageSlice h2) h

theorem Answers.execPreemption {s : State} (h : Inv s) : Answers (execPreemption s) := .runM (.event fun _ h1 => .preempt h1) h

theorem Answers.execSuspension {s : State} (h : Inv s) : Answers (execSuspension s) := by
  unfold Machine.execSuspension
  refine .runM (.get fun _ _ => ?_) h
  split
  · exact .pure
  · exact .ite (.modS fun _ h2 => .modSlice h2) (.guard .notYet fun _ => .guard₂ (.modS fun _ h2 =>
      .towardLeaving h2) .notYet fun _ => .modS fun _ h2 => .leaveAt h2)

theorem Answers.execResumption {s : State} (h : Inv s) : Answers (execResumption s) := by
  unfold Machine.execResumption
  refine .runM (.get fun _ _ => ?_) h
  split
  · exact .pure
  · exact .ite .pure (.guard .notYet fun _ => .modS fun _ h2 => .resume h2)

theorem Answers.execRetireWriteback {s : State} (h : Inv s) : Answers (execRetireWriteback s) :=
  .runM (.bind .readS fun _ => .get fun _ _ => .guard .notYet fun _ => .modS fun _ h2 => .retireNow h2) h

theorem Answers.execBudgetExhausted {s : State} (h : Inv s) : Answers (execBudgetExhausted s) :=
  .runM (.bind .readS fun _ => .ite .pure .trapNow) h

theorem Answers.execBudgetGraceExhausted {s : State} (h : Inv s) : Answers (execBudgetGraceExhausted s) :=
  .runM (.bind .readS fun _ => .ite .pure .trapNow) h

theorem Answers.execDispositionRelease {s : State} (h : Inv s) : Answers (execDispositionRelease s) := by
  unfold Machine.execDispositionRelease
  refine .runM (.event fun _ h1 => ?_) h
  extract_lets _
  split
  · exact h1
  · extract_lets _ s2
    have h2 : Inv s2 := .dispose h1
    refine .ite h1 ?_
    split
    · exact h2
    · exact .ite (.unfreeze h2) (.ite h2 (.makeReady (.modSlice h2)))

theorem Answers.execDispositionKill {s : State} (h : Inv s) : Answers (execDispositionKill s) := by
  unfold Machine.execDispositionKill
  refine .runM (.event fun _ h1 => ?_) h
  extract_lets _
  split
  · exact h1
  · exact .ite (.kill (.dispose h1)) h1

theorem Answers.execDispositionStep {s : State} (h : Inv s) : Answers (execDispositionStep s) := by
  unfold Machine.execDispositionStep
  refine .runM (.get fun _ h1 => .ite ?_ ?_) h
  · split
    · exact .pure
    · exact .ite (.modS fun _ h2 => .push (.dispose h2)) .pure
  · split
    · exact .pure
    · exact .ite (.ite .endStep .pure) (.ite .pure (.ite .notYet (.modS fun _ h2 => .nextTurn (.unfreeze h2))))

theorem Answers.execClusterReset {s : State} (h : Inv s) : Answers (execClusterReset s) :=
  .runM (.bind .endSlots fun _ => .modS fun _ h1 => .resetCluster h1) h

theorem Answers.execClusterStop {s : State} (h : Inv s) : Answers (execClusterStop s) :=
  .runM (.get fun _ _ => .ite .pure (.bind (.modS fun _ h2 => .foldl (fun _ _ hy => .halt hy) h2) fun _ =>
    .guard₂ (.modS fun _ h2 => .foldl (fun _ _ hy => .halted hy) h2) .notYet fun _ => .guard₂ (.modS fun _ h2 =>
    .foldl (fun _ _ hy => .halted hy) h2) .notYet fun _ => .modS fun _ h2 => .stopAll h2)) h

theorem Answers.execRollback {s : State} (h : Inv s) : Answers (execRollback s) := by
  unfold Machine.execRollback
  refine .runM (.get fun _ _ => ?_) h
  extract_lets _
  split
  · exact .pure
  · exact .ite (.ite (.modS fun _ h2 => .rollBack h2) .pure) (.bind .endSlots fun _ => .modS fun _ h2 => .killMembers h2)

theorem Answers.execPatrolScrub {s : State} (h : Inv s) : Answers (execPatrolScrub s) := by
  unfold Machine.execPatrolScrub
  refine .runM (.get fun _ _ => .guard .notYet fun _ => .modS fun _ h2 => ?_) h
  extract_lets s3
  have h3 : Inv s3 := by
    unfold s3
    split
    · exact .strike h2
    · exact h2
  exact .push h3

theorem Answers.execNoseAuditPush {s : State} (h : Inv s) : Answers (execNoseAuditPush s) := by
  unfold Machine.execNoseAuditPush
  refine .runM (.event fun _ h1 => ?_) h
  split
  · exact h1
  · refine .ite h1 ?_
    split
    next e => exact .modSlice (.occupy ((Inv.pushSlice h1).of_eq e))

theorem Answers.execNoseVerdict {s : State} (h : Inv s) : Answers (execNoseVerdict s) := by
  unfold Machine.execNoseVerdict
  refine .runM (.get fun _ _ => ?_) h
  split
  · exact .modS fun _ h2 => .verdict h2
  · exact .ite (.modS fun _ h2 => .verdict h2) (.bind (.modS fun _ h2 => .foldl (fun _ _ hy =>
      .towardLeaving hy) (.suspected h2)) fun _ => .notYet)

theorem Answers.execAuditAbandon {s : State} (h : Inv s) : Answers (execAuditAbandon s) := by
  unfold Machine.execAuditAbandon
  refine .runM (.get fun _ _ => ?_) h
  split
  · exact .pure
  · split
    · exact .pure
    · exact .guard .notYet fun _ => .modS fun _ h2 => .logVerdict (.same (.foldl (fun _ _ hy =>
        .retireSlice (.foldl (fun _ _ hy1 => .stopThread hy1) hy)) h2))

theorem Answers.execHostWrite {s : State} (h : Inv s) : Answers (execHostWrite s) :=
  .runM (.event fun _ h1 => .request h1 fun _ hy => .ite_fst hy (.ite_fst (.outside hy) (.write hy))) h

theorem Answers.execHostRead {s : State} (h : Inv s) : Answers (execHostRead s) :=
  .runM (.event fun _ h1 => .request h1 fun _ hy => .ite_fst hy (.ite_fst (.outside hy) hy)) h

theorem Answers.execHostLaunch {s : State} (h : Inv s) : Answers (execHostLaunch s) := by
  unfold Machine.execHostLaunch
  refine .runM (.event fun _ h1 => .request h1 fun _ hy => ?_) h
  extract_lets _ _ _ _ _ _
  refine .ite_fst hy (.ite_fst (.rejection hy) (.ite_fst (.rejection hy) ?_))
  split
  · next e => exact .ite_fst (.rejection hy) (.rejection ((Inv.recordChecks hy).of_eq e))
  · rename_i e
    have h11 := (Inv.recordChecks hy).of_eq e
    exact .ite_fst (.rejection hy) (.ite_fst (.rejection h11) (.pushSlice h11))

theorem Answers.execHostNotice {s : State} (h : Inv s) : Answers (execHostNotice s) := by
  unfold Machine.execHostNotice
  refine .runM (.event fun _ h1 => ?_) h
  split
  · exact .sendNotice h1
  · exact h1

theorem Answers.execNoticeResend {s : State} (h : Inv s) : Answers (execNoticeResend s) := by
  unfold Machine.execNoticeResend
  refine .runM (.get fun _ _ => ?_) h
  split
  · exact .pure
  · split
    · exact .pure
    · exact .guard .notYet fun _ => .modS fun _ h2 => .sendNotice h2

theorem Answers.execHostAck {s : State} (h : Inv s) : Answers (execHostAck s) :=
  .runM (.event fun _ h1 => .received h1 fun _ hy => .modPart hy) h

theorem Answers.execTelemetry {s : State} (h : Inv s) : Answers (execTelemetry s) :=
  .runM (.event fun _ h1 => .query h1 fun _ hy => .measured hy) h

theorem Answers.execAttest {s : State} (h : Inv s) : Answers (execAttest s) :=
  .runM (.event fun _ h1 => .query h1 fun _ hy => .ite_fst (.same hy) hy) h

theorem Answers.execOpenSession {s : State} (h : Inv s) : Answers (execOpenSession s) :=
  .runM (.event fun _ h1 => .signedCommand h1 fun _ _ hy => .ite_fst hy (.same hy)) h

theorem Answers.execCloseSession {s : State} (h : Inv s) : Answers (execCloseSession s) :=
  .runM (.event fun _ h1 => .signedCommand h1 fun _ _ hy => .ite_fst hy (.ite_fst hy (.same hy))) h

theorem Answers.execPartitionTable {s : State} (h : Inv s) : Answers (execPartitionTable s) := by
  refine .runM (.event fun _ h1 => .signedCommand h1 fun _ _ hy => ?_) h
  exact .ite_fst hy (.startSupervisor (.setPart (wf_assignMemory (Inv.clearPartition hy) _)))

theorem Answers.execDieReset {s : State} (h : Inv s) : Answers (execDieReset s) :=
  .runM (.event fun _ h1 => .signedCommand h1 fun _ _ hy => .ite_fst hy (.resetDie hy)) h

theorem Answers.execRecordWrite {s : State} (h : Inv s) : Answers (execRecordWrite s) :=
  .runM (.event fun _ h1 => .signedCommand h1 fun _ _ hy => .ite_fst hy (.same hy)) h

theorem Answers.execPowerOnBoot {s : State} (h : Inv s) : Answers (execPowerOnBoot s) := .runM (.event fun _ _ => .powerOn) h

theorem Answers.execThrottleRaise {s : State} (h : Inv s) : Answers (execThrottleRaise s) := by
  unfold Machine.execThrottleRaise
  refine .runM (.event fun _ h1 => ?_) h
  extract_lets s2 _ s3
  have h2 : Inv s2 := .measured h1
  have h3 : Inv s3 := .same h2
  exact .ite (.setLevel h3) h3

theorem Answers.execThrottleLower {s : State} (h : Inv s) : Answers (execThrottleLower s) := by
  unfold Machine.execThrottleLower
  refine .runM (.event fun _ h1 => ?_) h
  extract_lets s2 _ s3
  have h2 : Inv s2 := .measured h1
  have h3 : Inv s3 := .same h2
  exact .ite (.setLevel h3) h3

theorem Answers.execThermalFloor {s : State} (h : Inv s) : Answers (execThermalFloor s) :=
  .runM (.event fun _ h1 => .setLevel (.same (.measured h1))) h

theorem Answers.execThermalShutdown {s : State} (h : Inv s) : Answers (execThermalShutdown s) := by
  unfold Machine.execThermalShutdown
  refine .runM (.event fun _ h1 => ?_) h
  extract_lets s2 _ s3
  have h2 : Inv s2 := .measured h1
  have h3 : Inv s3 := .same h2
  exact .ite .shutdown h3

theorem Answers.execRemoteFeResponse {s : State} (h : Inv s) : Answers (execRemoteFeResponse s) := by
  unfold Machine.execRemoteFeResponse
  refine .runM (.event fun _ h1 => ?_) h
  split
  · refine .ite h1 (.modCtx (.eventFor h1 fun _ hy => ?_))
    extract_lets s2
    have h2 : Inv s2 := .feAnswered hy
    exact .ite h2 (.afterTaken h2)
  · exact h1

theorem Answers.execXrecvCyclePassed {s : State} (h : Inv s) : Answers (execXrecvCyclePassed s) := by
  unfold Machine.execXrecvCyclePassed
  refine .runM (.get fun _ _ => .ite .pure ?_) h
  split
  · exact .ite (.modS fun _ h2 => .tryAgain h2) (.ite .notYet (.modS fun _ h2 => .completeFor h2))
  · exact .modS fun _ h2 => .tryAgain h2

theorem Answers.execSoftError {s : State} (h : Inv s) : Answers (execSoftError s) := by
  unfold Machine.execSoftError
  refine .runM (.event fun _ h1 => ?_) h
  split
  · exact .strike h1
  · exact h1

theorem Answers.execLinkFailure {s : State} (h : Inv s) : Answers (execLinkFailure s) :=
  .runM (.event fun _ h1 => .ite h1 (.push (.setLink h1))) h

theorem Answers.execVicgrpChange {s : State} (h : Inv s) : Answers (execVicgrpChange s) :=
  .runM (.event fun _ h1 => .ite (.changeVicgrp h1) h1) h

theorem Answers.exec {i : Instr} {s : State} (h : Inv s) : Answers (exec i s) := by
  cases i with
  | add | sub | and | or | xor | andn | orn | shl | shr | sra | rol | ror | mul | mulh | mulhn | div | divn | rem
  | remn | min | max | minn | maxn | slt | sltn | seq | sne | lea | bfx | bfxz => exact .runM .alu2 h
  | sel | bfi => exact .runM .alu3 h
  | clz | ctz | popc | brev | bswap | addi => exact .runM .alu1 h
  | cmp => exact .execCmp h
  | kand | kor | kxor => exact .runM .kop2 h
  | knot | kmov => exact .runM .kop1 h
  | bt | bf => exact .runM .branch h
  | j => exact .execJ h
  | jal => exact .execJal h
  | jr => exact .execJr h
  | jalr => exact .execJalr h
  | ret => exact .execRet h
  | loop => exact .execLoop h
  | lbrk | lnext => exact .runM .endIteration h
  | rep => exact .execRep h
  | nop => exact .execNop h
  | trap | svc => exact .runM .trapAfter h
  | eret => exact .execEret h
  | ifence => exact .execIfence h
  | brkpt => exact .execBrkpt h
  | halt => exact .execHalt h
  | csrr => exact .execCsrr h
  | csrw | csrs | csrc => exact .runM .csrChange h
  | ld | lda => exact .runM .load h
  | st | stl => exact .runM .store h
  | amoAdd | amoAnd | amoOr | amoXor | amoMin | amoMax | amoMinn | amoMaxn | amoSwap | amoCas | amoFadd | amoBfadd2 =>
    exact .runM .amo h
  | ldx => exact .runM (.fullEmpty .pure) h
  | stx => exact .runM (.fullEmpty .readSrc) h
  | acq => exact .execAcq h
  | rel => exact .execRel h
  | fence => exact .execFence h
  | cVadd | cVsub | cVmul | cVmac | cVmin | cVmax | cVand | cVor | cVxor | cVshl | cVshr | cVsra | cVmov | cVneg
  | cVabs => exact .runM .cForm h
  | cVzero => exact .execCVzero h
  | vadd | vsub | vmul | vfma | vfms | vnfma | vmin | vmax | vabs | vneg | vand | vor | vxor | vshl | vshr | vsra
  | vmov | vmulh | vclz | vpopc | vadds | vsubs | vrndi | vscale | vgetexp | vexp2 | vlog2 | vrcp | vrsq | vsqrt
  | vsinpi | vcospi => exact .runM .vecOp h
  | vcmp => exact .execVcmp h
  | vsel => exact .execVsel h
  | vbcast => exact .execVbcast h
  | vext => exact .execVext h
  | vins => exact .execVins h
  | vperm => exact .execVperm h
  | vslide => exact .execVslide h
  | vcvt => exact .execVcvt h
  | vqnt => exact .execVqnt h
  | vdq => exact .execVdq h
  | vredsum | vredmax | vredmin | vredamax => exact .runM .reduce h
  | vrowmax => exact .execVrowmax h
  | vxadd => exact .execVxadd h
  | vxrd => exact .execVxrd h
  | vxclr => exact .execVxclr h
  | vld | vgath | vldb => exact .runM .vload h
  | vst | vscat => exact .runM .vstore h
  | shpld => exact .execShpld h
  | shpst => exact .execShpst h
  | hbind => exact .execHbind h
  | hadvc | hadvp => exact .runM .advance h
  | hstat => exact .execHstat h
  | hunbind => exact .execHunbind h
  | mma | mmas | mmaq => exact .runM .multiply h
  | tld => exact .execTld h
  | tzero => exact .execTzero h
  | acz => exact .execAcz h
  | acrd => exact .execAcrd h
  | acwr => exact .execAcwr h
  | jpoll => exact .execJpoll h
  | jwait => exact .execJwait h
  | cxrd => exact .execCxrd h
  | burst => exact .execBurst h
  | cxdone => exact .execCxdone h
  | subscr => exact .execSubscr h
  | unsub => exact .execUnsub h
  | tagwany => exact .execTagwany h
  | tagwall => exact .execTagwall h
  | tagff => exact .execTagff h
  | tagclr => exact .execTagclr h
  | tagrd => exact .execTagrd h
  | obnew => exact .execObnew h
  | obdel => exact .execObdel h
  | arrive => exact .execArrive h
  | arriveLeave => exact .execArriveLeave h
  | arriveb => exact .execArriveb h
  | wait => exact .execWait h
  | signal => exact .execSignal h
  | lock => exact .execLock h
  | unlock => exact .execUnlock h
  | obxfer => exact .execObxfer h
  | obrd => exact .execObrd h
  | rankof => exact .execRankof h
  | spawn => exact .execSpawn h
  | exit => exact .execExit h
  | yield => exact .execYield h
  | msgsend => exact .execMsgsend h
  | ttarm => exact .execTtarm h
  | now => exact .runM (.shared .readS) h
  | wstart => exact .execWstart h
  | wend => exact .execWend h
  | wpos => exact .execWpos h
  | sync => exact .execSync h
  | xmit => exact .execXmit h
  | xrecv => exact .execXrecv h
  | muxsel => exact .execMuxsel h
  | rst => exact .execRst h
  | ramoAdd | ramoAnd | ramoOr | ramoXor | ramoMin | ramoMax | ramoMinn | ramoMaxn | ramoSwap | ramoFadd | ramoBfadd2 =>
    exact .runM (.ramo .pure) h
  | ramoCas => exact .runM (.ramo .readDest) h
  | sflush => exact .execSflush h
  | sflusha => exact .execSflusha h
  | fencef => exact .execFencef h
  | ferr => exact .execFerr h
  | pgcommit => exact .execPgcommit h
  | pgfree => exact .execPgfree h
  | tlbinv => exact .execTlbinv h
  | addrq => exact .execAddrq h
  | padcfgChange => exact .execPadcfgChange h
  | registerWrite => exact .execRegisterWrite h
  | feTimeout => exact .execFeTimeout h
  | feResend => exact .execFeResend h
  | remoteFeRequest => exact .execRemoteFeRequest h
  | matrixJobAdmission => exact .execMatrixJobAdmission h
  | matrixJobStart => exact .execMatrixJobStart h
  | matrixJobCompletion => exact .execMatrixJobCompletion h
  | kick => exact .execKick h
  | copyAccept => exact .execCopyAccept h
  | templateSlotWrite => exact .execTemplateSlotWrite h
  | copyStart => exact .execCopyStart h
  | burstAck => exact .execBurstAck h
  | copyCompletion => exact .execCopyCompletion h
  | loaderSlotFill => exact .execLoaderSlotFill h
  | storerSlotDrain => exact .execStorerSlotDrain h
  | waitResume => exact .execWaitResume h
  | armedEntryPush => exact .execArmedEntryPush h
  | gangSlot => exact .execGangSlot h
  | slotSend => exact .execSlotSend h
  | routerValueArrival => exact .execRouterValueArrival h
  | sachetAgeDeparture => exact .execSachetAgeDeparture h
  | elementApply => exact .execElementApply h
  | elementAckTimeout => exact .execElementAckTimeout h
  | elementStatus => exact .execElementStatus h
  | remoteNotice => exact .execRemoteNotice h
  | fabricInterfaceReset => exact .execFabricInterfaceReset h
  | linkFailureReset => exact .execLinkFailureReset h
  | linkRetrainComplete => exact .execLinkRetrainComplete h
  | collectiveResend => exact .execCollectiveResend h
  | cfgFormatRegion => exact .execCfgFormatRegion h
  | cfgQueue => exact .execCfgQueue h
  | cfgDomain => exact .execCfgDomain h
  | cfgPoolPages => exact .execCfgPoolPages h
  | cfgMigrate => exact .execCfgMigrate h
  | cfgRemoteFaultLog => exact .execCfgRemoteFaultLog h
  | cfgAccessLog => exact .execCfgAccessLog h
  | cfgSparseFaultQueue => exact .execCfgSparseFaultQueue h
  | cfgErrorLog => exact .execCfgErrorLog h
  | cfgUndoLog => exact .execCfgUndoLog h
  | cfgAuditArea => exact .execCfgAuditArea h
  | cfgReleaseQuarantine => exact .execCfgReleaseQuarantine h
  | cfgResetCluster => exact .execCfgResetCluster h
  | cfgStopCluster => exact .execCfgStopCluster h
  | sliceReady => exact .execSliceReady h
  | dispatchMatch => exact .execDispatchMatch h
  | footprintStaging => exact .execFootprintStaging h
  | preemption => exact .execPreemption h
  | suspension => exact .execSuspension h
  | resumption => exact .execResumption h
  | retireWriteback => exact .execRetireWriteback h
  | budgetExhausted => exact .execBudgetExhausted h
  | budgetGraceExhausted => exact .execBudgetGraceExhausted h
  | dispositionRelease => exact .execDispositionRelease h
  | dispositionKill => exact .execDispositionKill h
  | dispositionStep => exact .execDispositionStep h
  | clusterReset => exact .execClusterReset h
  | clusterStop => exact .execClusterStop h
  | rollback => exact .execRollback h
  | patrolScrub => exact .execPatrolScrub h
  | noseAuditPush => exact .execNoseAuditPush h
  | noseVerdict => exact .execNoseVerdict h
  | auditAbandon => exact .execAuditAbandon h
  | hostWrite => exact .execHostWrite h
  | hostRead => exact .execHostRead h
  | hostLaunch => exact .execHostLaunch h
  | hostNotice => exact .execHostNotice h
  | noticeResend => exact .execNoticeResend h
  | hostAck => exact .execHostAck h
  | telemetry => exact .execTelemetry h
  | attest => exact .execAttest h
  | openSession => exact .execOpenSession h
  | closeSession => exact .execCloseSession h
  | partitionTable => exact .execPartitionTable h
  | dieReset => exact .execDieReset h
  | recordWrite => exact .execRecordWrite h
  | powerOnBoot => exact .execPowerOnBoot h
  | throttleRaise => exact .execThrottleRaise h
  | throttleLower => exact .execThrottleLower h
  | thermalFloor => exact .execThermalFloor h
  | thermalShutdown => exact .execThermalShutdown h
  | remoteFeResponse => exact .execRemoteFeResponse h
  | xrecvCyclePassed => exact .execXrecvCyclePassed h
  | softError => exact .execSoftError h
  | linkFailure => exact .execLinkFailure h
  | vicgrpChange => exact .execVicgrpChange h

/-! The turns and the step. -/

namespace Answers

theorem next {s : State} (h : Inv s) : Answers (.next s) := by
  rintro _ ⟨⟩
  exact h

theorem fault {r : Fault} : Answers (.fault r) := by
  rintro _ ⟨⟩

theorem ite {c : Prop} [Decidable c] {o p : Host.Outcome State Fault Refusal} (ho : Answers o) (hp : Answers p) :
    Answers (if c then o else p) := by
  split
  · exact ho
  · exact hp

theorem runInstr {s : State} (h : Inv s) : Answers (runInstr s) := by
  unfold Machine.runInstr
  split
  · exact .runM (.bind .nextInstr fun _ => .pure) h
  · next e => exact .ite (.ite (.exec h) (.exec h)) (.exec (Keeps.nextInstr.ok h e))

theorem ownTurn {notices : Bool} {s : State} (h : Inv s) : Answers (ownTurn notices s) := by
  unfold Machine.ownTurn
  refine .ite (.next h) ?_
  extract_lets noticed
  split
  · exact .next h
  · exact .next h
  · exact .next h
  · exact .next h
  · exact .ite (.next h) (.exec h)
  · split
    · exact .next (.takeTrap (.withdraw h))
    · refine .ite (.exec h) ?_
      split
      iterate 8 exact .next h
      exact .runInstr h
  · exact .ite (.next (.takeLate h)) (.ite (.exec h) (.runInstr h))

theorem gangTurn {s : State} (h : Inv s) : Answers (gangTurn s) := by
  unfold Machine.gangTurn
  split
  · refine .ite (.ownTurn h) (.ite (.ite (.next h) (.ite (.exec (.same h)) (.ite (.next (.same h)) (.exec (.same h))))) ?_)
    split
    · exact .ite (.ownTurn h) (.next (.pushTurn h))
    · exact .next h
  · exact .ownTurn h

theorem chargedTurn {s : State} (h : Inv s) : Answers (chargedTurn s) :=
  .mapNext (.gangTurn h) fun _ hy => .charge hy

theorem turnOf {core : Nat} {f : State → Host.Outcome State Fault Refusal} {s : State} (hf : ∀ y, Inv y → Answers (f y))
    (h : Inv s) : Answers (turnOf core f s) :=
  .ite (hf s h) (.mapNext (hf _ (.swapIn h)) fun _ hy => .ite hy (.ite (.pushTurn (.pushTurn (.swapIn hy))) (.swapIn hy)))

theorem memberOf {core idx : Nat} {s : State} (h : Inv s) : Answers (memberOf core idx s) := by
  unfold Machine.memberOf
  split
  · exact .next h
  · refine .ite (.next (.slotEnds (.goOn h))) (.mapNext (.ownTurn ?_) ?_)
    · exact .swapIn (.closeSlot (.same h))
    intro y hy
    extract_lets t
    have ht : Inv t := .closeSlot (.swapIn hy)
    split
    · exact ht
    · split
      · exact .slotEnds (.memberTrapped h ht)
      · refine .ite (.slotEnds ht) (.ite (.slotEnds ht) (.ite (.memberAgain ht) ?_))
        have hu : Inv (if t.mustEnd core then t.resolveRemote core else t.endMemberTurn core) := .ite (.resolveRemote ht)
          (.endMemberTurn ht)
        exact .ite (.memberAgain hu) (.slotEnds hu)

theorem step {s : State} (h : Inv s) : Answers (step s) := by
  unfold Machine.step
  refine .ite .fault ?_
  split
  · exact .chargedTurn (.inCycle h)
  · exact .exec (.same h)
  · exact .turnOf (fun _ hy => .chargedTurn hy) (.inCycle (.same h))
  · exact .memberOf (.same h)

end Answers

/-- Settles O58: one rule for each operation of the state, for each meaning and for each turn, up to the step's. -/
theorem stepKeepsInv : Obligations.StepKeepsInv := fun _ t h => Answers.step h t

end Sys2Proof
end

section
/-! The frame of the memory forms (06 R106 to R113, 22 R356) fails where the partitions are not listed in rising order: an entry of
an undo log puts its partition back at the place of its number, ahead of the one that the gang's leader was found in. -/

namespace Sys2Proof.Proofs

open Sys2Proof Sys2Proof.Machine Sys2Proof.Laws

/-- A snapshotted domain of lane 0 of cluster 1, with its undo log at an address. -/
def loggingAt (addr : Nat) : Domain :=
  { level := 0, number := 0, parent := none, rank := 50, snapen := false, period := 0, image := 0, tables := [], members := [(1, 1)]
    phase := 0, left := [], broken := false, transfer := false, start := 0, log := [], undoLog := some (addr, 0x1000)
    snapshot := true, repeatable := true, rolledBack := false, undo := [], undoCtx := [], undoGangs := [] }

/-- A gang, not formed, whose leader is lane 0 of cluster 1, with lane 0 of cluster 0. -/
def acrossClusters : Gang :=
  { members := [coreAt 1 0, 0], formed := false, stopped := false, counts := [0, 0], base := 0, queue := [], ended := []
    rowmax := none, rowdest := 0, closing := [], trapped := [], runner := none, code := [], front := 0, exiting := false
    notice := false }

/-- Lane 0 of cluster 0 with a pointer into its pad in `s2` and data in `s4`. The leader's cluster is named by two partitions: number
5, listed first, and number 3, which is the context's own. -/
def scattered : State :=
  let s := State.reset.withProgram 0
  { s with
    t := { s.t with s := (s.t.s.set! 2 (selfAlias 0x100)).set! 4 0x1122334455667788 }
    gangs := [(0, acrossClusters)]
    parts := [(5, { s.part 0 with clusters := [1], domains := [loggingAt 0x100000] }),
      (3, { s.part 0 with
        clusters := [0, 1]
        domains := [{ loggingAt 0 with undoLog := none, snapshot := false }, loggingAt 0x200000] })] }

/-- A meaning runs through to a value and a state that satisfy a check. -/
def runsTo {α : Type} (m : M α) (s : State) (p : α → State → Bool) : Bool :=
  match m s with
  | .ok (a, t) => p a t
  | .error _ => false

theorem exists_of_runsTo {α : Type} {m : M α} {s : State} {p : α → State → Bool} (h : runsTo m s p = true) :
    ∃ a t, Passes m s a t ∧ p a t = true := by
  unfold runsTo at h
  split at h
  · next e => exact ⟨_, _, e, h⟩
  · exact absurd h nofun

/-- What the refutation needs of the state after the checks of the STX's access: `FeFrame`'s hypotheses, and the one undo log. -/
def loggedAtOne (k : Nat) (s : State) : Bool :=
  let r := scattered.feRequest true (srcVal scattered (.code 2)) 8 0 1 (srcVal scattered (.code 4))
  let i := Instr.stx 3 0 1 (.code 2) (.code 4)
  k == padBase + 0x100 && unwatched s 3 (srcVal scattered (.code 2)) 8 && s.parked.isEmpty &&
    quiet (State.feStep { s with t := { s.t with dest := 0, len := i.len, mode := .waiting .fe } } false r k).1 &&
    s.domainsOf (s.leaderOf s.t.coreid) == [(0, loggingAt 0x100000)]

theorem scattered_resolves :
    runsTo (resolveMem (srcVal scattered (.code 2)) 8 Acc.stx) scattered loggedAtOne = true := by decide +kernel

theorem logFree_of_loggingAt {s : State} {i addr x : Nat}
    (h : s.domainsOf (s.leaderOf s.t.coreid) = [(i, loggingAt addr)]) (hx : x < addr ∨ addr + 0x1000 ≤ x) : logFree s x := by
  intro e he _ _ addr' size hl
  rw [h, List.mem_singleton] at he
  subst he
  cases hl
  exact hx

/-- The entry of the full bit goes to the log of partition 3. -/
theorem stx_scattered : (match exec (.stx 3 0 1 (.code 2) (.code 4)) scattered with
    | .next t => t.mem.read 0x200040 != scattered.mem.read 0x200040
    | _ => false) = true := by decide +kernel

/-- Refutes O60: an STX that sets the bit makes two entries, its bytes' and its bit's, and the first one leaves `scattered` with its
leader in partition 3, to whose log, which is no log of the state before, the second one goes. -/
theorem not_memoryFormsChangeOnlyTheirBytes : ¬ Obligations.MemoryFormsChangeOnlyTheirBytes := by
  rintro ⟨-, -, hfe, -⟩
  obtain ⟨k, s1, hk, h⟩ := exists_of_runsTo scattered_resolves
  simp only [loggedAtOne, Bool.and_eq_true, beq_iff_eq, List.isEmpty_iff] at h
  obtain ⟨⟨⟨⟨rfl, hwatch⟩, hparked⟩, hquiet⟩, hlog⟩ := h
  obtain ⟨-, hstx⟩ := hfe 3 0 1 (.code 2) (.code 4) 0 scattered s1 (padBase + 0x100)
  obtain ⟨t, ht, hbytes, -⟩ := hstx (by decide +kernel) (by decide +kernel) (by unfold Inv; decide +kernel) (by decide +kernel)
    hk (.inl rfl) (.inl rfl) hwatch rfl hparked (by decide +kernel) hquiet
  have hread := hbytes 0x200040 (by decide) (logFree_of_loggingAt hlog (by decide))
  have hstep := stx_scattered
  rw [ht] at hstep
  simp [hread] at hstep

end Sys2Proof.Proofs
end
